-- ==== Sys2Proof/Word.lean ====
section
/-!
DEFINITION. The words the XV4800 manual counts in: bytes, register words, ring entries, and the two plain containers the
state is made of (a table kept as a list of numbered rows, and a list of memory bytes as `Host.Cell`s has in Host/Core.lean).
-/

namespace Sys2Proof

/-- One byte. -/
abbrev Byte := BitVec 8

/-- A run of bytes in memory order or in wire order, as the structure says (R4, R5). -/
abbrev Bytes := List Byte

/-- A 32-bit register (R109). -/
abbrev Word := BitVec 32

/-- A 64-bit value. -/
abbrev Word64 := BitVec 64

/-- A 64-byte ring entry; byte `i` is bits `[8i+7:8i]` (R4, R12). -/
abbrev Entry := BitVec 512

/-- A 32-byte completion or event entry, numbered in the same way (R12). -/
abbrev Entry32 := BitVec 256

/-- A table: rows under rising numbers, each number at most once. -/
abbrev Tab (α : Type) := List (Nat × α)

end Sys2Proof
end

