-- ==== Sys2Proof/Machine/Types.lean ====
section
/-!
DEFINITION. The component structures the state of the XV4800 is made of, chapter by chapter, as plain data. Each field
cites the rule or the table that names it. Widths follow the manual where software sees a field; identifiers, counts and
times are natural numbers.
-/

namespace Sys2Proof

/-- The kinds of ring a slot read belongs to. -/
inductive RingKind where
  | sq | rq | tpe | lookaside
  deriving DecidableEq, Repr

end Sys2Proof

namespace Sys2Proof.Machine

/-! ### Package, supply and resets (Package, Signals and the Single Supply) -/

/-- The level an always-on open-drain output is driven to (R32, Table 2-4 steps 2 and 3). -/
inductive Drive where
  | hiZ | inactive | low
  deriving DecidableEq, Repr

/-- Where the power-up and power-down sequences of Tables 2-4 and 2-6 stand. -/
inductive Phase where
  | off            -- VIN below the lockout
  | waiting        -- AON powered; step 5 waits for the reset inputs
  | ramping        -- step 6
  | up             -- step 7 reached
  | poweringDown   -- Table 2-6 in progress
  | tripped        -- R53: the thermal power-down, until VIN falls
  deriving DecidableEq, Repr

/-- The balls of chapter 2 whose level an event sets or the device drives, and the straps as last sampled (R41). -/
structure Pins where
  pwrOk      : Bool
  brdRstN    : Bool
  hPerstN    : Bool
  smba       : BitVec 2
  imgsel     : BitVec 1
  test       : BitVec 2
  aPerstN    : BitVec 4
  thermtripN : Drive
  perchN     : Drive
  smbAlert   : Bool        -- SMB_ALERT_N asserted
  nTxEnable  : BitVec 8    -- transmitters of the logical ports (R38, R104)
  deriving DecidableEq, Repr

/-- The power sequence, the rails and the governor (R34, R38, R57 to R60, R93). -/
structure Power where
  phase       : Phase
  railsUp     : Bool
  owlTest     : Option Bool
  coreMv      : BitVec 16
  marginPct   : BitVec 8
  atCeiling   : Bool
  glideTarget : Bool
  hLinkUp     : Bool       -- DL_Active on the H port (R35)
  hTraining   : Bool
  deriving DecidableEq, Repr

/-! ### Clocks and time (Self-Timed Core, Clocks and Time) -/

/-- The seven monitored clocks, in the bit order of GCTL_CLK_STATUS (R69), and the average of the last whole window of
each, in parts per billion from nominal (R64, R66). -/
structure Clocks where
  good       : BitVec 7
  lostSeen   : BitVec 7
  everGood   : BitVec 7          -- restored at least once since full reset (R68)
  lastWindow : Tab Int
  goodSince  : Tab Nat           -- interval base at the restoration (R96 step 1, calibration)
  oscCal     : Bool
  count      : Nat               -- nanoseconds the monitors have counted: they go on in a debug halt (R482)
  winStart   : Tab Nat           -- that count when the present measurement window of each clock began (R64, R66)
  deriving DecidableEq, Repr

/-- The time states of Table 3-6. -/
inductive TimeState where
  | unset | locked | freerun | holdover
  deriving DecidableEq, Repr

/-- Device time, its state and the servo (R70 to R78). -/
structure TimeBase where
  dev         : BitVec 64
  state       : TimeState
  offsetNs    : BitVec 16
  goodRun     : Nat               -- consecutive Syncs within 100 ns (Table 3-6)
  badRun      : Nat               -- consecutive Syncs beyond 1 us while LOCKED
  syncLimit   : Option Nat        -- interval base at which the sync-loss limit runs out (R74)
  guardEnd    : Option Nat        -- end of the free-run guard (R75)
  trustEnd    : Option Nat        -- end of the 1 ms of trusted holdover (R75)
  trusted     : Bool
  captured    : BitVec 64         -- GCTL_TIME_LO's capture (R78)
  pathNs      : Int               -- mean path delay of the last delay exchange (R72)
  ptpMaster   : Bool              -- the PTP port is in the master state, otherwise in the slave state (R72)
  ptpSeq      : BitVec 16         -- sequenceId of the next Sync it sends as master
  slewLeft    : Int               -- offset still to be slewed away (R73)
  slewNext    : Nat               -- earliest interval base of the next 1 ns of slew (200 ppm)
  ppsUntil    : Nat               -- PPS_OUT is high before this interval base (R77)
  ppsLast     : Nat               -- 1 + the last whole second pulsed
  deriving DecidableEq, Repr

/-! ### Start-up and the Abber image (Start-Up, the Abber Image and Perch) -/

/-- One accelerator of the ACCEL record (Table 4-9). -/
structure Accel where
  present : Bool
  bar     : BitVec 3
  size    : Nat
  deriving DecidableEq, Repr

/-- One Owl filter of the OWL_RULES record (Table 18-6). -/
structure OwlFilter where
  enable : Bool
  b0 : Int
  b1 : Int
  b2 : Int
  a1 : Int
  a2 : Int
  deriving DecidableEq, Repr

/-- One Owl rule of the OWL_RULES record (Table 18-7). -/
structure OwlRule where
  valid     : Bool
  below     : Bool                -- COMPARE 1
  alert     : Bool
  channel   : Nat
  action    : Nat
  alertBit  : Nat
  threshold : Int
  hyst      : Nat
  hold      : Nat
  mask      : BitVec 8
  deriving DecidableEq, Repr

/-- The values of the accepted image (Tables 4-6 to 4-10, R89, R448). -/
structure Image where
  coord      : BitVec 24
  maxVfs     : Nat
  udpPort    : BitVec 16
  ipv4       : Bool
  planes     : BitVec 4
  ipv4Net    : Bytes
  ipv6Prefix : Bytes
  fabricId   : Word
  portMode   : List Nat           -- MODE of N0 to N3
  vid        : List Nat
  ptpPort    : Nat                -- 15 for none
  oneStep    : Bool
  guardMs    : Nat
  accel      : List Accel
  filters    : List OwlFilter
  rules      : List OwlRule
  wdtClkSel  : Bool
  buildId    : BitVec 64
  digest     : Word
  deriving DecidableEq, Repr

/-- Where an A port stands in the steps of R96. -/
inductive APhase where
  | held | waitClock | training | enumerating | inService | failed
  deriving DecidableEq, Repr

structure APort where
  phase    : APhase
  since    : Nat                  -- interval base at which the present step began
  linkUp   : Bool                 -- in L0
  payload  : Nat                  -- Max Payload Size, 128 bytes times 2 to this: the largest both ends support (Table 11-2)
  deriving DecidableEq, Repr

/-- What the SFDP table of the flash advertises (R47, R48): dual and quad reads, and the highest clock in MHz. -/
structure Sfdp where
  dual   : Bool
  quad   : Bool
  maxMhz : Nat
  deriving DecidableEq, Repr

/-- What the reads of the flash bring: what its SFDP table says, `none` where there is none, and the copy, `none` where the flash does not
answer (R48, R85). -/
structure FlashRead where
  sfdp : Option Sfdp
  copy : Option Bytes
  deriving DecidableEq, Repr

/-- How the flash is read (R48): its data lines, 1, 2 or 4, and the clock in MHz. -/
structure FlashMode where
  lines : Nat
  mhz   : Nat
  deriving DecidableEq, Repr

/-- An IMAGE_WRITE at the flash (R91, R92). -/
structure FlashJob where
  slot  : Option Nat              -- none once a PF function-level reset has taken its command
  alt   : Bool
  bytes : Bytes
  deriving DecidableEq, Repr

/-- The registers of Tables 4-2 and 4-15 and R103, and what start-up keeps beside them. -/
structure Start where
  stage         : BitVec 4
  copyAlt       : Bool
  fallback      : Bool
  scrubDone     : Bool
  fwRunning     : Bool
  seeded        : Bool
  entropyFailed : Bool
  coreOk        : BitVec 16
  stackOk       : BitVec 6
  nportOk       : BitVec 4
  aportOk       : BitVec 4
  perchCause    : BitVec 8
  perchInfo     : Word
  image         : Option Image
  reasonPri     : Option (BitVec 8)   -- R85's reason of the primary copy, once it was read
  reasonAlt     : Option (BitVec 8)
  coreTested    : Bool
  nportSelf     : BitVec 4            -- N ports that passed self-test
  trained       : Bool
  entropyRuns   : Nat                 -- failed runs of the entropy tests (R100, R371)
  railsAt       : Option Nat          -- t_s
  imageAt       : Option Nat          -- t_i
  fwDeadline    : Option Nat          -- R102, 50 ms from t_i or from a control reset before READY
  aports        : List APort
  flash         : Option FlashJob
  flashMode     : Option FlashMode    -- chosen from the SFDP table at the first read since full reset (R48)
  deriving DecidableEq, Repr

/-! ### Register windows and the admin interface -/

/-- How far a fetched admin command is (R118, R120): not started, started and waiting for an earlier command on its object
(R163, R252, R267), or running. -/
inductive CmdPhase where
  | queued | waiting | running
  deriving DecidableEq, Repr

/-- An admin command fetched and not completed (IN_EXEC counts them, Table 5-5). -/
structure AdminCmd where
  slot  : Nat
  entry : Entry
  phase : CmdPhase
  since : Nat                     -- interval base of its start
  deriving DecidableEq, Repr

/-- An event kept while ENABLED is 0 or the device is in Roost (R124, R443). -/
structure HeldEvent where
  code : BitVec 16
  time : BitVec 64
  data : BitVec 96
  deriving DecidableEq, Repr

/-- The admin and event rings (Table 5-5, R115 to R124). -/
structure Adm where
  ringBase    : BitVec 64
  evtBase     : BitVec 64
  ringLog2    : BitVec 4
  evtLog2     : BitVec 4
  enable      : Bool
  seqBase     : Word
  enabled     : Bool
  evtOverflow : Bool
  head        : BitVec 12
  seqNext     : Word
  evtSeq      : Word
  fetching    : Bool              -- the run of slot reads that a DOORBELL began is open (R118)
  reading     : Bool              -- the read of the slot at HEAD is outstanding
  bell        : Bool              -- a DOORBELL came during that read: a slot found with OWN 0 is read again
  cmds        : List AdminCmd     -- in ring order; the length is IN_EXEC
  evtNext     : Nat               -- event ring slot the next event takes
  evtFree     : Nat               -- event entries returned (R123)
  held        : List HeldEvent
  heldLost    : BitVec 16         -- events discarded before enable (START_REPORT)
  reportOwed  : Bool              -- START_REPORT waits for the firmware (R124)
  deriving DecidableEq, Repr

/-- MSI-X of one function: enable, function mask, masked vectors, pending bits (R104, R113, R154). -/
structure Msix where
  enabled : Bool
  maskAll : Bool
  masked  : List Nat
  pending : List Nat
  deriving DecidableEq, Repr

/-! ### Descriptor rings and completion -/

/-- What an outstanding entry will be handed back with, once that is decided (R134, R145): STATUS, SUB, BYTES and the
value of a notify (Table 6-6). -/
structure Outcome where
  status : BitVec 8
  sub    : Nat
  bytes  : Nat
  notify : Word
  deriving DecidableEq, Repr

/-- An entry the device has taken and not handed back (R134). Unstarted ones are the prefetch cache (6.3). -/
structure Taken where
  slot    : Nat
  entry   : Entry
  started : Bool
  outcome : Option Outcome
  gate    : List Nat              -- flushing reads its hand-back waits for (R459)
  deriving DecidableEq, Repr

/-- The states of Table 6-5. -/
inductive RingState where
  | disabled | enabled | recalling
  deriving DecidableEq, Repr

/-- A tenant ring (R126, R132, R138, R144, R148). -/
structure Ring where
  base     : BitVec 64
  log2     : Nat
  loc      : Nat                  -- 0 host memory, 1 to 4 the apertures
  cqn      : Nat
  state    : RingState
  head     : Nat
  taken    : List Taken           -- in ring order
  reading  : Option Nat           -- slot whose read is outstanding
  run      : Bool                 -- the run of reads of a doorbell is open
  doorbell : Bool                 -- a doorbell came while RECALLING, or while a slot read is outstanding
  recallAt : Option (Nat × Nat)   -- a Recall that waits for the read of a slot: next slot, entries recalled
  memDead  : Bool                 -- a hand-back write failed: nothing more is written to the ring's memory
  deadBy   : Option (Nat × BitVec 8)  -- the entry whose write failed: slot and own status
  strike   : Bool                 -- the next write of the ring's memory cannot be issued intact (R144)
  deriving DecidableEq, Repr

/-- What a CQ entry reports (Table 6-6), before EPOCH and OWN are added at its writing. -/
structure Report where
  wrId    : BitVec 64
  owner   : Nat
  source  : Nat
  index   : Nat
  status  : BitVec 8
  opcode  : Byte
  bytes   : Nat
  notify  : Word
  started : Bool
  sub     : Nat
  deriving DecidableEq, Repr

/-- A completion queue (R149 to R157). -/
structure Cq where
  inst     : Nat
  base     : BitVec 64
  log2     : Nat
  loc      : Nat
  vector   : Nat
  intEn    : Bool
  modCount : Nat
  modTime  : Nat                  -- MOD_TIME_US
  next     : Nat                  -- next CQ slot to write
  free     : Nat                  -- entries returned and not written
  pending  : List Nat             -- interval base at which each unreturned report was written, oldest first
  armed    : Bool
  held     : List (Report × Nat)  -- reports held, with the interval base each began to wait
  stall    : Bool                 -- CQ_STALL
  error    : Bool                 -- CQ_ERROR (R152)
  strike   : Bool
  deriving DecidableEq, Repr

/-- The kind half of RECALL_RING and the registers a Recall leaves (Table 6-4), and the interrupt status block of the
instance page (Table 6-7). -/
structure Page where
  recallRing    : Word
  busy          : Bool
  refused       : Bool
  collided      : Bool
  firstRecalled : BitVec 16
  recallCount   : BitVec 17
  vecPending    : BitVec 64
  stallCqn      : BitVec 18
  stallValid    : Bool
  errorCqn      : BitVec 18
  errorValid    : Bool
  waits         : Option Nat      -- FIRST of a Recall that begins when the instance thaws (R147)
  deriving DecidableEq, Repr

end Sys2Proof.Machine
end

