-- ==== Sys2Proof/Machine/TypesMbx.lean ====
section
/-!
DEFINITION. The component structures of mailbox channels (Mailboxes, Control Cores and the Watchdog), of Owl (Owl, Power
States and Trace) and of debug access, as plain data.
-/

namespace Sys2Proof.Machine

/-! ### Mailboxes -/

/-- A notice slot (Table 17-2): bytes 0 to 15 as the sender wrote them, and what the XV4800 writes; bytes 22 to 31 are
zero. -/
structure Notice where
  words : BitVec 128
  seq   : BitVec 16
  ret   : BitVec 16
  epoch : BitVec 16
  deriving DecidableEq, Repr

/-- The channels of Table 17-1. -/
inductive ChanRef where
  | inst (i : Nat)
  | pf (k : Nat)
  | secure (k : Nat)
  deriving DecidableEq, Repr

/-- One channel window (Table 17-3). -/
structure Channel where
  outN      : List Notice
  inN       : List Notice
  outDb     : Word
  outAcked  : Word
  outMask   : Word
  empty     : Bool
  emptyMask : Bool
  inDb      : Word
  inMask    : Word
  outLast   : BitVec 16
  inLast    : BitVec 16
  inTaken   : BitVec 16           -- the last SEQ a delivery took, seen or not (R414)
  senders   : Tab (Nat × Nat)     -- IN bit: the channel's or instance's number and OUT bit its end goes back to
  area      : List (Nat × Byte)   -- MESSAGE_AREA
  deriving DecidableEq, Repr

/-- A notice that waits for delivery between an instance and the PF (R420, R421). -/
structure Relay where
  up    : Bool                    -- from the instance to the PF
  chan  : Nat                     -- the PF non-secure channel
  inst  : Nat
  bit   : Nat                     -- the sender's OUT bit
  slot  : Nat                     -- PEER_BIT of a PF notice
  begun : Option (BitVec 16)      -- the SEQ a delivery under way has taken (R414, R435)
  deriving DecidableEq, Repr

/-! ### Owl -/

/-- The filter history of one channel (R447): x[n-1], x[n-2], y[n-1], y[n-2]; none before its first sample. -/
structure OwlHist where
  x1 : Int
  x2 : Int
  y1 : Int
  y2 : Int
  deriving DecidableEq, Repr

/-- A rule of the table as it runs (R449). -/
structure OwlRun where
  held   : Nat                    -- consecutive samples at which the condition has held
  active : Bool
  deriving DecidableEq, Repr

/-- A record of Table 18-8. -/
structure LogRec where
  time   : BitVec 64
  seq    : Word
  type   : Nat
  source : Nat
  data   : BitVec 96
  deriving DecidableEq, Repr

/-- What the device has received and sent: the totals from which the load windows of Glide and Owl's samples are taken (R439, R447). -/
structure Traffic where
  tlps    : Nat                   -- TLPs received on the H port
  bells   : Nat                   -- doorbell and mailbox writes received
  rxBytes : Nat                   -- bytes of frames received on the N ports
  rxPkts  : Nat
  txBytes : Nat
  txPkts  : Nat
  deriving DecidableEq, Repr

/-- Owl (R447 to R453). -/
structure Owl where
  hist    : List (Option OwlHist) -- by channel
  rules   : List OwlRun           -- by rule
  log     : List LogRec           -- at most 128, oldest first
  logNext : Word                  -- SEQ of the next log record
  sampledAt : Option Nat          -- when Owl sampled last, on the count of the clock monitors
  seen    : Traffic               -- the totals at that sample (channels 26 to 29)
  deriving DecidableEq, Repr

/-! ### Register windows (Tables 5-2 and 5-3) -/

/-- A place among the registers: the block, the channel or the instance, and the offset within it. -/
inductive RegPlace where
  | gctl (off : Nat)
  | adm (off : Nat)
  | secure (k off : Nat)
  | pfMbx (k off : Nat)
  | trc (off : Nat)
  | dbg (off : Nat)
  | page (inst off : Nat)
  deriving DecidableEq, Repr

/-! ### Debug access -/

/-- The debug access port and the TAP (R477 to R482). -/
structure Dbg where
  everHalted : Bool
  scanHalt   : Bool               -- a TAP instruction halted the device (R478)
  owed       : List (Nat × Bool)  -- clock losses (true) and restorations found during a halt (R482)
  irLoaded   : Nat                -- the TAP instruction, by its place in Table 20-4's list
  sram       : Tab Byte           -- the bytes of die SRAM the port has written (Table 20-6)
  keyMem     : List (Nat × Byte)  -- bytes it has written into empty key slots, by address
  wakeTill   : Option Nat         -- in Roost: interval base at which the stacks have left self-refresh (R480)
  deriving DecidableEq, Repr

end Sys2Proof.Machine
end

