-- ==== Sys2Proof/Machine/TypesNet.lean ====
section
/-!
DEFINITION. The component structures of queue pairs, the wire, repair, congestion and pacing, as plain data.
-/

namespace Sys2Proof.Machine

/-! ### Queue pairs, the wire, repair and congestion -/

/-- The states of Table 7-2. -/
inductive QpState where
  | reset | init | ready | draining | error | frozen
  deriving DecidableEq, Repr

/-- A packet of Table 8-8 in either form: header fields and payload (Tables 8-7 and 8-9). -/
structure Pkt where
  op      : Nat                   -- 1 WRITE, 2 NOTIFY, 3 READ_REQ, 4 READ_RESP, 5 ACCUMULATE
  cell    : Bool                  -- a Kestrel cell; otherwise a Kite frame
  last    : Bool
  retx    : Bool
  ackReq  : Bool
  dstQpn  : Nat
  psn     : Word
  va      : Nat                   -- virtual address of WRITE and READ_REQ
  offset  : Nat                   -- byte offset of READ_RESP and ACCUMULATE
  tag     : Nat                   -- READ_TAG
  ctx     : Nat
  rank    : Nat
  epoch   : Nat
  payload : Bytes
  deriving DecidableEq, Repr

/-- Who a packet is sent for: an SQ entry, a read response under its tag, or a list step of a TPE context. -/
inductive TxOwner where
  | sq (slot : Nat)
  | resp (tag : Nat)
  | tpe (ctx slot msg : Nat)
  deriving DecidableEq, Repr

/-- Where a packet stands on the way out (Table 10-1). -/
inductive TxStage where
  | paced      -- waits for its limiter (10.2)
  | offered    -- in the transport: an open train, or a datagram that waits to be sent
  | queued     -- in a class queue: sent, and charged (R234)
  | wire       -- its frame has begun transmission
  | waiting    -- RESEND_WAIT_US runs (R223)
  deriving DecidableEq, Repr

/-- A packet that is unsent or unacknowledged (R219 to R224). -/
structure TxPkt where
  id       : Nat
  owner    : TxOwner
  pkt      : Pkt
  numbered : Bool                 -- a PSN has been assigned
  stage    : TxStage
  charge   : Nat                  -- bytes charged to the destination now (R229)
  path     : Nat
  used     : List Nat             -- paths that have carried this PSN (R209)
  again    : Bool                 -- its next send is one of R223 or R230, in PSN order
  held     : Bool                 -- a hold answer came since its last send (R222)
  sentAt   : Nat                  -- interval base of the most recent transmission start
  order    : Nat                  -- place of the most recent send among all sends (R220)
  overtaken : Nat                 -- later sends on the same path acknowledged since (R220)
  deadline : Option Nat
  repeats  : Nat
  lost     : Bool                 -- declared lost, and not repeated or acknowledged since
  everLost : Bool                 -- repeated at least once: no RTT sample (R227)
  lossPaths : List Nat            -- the paths its losses were put to (R214)
  probe    : Bool
  failMark : Nat                  -- tag failures of the association when the packet was first sent (R221)
  deriving DecidableEq, Repr

/-- Work of a started SQ entry beyond its ring entry. -/
structure SqWork where
  slot     : Nat
  op       : Nat
  cell     : Bool
  length   : Nat
  va       : Nat
  remote   : Nat
  notify   : Word
  tag      : Option Nat           -- READ_TAG, from the request until its responses are acknowledged (R173)
  placed   : List (Nat × Nat)     -- byte ranges of a READ placed so far, offset and length, rising and apart
  unacked  : List Word            -- its responses that no ACK sent so far reports (R173)
  due      : Option Nat           -- interval base at which RTO has passed since the last new byte or request (R224)
  used     : List Nat             -- paths that have carried its READ_REQ (R209)
  repeats  : Nat
  cut      : Bool                 -- every packet has been handed to the limiter
  decided  : Bool                 -- its outcome is decided; only the hand-back is left
  req      : Option Pkt           -- the READ_REQ as first sent (R224)
  failMark : Nat                  -- tag failures of the association at that moment (R221)
  ports    : List Nat             -- ports behind which placed data still needs a flushing read
  tpe      : Option (Nat × Nat × Nat)   -- a READ of a TPE step: context, slot, message (R339)
  deriving DecidableEq, Repr

/-- How a received PSN is recorded (R215, R216). -/
inductive RxMark where
  | placed
  | held
  | refused (status : BitVec 8) (sub : Nat)
  deriving DecidableEq, Repr

structure RxRec where
  psn     : Word
  mark    : RxMark
  arrived : Nat                   -- interval base
  pkt     : Option Pkt            -- a held packet
  miss    : Bool                  -- held on a translation miss
  staging : Bool                  -- held for want of TPE staging space (R328)
  waitAt  : Option Nat            -- when only an RQ entry was missing to a notify (R171)
  bytes   : Nat                   -- receive reservation it keeps (R245)
  port    : Nat
  cls     : Nat
  path    : Nat
  deriving DecidableEq, Repr

/-- A read-responder resource (R173, R216). -/
structure RespSlot where
  tag     : Nat
  psn     : Word
  length  : Nat
  cell    : Bool
  reading : Bool
  held    : Option (Nat × Nat)    -- a request executed again that waits on a miss: its arrival and its path (R272)
  deriving DecidableEq, Repr

/-- An SQ handshake in execution (R162, R199 to R201). -/
structure Handshake where
  slot    : Nat                   -- admin slot of its QP_MODIFY
  retryAt : Nat
  giveUp  : Nat
  deriving DecidableEq, Repr

/-- A queue pair (R158 to R180, R216, R217). -/
structure Qp where
  inst       : Nat
  state      : QpState
  frozenFrom : QpState
  sq         : Ring
  rq         : Ring
  tc         : Nat
  missMode   : Bool
  remoteCoord : Nat
  remoteInst : Nat
  remoteQpn  : Nat
  saId       : Nat
  errStatus  : BitVec 8
  errIndex   : BitVec 16
  errSet     : Bool
  returned   : Bool               -- has returned to RESET since creation (R160)
  sendPsn    : Word
  initPsn    : Word
  peerPsn    : Option Word        -- the peer's initial PSN (R199, R200)
  minor      : Nat
  features   : Word
  handshake  : Option Handshake
  work       : List SqWork
  tx         : List TxPkt
  resendAt   : Option (Nat × Word)  -- R223: when the wait ends, and NAK_PSN
  cumPsn     : Word
  recs       : List RxRec
  unflushed  : List (Word × List Nat × Nat)  -- PSNs placed behind ports, not yet known visible (R460); when their ACK is due
  flushing   : List Word          -- those that the flushing reads under way cover
  ackFlush   : List Nat           -- flushing reads the next ACK waits for
  ackTrig    : Option (Word × Nat × Nat)  -- that ACK's trigger
  ackDue     : Bool               -- another ACK is asked for after it
  ackCount   : Nat                -- packets since the previous ACK
  ackExpire  : Option Nat         -- when ACK_DELAY_NS has passed for the oldest arrival no ACK covers (R217)
  ceCount    : Nat
  lastTrig   : Option (Word × Nat × Nat)  -- PSN, arrival and path of the packet that will trigger the ACK
  resp       : List RespSlot
  spent      : List (Nat × List Word)  -- READs handed back whose responses are not all acknowledged: tag and those PSNs (R173)
  nextTag    : Nat                -- the READ_TAG tried first for the next READ
  missed     : List (Word × Nat × Nat)   -- PSNs answered RESEND for a page: 0 it is awaited, 1 timed out, 2 resolved (R272)
  moves      : List Nat           -- interval base of the redirections followed (R231)
  oldCoord   : Option Nat         -- source coordinate the peer's packets are still accepted from (R407)
  kettles    : List Nat           -- kettles bound to the QP (Table 8-14)
  deriving DecidableEq, Repr

inductive Health where
  | healthy | down | probing
  deriving DecidableEq, Repr

/-- One path of a destination (Table 9-2). -/
structure Path where
  health  : Health
  losses  : List (Nat × Nat)      -- time and packet id of the losses attributed (R213, R214)
  holdUs  : Nat
  holdEnd : Nat
  probe   : Option Nat            -- packet id of the probe in flight
  cause   : Option Nat            -- packet id of the loss that moved it to DOWN, and the health before (R214)
  prev    : Health
  deriving DecidableEq, Repr

/-- A destination entry (R205). -/
structure Dest where
  cwnd      : Nat
  srtt      : Nat
  rttvar    : Nat
  lastCut   : Option Nat
  recovery  : List Nat            -- packet ids declared lost and not acknowledged (R228)
  inFlight  : Nat
  rot       : Nat                 -- rotation pointer
  exhausted : Bool
  lastSent  : Nat
  idleSince : Nat                 -- interval base at which its bytes in flight last fell to 0 (R205)
  paths     : Tab Path            -- paths whose state differs from a new HEALTHY one
  deriving DecidableEq, Repr

/-- PATH_COUNT and EXCLUDE (Table 9-1). -/
structure PathConf where
  count   : Nat
  exclude : BitVec 256
  deriving DecidableEq, Repr

/-- The parameters of Table 9-3. -/
structure CongParams where
  rtoMinUs    : Nat
  rtoMaxUs    : Nat
  maxRepeats  : Nat
  lossReorder : Nat
  ackDelayNs  : Nat
  ackCoalesce : Nat
  targetRttNs : Nat
  minWndB     : Nat
  initWndB    : Nat
  maxWndB     : Nat
  addIncB     : Nat
  beta        : Nat
  lossLimit   : Nat
  lossWinUs   : Nat
  holdUs      : Nat
  holdMaxMs   : Nat
  resendUs    : Nat
  deriving DecidableEq, Repr

/-- A control body of Tables 8-10 to 8-14. -/
structure AckBody where
  nak     : Bool
  resend  : Bool
  cum     : Word
  trigger : Word
  holdNs  : Nat
  ce      : Nat
  nakPsn  : Word
  nakStatus : BitVec 8
  nakSub  : Nat
  sack    : List (Word × Word)
  deriving DecidableEq, Repr

structure MovedBody where
  refused : Word
  coord   : Nat
  inst    : Nat
  qpn     : Nat
  deriving DecidableEq, Repr

structure ConnBody where
  srcQpn   : Nat
  srcInst  : Nat
  dstInst  : Nat
  initPsn  : Word
  reason   : BitVec 16
  major    : Nat
  minor    : Nat
  features : Word
  digest   : Word
  srcCoord : Nat
  txTime   : BitVec 64
  trusted  : Bool
  kettles  : List (Word × Nat)    -- KETTLE_TAG and KETTLE_EPOCH
  deriving DecidableEq, Repr

inductive CtlBody where
  | ack (b : AckBody)
  | moved (b : MovedBody)
  | connReq (b : ConnBody)
  | connAccept (b : ConnBody)
  | connRefuse (b : ConnBody)
  deriving DecidableEq, Repr

/-- The body of a datagram that passed the receive checks. -/
inductive RxBody where
  | train (pkts : List Pkt)
  | kite (pkt : Pkt)
  | control (dstQpn : Nat) (b : CtlBody)
  deriving DecidableEq, Repr

/-- A datagram that passed checks 1 to 9 and waits for the transport (R203). -/
structure RxDgram where
  port     : Nat
  cls      : Nat
  frameLen : Nat
  src      : Nat                  -- coordinate of the IP source (R185)
  saId     : Nat
  path     : Nat
  ce       : Bool
  arrived  : Nat
  body     : RxBody
  deriving DecidableEq, Repr

/-- What a datagram on the way out carries: packets named by QP and packet id, or a control body. -/
inductive TxBody where
  | train (pkts : List (Nat × Nat))
  | kite (qpn id : Nat)
  | control (qpn dstQpn : Nat) (b : CtlBody)
  deriving DecidableEq, Repr

/-- A datagram that waits in the transport (R209, R212, R219, R233). -/
structure TxDgram where
  id    : Nat
  coord : Nat
  saId  : Nat
  tc    : Nat
  path  : Option Nat              -- the path of the packet an answer answers (R212)
  body  : TxBody
  src   : Option Nat              -- the coordinate whose address is its IP source, where not the own one (R407)
  deriving DecidableEq, Repr

/-- An open train (R194). -/
structure Train where
  coord : Nat
  saId  : Nat
  tc    : Nat
  opened : Nat
  last  : Bool
  cells : List (Nat × Nat)
  deriving DecidableEq, Repr

/-- A built frame in a class queue, and the packets it carries. -/
structure TxFrame where
  bytes : Bytes
  pkts  : List (Nat × Nat)
  deriving DecidableEq, Repr

/-- One class of one logical port (R242 to R247). -/
structure PortClass where
  queue      : List TxFrame
  deficit    : Nat
  pausedTill : Option Nat
  pausedAt   : Nat
  stuck      : Bool
  rxCount    : Nat
  dropPosted : Bool
  xoff       : Bool               -- a pause is in force at the link partner
  nextRepeat : Nat
  deriving DecidableEq, Repr

/-- A gate control list (R248). -/
structure GateList where
  entries  : List (Nat × BitVec 8)
  takeover : Nat
  guardNs  : Nat
  deriving DecidableEq, Repr

inductive PortState where
  | disabled | held | training | up
  deriving DecidableEq, Repr

/-- A logical port (R182 to R186, R242 to R254). -/
structure Port where
  state      : PortState
  nextHop    : Option Bytes
  fecCorr    : Nat
  fecUncorr  : Nat
  upSince    : BitVec 64
  locked     : Bool
  faulted    : Bool
  since      : Option Nat         -- start of the 1 ms or 10 us hold
  owlDown    : Bool               -- an Owl shutdown is in force (R451)
  classes    : List PortClass
  robin      : Nat                -- class the deficit round robin serves
  ctl        : List Bytes         -- frames of R235
  busyTill   : Nat                -- end of the frame in transmission, interval base
  running    : Option GateList
  pendList   : Option GateList
  disagree   : Option Nat         -- peer coordinate of a disagreement (R254)
  applied    : Bool               -- the applied state last posted (R253)
  deriving DecidableEq, Repr

/-- A traffic class (Table 10-4). -/
structure ClassConf where
  dscp    : Nat
  strict  : Bool
  pfc     : Bool
  weight  : Nat
  reserve : Nat
  xoff    : Nat
  xon     : Nat
  quanta  : Nat
  deriving DecidableEq, Repr

/-- One rate limiter (R236 to R239). TAT and slots are kept in 1/256 ns. -/
structure Limiter where
  rate  : Nat
  burst : Nat
  tat   : Nat
  slot  : Option (Nat × Nat × Nat)   -- the packet on the wheel: eligible time, QPN, packet id
  robin : Nat                        -- QPN served last
  deriving DecidableEq, Repr

end Sys2Proof.Machine
end

