-- ==== Sys2Proof/Machine/TypesMem.lean ====
section
/-!
DEFINITION. The component structures of address translation, data reads and flushing reads, as plain data.
-/

namespace Sys2Proof.Machine

/-! ### Address translation -/

/-- A translation mirror (R264 to R266): entries keyed by the page's virtual address, each a page table entry of Table
11-3. -/
structure Mirror where
  maxEntries : Nat
  timeoutMs  : Nat
  base       : Nat                -- its place in the allocatable pool
  entries    : Tab (BitVec 128)
  dirty      : List Nat           -- entries through which a write has gone (R273)
  deriving DecidableEq, Repr

/-- One entry of the translation cache: a page or a merged run (R262). -/
structure CacheEntry where
  inst : Nat
  va   : Nat
  size : Nat
  pte  : BitVec 128
  deriving DecidableEq, Repr

/-- One cached ATS result. -/
structure AtsEntry where
  inst  : Nat
  va    : Nat
  size  : Nat
  bus   : Nat
  read  : Bool
  write : Bool
  deriving DecidableEq, Repr

/-- The permissions of Table 11-1. -/
inductive Need where
  | localRead | localWrite | remoteRead | remoteWrite
  deriving DecidableEq, Repr

/-- For whom an access is translated. -/
inductive AccOwner where
  | sqRead (qpn slot : Nat)
  | rxPkt (qpn : Nat) (psn : Word)
  | respRead (qpn tag : Nat)
  | tpe (ctx slot part : Nat)
  | lookaside (inst part : Nat)
  deriving DecidableEq, Repr

/-- An access that waits for a walk, an ATS answer or a page request. -/
structure Waiting where
  id     : Nat
  inst   : Nat
  owner  : AccOwner
  need   : Need
  va     : Nat
  len    : Nat
  arose  : Nat
  walked : Bool                   -- the mirror walk has been made
  missed : List Nat               -- 4 KiB pages whose request it waits for
  again  : List Nat               -- pages whose request the host has answered Success: one still missing is NOT_MAPPED (R269)
  fresh  : List Nat               -- pages a PT_UPDATE has resolved for it: a further miss raises a request of its own (R269)
  got    : List AtsEntry          -- its own ATS answers, whatever the ATS cache evicts (R263)
  deriving DecidableEq, Repr

/-- A page request (R268 to R271). -/
structure PageReq where
  index   : Nat                   -- page request group index, once issued
  inst    : Nat
  page    : Nat                   -- 4 KiB page address
  write   : Bool
  need    : Need
  issued  : Bool
  waited  : Bool                  -- it had to wait for a free request: the wait counts toward the timeout (R268)
  sentAt  : Nat                   -- when the request left, or its wait began
  limit   : Nat                   -- PAGE_TIMEOUT_MS in force
  settled : Bool                  -- resolved or timed out; the host's response is still owed
  deriving DecidableEq, Repr

/-- Page requests and ATS of one function (R262, R268, R269). -/
structure FnState where
  ats     : Bool
  pri     : Bool
  alloc   : Nat
  stopped : Bool
  pasid   : Bool                  -- PASID enable (Table 5-1)
  msix    : Msix
  deriving DecidableEq, Repr

/-- One target-contiguous piece of a translated access. Ports: 0 the H port, 1 to 4 the A ports, 5 pool memory. -/
structure Piece where
  port : Nat
  addr : Nat
  len  : Nat
  ksel : Nat
  va   : Nat
  translated : Bool               -- the address is an ATS result (TARGET 0)
  deriving DecidableEq, Repr

/-- A data read in progress (R459): the bytes come with DATA_READ_COMPLETE, but for those in pool memory. -/
structure DataRead where
  id     : Nat
  inst   : Nat
  owner  : AccOwner
  pieces : List Piece
  deriving DecidableEq, Repr

/-- What a flushing read was issued for (R153, R273, R459, R460). -/
inductive FlushFor where
  | ack (qpn : Nat)
  | handBack (k : RingKind) (id slot : Nat)
  | cq (cqn : Nat)
  | tpe (ctx slot : Nat)
  | invalidate
  | drain (inst : Nat)
  | lookaside (inst : Nat)
  deriving DecidableEq, Repr

/-- A PT_UPDATE, PT_INVALIDATE or ATS Invalidate Request that waits for its drain (R273, R275): the data reads and flushing
reads it still waits for. -/
structure Drain where
  slot    : Option Nat            -- admin slot; none for an ATS Invalidate Request
  tag     : Nat                   -- ITag of the request
  removed : Nat
  reads   : List Nat
  flushes : List Nat
  deriving DecidableEq, Repr

structure Flush where
  id   : Nat
  port : Nat
  inst : Nat
  why  : FlushFor
  deriving DecidableEq, Repr

end Sys2Proof.Machine
end

