-- ==== Sys2Proof/Machine/TypesInst.lean ====
section
/-!
DEFINITION. The component structures of pool memory and of instances, and the device's outputs, as plain data.
-/

namespace Sys2Proof.Machine

/-! ### Pool memory -/

/-- A pool region (R279 to R282). -/
structure Region where
  inst  : Nat
  num   : Nat
  base  : Nat
  size  : Nat
  big   : Bool                    -- ALIGNMENT 1, 1 GiB
  stack : Nat                     -- STACK as the driver gave it
  deriving DecidableEq, Repr

/-- A zeroing in progress: by POOL_REGION_DESTROY for its slot, or by the destruction of an instance (R282, R389). -/
structure Zeroing where
  base : Nat
  size : Nat
  inst : Nat
  num  : Option Nat               -- the region's number, while the command runs
  slot : Option Nat
  deriving DecidableEq, Repr

/-- Pool memory (R277 to R291). The bytes are those the stacks store; a byte not listed is zero. -/
structure Pool where
  mem      : List (Nat × Byte)
  written  : List Nat             -- 4 KiB block numbers whose written flag is set (R285)
  failed   : List Nat             -- failed lines, by address / 64 (R289)
  stackOut : BitVec 6             -- stacks that stopped responding after READY (R291)
  regions  : List Region
  zeroing  : List Zeroing
  corrected : List (Nat × Nat)    -- stack and interval base of the corrected errors of the last hour (R290)
  rateAt   : Tab Nat              -- stack and interval base of its last POOL_CORRECTED event
  deriving DecidableEq, Repr

/-! ### Instances -/

inductive InstState where
  | active | frozen | resetting
  deriving DecidableEq, Repr

/-- The eleven quotas of Table 16-4, or the use of each. -/
structure Quota where
  poolBytes : Nat
  qps       : Nat
  cqs       : Nat
  messages  : Nat
  saSlots   : Nat
  poolSlots : Nat
  laSlots   : Nat
  ctxs      : Nat
  wUnits    : Nat
  aUnits    : Nat
  kettles   : Nat
  deriving DecidableEq, Repr

/-- One entry of a vector table (R375). -/
structure VecEntry where
  addr   : BitVec 64
  data   : Word
  masked : Bool
  pend   : Bool
  deriving DecidableEq, Repr

/-- Why an instance is RESETTING, and what follows (R384 to R389). -/
structure ResetWhy where
  cause   : Nat                   -- Table 16-9: 0 admin, 1 VF FLR, 2 PF FLR, 3 VF Enable cleared
  destroy : Bool
  slot    : Option Nat            -- the command that completes with it
  removed : Bool                  -- its objects are gone; zeroing remains (R389)
  deriving DecidableEq, Repr

/-- A freeze under way (R390, R391). -/
structure Freezing where
  slot   : Nat
  giveUp : Nat
  deriving DecidableEq, Repr

/-- The lookaside request that runs (R359 to R368). Its parts: 0 source, 1 additional data, 2 control block read, 3 output,
4 control block written. -/
structure LaRun where
  slot    : Nat
  entry   : Entry
  since   : Nat                   -- interval base of its start
  seed    : Bool                  -- it waits for the seed (R101)
  bad     : Bool                  -- its two computations disagree (R368)
  todo    : List Nat              -- read parts that have not come
  bufs    : Tab Bytes             -- read parts that have
  made    : Bool                  -- its result has been computed
  outs    : List (Nat × Nat × Bytes)  -- writes to do: part, address and bytes
  status  : BitVec 8              -- the status it ends with once they are done
  ports   : List Nat              -- ports that carried its writes, where one of them failed
  flushes : List Nat              -- flushing reads its hand-back waits for
  deriving DecidableEq, Repr

/-- An instance that is not ABSENT (R374 to R394). -/
structure Inst where
  la       : Ring                 -- the lookaside queue (R359, R360)
  laRun    : Option LaRun         -- the request that runs
  state    : InstState
  fn       : Bool                 -- a VF instance; otherwise a PASID slice
  vf       : Nat
  pasid    : Nat
  apage    : Nat                  -- APAGE_PORT
  apageBus : BitVec 64
  vecTable : BitVec 64
  vecs     : List VecEntry
  quota    : Quota
  messages : Nat                  -- outstanding messages (R381)
  freezing : Option Freezing
  frozenAt : Nat
  why      : Option ResetWhy
  mute     : Bool                 -- writes to host memory are suppressed (R385, R387, R388)
  noRecord : Nat                  -- entries completed without any write (R385)
  drains   : List Nat             -- data reads and flushing reads that a reset waits for (R384)
  mbx      : Channel              -- the instance channel (R410)
  relayCh  : Nat                  -- RELAY_CH and VECTOR (R422)
  mbxVec   : Nat
  deriving DecidableEq, Repr

/-! ### TPE contexts -/

inductive CtxState where
  | ready | error | frozen
  deriving DecidableEq, Repr

/-- A message a step sends: 0 ACCUMULATE, 1 WRITE_NOTIFY, 2 READ (R325, R338, R339). -/
structure TpeMsg where
  id    : Nat
  qpn   : Nat
  rank  : Nat
  kind  : Nat
  addr  : Nat                     -- remote address; for a READ, that of its range
  data  : Bytes
  note  : Word
  off   : Nat                     -- a READ: place of its range in the step's input
  len   : Nat
  form  : Bool                    -- Kestrel cells
  deriving DecidableEq, Repr

/-- A translated access of a step. -/
structure TpeAcc where
  part  : Nat
  va    : Nat
  len   : Nat
  write : Bool
  data  : Bytes
  deriving DecidableEq, Repr

/-- A list step that has started and not ended (R320). -/
structure TpeRun where
  slot     : Nat
  entry    : Entry
  started  : Nat                  -- interval base
  epoch    : Nat                  -- the kettle's epoch when it started (R325, R330)
  flags    : BitVec 8
  qpns     : List Nat             -- the queue pairs it sends on (R340)
  accs     : List TpeAcc          -- its accesses under way
  bufs     : Tab Bytes            -- bytes read, by part
  made     : Bool                 -- its messages and writes have been made from its inputs
  todo     : List TpeMsg          -- messages not yet begun
  out      : List TpeMsg          -- messages begun and not ended
  own      : List (Nat × Bytes)   -- pieces of the local share not yet delivered
  ports    : List Nat             -- ports that carried its writes, not yet flushed
  flushes  : List Nat             -- flushing reads it waits for
  tile     : Nat                  -- GEMM: the tile in use
  row      : Nat                  -- GEMM: the next row
  turn     : Tab Nat              -- REDUCE: contributions added, by unit of the input format
  added    : Nat                  -- REDUCE: the arrival count in bytes (R331)
  written  : Nat                  -- bytes written or sent (R342)
  fail     : Option (BitVec 8 × Nat)
  deriving DecidableEq, Repr

/-- A message of ACCUMULATE packets at its context (R328 to R334). -/
structure TpeIn where
  rank  : Nat
  num   : Nat                     -- it goes to this REDUCE, counted from 0
  parts : List (Nat × Bytes × Nat)  -- offset, bytes and epoch of what has not been added
  got   : Nat                     -- bytes received
  stop  : Option Nat              -- its length, once LAST has come
  used  : List Nat                -- units of the input format that have been added
  deriving DecidableEq, Repr

/-- A TPE context (R316 to R321, R328). -/
structure Ctx where
  inst  : Nat
  state : CtxState
  prev  : CtxState
  ring  : Ring
  kettle : Option Nat
  wUnits : Nat
  aUnits : Nat
  wMem  : List (Nat × Byte)       -- its weight space
  aMem  : List (Nat × Byte)       -- its accumulation space
  aZero : List Nat                -- its zero-flagged 4 KiB blocks (R312)
  wBad  : List Nat                -- weight store words with an uncorrectable error, by offset / 8 (R313)
  aBad  : List Nat
  stageBase : Nat                 -- its staging area in the allocatable pool
  stageBytes : Nat
  runs  : List TpeRun             -- steps under way, in list order
  inbox : List TpeIn
  count : Tab Nat                 -- messages received whole, by rank
  reduces : Nat                   -- REDUCE steps started
  dead  : Option Nat              -- the REDUCE that ended by R334
  deriving DecidableEq, Repr

/-- The array (R294, R297): the step whose tile is in use, the tile in the shadow, and the context whose tile was loaded last. -/
structure ArrayUnit where
  current : Option (Nat × Nat)         -- context and slot
  shadow  : Option (Nat × Nat × Nat)   -- context, slot and tile
  last    : Nat
  deriving DecidableEq, Repr

/-- A kettle (R322 to R324): QPN and CTX of each member. -/
structure Kettle where
  inst    : Nat
  members : List (Nat × Nat)
  myRank  : Nat
  epoch   : Nat
  tag     : Word
  deriving DecidableEq, Repr

/-- A forwarding record (R406). -/
structure Forward where
  inst    : Nat
  sas     : List Nat
  coord   : Nat
  newInst : Nat
  limit   : Nat                   -- interval base at which it ends
  relayed : Nat
  deriving DecidableEq, Repr

/-! ### Power states, the watchdog and control resets -/

/-- Where POWER_STATE_REQUEST and OWL_LOG_READ come from (R445, R453): an admin slot, or the OUT notice of a secure
channel. -/
inductive CmdRef where
  | admin (slot : Nat)
  | secure (channel bit : Nat)
  deriving DecidableEq, Repr

/-- The power state machine (R437 to R446). -/
structure Pm where
  state    : Nat                  -- 0 Flight, 1 Glide, 2 Roost (Table 18-4)
  throttled : Bool
  glideReq : Bool
  loadExit : Bool
  lowSince : Option Nat           -- start of the low load that ends a load exit (R439)
  winStart : Nat                  -- interval base at which the present load window began (R439)
  winSeen  : Traffic              -- the totals at that moment
  roost    : Option (Option CmdRef)   -- Roost has been asked for: by a command, or by a rule (none)
  roostSeq : Word                 -- SEQ_NEXT when Roost was asked for by a rule or a secure request (R441)
  wake     : Option (Nat × Nat)   -- the state a wake cause asks for, and its cause code
  heldPorts : BitVec 8            -- ports Roost placed in HELD (R444)
  held     : List HeldEvent       -- R443
  counters : Tab Nat              -- the counters at entry into Roost (R443)
  deriving DecidableEq, Repr

/-- The watchdog (Table 17-7, R432 to R434). -/
structure Watchdog where
  periodMs : BitVec 14
  enabled  : Bool
  since    : Nat                  -- interval base at which the present count began
  deriving DecidableEq, Repr

/-- The trace ring (R454 to R456). -/
structure Trace where
  ring      : Option (Nat × Nat)  -- base in the allocatable pool, LOG2_SIZE
  running   : Bool
  suspended : Bool
  halt      : Bool                -- MODE 1
  mask      : BitVec 4
  mark      : Nat                 -- WATERMARK_PCT
  writeSeq  : Word
  readSeq   : Word
  lost      : Nat                 -- LOST_TOTAL
  sinceLost : Nat                 -- records lost since the previous LOST record
  lostDue   : Bool                -- one of them was lost to a full ring in MODE 1: the next record is preceded by LOST (R456)
  fullSeen  : Bool                -- MODE 1 has lost a record to a full ring since START: TRACE_FULL has been posted
  sinceSusp : Nat                 -- records lost since SUSPEND
  deriving DecidableEq, Repr

end Sys2Proof.Machine
end

