-- ==== Sys2Proof/Machine/TypesSec.lean ====
section
/-!
DEFINITION. The component structures of the cipher engine, as plain data.
-/

namespace Sys2Proof.Machine

/-- A loaded key slot (R343 to R345). -/
structure KeySlot where
  type   : Nat                    -- 0 SA, 1 POOL, 2 LOOKASIDE
  keyLen : Nat                    -- 0 AES-128, 1 AES-256, 2 XTS-AES-256
  ksel   : Nat
  inst   : Nat
  key    : Bytes
  deriving DecidableEq, Repr

/-- One installed receive phase: its key slot and its replay window (R352). -/
structure RxPhase where
  slot : Nat
  high : Nat                      -- the highest SEAL_SEQ authenticated
  seen : List Nat                 -- those authenticated in the window
  deriving DecidableEq, Repr

/-- A security association (R348 to R357). -/
structure Sa where
  inst      : Nat
  peer      : Nat                 -- PEER_SA
  txSlot    : Nat
  txPhase   : Bool
  sealSeq   : Nat                 -- SEAL_SEQ of the next datagram
  limit     : Nat                 -- the SEAL_SEQ at which the transmit key is exhausted (R357, R401)
  rx0       : Option RxPhase
  rx1       : Option RxPhase
  rxPhase   : Bool
  pending   : Bool                -- RX_PENDING
  retiring  : Option Nat          -- RX_RETIRING: interval base at which the old phase retires
  fails     : Nat                 -- tag failures since it was created (R353): no command clears them
  failAt    : Option Nat          -- interval base of the last SA_AUTH_FAIL
  exhausted : Bool                -- SA_EXHAUSTED posted under this transmit key
  dead      : Bool                -- its metadata was lost: nothing more is sealed or opened (R474)
  deriving DecidableEq, Repr

/-- The cipher engine (R343 to R373). -/
structure Cipher where
  keys       : Tab KeySlot
  sas        : Tab Sa
  ctxKey     : Option (BitVec 256)
  wrapSeq    : BitVec 64
  draws      : Nat                -- the model's own: values drawn from the DRBG
  seeding    : Nat                -- the model's own: how often the DRBG has been seeded, each time with new entropy (R370)
  personal   : BitVec 88          -- its personalization string: the coordinate, then device time at instantiation (R370)
  generated  : Nat                -- generate requests since the last seeding (R370)
  seededAt   : Nat                -- interval base of the last seeding
  testing    : Bool               -- the start-up tests run again after a health failure (R371)
  xts        : Bool               -- the XTS operation of the running command disagrees (R368)
  migKey     : Option (BitVec 256 × Word)  -- the migration key and its KEY_ID (R395)
  mismatchAt : Tab Nat            -- interval base of the last CIPHER_MISMATCH of each kind
  deriving DecidableEq, Repr

end Sys2Proof.Machine
end

