-- ==== Sys2Proof/Machine/TypesMig.lean ====
section
/-!
DEFINITION. The migration image (16.8) and the device's outputs, as plain data. The manual keeps the layout of the image's
records private to the XV4800 (R397): the bytes of each are a free value of its contents.
-/

namespace Sys2Proof.Machine

/-! ### The migration image -/

/-- A region record: number, size, alignment, STACK, saved base, and the plaintext of each written 4 KiB block by its place
in the region. -/
structure MigRegion where
  num    : Nat
  size   : Nat
  big    : Bool
  stack  : Nat
  base   : Nat
  blocks : Tab Bytes
  deriving DecidableEq, Repr

/-- The records of Table 16-8. -/
structure MigBody where
  quota    : Quota
  limits   : Tab (Nat × Nat)          -- traffic class: rate and burst
  la       : Ring
  mirror   : Option (Nat × Nat)       -- maximum entries, timeout in ms
  cqs      : Tab Cq
  qps      : Tab Qp
  sas      : Tab Sa
  keys     : Tab KeySlot
  regions  : List MigRegion
  entries  : Tab (BitVec 128)
  ctxs     : Tab Ctx
  kettles  : Tab Kettle
  deriving DecidableEq, Repr

/-- One record of Table 16-8, for what its own bytes say. -/
inductive MigRecord where
  | inst (quota : Quota) (limits : Tab (Nat × Nat)) (la : Ring) (mirror : Option (Nat × Nat))
  | cq (num : Nat) (q : Cq)
  | qp (num : Nat) (q : Qp)
  | sa (id : Nat) (a : Sa)
  | key (slot : Nat) (k : KeySlot)
  | region (num size : Nat) (big : Bool) (stack base : Nat)
  | ctx (num : Nat) (c : Ctx)
  | kettle (id : Nat) (k : Kettle)
  deriving DecidableEq, Repr

/-- An image in host memory: its bytes, and the records that its plaintext spells. -/
structure MigImage where
  bytes : Bytes
  body  : MigBody
  deriving DecidableEq, Repr

/-! ### Outputs -/

/-- Memory outside the device: host memory, reached with a function's requester ID and the PASID where one applies
(R128), or the aperture of an A port by offset (R260). -/
inductive Target where
  | host (fn : Nat) (pasid : Option Nat)      -- function 0 is the PF
  | aper (port : Nat)
  deriving DecidableEq, Repr

/-- What the device issues, in the order it issues it. -/
inductive Output where
  | memWrite (dst : Target) (addr : Nat) (data : Bytes)
  | dataWrite (dst : Target) (addr : Nat) (data : Bytes) (relaxed : Bool)   -- a write TLP of payload data or TPE output (R458)
  | memRead (src : Target) (addr len id : Nat) (relaxed : Bool)             -- a read TLP for source data
  | slotRead (src : Target) (addr : Nat)
  | flushRead (port id : Nat)
  | msix (fn vector : Nat)
  | frame (port : Nat) (bytes : Bytes)
  | pageRequest (fn : Nat) (pasid : Option Nat) (index page : Nat) (write : Bool)
  | atsRequest (fn : Nat) (pasid : Option Nat) (va id : Nat)
  | atsInvalidated (tag : Nat)
  | config (retry : Bool) (value : Nat)
  | regData (value : Word)
  | smbus (bytes : Bytes)
  | dap (ack : BitVec 3) (data : Word)
  | tapData (data : Word)
  | ptpSync (port : Nat) (sequence : BitVec 16) (time : Option (BitVec 64))
  | ptpFollowUp (port : Nat) (sequence : BitVec 16) (time : BitVec 64)
  | ptpDelayResp (port : Nat) (sequence : BitVec 16) (time : BitVec 64)
  | flashSfdp (lines mhz : Nat)
  | flashRead (alt : Bool) (lines mhz : Nat)
  | flashErase (alt : Bool)
  | flashProgram (alt : Bool) (bytes : Bytes)
  deriving DecidableEq, Repr

end Sys2Proof.Machine
end

