-- ==== Sys2Proof/Syntax.lean ====
section
/-!
DEFINITION. The commands of the block: one constructor of `Instr` for each row of spec/opcode_table.json, in the table's
order. What the row's agent brings (a pin's level, a measured frequency, the bytes a host read returned, a frame's bytes)
is an operand. A read of memory outside the device returns `none` where its completion is Unsupported Request, Completer
Abort, poisoned data or a completion timeout (R122, R144).
-/

namespace Sys2Proof

open Sys2Proof.Machine

/-- The two reset input balls of R37. -/
inductive ResetPin where
  | brdRst | hPerst
  deriving DecidableEq, Repr

/-- How a clock monitor finds a loss inside a window (R64, R65). -/
inductive ClockFault where
  | gap | shortPeriod
  deriving DecidableEq, Repr

/-- Where a register access comes from (R110): the H port to the PF window, with the PASID prefix where the TLP carries
one (R108), the H port to a VF's window, A port `port` (0 to 3) to the page an instance has there (R376), the management bus, or the
debug access port. -/
inductive AccessSrc where
  | hPf (pasid : Option Nat)
  | hVf (vf : Nat)
  | aPort (port inst : Nat)
  | smbus
  | dap
  deriving DecidableEq, Repr

/-- A PCIe function of the H port; virtual functions are numbered from 1. -/
inductive Fn where
  | pf
  | vf (n : Nat)
  deriving DecidableEq, Repr

/-- A configuration request on the H port (R80): the state of Table 5-1 that the manual's rules name (SR-IOV, MSI-X, ATS, PRI, PASID,
the payload and read request sizes as PCIe codes them, 128 bytes times a power of two, relaxed ordering, ASPM L1), the base address
registers of R107 by number, PF or VF, reads of TotalVFs and of the page request capacity (R268), or any other request. -/
inductive ConfigReq where
  | readTotalVfs
  | setVfs (enable : Bool) (numVfs : Nat)
  | msixControl (fn : Fn) (enable maskAll : Bool)
  | msixMask (fn : Fn) (vector : Nat) (masked : Bool)
  | ats (fn : Fn) (enable : Bool)
  | pri (fn : Fn) (enable reset : Bool) (allocation : Nat)
  | readPriCapacity (fn : Fn)
  | pasid (fn : Fn) (enable : Bool)
  | deviceControl (payload readReq : BitVec 3) (relaxed : Bool)
  | aspmL1 (enable : Bool)
  | writeBar (vf : Bool) (n : Nat) (value : Word)
  | readBar (vf : Bool) (n : Nat)
  | other
  deriving DecidableEq, Repr

/-- The completion of the read of one ring slot (R132, R144). -/
inductive SlotRead where
  | data (e : Entry)
  | failed
  deriving DecidableEq, Repr

/-- What an ATS translation completion gives (R262): a translated host page with its size in address bits and its
permissions, or no translation. -/
inductive AtsResult where
  | page (bus : Nat) (log2 : Nat) (read write : Bool)
  | miss
  | failed
  deriving DecidableEq, Repr

/-- The response codes of a PCIe page request group response (R269). -/
inductive PrgCode where
  | success | invalid | failure
  deriving DecidableEq, Repr

/-- A debug access port transfer (Table 20-5). -/
structure DapReq where
  space  : BitVec 2
  write  : Bool
  addr   : Nat
  data   : Word
  deriving DecidableEq, Repr

/-- The instructions of IEEE 1149.1 that Table 20-4 lists, by name. -/
inductive TapInstr where
  | bypass | idcode | sample | preload | extest | clamp | highz | other
  deriving DecidableEq, Repr

/-- A step of enumeration of an accelerator (R96): whether its aperture BAR is a memory BAR, that BAR's size, and the largest payload the
accelerator supports, 128 bytes times 2 to `payload` (Table 11-2). -/
structure AccelBar where
  isMemory : Bool
  size     : Nat
  payload  : Nat
  deriving DecidableEq, Repr

/-- What patrol scrub (R290) or an access found at a pool line (R288, R289). -/
inductive LineFault where
  | clean | corrected | uncorrectable
  deriving DecidableEq, Repr

/-- A store word of a TPE context that an access finds in error (R313): its number in the context's weight or accumulation space, and whether
the error is uncorrectable. -/
structure StoreWord where
  ctx    : Nat
  weight : Bool
  word   : Nat
  bad    : Bool
  deriving DecidableEq, Repr

/-- What the memory accesses of a command meet: whether the two XTS computations of an access to an encrypted page disagree (R368), the
pool lines that they find in error (R288, R289), and the TPE store words (R313). -/
structure Meets where
  xts   : Bool
  lines : List (Nat × LineFault)
  words : List StoreWord
  deriving DecidableEq, Repr

/-- An access of the array to the stores: the context it works for, and what the access meets (R294, R313). -/
structure ArrayAccess where
  ctx   : Nat
  meets : Meets
  deriving DecidableEq, Repr

/-- The structure of the state reserve that a line holds (Table 20-2). -/
inductive Reserve where
  | qp (qpn : Nat)
  | cq (cqn : Nat)
  | ring (kind : RingKind) (id : Nat)
  | dest (coord : Nat)
  | ctx (n : Nat)
  | kettle (n : Nat)
  | sa (id : Nat)
  | control
  | other
  deriving DecidableEq, Repr

/-- What waits for the seed (R101): the admin command in a slot, or an instance's lookaside request. -/
inductive SeedWait where
  | admin (slot : Nat)
  | lookaside (inst : Nat)
  deriving DecidableEq, Repr

/-- Where a relayed notice goes: a PF non-secure channel, or an IN slot of an instance (R420, R421). -/
inductive RelayTo where
  | pf (chan : Nat)
  | inst (i bit : Nat)
  deriving DecidableEq, Repr

/-- The severity and direction of an error that AER reports (Table 20-3). -/
inductive AerKind where
  | correctable | nonFatal | fatal
  deriving DecidableEq, Repr

/-- A PTP delay request-response message (R72): a peer's Delay_Req with its sequenceId, or a Delay_Resp with the mean path delay
in ns that it completes. -/
inductive PtpDelay where
  | delayReq (sequence : BitVec 16)
  | delayResp (pathNs : Int)
  deriving DecidableEq, Repr

/-- A command of the block: one constructor for each row of spec/opcode_table.json, in its order. The docstring gives the row's
mnemonic and the rule it names; the operands are explained at the meaning. (DESIGN CHOICE in part: assumption 101) -/
inductive Instr where
  /-- VIN_RISE (R32). -/
  | vinRise (mv : Nat)
  /-- OWL_SELFTEST_DONE (R93). -/
  | owlSelftestDone (ok : Bool)
  /-- PWR_OK_RISE (R34). -/
  | pwrOkRise (straps : BitVec 5)
  /-- FULL_RESET_ASSERT (R38). -/
  | fullResetAssert (pin : ResetPin) (lowNs : Nat)
  /-- FULL_RESET_RELEASE (R38). -/
  | fullResetRelease (pin : ResetPin) (straps : BitVec 5)
  /-- RAILS_GOOD (R34). -/
  | railsGood
  /-- PWR_OK_FALL (R44). -/
  | pwrOkFall
  /-- POWER_DOWN_COMPLETE (R45). -/
  | powerDownComplete (straps : BitVec 5)
  /-- VIN_UVLO_FALL (R37). -/
  | vinUvloFall
  /-- THERMAL_BACKSTOP (R53). -/
  | thermalBackstop
  /-- GOVERNOR_EVAL (R57). -/
  | governorEval (need : Nat) (pace : Int) (region : Nat)
  /-- CLOCK_LOSS_DETECT (R65). -/
  | clockLossDetect (clk : Nat) (kind : ClockFault)
  /-- CLOCK_WINDOW_END (R66). -/
  | clockWindowEnd (clk : Nat) (ppb : Int)
  /-- OSC_CALIBRATE (R76). -/
  | oscCalibrate
  /-- PTP_SYNC (R73). -/
  | ptpSync (gap : Int) (interval : Nat)
  /-- SYNC_LOSS_TIMEOUT (R74). -/
  | syncLossTimeout
  /-- FREERUN_GUARD_EXPIRE (R75). -/
  | freerunGuardExpire
  /-- HOLDOVER_TRUST_EXPIRE (R75). -/
  | holdoverTrustExpire
  /-- PPS_OUT_PULSE (R77). -/
  | ppsOutPulse
  /-- PPS_IN (R77). -/
  | ppsIn
  /-- TIME_LO_READ (R78). -/
  | timeLoRead
  /-- CORE_SELFTEST_DONE (R94). -/
  | coreSelftestDone (cores : BitVec 16) (nports : BitVec 4)
  /-- ENTROPY_TEST_RUN (R100). -/
  | entropyTestRun (pass : Bool)
  /-- POOL_TRAINING_DONE (R98). -/
  | poolTrainingDone (good : BitVec 6)
  /-- SCRUB_DONE (R98). -/
  | scrubDone (bad : BitVec 6)
  /-- IMAGE_COPY_CHECKED (R85). -/
  | imageCopyChecked (alt : Bool) (read : FlashRead) (sigOk : Bool)
  /-- FIRMWARE_RUNNING (R90). -/
  | firmwareRunning
  /-- FIRMWARE_START_TIMEOUT (R102). -/
  | firmwareStartTimeout
  /-- CONFIG_REQUEST (R80). -/
  | configRequest (r : ConfigReq)
  /-- APORT_RELEASE (R96). -/
  | aportRelease (n : Nat)
  /-- APORT_LINK_UP (R96). -/
  | aportLinkUp (n : Nat)
  /-- APORT_TRAIN_TIMEOUT (R96). -/
  | aportTrainTimeout (n : Nat)
  /-- APORT_ENUM_DONE (R96). -/
  | aportEnumDone (n : Nat) (bar : AccelBar)
  /-- APORT_RRS_TIMEOUT (R96). -/
  | aportRrsTimeout (n : Nat)
  /-- REGISTER_WRITE (R6). -/
  | registerWrite (src : AccessSrc) (off size : Nat) (value : BitVec 64)
  /-- ADM_ENABLE (R115). -/
  | admEnable (ctrl : Word)
  /-- ADM_DISABLE (R116). -/
  | admDisable (ctrl : Word)
  /-- ADM_DOORBELL (R118). -/
  | admDoorbell
  /-- ADMIN_ENTRY_FETCHED (R122). -/
  | adminEntryFetched (r : SlotRead)
  /-- EVT_RETURN (R123). -/
  | evtReturn (count : Nat)
  /-- PF_FLR (R121). -/
  | pfFlr
  /-- VF_FLR (R385). -/
  | vfFlr (vf : Nat)
  /-- VF_ENABLE_CLEAR (R388). -/
  | vfEnableClear
  /-- NOP (R125). -/
  | nop (slot : Nat)
  /-- IMAGE_WRITE (R91). -/
  | imageWrite (slot : Nat) (src : Option Bytes) (sigOk : Bool)
  /-- COUNTERS_READ (R476). -/
  | countersRead (slot : Nat) (ok : Bool)
  /-- PORT_CONTROL (R184). -/
  | portControl (slot : Nat)
  /-- INSTANCE_CREATE (R382). -/
  | instanceCreate (slot : Nat) (vec : Option Bytes)
  /-- INSTANCE_QUOTA_SET (R379). -/
  | instanceQuotaSet (slot : Nat) (vec : Option Bytes)
  /-- INSTANCE_RESET (R384). -/
  | instanceReset (slot : Nat)
  /-- INSTANCE_DESTROY (R389). -/
  | instanceDestroy (slot : Nat)
  /-- INSTANCE_FREEZE (R390). -/
  | instanceFreeze (slot : Nat)
  /-- INSTANCE_SAVE (R399). -/
  | instanceSave (slot : Nat) (ok : Bool)
  /-- INSTANCE_RESTORE (R403). -/
  | instanceRestore (slot : Nat) (buf : Option MigImage) (vec : Option Bytes)
  /-- INSTANCE_THAW (R394). -/
  | instanceThaw (slot : Nat)
  /-- MIGRATION_KEY_SET (R395). -/
  | migrationKeySet (slot : Nat) (buf : Option Bytes)
  /-- QP_CREATE (R160). -/
  | qpCreate (slot : Nat)
  /-- QP_MODIFY (R164). -/
  | qpModify (slot : Nat)
  /-- QP_QUERY (R159). -/
  | qpQuery (slot : Nat)
  /-- QP_DESTROY (R161). -/
  | qpDestroy (slot : Nat)
  /-- CQ_CREATE (R150). -/
  | cqCreate (slot : Nat)
  /-- CQ_MODIFY (R157). -/
  | cqModify (slot : Nat)
  /-- CQ_DESTROY (R157). -/
  | cqDestroy (slot : Nat)
  /-- PT_MIRROR_SET (R265). -/
  | ptMirrorSet (slot : Nat)
  /-- PT_UPDATE (R266). -/
  | ptUpdate (slot : Nat) (buf : Option Bytes)
  /-- PT_INVALIDATE (R273). -/
  | ptInvalidate (slot : Nat)
  /-- POOL_REGION_CREATE (R280). -/
  | poolRegionCreate (slot : Nat)
  /-- POOL_REGION_DESTROY (R282). -/
  | poolRegionDestroy (slot : Nat)
  /-- TPE_CTX_CREATE (R317). -/
  | tpeCtxCreate (slot : Nat)
  /-- TPE_CTX_DESTROY (R317). -/
  | tpeCtxDestroy (slot : Nat)
  /-- KETTLE_CREATE (R323). -/
  | kettleCreate (slot : Nat) (table : Option Bytes)
  /-- KETTLE_EPOCH_SET (R324). -/
  | kettleEpochSet (slot : Nat)
  /-- KETTLE_DESTROY (R324). -/
  | kettleDestroy (slot : Nat)
  /-- KEY_SLOT_WRITE (R345). -/
  | keySlotWrite (slot : Nat) (buf : Option Bytes)
  /-- KEY_SLOT_GENERATE (R345). -/
  | keySlotGenerate (slot : Nat)
  /-- KEY_SLOT_CLEAR (R345). -/
  | keySlotClear (slot : Nat)
  /-- SA_CREATE (R348). -/
  | saCreate (slot : Nat)
  /-- SA_REKEY (R354). -/
  | saRekey (slot : Nat)
  /-- SA_DESTROY (R346). -/
  | saDestroy (slot : Nat)
  /-- DEST_PATHS_SET (R208). -/
  | destPathsSet (slot : Nat)
  /-- CONG_PARAMS_SET (R226). -/
  | congParamsSet (slot : Nat)
  /-- RATE_LIMIT_SET (R239). -/
  | rateLimitSet (slot : Nat)
  /-- TC_CONFIG_SET (R241). -/
  | tcConfigSet (slot : Nat)
  /-- GATE_LIST_INSTALL (R251). -/
  | gateListInstall (slot : Nat) (buf : Option Bytes)
  /-- GATE_LIST_QUERY (R250). -/
  | gateListQuery (slot : Nat)
  /-- GATE_LIST_CANCEL (R252). -/
  | gateListCancel (slot : Nat)
  /-- POWER_STATE_REQUEST (R445). -/
  | powerStateRequest (slot : Nat)
  /-- OWL_LOG_READ (R453). -/
  | owlLogRead (slot : Nat) (ok : Bool)
  /-- TRACE_CONFIG (R455). -/
  | traceConfig (slot : Nat) (ok : Bool)
  /-- MBX_CHANNEL_CONFIG (R422). -/
  | mbxChannelConfig (slot : Nat)
  /-- SQ_DOORBELL (R132). -/
  | sqDoorbell (inst qpn : Nat)
  /-- RQ_DOORBELL (R132). -/
  | rqDoorbell (inst qpn : Nat)
  /-- TPE_DOORBELL (R132). -/
  | tpeDoorbell (inst ctx : Nat)
  /-- RING_SLOT_READ (R132). -/
  | ringSlotRead (k : RingKind) (id : Nat) (x : SlotRead) (intact : Bool)
  /-- SQ_ENTRY_START (R174). -/
  | sqEntryStart (qpn : Nat) (m : Meets)
  /-- DATA_READ_COMPLETE (R459). -/
  | dataReadComplete (id : Nat) (bytes : Option Bytes) (m : Meets)
  /-- RECALL_FIRST (R138). -/
  | recallFirst (inst first : Nat)
  /-- CQ_RETURN (R151). -/
  | cqReturn (inst cqn count : Nat)
  /-- CQ_REPORT_RELEASE (R137). -/
  | cqReportRelease (cqn : Nat) (intact : Bool)
  /-- CQ_ARM (R153). -/
  | cqArm (inst cqn : Nat)
  /-- CQ_MOD_TIMER (R153). -/
  | cqModTimer (cqn : Nat)
  /-- CQ_STALL_TIMER (R137). -/
  | cqStallTimer (cqn : Nat)
  /-- HANDSHAKE_RETRY (R162). -/
  | handshakeRetry (qpn : Nat)
  /-- HANDSHAKE_TIMEOUT (R162). -/
  | handshakeTimeout (qpn : Nat)
  /-- CONNECT_REQ (R199). -/
  | connectReq
  /-- CONNECT_ACCEPT (R200). -/
  | connectAccept
  /-- CONNECT_REFUSE (R200). -/
  | connectRefuse
  /-- FRAME_RECEIVED (R203). -/
  | frameReceived (port : Nat) (bytes : Bytes) (fcsOk disagree : Bool)
  /-- TRAIN_RECEIVED (R216). -/
  | trainReceived (m : Meets)
  /-- KITE_RECEIVED (R216). -/
  | kiteReceived (m : Meets)
  /-- ACK_RECEIVED (R227). -/
  | ackReceived
  /-- MOVED_RECEIVED (R230). -/
  | movedReceived
  /-- ARP_REQUEST (R186). -/
  | arpRequest (port : Nat) (bytes : Bytes)
  /-- NEIGHBOR_SOLICITATION (R186). -/
  | neighborSolicitation (port : Nat) (bytes : Bytes)
  /-- PFC_FRAME_RECEIVED (R244). -/
  | pfcFrameReceived (port : Nat) (bytes : Bytes) (fcsOk : Bool)
  /-- PAUSE_EXPIRE (R244). -/
  | pauseExpire (port tc : Nat)
  /-- PFC_REPEAT_TIMER (R245). -/
  | pfcRepeatTimer (port tc : Nat)
  /-- PAUSE_STUCK_TIMER (R247). -/
  | pauseStuckTimer (port tc : Nat)
  /-- FLUSH_READ_COMPLETE (R460). -/
  | flushReadComplete (id : Nat) (timedOut : Bool)
  /-- ACK_DELAY_EXPIRE (R217). -/
  | ackDelayExpire (qpn : Nat)
  /-- HOLD_TIMEOUT (R215). -/
  | holdTimeout (qpn : Nat) (psn : Word)
  /-- NOTIFY_DELIVER (R170). -/
  | notifyDeliver (qpn : Nat)
  /-- NOTIFY_WAIT_TIMEOUT (R171). -/
  | notifyWaitTimeout (qpn : Nat)
  /-- RETRANSMIT_TIMEOUT (R220). -/
  | retransmitTimeout (qpn id : Nat)
  /-- READ_REQ_TIMEOUT (R224). -/
  | readReqTimeout (qpn slot : Nat)
  /-- RESEND_WAIT_EXPIRE (R223). -/
  | resendWaitExpire (qpn : Nat)
  /-- PATH_HOLD_EXPIRE (R213). -/
  | pathHoldExpire (coord path : Nat)
  /-- WHEEL_SLOT (R237). -/
  | wheelSlot (inst tc : Nat)
  /-- TRAIN_CLOSE_TIMER (R194). -/
  | trainCloseTimer (coord saId tc : Nat)
  /-- DATAGRAM_SEND (R219). -/
  | datagramSend (id disagree : Nat)
  /-- FRAME_TRANSMIT_START (R242). -/
  | frameTransmitStart (port : Nat)
  /-- GATE_TAKEOVER (R248). -/
  | gateTakeover (port : Nat)
  /-- PORT_LOCK_HELD (R182). -/
  | portLockHeld (port : Nat)
  /-- PORT_FAULT_HELD (R182). -/
  | portFaultHeld (port : Nat)
  /-- MIRROR_WALK_DONE (R263). -/
  | mirrorWalkDone (id : Nat) (m : Meets)
  /-- ATS_COMPLETION (R262). -/
  | atsCompletion (id : Nat) (res : AtsResult) (m : Meets)
  /-- PAGE_REQUEST_ISSUE (R268). -/
  | pageRequestIssue (fn : Nat)
  /-- PRG_RESPONSE (R269). -/
  | prgResponse (fn index : Nat) (code : PrgCode) (m : Meets)
  /-- PAGE_TIMEOUT_EXPIRE (R271). -/
  | pageTimeoutExpire (inst page : Nat)
  /-- ATS_INVALIDATE (R275). -/
  | atsInvalidate (fn : Nat) (pasid : Option Nat) (va size tag : Nat)
  /-- PATROL_SCRUB (R290). -/
  | patrolScrub (line : Nat) (fault : LineFault) (holds : Reserve)
  /-- POOL_STACK_FAULT (R291). -/
  | poolStackFault (n : Nat)
  /-- TPE_STEP_START (R320). -/
  | tpeStepStart (ctx : Nat) (words : List StoreWord) (m : Meets)
  /-- TILE_LOAD_DONE (R297). -/
  | tileLoadDone (ctx : Nat)
  /-- ARRAY_STEP (R296). -/
  | arrayStep (a : ArrayAccess)
  /-- TPE_STEP_COMPLETE (R340). -/
  | tpeStepComplete (ctx slot : Nat) (m : Meets)
  /-- REDUCE_WAIT_EXPIRE (R334). -/
  | reduceWaitExpire (ctx : Nat)
  /-- LOOKASIDE_DOORBELL (R359). -/
  | lookasideDoorbell (inst : Nat)
  /-- LOOKASIDE_START (R359). -/
  | lookasideStart (inst : Nat) (disagree : Bool) (m : Meets)
  /-- RX_PHASE_RETIRE (R354). -/
  | rxPhaseRetire (sa : Nat)
  /-- DRBG_RESEED (R370). -/
  | drbgReseed
  /-- ENTROPY_HEALTH_FAIL (R371). -/
  | entropyHealthFail
  /-- FREEZE_DRAINED (R390). -/
  | freezeDrained (inst : Nat)
  /-- FREEZE_DRAIN_TIMEOUT (R391). -/
  | freezeDrainTimeout (inst : Nat)
  /-- INSTANCE_RESET_DONE (R384). -/
  | instanceResetDone (inst : Nat)
  /-- FORWARD_EXPIRE (R406). -/
  | forwardExpire (inst : Nat)
  /-- MBX_OUT_DOORBELL (R414). -/
  | mbxOutDoorbell (r : ChanRef) (w : Word)
  /-- MBX_IN_DOORBELL_CLEAR (R417). -/
  | mbxInDoorbellClear (r : ChanRef) (w : Word)
  /-- MBX_IN_ACK (R416). -/
  | mbxInAck (r : ChanRef) (n : Nat) (code : BitVec 16)
  /-- MBX_MASK_WRITE (R418). -/
  | mbxMaskWrite (r : ChanRef) (off : Nat) (w : Word)
  /-- MBX_RELAY_DELIVER (R420). -/
  | mbxRelayDeliver (to_ : RelayTo) (done : Bool)
  /-- SECURE_SERVICE_REQUEST (R428). -/
  | secureServiceRequest
  /-- MCTP_VENDOR_REQUEST (R425). -/
  | mctpVendorRequest (m : Bytes)
  /-- MCTP_CONTROL_MESSAGE (R49). -/
  | mctpControlMessage (m : Bytes)
  /-- SMBUS_ALERT_RESPONSE (R427). -/
  | smbusAlertResponse
  /-- WDT_ENABLE (R432). -/
  | wdtEnable (val : Word)
  /-- WATCHDOG_EXPIRE (R433). -/
  | watchdogExpire
  /-- CONTROL_RESET_DONE (R435). -/
  | controlResetDone
  /-- OWL_SAMPLE (R449). -/
  | owlSample (samples : List Int)
  /-- GLIDE_LOAD_WINDOW (R439). -/
  | glideLoadWindow (need : Nat) (pace : Int)
  /-- ROOST_ENTER (R442). -/
  | roostEnter
  /-- ROOST_EXIT (R444). -/
  | roostExit
  /-- DAP_TRANSFER (R479). -/
  | dapTransfer (r : DapReq) (parityOk : Bool)
  /-- DBG_HALT (R482). -/
  | dbgHalt
  /-- DBG_RESUME (R482). -/
  | dbgResume
  /-- TAP_INSTRUCTION (R477). -/
  | tapInstruction (code : TapInstr)
  /-- SEED_WAIT_TIMEOUT (R101). -/
  | seedWaitTimeout (w : SeedWait)
  /-- H_PORT_DL_ACTIVE (R35). -/
  | hPortDlActive
  /-- ALIGNMENT_LOCK_CHANGE (R182). -/
  | alignmentLockChange (port : Nat) (locked faulted : Bool) (corr uncorr : Nat)
  /-- APORT_LINK_DOWN (R144). -/
  | aportLinkDown (n : Nat)
  /-- AER_ERROR_REPORTED (R144). -/
  | aerErrorReported (port : Nat) (kind : AerKind)
  /-- FLASH_WRITE_DONE (R91). -/
  | flashWriteDone (ok : Bool)
  /-- POOL_ZEROING_DONE (R282). -/
  | poolZeroingDone (base : Nat)
  /-- PTP_DELAY_MESSAGE (R72). -/
  | ptpDelayMessage (m : PtpDelay)
  deriving DecidableEq, Repr

end Sys2Proof
end

