-- ==== Sys2Proof/Decode.lean ====
section
/-!
DEFINITION. The commands as words of spec/opcode_table.json. Every row of the table has an empty list of bit fields: a command reaches the
block as an act of one of its agents, not as a word, so no word spells one.
-/

namespace Sys2Proof

/-- The command that a word spells by the table's bits: none, for every row of the table is without bits. -/
def decodeTableWord (_nbits _w : Nat) : Option Instr := none

end Sys2Proof
end

