-- ==== Sys2Proof/Config.lean ====
section
/-!
DEFINITION. What an implementation fixes and what the manual leaves open. Every `opaque` constant is a free value: it has
no body, so no proof can see what it is. notes/assumptions names each.
-/

namespace Sys2Proof.Config

/-- GCTL_IDENT (Table 5-4), of stepping A1 or B0 (Table 20-8). -/
def ident (a1 : Bool) : Word := if a1 then 0x00014800 else 0x00024800

/-- Whether a reset pulse between 200 ns and 1 us acts (R39 fixes neither). -/
opaque shortPulse : Nat → Bool

/-- Whether the servo corrects device time by 1 ns at a moment when 200 ppm allows it (R73 gives only the bound). -/
opaque slewNow : Nat → Bool

/-- Whether the best master clock algorithm puts the PTP port into the master state (R72 names the states; the Announce messages that
decide are not in the manual). -/
opaque ptpElect : Nat → Bool

/-- Whether the PTP master sends a Sync at an instant (R72 gives no interval). -/
opaque ptpSyncDue : Nat → Bool

/-- Whether a TLP that may carry Relaxed Ordering does, where it is enabled (R458 says may). -/
opaque setsRelaxed : Nat → Bool

/-- The bytes of a ring entry whose read failed (R144): nobody knows them. -/
opaque lostEntry : Nat → Entry

/-- Whether a line of a pool write that failed elsewhere was written (R289 does not define which lines are). -/
opaque lineWritten : Nat → Nat → Bool

/-- Which of the places that fit the device gives an allocation (R278 leaves the placement to it). -/
opaque place : Nat → Nat

/-- The values the DRBG delivers, by its seeding (the entropy it was seeded with), its personalization string and the number of the
draw (R370). -/
opaque drbg : Nat → BitVec 88 → Nat → BitVec 512

/-- Which of the results within 1 ulp a function of Table 13-4 returns, by VOP and operand (R307 gives the bound). -/
opaque ulpChoice : Nat → Word → Nat

/-- The reciprocals of zero, which R307 does not state. -/
opaque ulpValue : Nat → Word → Word

/-- DST_QPN and CUM_PSN of the answer to a packet for a queue pair that is absent or not bound to its sender (R204 states
neither). -/
opaque strangerQpn : Nat → Nat

opaque strangerCum : Nat → Word

/-- The order in which relays are rebuilt after a control reset (R435 leaves it to the XV4800). -/
opaque relayOrder : Nat → Nat

/-- Where the XV4800 looks first for a place of an instance page on an A port's bus, in 64 KiB pages (R376 gives only that the page
overlaps no aperture). -/
opaque apageBus : Nat → Nat

/-- The place on its bus that the XV4800 assigns the aperture of an A port, in multiples of its size (R260). -/
opaque apertureBus : Nat → Nat

/-- What a migration image carries for a pool block that cannot be read (R289 withholds the data; R399 states nothing). -/
opaque lostBlock : Nat → Nat → Byte

/-- A byte of an image record (R397 keeps the layout private to the XV4800). -/
opaque imageByte : Machine.MigRecord → Nat → Byte

/-- A byte of die SRAM that the debug port has not written (Table 20-6 gives the store no layout). -/
opaque sramByte : Nat → Byte

/-- A result the manual does not state for the case at hand, by the number of the occasion. -/
opaque unstated : Nat → Word

end Sys2Proof.Config
end

