-- ==== Sys2Proof/Machine/State.lean ====
section
/-!
DEFINITION. The state of the XV4800 as plain data, the reasons a step can stop, and the state after reset. The groups and
their fields are in Machine/Types.lean and its companions; INVENTORY.md lists each with the rule that names it.
-/

namespace Sys2Proof.Machine

/-- Why a command ends the run. -/
inductive Fault where
  /-- VIN above the absolute maximum of Table 2-7: the device may be damaged (R51), and the manual gives no effect. Raised
  by VIN_RISE. Safe: the model claims nothing beyond the stress. -/
  | vinBeyondMaximum
  deriving DecidableEq, Repr

/-- Why a command is refused. -/
inductive Refusal where
  /-- The command of this mnemonic has no meaning in the model yet. Raised by Dispatch only. Safe. -/
  | notModelled (mnemonic : String)
  deriving DecidableEq, Repr

/-- The whole block. (DESIGN CHOICE in part: assumption 102) -/
structure State where
  pins      : Pins
  power     : Power
  clocks    : Clocks
  time      : TimeBase
  start     : Start
  adm       : Adm
  epoch     : BitVec 16                 -- GCTL_CTRL_EPOCH (R112)
  ctlReset  : Bool                      -- a control reset is under way (R435)
  pm        : Pm
  trace     : Trace
  wdt       : Watchdog
  vfEnable  : Bool                      -- SR-IOV VF Enable and NumVFs (Table 16-3)
  numVfs    : Nat
  fns       : Tab FnState               -- function 0 is the PF
  payload   : BitVec 3                  -- Max Payload Size of the H port, 128 bytes times 2 to this (Table 5-1: 0 to 2)
  readReq   : BitVec 3                  -- Max Read Request Size, likewise (0 to 5)
  relaxed   : Bool                      -- Enable Relaxed Ordering (Table 5-1, R458)
  aspmL1    : Bool                      -- ASPM L1 is enabled on the H link (Table 5-1)
  pfBar     : BitVec 64                 -- base of PF BAR0 (R107)
  vfBar     : BitVec 64                 -- base of VF BAR0 of VF 1 (R107)
  pages     : Tab Page                  -- instance page registers, by instance
  cqs       : Tab Cq
  qps       : Tab Qp
  msgOut    : Nat                       -- outstanding messages, device-wide (R174)
  dests     : Tab Dest
  pathConf  : Tab PathConf
  pathDef   : PathConf
  cong      : CongParams
  ports     : List Port
  classes   : List ClassConf
  limiters  : Tab Limiter               -- instance × 8 + class
  trains    : List Train
  txq       : List TxDgram
  rxq       : List RxDgram
  mirrors   : Tab Mirror
  tcache    : List CacheEntry
  ats       : List AtsEntry
  waits     : List Waiting
  pageReqs  : List PageReq
  prgHeld   : List (Nat × Nat × PrgCode)  -- page responses a control reset holds back: function, index, code (R435)
  reads     : List DataRead
  flushes   : List Flush
  drains    : List Drain
  pool      : Pool
  insts     : Tab Inst
  ctxs      : Tab Ctx
  kettles   : Tab Kettle
  array     : ArrayUnit
  forwards  : List Forward
  counters  : Tab Nat                   -- group × 65,536 × 64 + index × 64 + n (Table 20-3)
  cipher    : Cipher
  pfMbx     : List Channel              -- PF non-secure channels 0 to 15 (Table 17-1)
  secMbx    : List Channel              -- secure channels 0 to 15
  relays    : List Relay                -- notices that wait for delivery, in the order sent
  secLast   : Nat                       -- the secure channel served last (R428)
  secRuns   : List (Nat × Nat)          -- service requests in execution: channel and bit
  owl       : Owl
  traffic   : Traffic                   -- the totals that load windows and samples are taken from (R439, R447)
  eid       : BitVec 8                  -- the endpoint ID of the management bus (R49)
  a1        : Bool                      -- the part is of stepping A1 and not B0 (R484, Table 20-8); nothing changes it
  halted    : Bool                      -- DBG HALT (R482)
  dbg       : Dbg
  out       : List Output
  heldOut   : List Output               -- requests toward the links that a debug halt holds back (R482)
  portHeld  : List Output               -- requests that wait until the link of their A port reaches L0 (R67, R144)
  pending   : List Instr                -- commands that wait, first in first out
  now       : Nat                       -- the interval base, ns (R71)
  fresh     : Nat                       -- the model's own: numbers given to packets, reads, flushing reads; free-value index
  deriving DecidableEq, Repr

/-- MSI-X as PCIe leaves it at reset: disabled, every vector masked. (PRESUMED in part: assumption 26) -/
def Msix.reset (n : Nat) : Msix :=
  { enabled := false, maskAll := false, masked := List.range n, pending := [] }

/-- The PCIe registers of a function as PCIe leaves them at reset. (PRESUMED in part: assumption 26) -/
def FnState.reset (n : Nat) : FnState :=
  { ats := false, pri := false, alloc := 0, stopped := false, pasid := false, msix := Msix.reset n }

def Pins.reset : Pins :=
  { pwrOk := false, brdRstN := false, hPerstN := false, smba := 0, imgsel := 0, test := 0, aPerstN := 0
    thermtripN := .hiZ, perchN := .hiZ, smbAlert := false, nTxEnable := 0 }

def Power.reset : Power :=
  { phase := .off, railsUp := false, owlTest := none, coreMv := 0x0370, marginPct := 0, atCeiling := true
    glideTarget := false, hLinkUp := false, hTraining := false }

def Clocks.reset : Clocks :=
  { good := 0, lostSeen := 0, everGood := 0, lastWindow := [], goodSince := [], oscCal := false, count := 0, winStart := [] }

def TimeBase.reset : TimeBase :=
  { dev := 0, state := .unset, offsetNs := 0, goodRun := 0, badRun := 0, syncLimit := none, guardEnd := none
    trustEnd := none, trusted := false, captured := 0, pathNs := 0, ptpMaster := false, ptpSeq := 0, slewLeft := 0, slewNext := 0, ppsUntil := 0, ppsLast := 0 }

def APort.reset : APort := { phase := .held, since := 0, linkUp := false, payload := 0 }

def Start.reset : Start :=
  { stage := 0, copyAlt := false, fallback := false, scrubDone := false, fwRunning := false, seeded := false
    entropyFailed := false, coreOk := 0, stackOk := 0, nportOk := 0, aportOk := 0, perchCause := 0, perchInfo := 0
    image := none, reasonPri := none, reasonAlt := none, coreTested := false, nportSelf := 0, trained := false
    entropyRuns := 0, railsAt := none, imageAt := none, fwDeadline := none
    aports := [APort.reset, APort.reset, APort.reset, APort.reset], flash := none, flashMode := none }

def Adm.reset : Adm :=
  { ringBase := 0, evtBase := 0, ringLog2 := 0, evtLog2 := 0, enable := false, seqBase := 0, enabled := false
    evtOverflow := false, head := 0, seqNext := 0, evtSeq := 0, fetching := false, reading := false, bell := false, cmds := [], evtNext := 0
    evtFree := 0, held := [], heldLost := 0, reportOwed := false }

/-- The defaults of Table 9-3. -/
def CongParams.reset : CongParams :=
  { rtoMinUs := 8, rtoMaxUs := 10000, maxRepeats := 7, lossReorder := 2, ackDelayNs := 500, ackCoalesce := 32
    targetRttNs := 6000, minWndB := 8192, initWndB := 1048576, maxWndB := 8388608, addIncB := 8192, beta := 512
    lossLimit := 3, lossWinUs := 100, holdUs := 1000, holdMaxMs := 64, resendUs := 20 }

/-- The defaults of Table 10-4 for class `tc`. -/
def ClassConf.reset (tc : Nat) : ClassConf :=
  { dscp := 8 * tc, strict := false, pfc := false, weight := 1, reserve := 512, xoff := 0, xon := 0, quanta := 0 }

def PortClass.reset : PortClass :=
  { queue := [], deficit := 0, pausedTill := none, pausedAt := 0, stuck := false, rxCount := 0, dropPosted := false
    xoff := false, nextRepeat := 0 }

def Port.reset : Port :=
  { state := .disabled, nextHop := none, fecCorr := 0, fecUncorr := 0, upSince := 0, locked := false, faulted := false
    since := none, owlDown := false, classes := List.replicate 8 PortClass.reset, robin := 0, ctl := [], busyTill := 0
    running := none, pendList := none, disagree := none, applied := false }

def Page.reset : Page :=
  { recallRing := 0, busy := false, refused := false, collided := false, firstRecalled := 0, recallCount := 0
    vecPending := 0, stallCqn := 0, stallValid := false, errorCqn := 0, errorValid := false, waits := none }

def Pool.reset : Pool :=
  { mem := [], written := [], failed := [], stackOut := 0, regions := [], zeroing := [], corrected := [], rateAt := [] }

def Traffic.reset : Traffic := { tlps := 0, bells := 0, rxBytes := 0, rxPkts := 0, txBytes := 0, txPkts := 0 }

def Pm.reset : Pm :=
  { state := 0, throttled := false, glideReq := false, loadExit := false, lowSince := none, winStart := 0, winSeen := Traffic.reset, roost := none, roostSeq := 0, wake := none
    heldPorts := 0, held := [], counters := [] }

def Trace.reset : Trace :=
  { ring := none, running := false, suspended := false, halt := false, mask := 0, mark := 0, writeSeq := 0, readSeq := 0
    lost := 0, sinceLost := 0, lostDue := false, fullSeen := false, sinceSusp := 0 }

def Cipher.reset : Cipher :=
  { keys := [], sas := [], ctxKey := none, wrapSeq := 1, draws := 0, seeding := 0, personal := 0, generated := 0, seededAt := 0, testing := false, xts := false
    migKey := none, mismatchAt := [] }

/-- A channel at the Reset values of Table 17-3. -/
def Channel.reset : Channel :=
  { outN := List.replicate 32 { words := 0, seq := 0, ret := 0, epoch := 0 }
    inN := List.replicate 32 { words := 0, seq := 0, ret := 0, epoch := 0 }
    outDb := 0, outAcked := 0, outMask := 0xFFFFFFFF, empty := false, emptyMask := true, inDb := 0, inMask := 0xFFFFFFFF
    outLast := 0, inLast := 0, inTaken := 0, senders := [], area := [] }

def Owl.reset : Owl :=
  { hist := List.replicate 32 none, rules := List.replicate 64 { held := 0, active := false }, log := [], logNext := 0
    sampledAt := none, seen := Traffic.reset }

def Dbg.reset : Dbg := { everHalted := false, scanHalt := false, owed := [], irLoaded := 0, sram := [], keyMem := [], wakeTill := none }

/-- The block before VIN rises: every register at its Reset value (R8); the part is of stepping B0, the one the manual documents.
(DESIGN CHOICE in part: assumption 18) -/
def State.reset : State :=
  { pins := Pins.reset, power := Power.reset, clocks := Clocks.reset, time := TimeBase.reset, start := Start.reset
    adm := Adm.reset, epoch := 0, ctlReset := false, pm := Pm.reset, trace := Trace.reset, wdt := { periodMs := 0, enabled := false, since := 0 }, vfEnable := false, numVfs := 0, fns := [(0, FnState.reset 256)], payload := 0, readReq := 2, relaxed := true, aspmL1 := false, pfBar := 0, vfBar := 0
    pages := [], cqs := [], qps := [], msgOut := 0, dests := [], pathConf := []
    pathDef := { count := 256, exclude := 0 }, cong := CongParams.reset, ports := List.replicate 8 Port.reset
    classes := (List.range 8).map ClassConf.reset, limiters := [], trains := [], txq := [], rxq := [], mirrors := []
    tcache := [], ats := [], waits := [], pageReqs := [], prgHeld := [], reads := [], flushes := [], drains := [], pool := Pool.reset, insts := [], ctxs := []
    kettles := [], array := { current := none, shadow := none, last := 255 }, forwards := []
    counters := [], cipher := Cipher.reset, pfMbx := List.replicate 16 Channel.reset
    secMbx := List.replicate 16 Channel.reset, relays := [], secLast := 15, secRuns := [], owl := Owl.reset, traffic := Traffic.reset, eid := 0, a1 := false, halted := false
    dbg := Dbg.reset, out := [], heldOut := [], portHeld := [], pending := [], now := 0, fresh := 0 }

end Sys2Proof.Machine
end

