-- ==== Sys2Proof/Machine/Bits.lean ====
section
/-!
DEFINITION. Bit fields, byte orders, tables and byte memories: the small operations every family uses.
-/

namespace Sys2Proof.Machine

/-! ### Byte orders and fields (R4, R5) -/

/-- The low `n` bytes of `v`, least significant first (R4). -/
def leBytes : Nat → Nat → Bytes
  | 0, _ => []
  | n + 1, v => BitVec.ofNat 8 v :: leBytes n (v / 256)

/-- The value of bytes in memory order. -/
def leNat : Bytes → Nat
  | [] => 0
  | b :: bs => b.toNat + 256 * leNat bs

/-- The low `n` bytes of `v` in wire order (R5). -/
def beBytes (n v : Nat) : Bytes := (leBytes n v).reverse

/-- The value of bytes in wire order. -/
def beNat (bs : Bytes) : Nat := leNat bs.reverse

/-- `len` bytes from offset `off`; bytes beyond the end read as zero. -/
def slice (bs : Bytes) (off len : Nat) : Bytes :=
  let t := (bs.drop off).take len
  t ++ List.replicate (len - t.length) 0

/-- The value of a field of a wire header: bytes `off` to `off + n - 1` as one big-endian integer, bits `[hi:lo]` of it. -/
def beField (bs : Bytes) (off n hi lo : Nat) : Nat := beNat (slice bs off n) / 2 ^ lo % 2 ^ (hi + 1 - lo)

/-- The value of a field of a little-endian structure held as bytes. -/
def leField (bs : Bytes) (off n hi lo : Nat) : Nat := leNat (slice bs off n) / 2 ^ lo % 2 ^ (hi + 1 - lo)

/-- Bits `[hi:lo]` counted from byte `byte` of an entry. -/
def fld {w : Nat} (e : BitVec w) (byte hi lo : Nat) : Nat := e.toNat / 2 ^ (8 * byte + lo) % 2 ^ (hi + 1 - lo)

/-- One bit of an entry. -/
def bit {w : Nat} (e : BitVec w) (byte n : Nat) : Bool := e.getLsbD (8 * byte + n)

/-- `e` with bits `[hi:lo]` counted from byte `byte` replaced by `v`. -/
def putFld {w : Nat} (e : BitVec w) (byte hi lo v : Nat) : BitVec w :=
  let m := BitVec.ofNat w ((2 ^ (hi + 1 - lo) - 1) * 2 ^ (8 * byte + lo))
  (e &&& ~~~m) ||| BitVec.ofNat w (v % 2 ^ (hi + 1 - lo) * 2 ^ (8 * byte + lo))

/-- Every bit of bytes `from` to `to` is zero. -/
def zeroBytes {w : Nat} (e : BitVec w) (from_ to_ : Nat) : Bool := fld e from_ (8 * (to_ - from_) + 7) 0 == 0

/-- The bytes of an entry in memory order. -/
def entryBytes {w : Nat} (e : BitVec w) : Bytes := leBytes (w / 8) e.toNat

/-- An entry from the bytes that memory holds. -/
def entryOf {w : Nat} (bs : Bytes) : BitVec w := BitVec.ofNat w (leNat bs)

/-- The signed distance `a - b` modulo 2^32 (R216). -/
def sdist (a b : Word) : Int := (a - b).toInt

/-- The two's complement of `x` in `n` bytes, as a number. -/
def twos (n : Nat) (x : Int) : Nat := (x % (2 ^ (8 * n) : Nat)).toNat

/-- A signed value from the low `n` bytes. -/
def fromTwos (n v : Nat) : Int := if v < 2 ^ (8 * n - 1) then (v : Int) else (v : Int) - (2 ^ (8 * n) : Nat)

/-- `[a, a + n)` and `[b, b + m)` share a place. -/
def overlaps (a n b m : Nat) : Bool := decide (a < b + m) && decide (b < a + n)

/-! ### Tables -/

/-- The row under `k`. -/
def tget {α : Type} : Tab α → Nat → Option α
  | [], _ => none
  | (n, v) :: t, k => if n = k then some v else tget t k

/-- The table with `v` under `k`, rows kept in rising order. -/
def tput {α : Type} : Tab α → Nat → α → Tab α
  | [], k, v => [(k, v)]
  | (n, w) :: t, k, v =>
    if k < n then (k, v) :: (n, w) :: t else if n = k then (k, v) :: t else (n, w) :: tput t k v

/-- The table without the row under `k`. -/
def tdel {α : Type} (t : Tab α) (k : Nat) : Tab α := t.filter fun r => !(r.1 == k)

/-- The row under `k` changed, where there is one. -/
def tmod {α : Type} (t : Tab α) (k : Nat) (f : α → α) : Tab α := t.map fun r => if r.1 = k then (k, f r.2) else r

/-- A list with its `i`-th item changed, where there is one. -/
def lmod {α : Type} (l : List α) (i : Nat) (f : α → α) : List α := l.modify i f

/-! ### Byte memories in canonical form: addresses strictly rising, no zero byte listed; an unlisted address reads zero -/

/-- The canonical form. -/
def memWf : List (Nat × Byte) → Bool
  | [] => true
  | [(_, b)] => b != 0
  | (a, b) :: (c, d) :: t => b != 0 && decide (a < c) && memWf ((c, d) :: t)

/-- The byte at `a`. -/
def memByte (m : List (Nat × Byte)) (a : Nat) : Byte :=
  match m with
  | [] => 0
  | (n, b) :: t => if n = a then b else memByte t a

/-- `n` bytes from `a`. (DESIGN CHOICE in part: assumption 19) -/
def memRead (m : List (Nat × Byte)) (a n : Nat) : Bytes := (List.range n).map fun i => memByte m (a + i)

/-- The cells of a run of bytes from `a`, zero bytes left out. -/
def memCells (a : Nat) : Bytes → List (Nat × Byte)
  | [] => []
  | b :: bs => if b = 0 then memCells (a + 1) bs else (a, b) :: memCells (a + 1) bs

/-- The memory with `bs` stored from `a`. -/
def memWrite (m : List (Nat × Byte)) (a : Nat) (bs : Bytes) : List (Nat × Byte) :=
  (m.filter fun c => decide (c.1 < a)) ++ memCells a bs ++ m.filter fun c => decide (a + bs.length ≤ c.1)

/-- The memory with `n` bytes from `a` zeroed. -/
def memZero (m : List (Nat × Byte)) (a n : Nat) : List (Nat × Byte) :=
  m.filter fun c => decide (c.1 < a) || decide (a + n ≤ c.1)

end Sys2Proof.Machine
end

