-- ==== Sys2Proof/Machine/Float.lean ====
section
/-!
DEFINITION. The numbers of the tensor path engine (Tensor Path Engine: Array and Numerics): exact values, decoding and
rounding of every format of Table 13-1, the arithmetic flags, and the operations of the vector unit.
-/

namespace Sys2Proof.Machine

/-- An exact value: `fin neg m e` is m × 2^e with its sign, so that -0 and +0 differ. -/
inductive Num where
  | nan
  | inf (neg : Bool)
  | fin (neg : Bool) (m : Nat) (e : Int)
  deriving DecidableEq, Repr

/-! ### Flags (Table 13-3) -/

abbrev Flags := BitVec 8

def flInvalid : Flags := 0x01
def flNan : Flags := 0x02
def flOverflow : Flags := 0x04
def flMxScale : Flags := 0x08
def flTopk : Flags := 0x10

/-- `f` where `b` holds. -/
def flIf (b : Bool) (f : Flags) : Flags := if b then f else 0

/-! ### Exact arithmetic -/

def Num.isNan : Num → Bool
  | .nan => true
  | _ => false

def Num.isInf : Num → Bool
  | .inf _ => true
  | _ => false

def Num.isZero : Num → Bool
  | .fin _ m _ => m == 0
  | _ => false

def Num.neg : Num → Num
  | .nan => .nan
  | .inf n => .inf (!n)
  | .fin n m e => .fin (!n) m e

def Num.sign : Num → Bool
  | .nan => false
  | .inf n | .fin n _ _ => n

/-- The signed mantissa of a finite value at exponent `e0`, which lies at or below its own. -/
def signedAt (neg : Bool) (m : Nat) (e e0 : Int) : Int :=
  let v : Int := (m * 2 ^ (e - e0).toNat : Nat)
  if neg then -v else v

/-- The exact sum; a zero is -0 only where both terms are. -/
def Num.add : Num → Num → Num
  | .nan, _ | _, .nan => .nan
  | .inf a, .inf b => if a == b then .inf a else .nan
  | .inf a, .fin .. | .fin .., .inf a => .inf a
  | .fin na ma ea, .fin nb mb eb =>
    let e0 := min ea eb
    let v := signedAt na ma ea e0 + signedAt nb mb eb e0
    if v = 0 then .fin (na && nb) 0 0 else .fin (v < 0) v.natAbs e0

/-- The exact product. -/
def Num.mul : Num → Num → Num
  | .nan, _ | _, .nan => .nan
  | .inf a, .inf b => .inf (a != b)
  | .inf a, .fin n m _ | .fin n m _, .inf a => if m = 0 then .nan else .inf (a != n)
  | .fin na ma ea, .fin nb mb eb => .fin (na != nb) (ma * mb) (ea + eb)

/-- `a < b` and `a = b` of numbers; NaN compares false, and -0 equals +0. -/
def Num.lt (a b : Num) : Bool :=
  match a, b with
  | .nan, _ | _, .nan => false
  | .inf x, .inf y => x && !y
  | .inf x, .fin .. => x
  | .fin .., .inf y => !y
  | .fin na ma ea, .fin nb mb eb => decide (signedAt na ma ea (min ea eb) < signedAt nb mb eb (min ea eb))

def Num.eq (a b : Num) : Bool := !a.isNan && !b.isNan && !a.lt b && !b.lt a

/-! ### Formats (R299 to R302, Table 13-1) -/

/-- An element encoding: exponent and mantissa bits, bias, and how it marks what is not finite: 0 nothing, 1 as IEEE 754,
2 as E4M3. -/
structure Enc where
  eb   : Nat
  mb   : Nat
  bias : Int
  kind : Nat
  deriving DecidableEq, Repr

def encFp32 : Enc := { eb := 8, mb := 23, bias := 127, kind := 1 }

/-- The element encoding of a format code; MXINT8 (0xA) has none. -/
def encOf : Nat → Enc
  | 0 => encFp32
  | 1 => { eb := 8, mb := 7, bias := 127, kind := 1 }
  | 2 => { eb := 5, mb := 10, bias := 15, kind := 1 }
  | 3 | 5 => { eb := 4, mb := 3, bias := 7, kind := 2 }
  | 4 | 6 => { eb := 5, mb := 2, bias := 15, kind := 1 }
  | 7 => { eb := 3, mb := 2, bias := 3, kind := 0 }
  | 8 => { eb := 2, mb := 3, bias := 1, kind := 0 }
  | _ => { eb := 2, mb := 1, bias := 1, kind := 0 }

/-- A microscaling format. -/
def isMx (f : Nat) : Bool := decide (5 ≤ f)

/-- Element bits. -/
def fmtBits : Nat → Nat
  | 0 => 32
  | 1 | 2 => 16
  | 7 | 8 => 6
  | 9 => 4
  | _ => 8

/-- The exponent of the largest normal element of an MX format (R305). -/
def emaxElem : Nat → Int
  | 5 => 8
  | 6 => 15
  | 7 => 4
  | 8 | 9 => 2
  | _ => 0

/-- A legal array input format (Table 13-1). -/
def arrayInput (f : Nat) : Bool := decide (1 ≤ f) && decide (f ≤ 10)

/-- The value of an element encoding. -/
def decodeEnc (c : Enc) (v : Nat) : Num :=
  let neg := v / 2 ^ (c.eb + c.mb) % 2 == 1
  let ex := v / 2 ^ c.mb % 2 ^ c.eb
  let man := v % 2 ^ c.mb
  if c.kind == 1 && ex == 2 ^ c.eb - 1 then (if man = 0 then .inf neg else .nan)
  else if c.kind == 2 && ex == 2 ^ c.eb - 1 && man == 2 ^ c.mb - 1 then .nan
  else if ex = 0 then .fin neg man (1 - c.bias - c.mb)
  else .fin neg (2 ^ c.mb + man) (ex - c.bias - c.mb)

/-- The value of one element of a format, its block scale left out. -/
def decodeElem (f v : Nat) : Num :=
  if f = 10 then .fin (decide (128 ≤ v)) (fromTwos 1 v).natAbs (-6) else decodeEnc (encOf f) v

/-- The value of an FP32 word. -/
def fp (w : Word) : Num := decodeEnc encFp32 w.toNat

/-- Element `j` of a packed row (R301). -/
def elemBits (w : Nat) (row : Bytes) (j : Nat) : Nat :=
  leNat (slice row (w * j / 8) 5) / 2 ^ (w * j % 8) % 2 ^ w

/-- Scales a value by 2^k. -/
def Num.scale (x : Num) (k : Int) : Num :=
  match x with
  | .fin n m e => .fin n m (e + k)
  | y => y

/-- The value of an element under its E8M0 scale (R302). -/
def scaled (scale : Nat) (x : Num) : Num := if scale = 0xFF then .nan else x.scale ((scale : Int) - 127)

/-- Bytes of `n` elements laid out as one row (R301): elements, then for MX one scale for each block of 32. -/
def rowLen (f n : Nat) : Nat := (n * fmtBits f + 7) / 8 + if isMx f then (n + 31) / 32 else 0

/-- Elements in one unit of a format's layout, and its bytes: MX comes in rows of 256, everything else in elements. -/
def unitElems (f : Nat) : Nat := if isMx f then 256 else 1
def unitBytes (f : Nat) : Nat := if isMx f then rowLen f 256 else fmtBits f / 8

/-- The `n` values of one row. -/
def decodeRow (f n : Nat) (row : Bytes) : List Num :=
  let scales := row.drop ((n * fmtBits f + 7) / 8)
  (List.range n).map fun j =>
    let x := decodeElem f (elemBits (fmtBits f) row j)
    if isMx f then scaled ((scales.getD (j / 32) 0).toNat) x else x

/-- MX_NAN_SCALE of a row. -/
def rowFlags (f n : Nat) (row : Bytes) : Flags :=
  flIf (isMx f && ((row.drop ((n * fmtBits f + 7) / 8)).take ((n + 31) / 32)).contains 0xFF) flMxScale

/-- Splits `n` elements into rows of at most 256 and gives each row's byte offset. -/
def rowsOf (f n : Nat) : List (Nat × Nat) :=
  (List.range ((n + 255) / 256)).map fun i => (i * rowLen f 256, min 256 (n - 256 * i))

/-- Bytes of `n` elements of a format. -/
def fmtLen (f n : Nat) : Nat := ((rowsOf f n).map fun r => rowLen f r.2).sum

/-- The values of `n` elements, and their flags. -/
def decodeFmt (f n : Nat) (bs : Bytes) : List Num × Flags :=
  ((rowsOf f n).flatMap (fun r => decodeRow f r.2 (bs.drop r.1)),
    (rowsOf f n).foldl (fun a r => a ||| rowFlags f r.2 (bs.drop r.1)) 0)

/-! ### Rounding (R303, R304) -/

/-- `m × 2^e` in units of 2^q, rounded to nearest even. -/
def roundUnits (m : Nat) (e q : Int) : Nat :=
  if q ≤ e then m * 2 ^ (e - q).toNat
  else
    let k := (q - e).toNat
    let d := 2 ^ k
    let n := m / d
    let r := 2 * (m % d)
    if r < d then n else if d < r then n + 1 else n + n % 2

/-- The exponent of the unit in the last place of a non-zero value in an encoding, and whether it is normal. -/
def lastPlace (c : Enc) (m : Nat) (e : Int) : Int × Bool :=
  let ex : Int := Nat.log2 m + e
  (max ex (1 - c.bias) - c.mb, decide (1 - c.bias ≤ ex))

/-- The code that `n` units of the last place at exponent `q` make. -/
def codeOf (c : Enc) (n : Nat) (q : Int) (normal : Bool) : Nat :=
  if normal then (q + c.mb + c.bias - 1).toNat * 2 ^ c.mb + n else n

/-- The magnitude code of a rounded value; past the largest, it lies beyond `maxCode`. -/
def roundCode (c : Enc) (m : Nat) (e : Int) : Nat :=
  if m = 0 then 0 else let p := lastPlace c m e; codeOf c (roundUnits m e p.1) p.1 p.2

/-- The largest finite magnitude code. -/
def maxCode (c : Enc) : Nat :=
  match c.kind with
  | 1 => (2 ^ c.eb - 1) * 2 ^ c.mb - 1
  | 2 => 2 ^ (c.eb + c.mb) - 2
  | _ => 2 ^ (c.eb + c.mb) - 1

def signBit (c : Enc) (neg : Bool) : Nat := neg.toNat * 2 ^ (c.eb + c.mb)

def canonicalNan : Word := 0x7FC00000

/-- FP32 of an exact value, rounded once, with OVERFLOW. -/
def toFp32 : Num → Word × Flags
  | .nan => (canonicalNan, 0)
  | .inf n => (BitVec.ofNat 32 (signBit encFp32 n + 0x7F800000), 0)
  | .fin n m e =>
    let c := roundCode encFp32 m e
    if maxCode encFp32 < c then (BitVec.ofNat 32 (signBit encFp32 n + 0x7F800000), flOverflow)
    else (BitVec.ofNat 32 (signBit encFp32 n + c), 0)

/-- FP32 of an exact result whose operands are given: INVALID for a NaN none of them was, NAN_PROPAGATED for one that was. -/
def finish (x : Num) (operands : List Num) : Word × Flags :=
  let r := toFp32 x
  let bad := operands.any (·.isNan)
  (r.1, r.2 ||| flIf (x.isNan && bad) flNan ||| flIf (x.isNan && !bad) flInvalid)

/-! ### Output conversion (R304, R305) -/

/-- One value in a format that is not MX (Table 13-2). (DEDUCED in part: assumption 94) -/
def encodePlain (f : Nat) (x : Num) : Nat × Flags :=
  let c := encOf f
  let sat := f == 3 || f == 4
  let top := if f = 4 then 0x7B else maxCode c
  match x with
  | .nan => ((match f with
    | 0 => 0x7FC00000
    | 1 => 0x7FC0
    | 2 => 0x7E00
    | _ => 0x7F), flNan)
  | .inf n => if sat then (signBit c n + top, flOverflow) else (signBit c n + (2 ^ c.eb - 1) * 2 ^ c.mb, 0)
  | .fin n m e =>
    let k := roundCode c m e
    if k ≤ maxCode c then (signBit c n + k, 0)
    else (signBit c n + (if sat then top else (2 ^ c.eb - 1) * 2 ^ c.mb), flOverflow)

/-- One element of an MX block, its scale taken off. -/
def encodeElem (f : Nat) (x : Num) : Nat × Flags :=
  match x with
  | .fin n m e =>
    if f = 10 then
      let u := roundUnits m e (-6)
      let lim := if n then 128 else 127
      (twos 1 (if n then -(min u lim : Nat) else (min u lim : Nat)), flIf (decide (lim < u)) flOverflow)
    else
      let c := encOf f
      let k := roundCode c m e
      (signBit c n + min k (maxCode c), flIf (decide (maxCode c < k)) flOverflow)
  | _ => (0, 0)

/-- ⌊log2⌋ of the largest magnitude of a block, where one is not zero. -/
def blockExp (xs : List Num) : Option Int :=
  xs.foldl (fun a x => match x with
    | .fin _ m e => if m = 0 then a else
      let v : Int := Nat.log2 m + e
      (match a with
      | some b => some (max b v)
      | none => some v)
    | _ => a) none

/-- One block of an MX format: its scale, and its elements with the flags of each (R305). A NaN or an infinity marks every element. -/
def encodeBlock (f : Nat) (xs : List Num) : Nat × List (Nat × Flags) :=
  if xs.any fun x => x.isNan || x.isInf then
    (0xFF, xs.map fun _ => (0, flIf (xs.any (·.isNan)) flNan ||| flIf (xs.any (·.isInf)) flOverflow))
  else
    let x : Int := match blockExp xs with
      | some v => max (-127) (min 127 (v - emaxElem f))
      | none => 0
    ((x + 127).toNat, xs.map fun v => encodeElem f (v.scale (-x)))

/-- Packs elements of `w` bits into bytes. -/
def packBits (w : Nat) (es : List Nat) : Bytes :=
  leBytes ((es.length * w + 7) / 8) (es.foldr (fun e a => e % 2 ^ w + a * 2 ^ w) 0)

/-- Cuts a list into pieces of `n`. -/
def pieces {α : Type} (n : Nat) : Nat → List α → List (List α)
  | 0, _ => []
  | fuel + 1, l => if l.isEmpty then [] else l.take n :: pieces n fuel (l.drop n)

/-- The flags that several values raise together. -/
def anyFlags (fs : List Flags) : Flags := fs.foldl (· ||| ·) 0

/-- Encodes one row of at most 256 values. -/
def encodeRow (f : Nat) (xs : List Num) : Bytes × Flags :=
  if isMx f then
    let bs := (pieces 32 9 xs).map (encodeBlock f)
    (packBits (fmtBits f) (bs.flatMap fun b => b.2.map (·.1)) ++ bs.map (fun b => BitVec.ofNat 8 b.1), anyFlags (bs.flatMap fun b => b.2.map (·.2)))
  else
    let es := xs.map (encodePlain f)
    (packBits (fmtBits f) (es.map (·.1)), anyFlags (es.map (·.2)))

/-- The flags that the conversion of each value raises. -/
def laneFlags (f : Nat) (xs : List Num) : List Flags :=
  if isMx f then (pieces 32 (xs.length / 32 + 1) xs).flatMap fun b => (encodeBlock f b).2.map (·.2) else xs.map fun x => (encodePlain f x).2

/-- Encodes values in a format (R304). -/
def encodeFmt (f : Nat) (xs : List Num) : Bytes × Flags :=
  ((pieces 256 (xs.length / 256 + 1) xs).map (encodeRow f)).foldl (fun a r => (a.1 ++ r.1, a.2 ||| r.2)) ([], 0)

/-! ### The array (R296, R303) -/

/-- The exact sum of the products of a row and a column, with INVALID and NAN_PROPAGATED. -/
def dot (x w : List Num) : Num × Flags :=
  let ps := List.zipWith (fun a b => (a.mul b, a.isNan || b.isNan)) x w
  let fromNan := ps.any (·.2)
  let made := ps.any fun p => p.1.isNan && !p.2
  let v := match ps with
    | [] => Num.fin false 0 0
    | p :: t => t.foldl (fun a q => a.add q.1) p.1
  (v, flIf fromNan flNan ||| flIf (made || (v.isNan && !fromNan)) flInvalid)

/-- A step's work on one element of the accumulation store. -/
def accumulate (a : Word) (x w : List Num) : Word × Flags :=
  let d := dot x w
  let r := toFp32 d.1
  let t := (fp a).add (fp r.1)
  let q := toFp32 t
  (q.1, d.2 ||| r.2 ||| q.2 ||| flIf (fp a).isNan flNan ||| flIf (t.isNan && !(fp a).isNan && !d.1.isNan) flInvalid)

/-- A = round(A + x) of a REDUCE (R330). -/
def addInto (a : Word) (x : Num) : Word × Flags := finish ((fp a).add x) [fp a, x]

/-! ### The vector unit (R307, Table 13-4) -/

/-- IEEE 754-2019 maximum; -0 is below +0. -/
def Num.max (a b : Num) : Num :=
  if a.isNan || b.isNan then .nan
  else if a.lt b then b else if b.lt a then a else if a.sign then b else a

def Num.min (a b : Num) : Num := (a.neg.max b.neg).neg

/-- √a in units of 2^q for a non-zero finite value, rounded to nearest even. -/
def sqrtUnits (m : Nat) (e q : Int) : Nat :=
  let k := e - 2 * q
  let v := if 0 ≤ k then m * 2 ^ k.toNat else m / 2 ^ (-k).toNat
  let exact := decide (0 ≤ k) || m % 2 ^ (-k).toNat == 0
  let n := Nat.sqrt v
  -- The root lies above n + 1/2 exactly where v exceeds n² + n.
  if n * n + n < v || (n * n + n == v && !exact) then n + 1 else n

/-- SQRT. -/
def vSqrt (a : Num) : Word × Flags :=
  match a with
  | .nan => (canonicalNan, flNan)
  | .inf n => if n then (canonicalNan, flInvalid) else toFp32 (.inf false)
  | .fin n m e =>
    if m = 0 then toFp32 a
    else if n then (canonicalNan, flInvalid)
    else
      let ex : Int := (Nat.log2 m + e) / 2
      let q := ex - 23
      toFp32 (.fin false (sqrtUnits m e q) q)

/-! #### The functions within 1 ulp: fixed-point approximations far finer than an ulp -/

/-- Fraction bits of the approximations. -/
def fixP : Nat := 256

/-- atanh of a fixed-point z at most 1/3. -/
def atanhFix (z : Nat) : Nat :=
  (List.range 90).foldl (fun (a : Nat × Nat) k => (a.1 + a.2 / (2 * k + 1), a.2 * z / 2 ^ fixP * z / 2 ^ fixP)) (0, z) |>.1

def ln2Fix : Nat := 2 * atanhFix (2 ^ fixP / 3)

/-- ln of m / 2^⌊log2 m⌋. -/
def lnFix (m : Nat) : Nat :=
  let one := 2 ^ Nat.log2 m
  2 * atanhFix ((m - one) * 2 ^ fixP / (m + one))

/-- e^x of a fixed-point x in [0, 1). -/
def expFix (x : Nat) : Nat :=
  (List.range 70).foldl (fun (a : Nat × Nat) k => (a.1 + a.2, a.2 * x / 2 ^ fixP / (k + 1))) (0, 2 ^ fixP) |>.1

/-- The FP32 magnitude codes within 1 ulp of y × 2^e, y far wider than a mantissa. -/
def ulpCodes (y : Nat) (e : Int) : List Nat :=
  if y = 0 then [0]
  else
    let p := lastPlace encFp32 y e
    let k := (p.1 - e).toNat
    let u := 2 ^ k
    let n := y / u
    let slack := u + 2 ^ (k - 100)
    let near (c : Nat) : Bool := decide (c * u ≤ y + slack) && decide (y ≤ c * u + slack)
    ([n - 1, n, n + 1, n + 2].filter near).map fun c => codeOf encFp32 c p.1 p.2

/-- FP32 of a signed magnitude code, infinite past the largest. -/
def fromCode (neg : Bool) (c : Nat) : Word × Flags :=
  if maxCode encFp32 < c then (BitVec.ofNat 32 (signBit encFp32 neg + 0x7F800000), flOverflow)
  else (BitVec.ofNat 32 (signBit encFp32 neg + c), 0)

/-- A free result: any value, but of the NaNs only the canonical one (R303). -/
def freeResult (w : Word) : Word := if (fp w).isNan then canonicalNan else w

/-- The fixed choice among the results within 1 ulp: free (R307 gives only the bound). (DESIGN CHOICE in part: assumption 10) -/
def ulpPick (vop : Nat) (a : Word) (neg : Bool) (codes : List Nat) : Word × Flags :=
  match codes[Config.ulpChoice vop a % codes.length]? with
  | some c => fromCode neg c
  | none => (freeResult (Config.ulpValue vop a), 0)

/-- The wide mantissa of a finite value. -/
def wide (m : Nat) (e : Int) : Nat × Int := (m * 2 ^ 300, e - 300)

/-- e^(k·x) for x finite: k is 1, or ln 2 for EXP2. -/
def expCodes (two neg : Bool) (m : Nat) (e : Int) : List Nat :=
  if m = 0 then ulpCodes (2 ^ 300) (-300)
  else if (12 : Int) < Nat.log2 m + e then (if neg then [0, 1] else [maxCode encFp32 + 1])
  else
    let sh := (fixP : Int) + e
    let x0 := if 0 ≤ sh then m * 2 ^ sh.toNat else m / 2 ^ (-sh).toNat
    let x := if two then x0 * ln2Fix / 2 ^ fixP else x0
    let n := x / ln2Fix
    let r := x % ln2Fix
    if neg then
      if r = 0 then ulpCodes (2 ^ 300) (-300 - n)
      else ulpCodes (expFix (ln2Fix - r) * 2 ^ 64) (-(fixP : Int) - 64 - 1 - n)
    else ulpCodes (expFix r * 2 ^ 64) (n - fixP - 64)

/-- ln or log2 of a positive finite value: its sign and codes. -/
def logCodes (two : Bool) (m : Nat) (e : Int) : Bool × List Nat :=
  let ex : Int := Nat.log2 m + e
  let l : Int := (lnFix m : Int) + ex * ln2Fix
  let v : Nat := if two then l.natAbs * 2 ^ fixP / ln2Fix else l.natAbs
  (decide (l < 0), ulpCodes (v * 2 ^ 64) (-(fixP : Int) - 64))

/-- RECIP, RSQRT, EXP, EXP2, LOG, LOG2 by VOP. The reciprocals of zero are stated nowhere: free. -/
def vUlp (vop : Nat) (w : Word) : Word × Flags :=
  let a := fp w
  let inDomain := vop == 0x0E || vop == 0x10 || vop == 0x11
  match a with
  | .nan => (canonicalNan, flNan)
  | .inf n =>
    if vop = 0x0E then (BitVec.ofNat 32 (signBit encFp32 n), 0)
    else if inDomain then (if n then (0, 0) else toFp32 a)
    else if n then (canonicalNan, flInvalid)
    else if vop = 0x0F then (0, 0) else toFp32 a
  | .fin n m e =>
    if m = 0 then
      if vop = 0x10 || vop = 0x11 then ulpPick vop w false (expCodes false false 0 0)
      else if vop = 0x12 || vop = 0x13 then toFp32 (.inf true)
      else (freeResult (Config.ulpValue vop w), 0)
    else if n && !inDomain then (canonicalNan, flInvalid)
    else match vop with
      | 0x0E => ulpPick vop w n (ulpCodes (2 ^ 400 / m) (-400 - e))
      | 0x0F => ulpPick vop w false (ulpCodes (Nat.sqrt (2 ^ 800 / (if e % 2 = 0 then m else 2 * m))) (-400 - (if e % 2 = 0 then e else e - 1) / 2))
      | 0x10 => ulpPick vop w false (expCodes false n m e)
      | 0x11 => ulpPick vop w false (expCodes true n m e)
      | _ => let r := logCodes (vop == 0x13) m e; ulpPick vop w r.1 r.2

def fpOne (b : Bool) : Word := if b then 0x3F800000 else 0

/-- One lane of an operation that works lane by lane: `sel` is the lane of the mask, `shift` SCALE's exponent. -/
def vLane (vop : Nat) (shift : Int) (sel : Bool) (a b c : Word) : Word × Flags :=
  let x := fp a
  let y := fp b
  match vop with
  | 0x01 => finish (x.add y) [x, y]
  | 0x02 => finish (x.add y.neg) [x, y]
  | 0x03 => finish (x.mul y) [x, y]
  | 0x04 => finish ((x.mul y).add (fp c)) [x, y, fp c]
  | 0x05 => finish (x.min y) [x, y]
  | 0x06 => finish (x.max y) [x, y]
  | 0x07 => (fpOne (x.lt y), 0)
  | 0x08 => (fpOne (x.eq y), 0)
  | 0x09 => (fpOne (x.lt y || x.eq y), 0)
  | 0x0A => finish (if sel then x else y) [x, y]
  | 0x0B => finish (x.scale shift) [x]
  | 0x0D => vSqrt x
  | _ => vUlp vop a

/-- A mask lane selects where its value is non-zero and not NaN (R336). -/
def laneOn (w : Word) : Bool := let x := fp w; !x.isNan && !x.isZero

/-- One level of the tree of R308. -/
def treeLevel (op : Num → Num → Word × Flags) : List Word → List Word × Flags
  | a :: b :: t =>
    let r := op (fp a) (fp b)
    let u := treeLevel op t
    (r.1 :: u.1, r.2 ||| u.2)
  | l => (l, 0)

/-- The tree over 1,024 lanes: ten levels. -/
def treeReduce (op : Num → Num → Word × Flags) : Nat → List Word → List Word × Flags
  | 0, l => (l, 0)
  | fuel + 1, l =>
    let r := treeLevel op l
    let u := treeReduce op fuel r.1
    (u.1, r.2 ||| u.2)

/-- REDUCE_SUM and REDUCE_MAX on one group, short groups and masked lanes filled (R308). (DEDUCED in part: assumption 95) -/
def vReduce (max : Bool) (lanes : List (Word × Bool)) : Word × Flags :=
  let fill : Word := if max then 0xFF800000 else 0
  let l := (lanes.map fun x => if x.2 then x.1 else fill) ++ List.replicate (1024 - lanes.length) fill
  let op (a b : Num) := finish (if max then a.max b else a.add b) [a, b]
  let r := treeReduce op 10 l
  (r.1.headD 0, r.2)

/-! ### Top-k (R309) -/

/-- Candidate `a` ranks ahead of `b`; each is its index and its score. -/
def better (a b : Nat × Word) : Bool :=
  let x := fp a.2
  let y := fp b.2
  if x.isNan != y.isNan then !x.isNan
  else if !x.isNan && !x.eq y then y.lt x
  else decide (a.1 < b.1)

/-- Puts a candidate into a ranked list. -/
def rankIn (c : Nat × Word) : List (Nat × Word) → List (Nat × Word)
  | [] => [c]
  | d :: t => if better c d then c :: d :: t else d :: rankIn c t

/-- The best `k` of a row, and TOPK_NAN. -/
def topk (k : Nat) (row : List Word) : List (Nat × Word) × Flags :=
  let r := (row.mapIdx fun i v => (i, v)).foldl (fun l c => (rankIn c l).take k) []
  (r, flIf (r.any fun c => (fp c.2).isNan) (flTopk ||| flNan))

/-- An integer as FP32. -/
def fpNat (n : Nat) : Word := (toFp32 (.fin false n 0)).1

/-- The integer an FP32 value is, where it is one below 2^16. -/
def fpToNat (w : Word) : Option Nat :=
  match fp w with
  | .fin n m e =>
    let v := if 0 ≤ e then m * 2 ^ e.toNat else m / 2 ^ (-e).toNat
    if (m = 0 || !n) && (decide (0 ≤ e) || m % 2 ^ (-e).toNat == 0) && decide (v < 65536) then some v else none
  | _ => none

end Sys2Proof.Machine
end

