-- ==== Sys2Proof/Machine/Operands.lean ====
section
/-!
DEFINITION. The operand forms of the admin commands: for each opcode of Table 5-9 the fields its parameter table lists and
their legal values. Everything else in PARAMS is reserved (R10, R122), result fields included (R159, R208, R250, R264,
R279, R348, R377). The checks depend on the entry alone.
-/

namespace Sys2Proof.Machine

/-- A field a form lists: byte, high bit, low bit, and whether its value is legal. -/
abbrev FormField := Nat × Nat × Nat × Bool

/-- Every listed field is legal and every other bit of PARAMS is zero. -/
def formLegal (e : Entry) (fs : List FormField) : Bool :=
  fs.all (fun f => f.2.2.2) && zeroBytes (fs.foldl (fun x f => putFld x f.1 f.2.1 f.2.2.1 0) e) 8 55

/-- A field that takes any value. -/
def any_ (byte hi lo : Nat) : FormField := (byte, hi, lo, true)

/-- A field of an entry that takes a value from `a` to `b`. -/
def rng (e : Entry) (byte hi lo a b : Nat) : FormField :=
  (byte, hi, lo, decide (a ≤ fld e byte hi lo) && decide (fld e byte hi lo ≤ b))

/-- The ring descriptor block of Table 6-2 at byte `b` is within its legal values. -/
def blockLegal (e : Entry) (b : Nat) : Bool :=
  fld e b 11 0 == 0 && decide (6 ≤ fld e (b + 8) 4 0) && decide (fld e (b + 8) 4 0 ≤ 16) && fld e (b + 8) 7 5 == 0
    && decide (fld e (b + 9) 2 0 ≤ 4) && fld e (b + 9) 7 3 == 0 && zeroBytes e (b + 10) (b + 11) && fld e (b + 12) 31 18 == 0

def blockField (e : Entry) (b : Nat) : FormField := (b, 127, 0, blockLegal e b)

/-! ### The tables -/

/-- Table 4-13. -/
def formImageWrite (e : Entry) : List FormField :=
  [any_ 8 0 0, any_ 16 63 12, (24, 31, 0, decide (80 ≤ fld e 24 31 0) && decide (fld e 24 31 0 ≤ 8388608) && fld e 24 31 0 % 8 == 0)]

/-- Table 20-4, INDEX as Table 20-3. -/
def formCountersRead (e : Entry) : List FormField :=
  let i := fld e 10 13 0
  let ok := match fld e 8 1 0 with
    | 0 => i == 0
    | 1 => decide (i ≤ 7)
    | 2 => decide (1 ≤ i)
    | _ => decide (i ≤ 5)
  [any_ 8 1 0, any_ 8 2 2, (10, 13, 0, ok), any_ 16 63 3]

/-- Table 8-3. -/
def formPortControl (e : Entry) : List FormField :=
  [any_ 8 2 0, any_ 9 1 0] ++ if fld e 9 1 0 = 3 then [(10, 47, 0, !bit e 10 0)] else []

/-- KIND, APAGE_PORT, VF, PASID and VEC_TABLE of Table 16-2. -/
def formBinding (e : Entry) : List FormField :=
  let slice := bit e 8 0
  [any_ 8 0 0, rng e 8 3 1 0 4, if slice then rng e 10 10 0 0 0 else rng e 10 10 0 1 1024,
    if slice then rng e 12 19 0 1 1048575 else rng e 12 19 0 0 0, if slice then any_ 32 63 10 else rng e 32 63 10 0 0]

def formInstanceCreate (e : Entry) : List FormField :=
  formBinding e ++ [(16, 127, 0, blockLegal e 16 && fld e 28 17 0 == 0)]

/-- Table 16-4. -/
def formQuotaSet (e : Entry) : List FormField :=
  [any_ 8 0 0, any_ 8 1 1] ++
    if bit e 8 0 then []
    else [rng e 16 36 0 0 103079215104, rng e 24 20 0 0 1048576, rng e 28 18 0 0 262144, rng e 32 18 0 0 262144,
      rng e 36 14 0 0 16384, rng e 38 12 0 0 4095, rng e 40 14 0 0 16384, rng e 42 8 0 0 256, rng e 44 8 0 0 256,
      rng e 46 8 0 0 256, rng e 48 8 0 0 256]

def formInstanceDestroy (e : Entry) : List FormField :=
  [any_ 8 0 0] ++ if bit e 8 0 then [any_ 12 23 0, rng e 16 10 0 1 1024, rng e 20 31 0 1 4294967295] else []

def formFreeze (e : Entry) : List FormField := [rng e 12 31 0 1 60000]

def formSave : List FormField := [any_ 16 63 12, any_ 24 39 0]

def formRestore (e : Entry) : List FormField := formBinding e ++ formSave

def formMigrationKey (e : Entry) : List FormField :=
  [any_ 8 0 0] ++ if bit e 8 0 then [] else [any_ 16 63 5, rng e 24 31 0 1 4294967295]

/-- Table 7-1. -/
def formQpCreate (e : Entry) : List FormField := [any_ 8 19 0, blockField e 16, blockField e 32]

def formQpModify (e : Entry) : List FormField :=
  [any_ 8 19 0, rng e 12 2 0 0 3] ++
    match fld e 12 2 0 with
    | 1 => [any_ 13 2 0, any_ 13 3 3, any_ 16 23 0, rng e 20 10 0 1 1024, rng e 22 13 0 1 16383, any_ 24 19 0]
    | 2 => [rng e 14 15 0 1 60000]
    | _ => []

def formQpName : List FormField := [any_ 8 19 0]

/-- Table 6-8. -/
def formCqCreate (e : Entry) : List FormField :=
  [any_ 8 17 0, rng e 12 4 0 6 22, rng e 13 2 0 0 4, any_ 14 5 0, any_ 15 0 0, any_ 16 63 12, rng e 24 15 0 1 65535,
    rng e 26 9 0 0 1000]

def formCqModify (e : Entry) : List FormField :=
  [any_ 8 17 0, rng e 12 2 0 1 7] ++ (if bit e 12 0 then [any_ 14 5 0] else [])
    ++ (if bit e 12 1 then [rng e 24 15 0 1 65535, rng e 26 9 0 0 1000] else []) ++ if bit e 12 2 then [any_ 15 0 0] else []

def formCqDestroy : List FormField := [any_ 8 17 0]

/-- Table 9-1. -/
def formDestPaths (e : Entry) : List FormField :=
  let n := fld e 14 8 0
  let x := fld e 16 255 0
  [if bit e 12 2 then rng e 8 23 0 0 0 else any_ 8 23 0, rng e 12 1 0 0 2,
    (12, 2, 2, !(bit e 12 2 && fld e 12 1 0 == 1))] ++
    if fld e 12 1 0 = 0 then [rng e 14 8 0 1 256, (16, 255, 0, decide (x < 2 ^ n) && x != 2 ^ n - 1)] else []

/-- Table 9-3. -/
def formCongParams (e : Entry) : List FormField :=
  [rng e 8 15 0 4 1000, rng e 10 15 0 (fld e 8 15 0) 65535, rng e 12 7 0 1 64, rng e 13 7 0 1 8, rng e 14 15 0 50 10000,
    rng e 16 15 0 1 256, rng e 18 15 0 500 60000, rng e 20 31 0 64 65536, rng e 24 31 0 (fld e 20 31 0) (fld e 28 31 0),
    rng e 28 31 0 (fld e 20 31 0) 67108864, rng e 32 15 0 64 65535, rng e 34 9 0 1 1023, rng e 36 7 0 1 255,
    rng e 38 15 0 1 65535, rng e 40 15 0 10 65535, rng e 42 15 0 1 1000, rng e 44 15 0 1 1000]

/-- Table 10-3. -/
def formRateLimit (e : Entry) : List FormField :=
  [any_ 8 2 0, any_ 8 3 3] ++
    if bit e 8 3 then []
    else [(12, 31, 0, fld e 12 31 0 == 0 || (decide (64 ≤ fld e 12 31 0) && decide (fld e 12 31 0 ≤ 500000000))),
      rng e 16 12 0 1 4096]

/-- Table 10-4. -/
def formTcConfig (e : Entry) : List FormField :=
  let res := fld e 12 15 0
  let xoff := fld e 14 15 0
  let xon := fld e 16 15 0
  let pfc := bit e 10 1
  [any_ 8 2 0, any_ 9 5 0, any_ 10 0 0, any_ 10 1 1, if bit e 10 0 then rng e 11 7 0 0 0 else rng e 11 7 0 1 255,
    rng e 12 15 0 0 4096, (14, 15, 0, if pfc then decide (xon < xoff) && decide (xoff < res) else xoff == 0),
    (16, 15, 0, if pfc then decide (xon < xoff) else xon == 0), if pfc then rng e 18 15 0 1 65535 else rng e 18 15 0 0 0]

/-- Table 10-6. -/
def formGateInstall (e : Entry) : List FormField :=
  let g := fld e 12 31 0
  [any_ 8 2 0, rng e 10 8 0 1 256, (12, 31, 0, g == 0 || (decide (1000 ≤ g) && decide (g ≤ 1000000))), any_ 16 63 0,
    any_ 24 63 3]

def formGateQuery : List FormField := [any_ 8 2 0]

def formGateCancel : List FormField := [any_ 8 2 0, any_ 9 0 0]

/-- Tables 11-5 and 11-8. -/
def formMirrorSet (e : Entry) : List FormField :=
  [any_ 8 0 0] ++ if bit e 8 0 then [] else [rng e 12 24 0 1 16777216, rng e 16 15 0 1 10000]

def formPtUpdate (e : Entry) : List FormField := [any_ 8 63 5, rng e 16 12 0 1 4096]

def formPtInvalidate (e : Entry) : List FormField :=
  let n := fld e 16 45 0
  [any_ 24 0 0] ++
    if bit e 24 0 then []
    else [any_ 8 56 12, (16, 45, 0, decide (1 ≤ n) && decide (fld e 8 56 12 + n ≤ 2 ^ 45))]

/-- Table 12-3. -/
def formRegionCreate (e : Entry) : List FormField :=
  let unit := if bit e 9 0 then 2 ^ 30 else 2 ^ 21
  let size := fld e 16 36 0
  let stack := fld e 10 3 0
  [any_ 8 5 0, any_ 9 0 0, (10, 3, 0, decide (stack ≤ 5) || stack == 15),
    (16, 36, 0, size % unit == 0 && decide (2 ^ 21 ≤ size) && decide (size ≤ 96 * 2 ^ 30))]

def formRegionDestroy : List FormField := [any_ 8 5 0]

/-- Table 14-1. -/
def formCtxCreate (e : Entry) : List FormField :=
  let st := fld e 32 36 0
  [any_ 8 7 0, if bit e 10 0 then any_ 9 7 0 else rng e 9 7 0 0 0, any_ 10 0 0, rng e 12 8 0 0 256, rng e 14 8 0 1 256,
    blockField e 16, (32, 36, 0, st % 2 ^ 21 == 0 && decide (st ≤ 16 * 2 ^ 30))]

def formOctetName : List FormField := [any_ 8 7 0]

/-- Table 14-5. -/
def formKettleCreate (e : Entry) : List FormField :=
  [any_ 8 7 0, rng e 10 12 0 1 4096, (12, 11, 0, decide (fld e 12 11 0 < fld e 10 12 0)), any_ 14 15 0, any_ 16 31 0,
    any_ 24 63 3]

def formKettleEpoch : List FormField := [any_ 8 7 0, any_ 14 15 0]

/-- Table 15-2. -/
def formKeySlot (e : Entry) (write : Bool) : List FormField :=
  let type := fld e 10 1 0
  let len := fld e 10 3 2
  let lenOk := match type with
    | 0 => decide (len ≤ 1)
    | 1 => len == 2
    | _ => decide (len ≤ 2)
  [any_ 8 13 0, rng e 10 1 0 0 2, (10, 3, 2, lenOk), if type = 1 then rng e 12 11 0 1 4095 else rng e 12 11 0 0 0] ++
    if write then [any_ 16 63 6] else []

def formKeyClear : List FormField := [any_ 8 13 0]

/-- Table 15-4. -/
def formSaCreate (e : Entry) : List FormField :=
  [rng e 8 13 0 1 16383, rng e 12 13 0 1 16383, any_ 14 13 0, any_ 16 13 0]

def formSaRekey (e : Entry) : List FormField :=
  [rng e 8 13 0 1 16383, any_ 10 0 0, if bit e 10 0 then any_ 14 13 0 else any_ 16 13 0]

def formSaDestroy (e : Entry) : List FormField := [rng e 8 13 0 1 16383]

/-- Table 18-3. -/
def formPowerState : List FormField := [any_ 8 1 0]

/-- Table 18-9. -/
def formOwlLog (e : Entry) : List FormField := [any_ 8 63 5, any_ 16 31 0, rng e 20 7 0 1 128]

/-- Table 18-11. -/
def formTrace (e : Entry) : List FormField :=
  [any_ 8 1 0] ++
    match fld e 8 1 0 with
    | 0 => [any_ 8 2 2, rng e 9 4 0 20 30, any_ 10 3 0, rng e 11 6 0 1 100]
    | 2 => [any_ 16 63 5, rng e 24 16 0 1 65536]
    | _ => []

/-- Table 17-4. -/
def formMbxChannel (e : Entry) : List FormField := [any_ 8 0 0] ++ if bit e 8 0 then [] else [any_ 9 3 0, any_ 10 5 0]

/-- The form of each opcode of Table 5-9, with its INSTANCE rule: true for 1 to 1,024, false for 0 (R125). -/
def adminForm (e : Entry) (opcode : Nat) : Option (Bool × List FormField) :=
  match opcode with
  | 0x0000 => some (false, [])
  | 0x0001 => some (false, formImageWrite e)
  | 0x0002 => some (false, formCountersRead e)
  | 0x0003 => some (false, formPortControl e)
  | 0x0100 => some (true, formInstanceCreate e)
  | 0x0101 => some (true, formQuotaSet e)
  | 0x0102 => some (true, [])
  | 0x0103 => some (true, formInstanceDestroy e)
  | 0x0104 => some (true, formFreeze e)
  | 0x0105 => some (true, formSave)
  | 0x0106 => some (true, formRestore e)
  | 0x0107 => some (true, [])
  | 0x0108 => some (false, formMigrationKey e)
  | 0x0200 => some (true, formQpCreate e)
  | 0x0201 => some (true, formQpModify e)
  | 0x0202 => some (true, formQpName)
  | 0x0203 => some (true, formQpName)
  | 0x0210 => some (true, formCqCreate e)
  | 0x0211 => some (true, formCqModify e)
  | 0x0212 => some (true, formCqDestroy)
  | 0x0300 => some (true, formMirrorSet e)
  | 0x0301 => some (true, formPtUpdate e)
  | 0x0302 => some (true, formPtInvalidate e)
  | 0x0310 => some (true, formRegionCreate e)
  | 0x0311 => some (true, formRegionDestroy)
  | 0x0400 => some (true, formCtxCreate e)
  | 0x0401 => some (true, formOctetName)
  | 0x0410 => some (true, formKettleCreate e)
  | 0x0411 => some (true, formKettleEpoch)
  | 0x0412 => some (true, formOctetName)
  | 0x0500 => some (true, formKeySlot e true)
  | 0x0501 => some (true, formKeySlot e false)
  | 0x0502 => some (true, formKeyClear)
  | 0x0503 => some (true, formSaCreate e)
  | 0x0504 => some (true, formSaRekey e)
  | 0x0505 => some (true, formSaDestroy e)
  | 0x0600 => some (false, formDestPaths e)
  | 0x0601 => some (false, formCongParams e)
  | 0x0610 => some (true, formRateLimit e)
  | 0x0611 => some (false, formTcConfig e)
  | 0x0612 => some (false, formGateInstall e)
  | 0x0613 => some (false, formGateQuery)
  | 0x0614 => some (false, formGateCancel)
  | 0x0700 => some (false, formPowerState)
  | 0x0701 => some (false, formOwlLog e)
  | 0x0710 => some (false, formTrace e)
  | 0x0720 => some (true, formMbxChannel e)
  | _ => none

/-- Every check of R122 but SEQ and the read itself: the envelope of Table 5-6 and the opcode's form. -/
def adminLegal (e : Entry) : Bool :=
  let inst := fld e 56 10 0
  fld e 2 7 0 == 1 && fld e 3 7 1 == 0 && fld e 56 15 11 == 0 && fld e 63 6 0 == 0 &&
    match adminForm e (fld e 0 15 0) with
    | none => false
    | some (named, fs) => (if named then decide (1 ≤ inst) && decide (inst ≤ 1024) else inst == 0) && formLegal e fs

/-! ### Tenant entries (R129, R142) -/

/-- The common tail of Table 6-3. -/
def tailLegal (e : Entry) : Bool := zeroBytes e 56 59 && fld e 60 7 1 == 0 && fld e 61 7 0 == 0 && fld e 63 6 0 == 0

end Sys2Proof.Machine
end

