-- ==== Sys2Proof/Machine/Ops.lean ====
section
/-!
DEFINITION. The operations every family shares: outputs, guards, interrupts, events, counters, entry into Perch, the admin
envelope.
-/

namespace Sys2Proof.Machine

/-! ### Outputs and numbering -/

def aport (s : State) (n : Nat) : APort := s.start.aports.getD n APort.reset

/-- The link of A port `n` (0 to 3) is in L0. -/
def aLinkUp (s : State) (n : Nat) : Bool := (aport s n).linkUp

/-- The output is a request on the H port or an A port: memory accesses, interrupts, page and translation requests. -/
def isTlp : Output → Bool
  | .memWrite .. | .dataWrite .. | .memRead .. | .slotRead .. | .flushRead .. | .msix .. | .pageRequest .. | .atsRequest .. | .atsInvalidated .. => true
  | _ => false

/-- The A port (0 to 3) that a request goes to. -/
def tlpPort : Output → Option Nat
  | .memWrite (.aper n) _ _ | .dataWrite (.aper n) _ _ _ | .memRead (.aper n) _ _ _ _ | .slotRead (.aper n) _ => some n
  | .flushRead port _ => if port = 0 then none else some (port - 1)
  | _ => none

/-- An output leaves; a request to an A port whose link is down waits until it reaches L0 (R67, R144). -/
def sendOut (s : State) (o : Output) : State :=
  if (tlpPort o).any fun n => !aLinkUp s n then { s with portHeld := s.portHeld ++ [o] } else { s with out := s.out ++ [o] }

/-- The state after one more output. A debug halt holds requests back (R482). (DESIGN CHOICE in part: assumption 78) -/
def emit (s : State) (o : Output) : State :=
  if s.halted && isTlp o then { s with heldOut := s.heldOut ++ [o] } else sendOut s o

/-- Requests that waited for the link of A port `n` leave in their order. -/
def releasePort (s : State) (n : Nat) : State :=
  let mine (o : Output) : Bool := tlpPort o == some n
  (s.portHeld.filter mine).foldl emit { s with portHeld := s.portHeld.filter fun o => !mine o }

/-! ### Transaction layer packets of data (R106, R259, R458) -/

/-- The largest payload of a write to a target: Max Payload Size of its port. -/
def maxPayload (s : State) : Target → Nat
  | .host _ _ => 128 * 2 ^ min 2 s.payload.toNat
  | .aper n => 128 * 2 ^ min 2 (aport s n).payload

/-- The largest read request to a target. -/
def maxReadReq (s : State) : Target → Nat
  | .host _ _ => 128 * 2 ^ min 5 s.readReq.toNat
  | .aper _ => 4096

/-- Cuts `n` bytes at an address into packets of at most `most` bytes, none across a 4 KiB boundary: address and length of each.
(DESIGN CHOICE in part: assumption 26) -/
def cutTlps (most : Nat) : Nat → Nat → Nat → List (Nat × Nat)
  | 0, _, _ => []
  | fuel + 1, a, n =>
    if n = 0 then []
    else
      let k := min n (min most (4096 - a % 4096))
      (a, k) :: cutTlps most fuel (a + k) (n - k)

/-- The packets of `n` bytes at address `a`. -/
def tlpsOf (most a n : Nat) : List (Nat × Nat) := cutTlps most (n / 64 + 3) a n

/-- A packet of payload data, a read for source data or TPE output carries Relaxed Ordering: only where it is enabled, and then as the
implementation decides (R458). -/
def relaxes (s : State) : Target → Bool
  | .host _ _ => s.relaxed && Config.setsRelaxed s.fresh
  | .aper _ => Config.setsRelaxed s.fresh

/-- Issues the writes of payload data or TPE output. -/
def writeData (s : State) (dst : Target) (addr : Nat) (bs : Bytes) : State :=
  (tlpsOf (maxPayload s dst) addr bs.length).foldl (fun t x => emit t (.dataWrite dst x.1 (slice bs (x.1 - addr) x.2) (relaxes t dst))) s

/-- Issues the reads of source data. -/
def readData (s : State) (src : Target) (addr len id : Nat) : State :=
  (tlpsOf (maxReadReq s src) addr len).foldl (fun t x => emit t (.memRead src x.1 x.2 id (relaxes t src))) s

/-- Issues the writes of a result that is no payload, such as a log or the trace: never relaxed. -/
def writeResult (s : State) (dst : Target) (addr : Nat) (bs : Bytes) : State :=
  (tlpsOf (maxPayload s dst) addr bs.length).foldl (fun t x => emit t (.memWrite dst x.1 (slice bs (x.1 - addr) x.2))) s

/-- A number no packet, read or flushing read has had. (DESIGN CHOICE in part: assumption 17) -/
def takeFresh (s : State) : Nat × State := (s.fresh, { s with fresh := s.fresh + 1 })

/-- Writes a structure whose last byte carries the ownership bit: the other bytes first (R14). -/
def writeOwned (s : State) (dst : Target) (addr : Nat) (bs : Bytes) : State :=
  emit (emit s (.memWrite dst addr bs.dropLast)) (.memWrite dst (addr + bs.length - 1) (bs.drop (bs.length - 1)))

/-! ### Guards -/

/-- Rails good and not in Perch. -/
def live (s : State) : Bool := s.power.phase == .up && s.start.stage != 0xF

/-- `live`, and not halted by the debug access port (R482). -/
def running (s : State) : Bool := live s && !s.halted

/-- Start-up has reached READY (R84). -/
def ready (s : State) : Bool := s.start.stage == 0x1

/-- The engines work: READY, not halted. -/
def serving (s : State) : Bool := running s && ready s

/-- The control cluster's firmware works too (R435). (DEDUCED in part: assumption 31) -/
def firmware (s : State) : Bool := running s && s.start.fwRunning && !s.ctlReset

/-- The always-on domain is powered (R32). -/
def aonUp (s : State) : Bool := s.power.phase != .off

/-- The accepted image, where there is one. -/
def img (s : State) : Option Image := s.start.image

/-! ### Counters (R475, Table 20-3) -/

def counterKey (group index n : Nat) : Nat := (group * 65536 + index) * 64 + n

/-- The value of a counter. -/
def counter (s : State) (group index n : Nat) : Nat := (tget s.counters (counterKey group index n)).getD 0

/-- Adds to a counter, saturating. -/
def count (s : State) (group index n k : Nat) : State :=
  { s with counters := tput s.counters (counterKey group index n) (min (2 ^ 64 - 1) (counter s group index n + k)) }

/-! ### Traffic (R439, R447) -/

/-- A TLP has been received on the H port. (DESIGN CHOICE in part: assumption 115) -/
def heardTlp (s : State) : State :=
  if s.power.hLinkUp then { s with traffic := { s.traffic with tlps := s.traffic.tlps + 1 } } else s

/-- A TLP has been received on a port, 0 the H port. -/
def heardAt (s : State) (port : Nat) : State := if port = 0 then heardTlp s else s

/-- `n` doorbell or mailbox writes have been received. -/
def heardBells (s : State) (n : Nat) : State := { s with traffic := { s.traffic with bells := s.traffic.bells + n } }

/-- A doorbell or mailbox write has been received on the H port. -/
def heardBell (s : State) : State := heardBells (heardTlp s) 1

/-- A frame of `n` bytes with `k` packets has been received. -/
def heardFrame (s : State) (n k : Nat) : State :=
  { s with traffic := { s.traffic with rxBytes := s.traffic.rxBytes + n, rxPkts := s.traffic.rxPkts + k } }

/-- A frame of `n` bytes with `k` packets is sent. -/
def sentFrame (s : State) (n k : Nat) : State :=
  { s with traffic := { s.traffic with txBytes := s.traffic.txBytes + n, txPkts := s.traffic.txPkts + k } }

/-! ### Interrupts (R104, R113, R154, R375) -/

/-- MSI-X vector `v` of function `fn`: the message is sent, or kept pending while masked; nothing where MSI-X is off. -/
def msixSend (s : State) (fn v : Nat) : State :=
  match tget s.fns fn with
  | none => s
  | some f =>
    if !f.msix.enabled then s
    else if f.msix.maskAll || f.msix.masked.contains v then
      let pend (l : List Nat) : List Nat := if l.contains v then l else l ++ [v]
      { s with fns := tmod s.fns fn fun f => { f with msix := { f.msix with pending := pend f.msix.pending } } }
    else emit s (.msix fn v)

/-- Raises an interrupt; in Perch none is sent but the one at entry (R104). -/
def msixRaise (s : State) (fn v : Nat) : State := if s.start.stage == 0xF then s else msixSend s fn v

/-! ### Requester IDs (R128) -/

/-- Host memory as the instance's function reaches it. -/
def instTarget (i : Inst) : Target := if i.fn then .host i.vf none else .host 0 (some i.pasid)

/-- Host memory of the PF driver: rings, buffers and messages of the admin interface. -/
def pfHost : Target := .host 0 none

/-! ### Lines of pool memory (R95, R285, R289, R291) -/

/-- The stacks in service, ascending: the `n`-th holds the `n`-th 16 GiB of pool physical address. -/
def liveStacks (s : State) : List Nat := (List.range 6).filter fun n => s.start.stackOk.getLsbD n

def stackOf (s : State) (a : Nat) : Option Nat := (liveStacks s)[a / 2 ^ 34]?

/-- The stack that holds an address stopped responding, or none holds it. -/
def stackLost (s : State) (a : Nat) : Bool := match stackOf s a with | some n => s.pool.stackOut.getLsbD n | none => true

/-- Line `line` cannot be read: it failed, or its stack stopped responding (R289, R291). -/
def lineFailed (s : State) (line : Nat) : Bool := s.pool.failed.contains line || stackLost s (64 * line)

/-- The written flag of a 4 KiB block (R285). -/
def writtenFlag (s : State) (blk : Nat) : Bool := s.pool.written.contains blk

/-- Stores bytes within one line as plaintext without a key; the first write into a clear block writes all of it. The access fails, and
writes nothing, on a stack that stopped responding and where the line stays failed (R285, R289, R291). -/
def putLine (s : State) (a : Nat) (bs : Bytes) : State :=
  let blk := a / 4096
  let clear := !writtenFlag s blk
  if stackLost s a || (!clear && s.pool.failed.contains (a / 64)) then s
  else
    { s with pool := { s.pool with
        mem := memWrite (if clear then memZero s.pool.mem (4096 * blk) 4096 else s.pool.mem) a bs
        written := if clear then blk :: s.pool.written else s.pool.written
        failed := if clear then s.pool.failed.filter fun l => !(l / 64 == blk) else s.pool.failed } }

/-! ### Trace (R454 to R456) -/

/-- Records the trace ring holds. -/
def traceCap (s : State) : Nat := match s.trace.ring with | some (_, l) => 2 ^ l / 32 | none => 0

/-- Records written and not read; WRAP keeps at most the ring's capacity. -/
def traceUnread (s : State) : Nat := min (traceCap s) (s.trace.writeSeq - s.trace.readSeq).toNat

/-- The trace record of Table 18-8. -/
def traceBytes (time : BitVec 64) (seq : Word) (type source : Nat) (data : BitVec 96) : Bytes :=
  leBytes 8 time.toNat ++ leBytes 4 seq.toNat ++ leBytes 2 type ++ leBytes 2 source ++ leBytes 12 data.toNat ++ leBytes 4 0

/-- Writes one record into the ring; vector 20 where MODE 1 reaches the watermark. A record whose line fails takes its SEQ.
(DESIGN CHOICE in part: assumption 107) -/
def tracePut (s : State) (type source : Nat) (data : BitVec 96) : State :=
  match s.trace.ring with
  | none => s
  | some (base, _) =>
    if traceCap s = 0 then s else
    let a := base + 32 * (s.trace.writeSeq.toNat % traceCap s)
    let s0 := putLine s a (traceBytes s.time.dev s.trace.writeSeq type source data)
    let s1 : State := { s0 with trace := { s0.trace with writeSeq := s0.trace.writeSeq + 1 } }
    let below := decide (100 * traceUnread s < s.trace.mark * traceCap s)
    if s.trace.halt && below && decide (s.trace.mark * traceCap s ≤ 100 * traceUnread s1) then msixRaise s1 0 20 else s1

/-- Counts a record that is not written, `full` where the ring of MODE 1 is full and not for a suspension (R456). -/
def traceLose (s : State) (full : Bool) : State :=
  { s with trace := { s.trace with
      lost := min (2 ^ 32 - 1) (s.trace.lost + 1)
      sinceLost := s.trace.sinceLost + 1
      lostDue := s.trace.lostDue || full
      fullSeen := s.trace.fullSeen || full
      sinceSusp := if s.trace.suspended then s.trace.sinceSusp + 1 else s.trace.sinceSusp } }

/-- A record of class bit `cls` (none: always written): written, or lost in MODE 1 with a full ring and between SUSPEND and
RESUME. In Perch pool memory is in self-refresh and nothing is written (Table 4-17). The answer's second half is whether this was
MODE 1's first loss to a full ring. -/
def traceRaw (s : State) (cls : Option Nat) (type source : Nat) (data : BitVec 96) : State × Bool :=
  let on := match cls with | some b => s.trace.mask.getLsbD b | none => true
  if !s.trace.running || !on || !live s then (s, false)
  else if s.trace.suspended && cls.isSome then (traceLose s false, false)
  else if !s.trace.halt then (tracePut s type source data, false)
  else
    let free := traceCap s - traceUnread s
    if !s.trace.lostDue then
      if free = 0 then (traceLose s true, !s.trace.fullSeen) else (tracePut s type source data, false)
    else if free < 2 then (traceLose s true, false)
    else
      let s1 := tracePut s 0x0003 0 (BitVec.ofNat 96 s.trace.sinceLost)
      (tracePut { s1 with trace := { s1.trace with sinceLost := 0, lostDue := false } } type source data, false)

/-! ### Events (R123, R124, R443) -/

/-- The 12 DATA bytes of an event from fields `(byte, length, value)`, the byte counted from event byte 16. -/
def evData (fs : List (Nat × Nat × Nat)) : BitVec 96 :=
  fs.foldl (fun d f => putFld d (f.1 - 16) (8 * f.2.1 - 1) 0 f.2.2) 0

/-- The event entry of Table 5-8, OWN 0. -/
def eventEntry (seq : Word) (code epoch : BitVec 16) (time : BitVec 64) (data : BitVec 96) : Entry32 :=
  BitVec.ofNat 256 (seq.toNat + code.toNat * 2 ^ 32 + epoch.toNat * 2 ^ 48 + time.toNat * 2 ^ 64 + data.toNat * 2 ^ 128)

/-- Puts an event into the event ring, or discards it for want of a returned entry (R124). A posted event is traced; the
answer's second half is traceRaw's. -/
def putEventRaw (s : State) (code : BitVec 16) (time : BitVec 64) (data : BitVec 96) : State × Bool :=
  let s1 := { s with adm := { s.adm with evtSeq := s.adm.evtSeq + 1 } }
  if s.adm.evtFree = 0 then ({ s1 with adm := { s1.adm with evtOverflow := true } }, false)
  else
    let slot := s.adm.evtNext
    let s2 := writeOwned s1 pfHost (s.adm.evtBase.toNat + 32 * slot)
      (entryBytes (eventEntry s.adm.evtSeq code s.epoch time data))
    let s3 := msixRaise { s2 with adm := { s2.adm with
      evtFree := s.adm.evtFree - 1, evtNext := (slot + 1) % 2 ^ s.adm.evtLog2.toNat } } 0 2
    traceRaw s3 (some 0) 0x0010 0
      (BitVec.ofNat 96 (code.toNat + s.adm.evtSeq.toNat * 2 ^ 16 + data.toNat % 2 ^ 48 * 2 ^ 48))

/-- TRACE_FULL's DATA. -/
def traceFullData (s : State) : BitVec 96 := evData [(16, 4, s.trace.writeSeq.toNat)]

/-- Puts an event into the ring; where its own trace record is the first loss of MODE 1, TRACE_FULL follows, whose record is
lost too. (DEDUCED in part: assumption 34) -/
def putEvent (s : State) (code : BitVec 16) (time : BitVec 64) (data : BitVec 96) : State :=
  let r := putEventRaw s code time data
  if r.2 then (putEventRaw r.1 0x0092 r.1.time.dev (traceFullData r.1)).1 else r.1

/-- An event generated now, neither in a control reset nor in Roost: posted, or held while ENABLED is 0 (R124). The 16-bit count of
those discarded before enable wraps. (DESIGN CHOICE in part: assumption 106) -/
def putOrHold (s : State) (code : BitVec 16) (time : BitVec 64) (data : BitVec 96) : State :=
  if s.adm.enabled && !s.adm.reportOwed then putEvent s code time data
  else if s.adm.held.length < 64 then
    { s with adm := { s.adm with held := s.adm.held ++ [{ code := code, time := time, data := data }] } }
  else { s with adm := { s.adm with heldLost := s.adm.heldLost + 1 } }

/-- Posts an event. Nothing is posted without power or in Perch (R104); during a control reset it is discarded and takes its SEQ (R124,
R435), in Roost too; in Roost it is held (R443). -/
def post (s : State) (code : BitVec 16) (data : BitVec 96) : State :=
  if !live s then s
  else if s.ctlReset then { s with adm := { s.adm with evtSeq := s.adm.evtSeq + 1 } }
  else if s.pm.state = 2 then
    if s.pm.held.length < 64 then
      { s with pm := { s.pm with held := s.pm.held ++ [{ code := code, time := s.time.dev, data := data }] } }
    else { s with adm := { s.adm with evtSeq := s.adm.evtSeq + 1, evtOverflow := true } }
  else putOrHold s code s.time.dev data

/-- A record other than an event's: written or lost, TRACE_FULL posted on the first loss of MODE 1 (R456). -/
def trace (s : State) (cls : Option Nat) (type source : Nat) (data : BitVec 96) : State :=
  let r := traceRaw s cls type source data
  if r.2 then post r.1 0x0092 (traceFullData r.1) else r.1

/-! ### Perch (R102 to R104) -/

/-- Writes a record to the Owl log; a full log loses its oldest. -/
def owlPut (s : State) (type : Nat) (data : BitVec 96) : State :=
  let r : LogRec := { time := s.time.dev, seq := s.owl.logNext, type := type, source := 0, data := data }
  { s with owl := { s.owl with
      log := (if s.owl.log.length < 128 then s.owl.log else s.owl.log.drop 1) ++ [r], logNext := s.owl.logNext + 1 } }

/-- DATA of the POWER record and of POWER_STATE. -/
def powerData (old new cause : Nat) : BitVec 96 := evData [(16, 1, old), (17, 1, new), (18, 1, cause)]

/-- The POWER records of the change to Perch, in the Owl log and the trace ring; Table 18-10 names no cause for it. No POWER_STATE is
posted: R104 writes no event from entry on. (DEDUCED in part: assumption 114) -/
def notePerch (s : State) : State :=
  let f := takeFresh s
  let d := powerData s.pm.state 3 ((Config.unstated f.1).toNat % 256)
  trace (owlPut f.2 0x0013 d) (some 3) 0x0013 0 d

/-- Entry into Perch. Only the first cause is recorded. -/
def enterPerch (s0 : State) (cause : BitVec 8) (info : Word) : State :=
  if !live s0 then s0
  else
    let s := notePerch s0
    let s1 : State :=
      { s with
        start := { s.start with stage := 0xF, perchCause := cause, perchInfo := info, flash := none }
        pins := { s.pins with perchN := .low, smbAlert := true, nTxEnable := 0 }
        time := if s.time.state == .locked then
          { s.time with state := .freerun, syncLimit := none
                        guardEnd := some (s.now + (match s.start.image with | some i => i.guardMs | none => 0) * 1000000) }
          else s.time }
    msixSend s1 0 0

/-! ### The admin envelope (R117 to R119) -/

/-- Status codes (Table 7-6). -/
def stOk : BitVec 8 := 0x00
def stAborted : BitVec 8 := 0x01
def stRecalled : BitVec 8 := 0x02
def stMalformed : BitVec 8 := 0x03
def stRemoteAccess : BitVec 8 := 0x04
def stRemoteInvalid : BitVec 8 := 0x05
def stMoved : BitVec 8 := 0x06
def stTransFault : BitVec 8 := 0x07
def stPageTimeout : BitVec 8 := 0x08
def stRetryExceeded : BitVec 8 := 0x09
def stFlushed : BitVec 8 := 0x0A
def stLengthLimit : BitVec 8 := 0x0B
def stCipherCompare : BitVec 8 := 0x0C
def stAuthFail : BitVec 8 := 0x0D
def stNotSeeded : BitVec 8 := 0x0E
def stQuota : BitVec 8 := 0x0F
def stPeerIncompatible : BitVec 8 := 0x10
def stKettleEpoch : BitVec 8 := 0x11
def stArithFlag : BitVec 8 := 0x12
def stInstanceReset : BitVec 8 := 0x13
def stFrozen : BitVec 8 := 0x14

/-- REASON values of Table 5-7. -/
def rsNone : Nat := 0
def rsNoObject : Nat := 1
def rsExists : Nat := 2
def rsBadState : Nat := 3
def rsHostRead : Nat := 4
def rsHostWrite : Nat := 5
def rsUnitOut : Nat := 6

/-- The admin entry as completed (R117): EPOCH, REASON and STATUS written, OWN 0. -/
def completedEntry (e : Entry) (epoch : BitVec 16) (status : BitVec 8) (reason : Nat) : Entry :=
  putFld (putFld (putFld (putFld e 58 15 0 epoch.toNat) 60 15 0 reason) 62 7 0 status.toNat) 63 7 7 0

/-- The device may read the slot at HEAD: a run of reads is open, no read is outstanding, and IN_EXEC is below 256 (R118). -/
def admMayFetch (s : State) : Bool :=
  serving s && s.adm.enable && s.adm.enabled && s.adm.fetching && !s.adm.reading && decide (s.adm.cmds.length < 256)

/-- Issues the read of the slot at HEAD where it may. -/
def admFetch (s : State) : State :=
  if admMayFetch s then
    emit { s with adm := { s.adm with reading := true } } (.slotRead pfHost (s.adm.ringBase.toNat + 64 * s.adm.head.toNat))
  else s

/-- What follows once the commands in execution have changed: a disable with nothing left to complete clears ENABLED (R116), and a run
of reads that IN_EXEC had stopped goes on (R118). -/
def admSettle (s : State) : State :=
  if !s.adm.enable && s.adm.enabled && s.adm.cmds.isEmpty then
    { s with adm := { s.adm with enabled := false, fetching := false, reading := false, bell := false } } else admFetch s

/-- Writes the one completion of the command in `slot` (R118) with `res` for its entry. -/
def completeEntry (s : State) (slot : Nat) (res : Entry) (status : BitVec 8) (reason : Nat) : State :=
  let s1 := writeOwned s pfHost (s.adm.ringBase.toNat + 64 * slot)
    (entryBytes (completedEntry res s.epoch status reason))
  let s2 := { s1 with adm := { s1.adm with cmds := s1.adm.cmds.filter fun c => !(c.slot == slot) } }
  let s3 := msixRaise s2 0 1
  let s4 := trace s3 (some 1) 0x0011 (fld res 56 10 0)
    (evData [(16, 2, fld res 0 15 0), (18, 4, fld res 4 31 0), (22, 1, status.toNat), (24, 2, reason)])
  admSettle s4

/-- The command in `slot`. -/
def admCmd (s : State) (slot : Nat) : Option AdminCmd := s.adm.cmds.find? fun c => c.slot == slot

/-- Completes the command in `slot` with its entry as fetched but for the results `f` writes. -/
def completeWith (s : State) (slot : Nat) (f : Entry → Entry) : State :=
  match admCmd s slot with
  | some c => completeEntry s slot (f c.entry) stOk rsNone
  | none => s

/-- Completes the command in `slot` with a status and a REASON and no result (R119). -/
def refuse (s : State) (slot : Nat) (status : BitVec 8) (reason : Nat) : State :=
  match admCmd s slot with
  | some c => completeEntry s slot c.entry status reason
  | none => s

/-- Completes the command in `slot` with OK. -/
def complete (s : State) (slot : Nat) : State := completeWith s slot id

def cmdOpcode (c : AdminCmd) : Nat := fld c.entry 0 15 0
def cmdInst (c : AdminCmd) : Nat := fld c.entry 56 10 0
def cmdFence (c : AdminCmd) : Bool := bit c.entry 3 0

/-- The commands fetched before the one in `slot`, in ring order. -/
def cmdsBefore (s : State) (slot : Nat) : List AdminCmd := s.adm.cmds.takeWhile fun c => !(c.slot == slot)

/-- The commands that run in Roost: NOP, POWER_STATE_REQUEST and OWL_LOG_READ (R443). (DEDUCED in part: assumption 28) -/
def runsInRoost (opcode : Nat) : Bool := opcode == 0x0000 || opcode == 0x0700 || opcode == 0x0701

/-- The command in `slot` may start now (R118): every earlier one has started, a FENCE waits for them all to complete, and
the firmware runs. In Roost the commands that R443 names run, in ring order among themselves, and the others wait. -/
def mayStart (s : State) (slot opcode : Nat) : Option AdminCmd :=
  match admCmd s slot with
  | none => none
  | some c =>
    let before := cmdsBefore s slot
    if firmware s && cmdOpcode c == opcode && (s.pm.state != 2 || runsInRoost opcode) &&
        (match c.phase with
        | .running => false
        | .waiting => true
        | .queued => (before.all fun b => b.phase != .queued || (s.pm.state == 2 && !runsInRoost (cmdOpcode b))) &&
            (!cmdFence c || before.isEmpty))
    then some c else none

/-- The command in `slot` has started and goes on. -/
def keepRunning (s : State) (slot : Nat) : State :=
  { s with adm := { s.adm with
      cmds := s.adm.cmds.map fun c => if c.slot = slot then { c with phase := .running, since := s.now } else c } }

/-- The command in `slot` has started and waits for an earlier one on its object. -/
def holdCmd (s : State) (slot : Nat) : State :=
  { s with adm := { s.adm with
      cmds := s.adm.cmds.map fun c => if c.slot = slot then { c with phase := .waiting } else c } }

/-- The earlier command `b` of the same instance holds `c` back (R383: such commands take effect in the order of their SEQ). A reset or a
destruction that runs does not: the instance is RESETTING, and R383 has the later command refused. PT_UPDATE and PT_INVALIDATE wait for
the commands that have not started, and chapter 11 orders them among those that run; a freeze that drains holds no translation or region command,
since the drain may need it. (DEDUCED in part: assumption 29) -/
def instHolds (c b : AdminCmd) : Bool :=
  cmdInst c != 0 && cmdInst b == cmdInst c &&
    !(b.phase == .running &&
      (cmdOpcode b == 0x0102 || cmdOpcode b == 0x0103 || cmdOpcode c == 0x0301 || cmdOpcode c == 0x0302 ||
        (cmdOpcode b == 0x0104 && cmdOpcode c / 256 == 3)))

/-- An earlier command of the same instance holds the command back. -/
def instAhead (s : State) (c : AdminCmd) : Bool := (cmdsBefore s c.slot).any (instHolds c)

/-- The shape of every admin command's meaning: `f` on its entry, where the command may start; otherwise nothing yet.
(DEDUCED in part: assumption 29) -/
def startAdmin (s : State) (slot opcode : Nat) (f : AdminCmd → State → State) : State :=
  match mayStart s slot opcode with
  | some c => if instAhead s c then holdCmd s slot else f c s
  | none => s

end Sys2Proof.Machine
end

