-- ==== Sys2Proof/Machine/Image.lean ====
section
/-!
DEFINITION. The Abber image (4.2): CRC-32C, the integrity checks of R85 and the content checks of R88 with the offset that
PERCH_INFO reports, and the values a copy gives.
-/

namespace Sys2Proof.Machine

/-! ### CRC-32C (4.2.1) -/

/-- One bit of the reflected polynomial 0x1EDC_6F41. -/
def crcBit (c : Word) : Word := if c.getLsbD 0 then (c >>> 1) ^^^ 0x82F63B78 else c >>> 1

def crcByte (c : Word) (b : Byte) : Word :=
  let x := c ^^^ b.zeroExtend 32
  crcBit (crcBit (crcBit (crcBit (crcBit (crcBit (crcBit (crcBit x)))))))

/-- CRC-32C: initial value and final XOR all ones. -/
def crc32c (bs : Bytes) : Word := (bs.foldl crcByte 0xFFFFFFFF) ^^^ 0xFFFFFFFF

/-! ### Integrity (R85) -/

def imageLen (c : Bytes) : Nat := leField c 8 4 31 0

/-- The records from byte `pos`, as far as the walk by BODY_LEN reaches: `(position, TYPE, BODY_LEN)`. -/
def walkRecords (c : Bytes) (len : Nat) : Nat → Nat → List (Nat × Nat × Nat)
  | 0, _ => []
  | fuel + 1, pos =>
    if len < pos + 8 then []
    else
      let bl := leField c (pos + 4) 4 31 0
      (pos, leField c pos 2 15 0, bl) :: walkRecords c len fuel (pos + 8 + bl)

/-- A FIRMWARE record lies wholly within the copy, and its signature verifies. -/
def firmwareSigned (c : Bytes) (sigOk : Bool) : Bool :=
  sigOk && (walkRecords c (imageLen c) (imageLen c) 64).any fun r =>
    r.2.1 == 0x0007 && decide (r.1 + 8 + r.2.2 ≤ imageLen c)

/-- R85's reason code for a copy; 0 where it passes. `none`: the flash does not answer. -/
def imageReason (copy : Option Bytes) (sigOk : Bool) : BitVec 8 :=
  match copy with
  | none => 6
  | some c =>
    let len := imageLen c
    if leField c 0 4 31 0 != 0x41424258 then 1
    else if leField c 60 4 31 0 != (crc32c (slice c 0 60)).toNat then 1
    else if leField c 4 2 15 0 != 1 then 2
    else if leField c 6 2 15 0 != 64 || len % 8 != 0 || decide (len < 80) || decide (8388608 < len) then 3
    else if leField c 56 4 31 0 != (crc32c (slice c 64 (len - 64))).toNat then 4
    else if !firmwareSigned c sigOk then 5
    else 0

/-! ### Content (R87, R88) -/

/-- A check and the byte offset reported where it fails. -/
abbrev Check := Nat × Bool

/-- The offset of the first failed check. -/
def firstBad (cs : List Check) : Option Nat := (cs.find? fun c => !c.2).map (·.1)

/-- Bits `[hi:lo]` of the `n`-byte field at `off` are zero; the offset is that of the byte holding bit `lo`. (DEDUCED in part: assumption 83) -/
def resv (c : Bytes) (off n hi lo : Nat) : Check := (off + lo / 8, leField c off n hi lo == 0)

/-- Bytes `off` to `off + n - 1` are zero. -/
def resvBytes (c : Bytes) (off n : Nat) : Check := (off, (slice c off n).all (· == 0))

def planeOf (coord : Nat) : Nat := coord / 2 ^ 22 % 4

def identityChecks (c : Bytes) (b : Nat) : List Check :=
  [resv c b 4 31 24, (b + 4, decide (leField c (b + 4) 2 15 0 ≤ 1024)), resvBytes c (b + 6) 2]

def fabricChecks (c : Bytes) (b coord : Nat) : List Check :=
  let port := leField c b 2 15 0
  let planes := leField c (b + 3) 1 3 0
  [(b, port != 0 && port != 4791), resv c (b + 2) 1 7 1, (b + 3, planes / 2 ^ planeOf coord % 2 == 1),
   resv c (b + 3) 1 7 4, resvBytes c (b + 44) 20]

/-- PTP_PORT names an enabled logical port, or none (Table 4-8). -/
def ptpPortLegal (modes : List Nat) (p : Nat) : Bool :=
  p == 15 || (decide (p < 8) && (let m := modes.getD (p / 2) 0; if p % 2 = 0 then m != 0 else m == 2))

def portModes (c : Bytes) (b : Nat) : List Nat := (List.range 4).map fun n => leField c (b + n) 1 1 0

def portsChecks (c : Bytes) (b : Nat) : List Check :=
  (List.range 4).flatMap (fun n => [(b + n, leField c (b + n) 1 1 0 != 3), resv c (b + n) 1 7 2])
  ++ (List.range 4).flatMap (fun n =>
      [(b + 4 + 2 * n, decide (leField c (b + 4 + 2 * n) 2 11 0 ≤ 4094)), resv c (b + 4 + 2 * n) 2 15 12])
  ++ [(b + 12, ptpPortLegal (portModes c b) (leField c (b + 12) 1 3 0)), resv c (b + 12) 1 7 5, resvBytes c (b + 13) 3,
      (b + 16, let g := leField c (b + 16) 2 15 0; decide (10 ≤ g) && decide (g ≤ 60000)), resvBytes c (b + 18) 14]

def isPow2 (n : Nat) : Bool := n != 0 && 2 ^ n.log2 == n

def accelChecks (c : Bytes) (b : Nat) : List Check :=
  (List.range 4).flatMap fun n =>
    let e := b + 16 * n
    let present := leField c e 1 0 0 == 1
    let bar := leField c (e + 2) 1 2 0
    let size := leField c (e + 8) 8 63 0
    [resv c e 2 15 1, (e + 2, if present then decide (bar ≤ 5) else bar == 0), resv c (e + 2) 1 7 3, resvBytes c (e + 3) 5,
     (e + 8, if present then isPow2 size && decide (2 ^ 20 ≤ size) && decide (size ≤ 2 ^ 56) else size == 0)]

def filterChecks (c : Bytes) (e : Nat) : List Check :=
  let on := leField c e 1 0 0 == 1
  resv c e 2 15 1 :: (List.range 5).map (fun k => (e + 2 + 2 * k, on || leField c (e + 2 + 2 * k) 2 15 0 == 0))
    ++ [resvBytes c (e + 12) 4]

/-- The checks of one rule entry; `filters` is the offset of the filter entries. -/
def ruleChecks (c : Bytes) (filters e : Nat) : List Check :=
  let valid := leField c e 1 0 0 == 1
  let compare := leField c e 1 1 1
  let alert := leField c e 1 2 2
  let ch := leField c (e + 1) 1 4 0
  let act := leField c (e + 2) 1 2 0
  let ab := leField c (e + 3) 1 4 0
  let th := fromTwos 4 (leField c (e + 4) 4 31 0)
  let hold := leField c (e + 12) 2 15 0
  let mask := leField c (e + 14) 1 7 0
  [(e, valid || (compare == 0 && alert == 0)), resv c e 1 7 3,
   (e + 1, if valid then leField c (filters + 16 * ch) 1 0 0 == 1 else ch == 0), resv c (e + 1) 1 7 5,
   (e + 2, if valid then decide (act ≤ 5) else act == 0), resv c (e + 2) 1 7 3,
   (e + 3, if valid && alert == 1 then true else ab == 0), resv c (e + 3) 1 7 5,
   (e + 4, if valid then
      (act != 5 || (decide (1680 ≤ th) && decide (th ≤ 1920) && (decide (ch ≤ 7) || ch == 31) && compare == 0))
      else th == 0),
   (e + 8, valid || leField c (e + 8) 4 31 0 == 0),
   (e + 12, if valid then hold != 0 else hold == 0),
   (e + 14, if valid && act == 4 then mask != 0 else mask == 0), resvBytes c (e + 15) 17]

def owlChecks (c : Bytes) (b : Nat) : List Check :=
  (List.range 32).flatMap (fun n => filterChecks c (b + 16 * n))
  ++ (List.range 64).flatMap (fun n => ruleChecks c b (b + 512 + 32 * n))
  ++ [(b, (List.range 64).any fun n => leField c (b + 512 + 32 * n) 1 0 0 == 1 && leField c (b + 514 + 32 * n) 1 2 0 == 5)]

def watchdogChecks (c : Bytes) (b : Nat) : List Check := [(b, leField c b 8 63 1 == 0)]

/-- The BODY_LEN that Table 4-5 gives a TYPE. -/
def bodyLenLegal (type bl : Nat) : Bool :=
  match type with
  | 1 => bl == 8
  | 2 => bl == 64
  | 3 => bl == 32
  | 4 => bl == 64
  | 5 => bl == 2560
  | 6 => bl == 8
  | 7 => decide (1048576 ≤ bl) && decide (bl ≤ 6291456) && bl % 8 == 0
  | _ => false

def requiredTypes : List Nat := [1, 2, 3, 5, 7]

/-- The checks of the record at `pos`, `last` being the TYPE of the record before it (0: none) and `coord` COORD. -/
def recordChecks (c : Bytes) (len last coord pos : Nat) : List Check :=
  let type := leField c pos 2 15 0
  let bl := leField c (pos + 4) 4 31 0
  let b := pos + 8
  [(pos, decide (1 ≤ type) && decide (type ≤ 7)), (pos + 2, leField c (pos + 2) 1 7 0 == 1), resvBytes c (pos + 3) 1,
   (pos + 4, bodyLenLegal type bl && decide (pos + 8 + bl ≤ len)),
   (pos, decide (last < type) && requiredTypes.all fun t => !(decide (last < t) && decide (t < type)))]
  ++ match type with
    | 1 => identityChecks c b
    | 2 => fabricChecks c b coord
    | 3 => portsChecks c b
    | 4 => accelChecks c b
    | 5 => owlChecks c b
    | 6 => watchdogChecks c b
    | _ => []

/-- The records in turn from `pos`, then what R88 checks after the last one. -/
def contentFrom (c : Bytes) (len coord : Nat) : Nat → Nat → Nat → Nat → Option Nat
  | 0, _, _, pos => some pos
  | fuel + 1, last, n, pos =>
    if len ≤ pos then
      if requiredTypes.any fun t => decide (last < t) then some len
      else if leField c 12 2 15 0 != n then some 12 else none
    else
      match firstBad (recordChecks c len last coord pos) with
      | some off => some off
      | none => contentFrom c len coord fuel (leField c pos 2 15 0) (n + 1) (pos + 8 + leField c (pos + 4) 4 31 0)

/-- The offset of the first content failure of a copy that passed R85 (R88); `none` where it has none. -/
def contentBad (c : Bytes) : Option Nat :=
  let rc := leField c 12 2 15 0
  match firstBad [(12, decide (5 ≤ rc) && decide (rc ≤ 7)), resvBytes c 14 2, resvBytes c 24 32] with
  | some off => some off
  | none => contentFrom c (imageLen c) (leField c 72 4 23 0) 9 0 0 64

/-! ### The values of a copy -/

def parseFilter (c : Bytes) (e : Nat) : OwlFilter :=
  let q (k : Nat) : Int := fromTwos 2 (leField c (e + 2 + 2 * k) 2 15 0)
  { enable := leField c e 1 0 0 == 1, b0 := q 0, b1 := q 1, b2 := q 2, a1 := q 3, a2 := q 4 }

def parseRule (c : Bytes) (e : Nat) : OwlRule :=
  { valid := leField c e 1 0 0 == 1, below := leField c e 1 1 1 == 1, alert := leField c e 1 2 2 == 1
    channel := leField c (e + 1) 1 4 0, action := leField c (e + 2) 1 2 0, alertBit := leField c (e + 3) 1 4 0
    threshold := fromTwos 4 (leField c (e + 4) 4 31 0), hyst := leField c (e + 8) 4 31 0
    hold := leField c (e + 12) 2 15 0, mask := BitVec.ofNat 8 (leField c (e + 14) 1 7 0) }

/-- The body position of the record of a TYPE. -/
def bodyOf (c : Bytes) (type : Nat) : Option Nat :=
  ((walkRecords c (imageLen c) 8 64).find? fun r => r.2.1 == type).map fun r => r.1 + 8

/-- The values of Tables 4-6 to 4-10 and R448, and the fabric digest (R89). An absent ACCEL gives no accelerator, an absent
WATCHDOG CLK_SEL 1 (Table 4-5). -/
def parseImage (c : Bytes) : Image :=
  let i := (bodyOf c 1).getD 0
  let f := (bodyOf c 2).getD 0
  let p := (bodyOf c 3).getD 0
  let o := (bodyOf c 5).getD 0
  { coord := BitVec.ofNat 24 (leField c i 4 23 0)
    maxVfs := leField c (i + 4) 2 15 0
    udpPort := BitVec.ofNat 16 (leField c f 2 15 0)
    ipv4 := leField c (f + 2) 1 0 0 == 1
    planes := BitVec.ofNat 4 (leField c (f + 3) 1 3 0)
    ipv4Net := slice c (f + 4) 4
    ipv6Prefix := slice c (f + 8) 32
    fabricId := BitVec.ofNat 32 (leField c (f + 40) 4 31 0)
    portMode := portModes c p
    vid := (List.range 4).map fun n => leField c (p + 4 + 2 * n) 2 11 0
    ptpPort := leField c (p + 12) 1 3 0
    oneStep := leField c (p + 12) 1 4 4 == 1
    guardMs := leField c (p + 16) 2 15 0
    accel := (List.range 4).map fun n =>
      match bodyOf c 4 with
      | some a => { present := leField c (a + 16 * n) 1 0 0 == 1, bar := BitVec.ofNat 3 (leField c (a + 16 * n + 2) 1 2 0)
                    size := leField c (a + 16 * n + 8) 8 63 0 }
      | none => { present := false, bar := 0, size := 0 }
    filters := (List.range 32).map fun n => parseFilter c (o + 16 * n)
    rules := (List.range 64).map fun n => parseRule c (o + 512 + 32 * n)
    wdtClkSel := match bodyOf c 6 with | some w => leField c w 1 0 0 == 1 | none => true
    buildId := BitVec.ofNat 64 (leField c 16 8 63 0)
    digest := crc32c (slice c f 64) }

end Sys2Proof.Machine
end

