-- ==== Sys2Proof/Machine/Power.lean ====
section
/-!
DEFINITION. Supply, resets and straps (Package, Signals and the Single Supply), the pace governor (3.2), and the H link's
DL_Active.
-/

namespace Sys2Proof.Machine

/-- The shape of most meanings: the command always completes. -/
abbrev Result := Host.Outcome State Fault Refusal

/-! ### The full reset -/

/-- Every register at its Reset value (R8), the supply's and the input balls' own state kept: the straps stand as last sampled until
step 5 samples them again (R41). Pool memory keeps its bytes until the scrub (R40, R98). The entropy of a seeding never
comes again (R370), so the numbers of seedings and draws go on. -/
def resetDevice (s : State) (phase : Phase) (railsUp : Bool) : State :=
  { State.reset with
    pins := { Pins.reset with
      pwrOk := s.pins.pwrOk, brdRstN := s.pins.brdRstN, hPerstN := s.pins.hPerstN, thermtripN := s.pins.thermtripN
      smba := s.pins.smba, imgsel := s.pins.imgsel, test := s.pins.test
      perchN := if s.power.owlTest.isSome then .inactive else .hiZ }
    power := { Power.reset with phase := phase, railsUp := railsUp, owlTest := s.power.owlTest }
    pool := { Pool.reset with mem := if railsUp then s.pool.mem else [] }
    clocks := { Clocks.reset with count := s.clocks.count }
    cipher := { Cipher.reset with draws := s.cipher.draws, seeding := s.cipher.seeding }
    a1 := s.a1, out := s.out, pending := s.pending, now := s.now, fresh := s.fresh }

/-- The main domain is powered: its rails are up (Table 2-3). -/
def mainUp (s : State) : Bool := s.power.railsUp

/-- The level a Main-domain output shows: `level` while its domain is powered, high impedance otherwise (R27). `none` is high
impedance. -/
def mainPin (s : State) (level : Bool) : Option Bool := if mainUp s then some level else none

/-- A_PERST_N[n] (R36). Its pull-down makes the line read low while the pin is at high impedance (Table 2-4 step 1). -/
def aPerstPin (s : State) (n : Nat) : Option Bool := mainPin s (s.pins.aPerstN.getLsbD n)

/-- PPS_OUT (R77). -/
def ppsOutPin (s : State) : Option Bool := mainPin s (decide (s.now < s.time.ppsUntil))

/-- Whether the transmitter lanes of logical port `n` are driven (R38, R104). -/
def nTxPin (s : State) (n : Nat) : Option Bool := mainPin s (s.pins.nTxEnable.getLsbD n)

/-- The three reset inputs of R34 are high. -/
def inputsHigh (s : State) : Bool := s.pins.pwrOk && s.pins.brdRstN && s.pins.hPerstN

/-- Step 5 of Table 2-4: with every reset input high the straps are sampled (R41) and step 6 begins. `straps` is
SMBA[1:0], IMGSEL, TEST[1:0] from bit 0 upward. -/
def enterStep5 (s : State) (straps : BitVec 5) : State :=
  if s.power.phase == .waiting && inputsHigh s then
    { s with
      pins := { s.pins with smba := straps.extractLsb' 0 2, imgsel := straps.extractLsb' 2 1, test := straps.extractLsb' 3 2 }
      power := { s.power with phase := .ramping } }
  else s

/-- Steps that stop the links and the core within 1 us (Table 2-6 step 2). -/
def stopLinks (s : State) : State :=
  { s with pins := { s.pins with aPerstN := 0, nTxEnable := 0 }
           power := { s.power with hLinkUp := false, hTraining := false } }

/-- VIN_RISE: VIN crosses the 1.66 V lockout; the AON rail and the oscillator start, outputs at high impedance (R32, Table
2-4 step 2). Beyond 2.2 V the manual gives no behaviour (R51). Where the three reset inputs stayed high while VIN was away, step 5
still waits for a rise of one of them. (DESIGN CHOICE in part: assumptions 21 and 103) -/
def execVinRise (mv : Nat) (s : State) : Result :=
  if 2200 < mv then .fault .vinBeyondMaximum
  else if s.power.phase == .off && decide (1660 ≤ mv) then
    .next { s with
      pins := { s.pins with thermtripN := .hiZ, perchN := .hiZ }
      power := { Power.reset with phase := .waiting } }
  else .next s

/-- OWL_SELFTEST_DONE: Owl's outputs are driven inactive (Table 2-4 step 3); a failed self-test is a cause of Perch, taken
at step 7 (R103). -/
def execOwlSelftestDone (ok : Bool) (s : State) : Result :=
  if aonUp s && s.power.owlTest.isNone then
    let s1 := { s with
      pins := { s.pins with
        thermtripN := if s.pins.thermtripN == .low then .low else .inactive
        perchN := if s.start.stage == 0xF then s.pins.perchN else .inactive }
      power := { s.power with owlTest := some ok } }
    .next (if ok then s1 else enterPerch s1 0x02 0)
  else .next s

/-- PWR_OK_RISE (R34): the input is high; step 5 follows once all three are. A power-down in progress finishes first
(R45), and after a thermal trip nothing restarts (R53). -/
def execPwrOkRise (straps : BitVec 5) (s : State) : Result :=
  .next (enterStep5 { s with pins := { s.pins with pwrOk := true } } straps)

/-- Drives the level of a reset input. -/
def setResetPin (s : State) (pin : ResetPin) (high : Bool) : State :=
  match pin with
  | .brdRst => { s with pins := { s.pins with brdRstN := high } }
  | .hPerst => { s with pins := { s.pins with hPerstN := high } }

/-- A low pulse of `lowNs` causes a full reset (R39). (DESIGN CHOICE in part: assumption 4) -/
def pulseActs (s : State) (lowNs : Nat) : Bool :=
  decide (1000 ≤ lowNs) || (decide (200 ≤ lowNs) && Config.shortPulse s.fresh)

/-- FULL_RESET_ASSERT: a reset input goes low for `lowNs` (R37 to R40). A power-down or a thermal trip in progress goes on
by itself. A rail ramp that it cuts short counts as not done. (DESIGN CHOICE in part: assumption 103) -/
def execFullResetAssert (pin : ResetPin) (lowNs : Nat) (s : State) : Result :=
  if !pulseActs s lowNs then .next { s with fresh := s.fresh + 1 }
  else
    let s1 := setResetPin s pin false
    match s.power.phase with
    | .waiting | .ramping | .up => .next (resetDevice { s1 with fresh := s.fresh + 1 } .waiting s.power.railsUp)
    | _ => .next { s1 with fresh := s.fresh + 1 }

/-- FULL_RESET_RELEASE: a reset input goes high; with the last one the sequence resumes at step 5, the rails held up
(R38). -/
def execFullResetRelease (pin : ResetPin) (straps : BitVec 5) (s : State) : Result :=
  .next (enterStep5 (setResetPin s pin true) straps)

/-- The first measurement window of every clock begins (R64). -/
def firstWindows (s : State) : Tab Nat := (List.range 7).map fun clk => (clk, s.clocks.count)

/-- RAILS_GOOD: t_s. Device time starts at 0 (R70), H link training begins (R35), the clock monitors begin their windows, and a cause
of Perch already found is taken, the lowest first (R42, R103). -/
def execRailsGood (s : State) : Result :=
  if s.power.phase == .ramping then
    let s1 := { s with
      power := { s.power with phase := .up, railsUp := true, hTraining := true }
      time := { s.time with dev := 0 }
      clocks := { s.clocks with winStart := firstWindows s }
      start := { s.start with railsAt := some s.now } }
    .next (if s.pins.test != 0 then enterPerch s1 0x01 0
           else if s.power.owlTest = some false then enterPerch s1 0x02 0 else s1)
  else .next s

/-- PWR_OK_FALL: the orderly power-down of Table 2-6 begins (R37, R44). -/
def execPwrOkFall (s : State) : Result :=
  let s1 := { s with pins := { s.pins with pwrOk := false } }
  match s.power.phase with
  | .up | .ramping => .next { stopLinks s1 with power := { (stopLinks s1).power with phase := .poweringDown } }
  | .waiting =>
    if s.power.railsUp then .next { stopLinks s1 with power := { (stopLinks s1).power with phase := .poweringDown } }
    else .next s1
  | _ => .next s1

/-- POWER_DOWN_COMPLETE: step 4 of Table 2-6; pool memory, die SRAM and device time are lost (R46). With every input high
again the device restarts at step 5 (R45); after a thermal trip it stays down (R53), and PERCH_N and SMB_ALERT_N stay as they were
until VIN falls. (DEDUCED in part: assumption 20) -/
def execPowerDownComplete (straps : BitVec 5) (s : State) : Result :=
  match s.power.phase with
  | .poweringDown => .next (enterStep5 (resetDevice s .waiting false) straps)
  | .tripped =>
    .next { resetDevice s .tripped false with
      pins := { (resetDevice s .tripped false).pins with perchN := s.pins.perchN, smbAlert := s.pins.smbAlert } }
  | _ => .next s

/-- VIN_UVLO_FALL: VIN below 1.60 V is a full reset that unpowers the always-on domain too and releases THERMTRIP_N (R37,
R46, R53). -/
def execVinUvloFall (s : State) : Result :=
  if aonUp s then
    .next { resetDevice s .off false with
      pins := { (resetDevice s .off false).pins with thermtripN := .hiZ, perchN := .hiZ, smba := 0, imgsel := 0, test := 0 }
      power := Power.reset }
  else .next s

/-- Thermal trip (R53): THERMTRIP_N low and the power-down without waiting for PWR_OK. (DEDUCED in part: assumption 20) -/
def thermalTrip (s : State) : State :=
  if aonUp s && s.power.phase != .tripped then
    let s1 := stopLinks s
    { s1 with pins := { s1.pins with thermtripN := .low }, power := { s1.power with phase := .tripped } }
  else s

/-- THERMAL_BACKSTOP: the fixed 125 °C of Table 2-8. -/
def execThermalBackstop (s : State) : Result := .next (thermalTrip s)

/-- One move of CORE toward `need`, at most 5 mV, within 620 to 880 mV (R57). -/
def governorMove (mv need : Nat) : Nat :=
  let t := min 880 (max 620 need)
  if mv < t then min t (mv + 5) else max t (mv - 5)

/-- GOVERNOR_EVAL: `need` is the lowest CORE voltage in mV at which every region keeps the target pace and margin, `pace`
the measured pace of the slowest region above the required one in percent (negative: below), `region` that region.
(DEDUCED in part: assumption 51) -/
def execGovernorEval (need : Nat) (pace : Int) (region : Nat) (s : State) : Result :=
  if live s && s.pm.state != 2 then
    let mv := governorMove s.power.coreMv.toNat need
    let s1 := { s with power := { s.power with
      coreMv := BitVec.ofNat 16 mv, atCeiling := mv == 880, marginPct := BitVec.ofNat 8 (min 255 pace.toNat) } }
    .next (if mv = 880 && decide (pace < 0) then post s1 0x0015 (evData [(16, 2, mv), (18, 1, region)]) else s1)
  else .next s

/-- H_PORT_DL_ACTIVE: link training with the host ends (R35). -/
def execHPortDlActive (s : State) : Result :=
  if s.power.phase == .up && s.power.hTraining then
    .next { s with power := { s.power with hLinkUp := true, hTraining := false } }
  else .next s

end Sys2Proof.Machine
end

