-- ==== Sys2Proof/Machine/Startup.lean ====
section
/-!
DEFINITION. Start-up (Start-Up, the Abber Image and Perch): self-tests, training and scrub, the image, the firmware, the A
ports of R96.
-/

namespace Sys2Proof.Machine

/-- STAGE becomes READY once the scrub and the firmware are both done (Table 4-1 step 10). -/
def checkReady (s : State) : State :=
  if live s && s.start.stage == 0 && s.start.scrubDone && s.start.fwRunning then
    { s with start := { s.start with stage := 1 } } else s

/-- CORE_SELFTEST_DONE: the control cores and N ports that passed (R93, R94). (DEDUCED in part: assumption 84) -/
def execCoreSelftestDone (cores : BitVec 16) (nports : BitVec 4) (s : State) : Result :=
  if live s && !s.start.coreTested then
    let s1 := { s with start := { s.start with coreTested := true, coreOk := cores, nportSelf := nports } }
    .next (if cores = 0 then enterPerch s1 0x03 1 else s1)
  else .next s

/-- POOL_TRAINING_DONE: failed stacks are mapped out and the scrub starts (R93, R98). -/
def execPoolTrainingDone (good : BitVec 6) (s : State) : Result :=
  if live s && !s.start.trained then
    let s1 := { s with start := { s.start with trained := true, stackOk := good } }
    .next (if good = 0 then enterPerch s1 0x03 2 else s1)
  else .next s

/-- SCRUB_DONE: every location of every stack in service holds zero; a stack with an uncorrectable error is mapped out
(R98). -/
def execScrubDone (bad : BitVec 6) (s : State) : Result :=
  if live s && s.start.trained && !s.start.scrubDone then
    let ok := s.start.stackOk &&& ~~~bad
    let s1 := { s with start := { s.start with stackOk := ok } }
    if ok = 0 then .next (enterPerch s1 0x03 2)
    else .next (checkReady { s1 with
      start := { s1.start with scrubDone := true }, pool := { s1.pool with mem := [], written := [], failed := [] } })
  else .next s

/-- The copy that is read next: first the one STRAP_IMGSEL names, then the other (R85). -/
def nextCopy (s : State) : Option Bool :=
  let firstAlt := s.pins.imgsel == 1
  let firstRead := if firstAlt then s.start.reasonAlt.isSome else s.start.reasonPri.isSome
  let otherRead := if firstAlt then s.start.reasonPri.isSome else s.start.reasonAlt.isSome
  if !firstRead then some firstAlt else if !otherRead then some (!firstAlt) else none

/-- The logical port exists: a whole port, or either half of a split one (Table 4-8). -/
def portExists (modes : List Nat) (p : Nat) : Bool :=
  let m := modes.getD (p / 2) 0
  if p % 2 = 0 then m != 0 else m == 2

/-- An accepted copy: t_i (Table 4-1 steps 7 to 9, R96, R182). -/
def acceptImage (s : State) (alt : Bool) (c : Bytes) : State :=
  let i := parseImage c
  let en (p : Nat) : Bool := portExists i.portMode p && s.start.nportSelf.getLsbD (p / 2)
  let okBits := (List.range 4).foldl (fun (b : BitVec 4) n => if en (2 * n) then b ||| BitVec.ofNat 4 (2 ^ n) else b) 0
  let tx := (List.range 8).foldl (fun (b : BitVec 8) n => if en n then b ||| BitVec.ofNat 8 (2 ^ n) else b) 0
  { s with
    start := { s.start with
      image := some i, copyAlt := alt, imageAt := some s.now, nportOk := okBits
      fwDeadline := if s.start.fwRunning then none else some (s.now + 50000000)
      aports := (List.range 4).map fun n =>
        { phase := if (i.accel.getD n { present := false, bar := 0, size := 0 }).present then .waitClock else .held
          since := s.now, linkUp := false, payload := 0 } }
    pins := { s.pins with nTxEnable := tx }
    ports := s.ports.mapIdx fun n p => if en n then { p with state := .training } else p }

/-- The fastest of single, dual and quad mode that the SFDP table advertises, at the highest clock it allows up to 100 MHz (R48). -/
def fastestMode (t : Sfdp) : FlashMode :=
  { lines := if t.quad then 4 else if t.dual then 2 else 1, mhz := min 100 t.maxMhz }

/-- The flash is read (R48): at first its SFDP table, single-line at 25 MHz, which settles the mode for every copy; then the copy in
that mode. Without an SFDP table there is no mode and no copy is read. (DESIGN CHOICE in part: assumption 105) -/
def readFlash (s : State) (alt : Bool) (sfdp : Option Sfdp) : State :=
  let s1 : State := match s.start.flashMode with
    | some _ => s
    | none => emit { s with start := { s.start with flashMode := sfdp.map fastestMode } } (.flashSfdp 1 25)
  match s1.start.flashMode with
  | some m => emit s1 (.flashRead alt m.lines m.mhz)
  | none => s1

/-- IMAGE_COPY_CHECKED: the read and checks of one copy end (R85 to R90). Where the flash has no SFDP table or does not answer, that is
reason 6 for both copies. -/
def execImageCopyChecked (alt : Bool) (read : FlashRead) (sigOk : Bool) (s : State) : Result :=
  if !(live s && s.start.stage == 0 && s.start.image.isNone && s.start.coreTested && nextCopy s == some alt) then .next s
  else
    let s0 := readFlash s alt read.sfdp
    let found := if s0.start.flashMode.isSome then read.copy else none
    let r := imageReason found sigOk
    let note (st : Start) : Start := if alt then { st with reasonAlt := some r } else { st with reasonPri := some r }
    let s1 := { s0 with start := note s0.start }
    let noneInfo (a b : BitVec 8) : Word := BitVec.ofNat 32 (a.toNat + 256 * b.toNat)
    match found with
    | none => .next (enterPerch { s1 with start := { s1.start with fallback := true } } 0x04 (noneInfo 6 6))
    | some c =>
      if r = 0 then
        match contentBad c with
        | some off => .next (enterPerch s1 0x05 (BitVec.ofNat 32 (off % 2 ^ 31 + if alt then 2 ^ 31 else 0)))
        | none => .next (acceptImage s1 alt c)
      else
        let s2 := { s1 with start := { s1.start with fallback := true } }
        match nextCopy s2 with
        | some _ => .next s2
        | none => .next (enterPerch s2 0x04 (noneInfo (s2.start.reasonPri.getD 0) (s2.start.reasonAlt.getD 0)))

/-- FIRMWARE_RUNNING: the verified firmware runs (Table 4-1 step 9). -/
def execFirmwareRunning (s : State) : Result :=
  if live s && s.start.image.isSome && !s.start.fwRunning && !s.ctlReset then
    .next (checkReady { s with start := { s.start with fwRunning := true, fwDeadline := none } })
  else .next s

/-- FIRMWARE_START_TIMEOUT: 50 ms without the firmware (R102). -/
def execFirmwareStartTimeout (s : State) : Result :=
  .next (match s.start.fwDeadline with
    | some t => if running s && !s.start.fwRunning && decide (t ≤ s.now) then enterPerch s 0x07 0 else s
    | none => s)

/-! ### A ports (R96) -/

def setAport (s : State) (n : Nat) (f : APort → APort) : State :=
  { s with start := { s.start with aports := lmod s.start.aports n f } }

/-- The A port is in service (APORT_OK). -/
def aportInService (s : State) (n : Nat) : Bool := decide (n < 4) && s.start.aportOk.getLsbD n

/-- APORT_STATE (Table 5-10). -/
def postAport (s : State) (n : Nat) (ok : Bool) (step : Nat) : State :=
  post s 0x0002 (evData [(16, 1, n), (17, 1, ok.toNat), (18, 1, step)])

/-- Step `step` of R96 fails. -/
def aportFail (s : State) (n step : Nat) : State :=
  postAport (setAport s n fun a => { a with phase := .failed }) n false step

/-- APORT_RELEASE: An_REFCLK has been restored for 100 us (R96 step 1). -/
def execAportRelease (n : Nat) (s : State) : Result :=
  let since := tget s.clocks.goodSince (n + 1)
  if running s && decide (n < 4) && (aport s n).phase == .waitClock && s.clocks.good.getLsbD (n + 1)
      && (match since with | some t => decide (t + 100000 ≤ s.now) | none => false) then
    .next { setAport s n fun a => { a with phase := .training, since := s.now } with
      pins := { s.pins with aPerstN := s.pins.aPerstN ||| BitVec.ofNat 4 (2 ^ n) } }
  else .next s

/-- APORT_TRAIN_TIMEOUT: not in L0 within 100 ms of the release (R96 step 2). -/
def execAportTrainTimeout (n : Nat) (s : State) : Result :=
  .next (if running s && decide (n < 4) && (aport s n).phase == .training && decide ((aport s n).since + 100000000 ≤ s.now)
    then aportFail s n 2 else s)

/-- APORT_ENUM_DONE: the accelerator answers; its aperture BAR must be a memory BAR of at least APERTURE_SIZE (R96 step
4). -/
def execAportEnumDone (n : Nat) (bar : AccelBar) (s : State) : Result :=
  if running s && decide (n < 4) && (aport s n).phase == .enumerating && aLinkUp s n then
    let size := match img s with
      | some i => (i.accel.getD n { present := false, bar := 0, size := 0 }).size
      | none => 0
    if bar.isMemory && decide (size ≤ bar.size) then
      let s1 := setAport s n fun a => { a with phase := .inService, payload := min 2 bar.payload }
      .next (postAport { s1 with start := { s1.start with aportOk := s1.start.aportOk ||| BitVec.ofNat 4 (2 ^ n) } } n true 0)
    else .next (aportFail s n 4)
  else .next s

/-- APORT_RRS_TIMEOUT: Request Retry Status for 1.0 s (R96 step 3). -/
def execAportRrsTimeout (n : Nat) (s : State) : Result :=
  .next (if running s && decide (n < 4) && (aport s n).phase == .enumerating
      && decide ((aport s n).since + 1000000000 ≤ s.now)
    then aportFail s n 3 else s)

/-- APORT_LINK_DOWN: the link leaves L0; what needs it waits (R144, Table 3-4). -/
def execAportLinkDown (n : Nat) (s : State) : Result :=
  .next (if s.power.phase == .up && decide (n < 4) then setAport s n fun a => { a with linkUp := false } else s)

end Sys2Proof.Machine
end

