-- ==== Sys2Proof/Machine/Rings.lean ====
section
/-!
DEFINITION. Tenant rings and completion queues (Descriptor Rings and Completion): reading slots, hand-back in ring order,
reports, moderation and stall, disable, Recall.
-/

namespace Sys2Proof.Machine

/-! ### Where rings are -/

/-- The ring of a kind under its QPN, context or instance number. -/
def getRing (s : State) (k : RingKind) (id : Nat) : Option Ring :=
  match k with
  | .sq => (tget s.qps id).map (·.sq)
  | .rq => (tget s.qps id).map (·.rq)
  | .tpe => (tget s.ctxs id).map (·.ring)
  | .lookaside => (tget s.insts id).map (·.la)

def setRing (s : State) (k : RingKind) (id : Nat) (r : Ring) : State :=
  match k with
  | .sq => { s with qps := tmod s.qps id fun q => { q with sq := r } }
  | .rq => { s with qps := tmod s.qps id fun q => { q with rq := r } }
  | .tpe => { s with ctxs := tmod s.ctxs id fun c => { c with ring := r } }
  | .lookaside => { s with insts := tmod s.insts id fun i => { i with la := r } }

/-- The instance a ring belongs to. -/
def ringInst (s : State) (k : RingKind) (id : Nat) : Nat :=
  match k with
  | .sq | .rq => match tget s.qps id with | some q => q.inst | none => 0
  | .tpe => match tget s.ctxs id with | some c => c.inst | none => 0
  | .lookaside => id

def modInst (s : State) (i : Nat) (f : Inst → Inst) : State := { s with insts := tmod s.insts i f }

/-- The instance is FROZEN (Table 16-5). -/
def instFrozen (s : State) (i : Nat) : Bool := match tget s.insts i with | some x => x.state == .frozen | none => false

/-- The instance starts nothing: frozen, freezing or resetting (R147, R384, R390). -/
def instStopped (s : State) (i : Nat) : Bool :=
  match tget s.insts i with
  | some x => x.state != .active || x.freezing.isSome
  | none => true

/-- The instance's page takes writes (R384 step 1). -/
def pageOpen (s : State) (i : Nat) : Bool := match tget s.insts i with | some x => x.state != .resetting | none => false

/-- Memory of LOCATION `loc` as the instance reaches it (R126, R128). -/
def locTarget (s : State) (inst loc : Nat) : Target :=
  if loc = 0 then (match tget s.insts inst with | some i => instTarget i | none => pfHost) else .aper (loc - 1)

/-- The link that serves a LOCATION is up; the host's is taken as up (R144). -/
def locUp (s : State) (loc : Nat) : Bool := loc == 0 || aLinkUp s (loc - 1)

/-- Writes to host memory for the instance are suppressed (R385, R387, R388). -/
def locMuted (s : State) (inst loc : Nat) : Bool :=
  loc == 0 && match tget s.insts inst with | some i => i.mute | none => false

def Ring.size (r : Ring) : Nat := 2 ^ r.log2

/-- A ring as created: DISABLED (Table 6-5). -/
def Ring.create (base : BitVec 64) (log2 loc cqn : Nat) : Ring :=
  { base := base, log2 := log2, loc := loc, cqn := cqn, state := .disabled, head := 0, taken := [], reading := none
    run := false, doorbell := false, recallAt := none, memDead := false, deadBy := none, strike := false }

/-! ### Interrupts of an instance (R153 to R155, R375) -/

def pageOf (s : State) (i : Nat) : Page := (tget s.pages i).getD Page.reset

def modPage (s : State) (i : Nat) (f : Page → Page) : State := { s with pages := tput s.pages i (f (pageOf s i)) }

/-- Raises vector `v` of an instance: VEC_PENDING is set, and the message is sent or held while masked. -/
def raiseVector (s : State) (inst v : Nat) : State :=
  let s1 := modPage s inst fun p => { p with vecPending := p.vecPending ||| BitVec.ofNat 64 (2 ^ v) }
  match tget s1.insts inst with
  | none => s1
  | some i =>
    if i.mute then s1
    else if i.fn then msixRaise s1 i.vf v
    else match i.vecs[v]? with
      | none => s1
      | some e =>
        if e.masked then modInst s1 inst fun x => { x with vecs := lmod x.vecs v fun y => { y with pend := true } }
        else emit s1 (.memWrite pfHost e.addr.toNat (leBytes 4 e.data.toNat))

/-- Sets IN bit 31 of an instance's channel (R359, R419); its interrupt goes on the instance's VECTOR (R418). -/
def raiseSignal (s : State) (inst : Nat) : State :=
  match tget s.insts inst with
  | none => s
  | some i =>
    if i.mbx.inDb.getLsbD 31 then s
    else
      let s1 := modInst s inst fun x => { x with mbx := { x.mbx with inDb := x.mbx.inDb ||| 0x80000000 } }
      if i.mbx.inMask.getLsbD 31 then s1 else raiseVector s1 inst i.mbxVec

/-! ### Flushing reads (R459) -/

/-- Issues a flushing read on a port. -/
def issueFlush (s : State) (port inst : Nat) (why : FlushFor) : Nat × State :=
  let r := takeFresh s
  (r.1, emit { r.2 with flushes := r.2.flushes ++ [{ id := r.1, port := port, inst := inst, why := why }] } (.flushRead port r.1))

/-- Flushing reads on several ports. -/
def issueFlushes (s : State) (ports : List Nat) (inst : Nat) (why : FlushFor) : List Nat × State :=
  ports.dedup.foldl (fun a p => let r := issueFlush a.2 p inst why; (a.1 ++ [r.1], r.2)) ([], s)

/-! ### Completion queues -/

def modCq (s : State) (n : Nat) (f : Cq → Cq) : State := { s with cqs := tmod s.cqs n f }

/-- The CQ entry of Table 6-6, OWN 0. -/
def reportEntry (r : Report) (epoch : BitVec 16) : Entry32 :=
  BitVec.ofNat 256 (r.wrId.toNat + (r.owner % 2 ^ 20 + r.source % 4 * 2 ^ 20) * 2 ^ 64 + r.index % 2 ^ 16 * 2 ^ 96
    + r.status.toNat * 2 ^ 112 + r.opcode.toNat * 2 ^ 120 + r.bytes % 2 ^ 32 * 2 ^ 128 + r.notify.toNat * 2 ^ 160
    + epoch.toNat * 2 ^ 192 + (r.started.toNat + r.sub % 2 ^ 15 * 2) * 2 ^ 208)

/-- The message of a CQ, once the reports it covers are visible: in an aperture, after a flushing read on its port (R153). -/
def cqMessage (s : State) (n : Nat) (c : Cq) : State :=
  if c.loc = 0 then raiseVector s c.inst c.vector else (issueFlush s c.loc c.inst (.cq n)).2

/-- The interrupt decision of an armed CQ (R153). -/
def cqInterrupt (s : State) (n : Nat) : State :=
  match tget s.cqs n with
  | none => s
  | some c =>
    let aged := c.modTime != 0 && (match c.pending with | t :: _ => decide (t + 1000 * c.modTime ≤ s.now) | [] => false)
    if c.armed && c.intEn && (decide (c.modCount ≤ c.pending.length) || aged) then
      cqMessage (modCq s n fun x => { x with armed := false }) n c
    else s

/-- The CQ enters error (R152): CQ_ERROR, its registers and its interrupt; held reports are discarded. -/
def cqFail (s : State) (n : Nat) : State :=
  match tget s.cqs n with
  | none => s
  | some c =>
    if c.error then s
    else
      let s1 := modCq s n fun x => { x with error := true, held := [], stall := false }
      let s2 := modPage s1 c.inst fun p =>
        if p.errorValid then p else { p with errorValid := true, errorCqn := BitVec.ofNat 18 n }
      if c.intEn then raiseVector s2 c.inst c.vector else s2

/-- Writes one report into the next returned entry (R149, R150); a write that cannot be issued intact is R152. -/
def writeReport (s : State) (n : Nat) (r : Report) : State :=
  match tget s.cqs n with
  | none => s
  | some c =>
    if c.strike then cqFail (modCq s n fun x => { x with strike := false }) n
    else
      let s1 := if locMuted s c.inst c.loc then s
        else writeOwned s (locTarget s c.inst c.loc) (c.base.toNat + 32 * c.next) (entryBytes (reportEntry r s.epoch))
      cqInterrupt (modCq s1 n fun x =>
        { x with next := (x.next + 1) % 2 ^ x.log2, free := x.free - 1, pending := x.pending ++ [s.now] }) n

/-- The CQ can take a report now. -/
def cqOpen (s : State) (c : Cq) : Bool := !c.error && c.free != 0 && locUp s c.loc

/-- Queues a report: written at once, or held until an entry is returned (R137). A CQ in error discards it (R152). A report that waits only for
the link of the CQ's A port is held too. (DESIGN CHOICE in part: assumption 108) -/
def queueReport (s : State) (n : Nat) (r : Report) : State :=
  match tget s.cqs n with
  | none => s
  | some c =>
    if c.error then s
    else if c.held.isEmpty && cqOpen s c then writeReport s n r
    else modCq s n fun x => { x with held := x.held ++ [(r, s.now)] }

/-- Writes the oldest held report, where an entry has been returned; CQ_STALL clears with the last one (R137). -/
def releaseReport (s : State) (n : Nat) : State :=
  match tget s.cqs n with
  | none => s
  | some c =>
    match c.held with
    | [] => s
    | (r, _) :: rest =>
      if cqOpen s c then
        writeReport (modCq s n fun x => { x with held := rest, stall := x.stall && !rest.isEmpty }) n r
      else s

/-- CQ_REPORT_RELEASE: a held report is written; `intact` false marks the CQ's next write as one that cannot be issued
intact (R144, R152). -/
def execCqReportRelease (cqn : Nat) (intact : Bool) (s : State) : Result :=
  if !live s then .next s
  else .next (releaseReport (if intact then s else modCq s cqn fun x => { x with strike := true }) cqn)

/-- CQ_RETURN: `count` entries come back, in CQ order; a COUNT beyond what the CQ holds is ignored (R151). (DEDUCED in part: assumption 98) -/
def cqReturn (s : State) (inst cqn count : Nat) : State :=
  match tget s.cqs cqn with
  | none => s
  | some c =>
    if c.inst = inst && pageOpen s inst && decide (c.free + count ≤ 2 ^ c.log2) then
      modCq s cqn fun x => { x with free := x.free + count, pending := x.pending.drop count }
    else s

def execCqReturn (inst cqn count : Nat) (s : State) : Result :=
  let s := heardBell s
  .next (if live s then cqReturn s inst cqn count else s)

/-- CQ_ARM (R153): the interrupt fires at once where its condition already holds. -/
def cqArm (s : State) (inst cqn : Nat) : State :=
  match tget s.cqs cqn with
  | none => s
  | some c =>
    if c.inst = inst && pageOpen s inst then cqInterrupt (modCq s cqn fun x => { x with armed := true }) cqn else s

def execCqArm (inst cqn : Nat) (s : State) : Result :=
  let s := heardBell s
  .next (if live s then cqArm s inst cqn else s)

/-- CQ_MOD_TIMER: the oldest pending report reaches MOD_TIME_US (R153). -/
def execCqModTimer (cqn : Nat) (s : State) : Result := .next (if running s then cqInterrupt s cqn else s)

/-- CQ_STALL_TIMER: a held report has waited 1 ms; CQ_STALL is set once an episode (R137, R154, R155). -/
def execCqStallTimer (cqn : Nat) (s : State) : Result :=
  match tget s.cqs cqn with
  | none => .next s
  | some c =>
    match c.held with
    | [] => .next s
    | (_, t) :: _ =>
      if running s && !c.stall && decide (t + 1000000 ≤ s.now) then
        let s1 := modCq s cqn fun x => { x with stall := true }
        let s2 := modPage s1 c.inst fun p =>
          if p.stallValid then p else { p with stallValid := true, stallCqn := BitVec.ofNat 18 cqn }
        .next (if c.intEn then raiseVector s2 c.inst c.vector else s2)
      else .next s

/-! ### Hand-back in ring order (R134 to R136, R144) -/

/-- SOURCE of Table 6-6. -/
def ringSource : RingKind → Nat
  | .sq => 0
  | .rq => 1
  | .tpe => 2
  | .lookaside => 3

/-- The entry wants a report (R135). -/
def wantsReport (k : RingKind) (t : Taken) (o : Outcome) : Bool :=
  match k with
  | .rq => true
  | .lookaside => false
  | _ => o.status != stOk || bit t.entry 60 0

def mkReport (k : RingKind) (id : Nat) (t : Taken) (o : Outcome) : Report :=
  { wrId := t.entry.extractLsb' 384 64, owner := id, source := ringSource k, index := t.slot, status := o.status
    opcode := BitVec.ofNat 8 (fld t.entry 0 7 0), bytes := o.bytes, notify := o.notify, started := t.started, sub := o.sub }

/-! ### Outstanding messages and the work of SQ entries (R174, R381, Table 19-3) -/

def modQp (s : State) (n : Nat) (f : Qp → Qp) : State := { s with qps := tmod s.qps n f }

/-- One message of the instance ends. -/
def endMessage (s : State) (inst : Nat) : State :=
  modInst { s with msgOut := s.msgOut - 1 } inst fun i => { i with messages := i.messages - 1 }

def beginMessage (s : State) (inst : Nat) : State :=
  modInst { s with msgOut := s.msgOut + 1 } inst fun i => { i with messages := i.messages + 1 }

/-- The work of a started SQ entry ends with its completion: its message and its read slot return. The READ_TAG of a READ whose responses no
ACK has reported in full stays in use. -/
def endWork (s : State) (qpn slot : Nat) : State :=
  match tget s.qps qpn with
  | none => s
  | some q =>
    match q.work.find? fun w => w.slot == slot with
    | none => s
    | some w =>
      endMessage (modQp s qpn fun x => { x with
        work := x.work.filter fun y => !(y.slot == slot)
        spent := match w.tag with
          | some t => if w.unacked.isEmpty then x.spent else x.spent ++ [(t, w.unacked)]
          | none => x.spent }) q.inst

/-- The ports behind which an entry's data must be flushed before its hand-back (R459): all but one that carries both
hand-back and report. -/
def gatePorts (s : State) (r : Ring) (ports : List Nat) : List Nat :=
  let cqLoc := match tget s.cqs r.cqn with | some c => c.loc | none => r.loc
  ports.dedup.filter fun p => p != 5 && !(p == r.loc && p == cqLoc)

/-- The ports behind which data that an outstanding entry has written may not be visible yet. -/
def openPorts (s : State) (k : RingKind) (id slot : Nat) : List Nat :=
  match k with
  | .rq => []
  | .sq => match (tget s.qps id).bind fun q => q.work.find? fun w => w.slot == slot with
    | some w => w.ports
    | none => []
  | .tpe =>
    let run := match (tget s.ctxs id).bind fun c => c.runs.find? fun r => r.slot == slot with
      | some r => r.ports
      | none => []
    run ++ (s.flushes.filter fun f => f.why == .tpe id slot).map (·.port)
  | .lookaside => ((tget s.insts id).bind (·.laRun)).elim [] (·.ports) ++ (s.flushes.filter fun f => f.why == .lookaside id).map (·.port)

/-- Issues the flushing reads that the hand-back of an entry waits for. -/
def gateEntry (s : State) (k : RingKind) (id slot : Nat) : List Nat × State :=
  match getRing s k id with
  | some r => issueFlushes s (gatePorts s r (openPorts s k id slot)) (ringInst s k id) (.handBack k id slot)
  | none => ([], s)

/-- Hands one entry back: STATUS (after SUB, on a lookaside queue, R359), then OWN 0; then its report. A hand-back that cannot be written leaves the report to
stand for it; with neither, the completion is counted (R136, R144, R152, R468). -/
def handBack (s : State) (k : RingKind) (id : Nat) (t : Taken) (o : Outcome) : State :=
  match getRing s k id with
  | none => s
  | some r =>
    let inst := ringInst s k id
    let muted := locMuted s inst r.loc
    let struck := r.strike && !r.memDead
    let written := !muted && !r.memDead && !struck
    let a := r.base.toNat + 64 * t.slot
    let dst := locTarget s inst r.loc
    let s0 := if k == .sq then endWork s id t.slot else s
    let s1 := setRing s0 k id { r with
      taken := r.taken.filter (fun x => !(x.slot == t.slot)), memDead := r.memDead || struck, strike := false
      deadBy := if struck then some (t.slot, o.status) else r.deadBy }
    let s1b := if written && k == .lookaside then emit s1 (.memWrite dst (a + 56) (leBytes 2 o.sub)) else s1
    let s2 := if written then emit (emit s1b (.memWrite dst (a + 62) [o.status])) (.memWrite dst (a + 63) [0]) else s1b
    let rep := wantsReport k t o || (!written && !muted && k != .lookaside)
    let cqBad := match tget s.cqs r.cqn with | some c => c.error | none => true
    let cqMuted := match tget s.cqs r.cqn with | some c => locMuted s inst c.loc | none => true
    let s3 := if rep then queueReport s2 r.cqn (mkReport k id t o) else s2
    let s3 := if written && k == .lookaside && bit t.entry 60 0 then raiseSignal s3 inst else s3
    if muted && (!rep || cqMuted) then modInst s3 inst fun i => { i with noRecord := i.noRecord + 1 }
    else if !written && cqBad then count s3 0 0 16 1 else s3

/-- Hands back every entry at the front of the ring whose outcome is decided and visible (R134, R459). (DEDUCED in part: assumption 77) -/
def drainRing : Nat → State → RingKind → Nat → State
  | 0, s, _, _ => s
  | fuel + 1, s, k, id =>
    match getRing s k id with
    | none => s
    | some r =>
      match r.taken with
      | [] => s
      | t :: _ =>
        match t.outcome with
        | some o => if t.gate.isEmpty && locUp s r.loc then drainRing fuel (handBack s k id t o) k id else s
        | none => s

/-- The same with fuel for every entry the ring can hold. -/
def drain (s : State) (k : RingKind) (id : Nat) : State :=
  match getRing s k id with
  | some r => drainRing r.taken.length s k id
  | none => s

/-- Decides the outcome of the entry in `slot`, where it is still open. -/
def decideSlot (s : State) (k : RingKind) (id slot : Nat) (o : Outcome) (gate : List Nat) : State :=
  match getRing s k id with
  | none => s
  | some r => setRing s k id { r with taken := r.taken.map fun t =>
      if t.slot = slot && t.outcome.isNone then { t with outcome := some o, gate := gate } else t }

/-- Decides the outcome of the entry in `slot`, where it is still open; its hand-back waits until what it wrote is visible (R459). -/
def endSlot (s : State) (k : RingKind) (id slot : Nat) (o : Outcome) : State :=
  if (getRing s k id).any fun r => r.taken.any fun t => t.slot == slot && t.outcome.isNone then
    let g := gateEntry s k id slot
    decideSlot g.2 k id slot o g.1
  else s

/-- Bytes of a message that have been sent: all but those of its packets that have no PSN yet. -/
def sentBytes (s : State) (ctx slot : Nat) (m : TpeMsg) : Nat :=
  let unsent (t : TxPkt) : Bool := t.owner == .tpe ctx slot m.id && !t.numbered && t.pkt.op != 2
  m.data.length - match tget s.qps m.qpn with
    | some q => ((q.tx.filter unsent).map fun t => t.pkt.payload.length).sum
    | none => 0

/-- BYTES of a step as far as it has come: what it has written to memory and sent (R342). -/
def runBytes (s : State) (ctx : Nat) (r : TpeRun) : Nat := r.written + (r.out.map (sentBytes s ctx r.slot)).sum

/-- BYTES of an entry that ends unfinished: those of a list step; another kind of entry reports none. -/
def openBytes (s : State) (k : RingKind) (id slot : Nat) : Nat :=
  match k with
  | .tpe => ((tget s.ctxs id).bind fun c => c.runs.find? fun r => r.slot == slot).elim 0 (runBytes s id)
  | _ => 0

/-- Disables a ring (R145): nothing more is read or started, and every outstanding entry completes, with `status` where its outcome is still
open. A Recall ends. -/
def disableRing (s : State) (k : RingKind) (id : Nat) (status : BitVec 8) : State :=
  match getRing s k id with
  | none => s
  | some r0 =>
    let s0 := r0.taken.foldl (fun t x => endSlot t k id x.slot { status := status, sub := 0, bytes := openBytes s k id x.slot, notify := 0 }) s
    match getRing s0 k id with
    | none => s0
    | some r =>
      let s1 := setRing s0 k id { r with state := .disabled, reading := none, run := false, doorbell := false, recallAt := none }
      let s2 := match r.recallAt with
        | some (_, n) => modPage s1 (ringInst s k id) fun p => { p with busy := false, recallCount := BitVec.ofNat 17 n }
        | none => s1
      drain s2 k id

/-! ### Reading slots (R132) -/

/-- Entries read and not started: the prefetch cache. -/
def cached (r : Ring) : List Taken := r.taken.filter fun t => !t.started && t.outcome.isNone

/-- Issues the read of the slot at HEAD where the run of reads is open and the cache has room. -/
def fetchRing (s : State) (k : RingKind) (id : Nat) : State :=
  match getRing s k id with
  | none => s
  | some r =>
    let inst := ringInst s k id
    if serving s && s.pm.state != 2 && r.state == .enabled && r.run && r.reading.isNone && decide ((cached r).length < 16)
        && decide (r.taken.length < r.size) && !(r.taken.any fun t => t.slot == r.head) && !instFrozen s inst && locUp s r.loc then
      emit (setRing s k id { r with reading := some r.head }) (.slotRead (locTarget s inst r.loc) (r.base.toNat + 64 * r.head))
    else s

/-- A doorbell (Table 6-5). -/
def ringDoorbell (s : State) (k : RingKind) (id : Nat) : State :=
  match getRing s k id with
  | none => s
  | some r =>
    match r.state with
    | .disabled => s
    | .recalling => setRing s k id { r with doorbell := true }
    | .enabled => fetchRing (setRing s k id { r with run := true, doorbell := r.reading.isSome }) k id

/-- The ring enters ENABLED: HEAD 0, acting as one doorbell write. Entries of before whose hand-back still waits stay. -/
def enableRing (s : State) (k : RingKind) (id : Nat) : State :=
  match getRing s k id with
  | none => s
  | some r => ringDoorbell (setRing s k id { r with
      state := .enabled, head := 0, reading := none, run := false, doorbell := false, memDead := false, deadBy := none }) k id

/-! ### Recall (R138 to R141) -/

/-- Ends the Recall: the ring is ENABLED and BUSY clears. HEAD goes to the first slot recalled, past posted entries before it that were not
read. (DESIGN CHOICE in part: assumption 108) -/
def recallStop (s : State) (k : RingKind) (id first n : Nat) : State :=
  match getRing s k id with
  | none => s
  | some r =>
    let s1 := setRing s k id { r with
      state := .enabled, recallAt := none, doorbell := false, run := r.run || r.doorbell, head := if n = 0 then r.head else first }
    modPage s1 (ringInst s k id) fun p => { p with busy := false, recallCount := BitVec.ofNat 17 n }

/-- The Recall is done: the run of reads goes on, and a remembered doorbell acts. -/
def recallEnd (s : State) (k : RingKind) (id first n : Nat) : State := fetchRing (recallStop s k id first n) k id

/-- Hands the entry of a slot back with RECALLED, ahead of earlier ones (R139). -/
def recallOne (s : State) (k : RingKind) (id : Nat) (t : Taken) : State :=
  handBack s k id t { status := stRecalled, sub := 0, bytes := 0, notify := 0 }

/-- The procedure of R138 from slot `i` with `n` entries recalled: cached entries first, then slots read from the ring's
memory one by one, for which the ring stays RECALLING. It stands still while a slot read is outstanding or the ring's link is down, and it ends
with a hand-back that could not be written (R144). -/
def recallLoop : Nat → State → RingKind → Nat → Nat → Nat → Nat → State
  | 0, s, k, id, first, _, n => recallEnd s k id first n
  | fuel + 1, s, k, id, first, i, n =>
    match getRing s k id with
    | none => s
    | some r =>
      let rest := setRing s k id { r with recallAt := some (i, n) }
      if r.memDead then recallStop s k id first n
      else if r.size ≤ n then recallEnd s k id first n
      else match r.taken.find? fun t => t.slot == i with
        | some t =>
          if t.started || t.outcome.isSome then recallEnd s k id first n
          else if !locUp s r.loc then rest
          else recallLoop fuel (recallOne s k id t) k id first ((i + 1) % r.size) (n + 1)
        | none =>
          if r.reading.isSome || !locUp s r.loc then rest
          else emit (setRing s k id { r with recallAt := some (i, n), reading := some i })
            (.slotRead (locTarget s (ringInst s k id) r.loc) (r.base.toNat + 64 * i))

/-- A Recall that stood still goes on where it can. -/
def recallGo (s : State) (k : RingKind) (id : Nat) : State :=
  match getRing s k id with
  | none => s
  | some r =>
    match r.recallAt with
    | some (i, n) =>
      if r.state == .recalling && r.reading.isNone && !instFrozen s (ringInst s k id) then
        recallLoop (r.size + 1) s k id (pageOf s (ringInst s k id)).firstRecalled.toNat i n
      else s
    | none => s

/-- The first slot from `i` on that is not taken and started. -/
def skipStarted : Nat → Ring → Nat → Nat
  | 0, _, i => i
  | fuel + 1, r, i =>
    if r.taken.any fun t => t.slot == i && (t.started || t.outcome.isSome) then skipStarted fuel r ((i + 1) % r.size) else i

/-- The ring a word of RECALL_RING names, where the instance owns it: kind and number (Table 6-4, R130). -/
def ringNamed (s : State) (inst : Nat) (w : Word) : Option (RingKind × Nat) :=
  let id := fld w 0 19 0
  match fld w 0 21 20 with
  | 0 => if (tget s.qps id).any (·.inst == inst) then some (.sq, id) else none
  | 1 => if (tget s.qps id).any (·.inst == inst) then some (.rq, id) else none
  | 2 => if (tget s.ctxs (id % 256)).any (·.inst == inst) then some (.tpe, id % 256) else none
  | _ => none

/-- The ring that RECALL_RING names. -/
def recallTarget (s : State) (inst : Nat) : Option (RingKind × Nat) := ringNamed s inst (pageOf s inst).recallRing

/-- A write to RECALL_FIRST. While the instance is FROZEN its rings keep their state, and the Recall begins when it thaws (R147).
(DESIGN CHOICE in part: assumption 108) -/
def recallFirst (s : State) (inst first : Nat) : State :=
  if !pageOpen s inst then s
  else if (pageOf s inst).busy then modPage s inst fun p => { p with collided := true }
  else match recallTarget s inst with
    | none => s
    | some (k, id) =>
      match getRing s k id with
      | none => s
      | some r =>
        if r.state != .enabled then modPage s inst fun p => { p with refused := true, recallCount := 0 }
        else if instFrozen s inst then modPage s inst fun p => { p with refused := false, busy := true, waits := some first }
        else
          let i := skipStarted r.size r (first % r.size)
          let s1 := modPage s inst fun p => { p with refused := false, busy := true, waits := none, firstRecalled := BitVec.ofNat 16 i }
          recallLoop (r.size + 1) (setRing s1 k id { r with state := .recalling }) k id i i 0

/-- The Recall that a freeze held back begins. -/
def recallThaw (s : State) (inst : Nat) : State :=
  match (pageOf s inst).waits with
  | some first => recallFirst (modPage s inst fun p => { p with busy := false, waits := none }) inst first
  | none => s

/-! ### Ring descriptor blocks (R126, R127) -/

/-- The aperture of A port `n` (0 to 3), its size. -/
def apertureSize (s : State) (n : Nat) : Nat :=
  match img s with
  | some i => (i.accel.getD n { present := false, bar := 0, size := 0 }).size
  | none => 0

/-- R127's refusal of `bytes` bytes at `base` of LOCATION `loc`. -/
def locRefusal (s : State) (loc base bytes : Nat) : Option (BitVec 8 × Nat) :=
  if loc = 0 then none
  else if !aportInService s (loc - 1) then some (stAborted, rsUnitOut)
  else if apertureSize s (loc - 1) < base + bytes then some (stAborted, 0x01F0) else none

/-- The refusal of the ring descriptor block at byte `b` for an instance. -/
def blockRefusal (s : State) (inst : Nat) (e : Entry) (b : Nat) : Option (BitVec 8 × Nat) :=
  if !(tget s.cqs (fld e (b + 12) 17 0)).any (·.inst == inst) then some (stAborted, rsNoObject)
  else locRefusal s (fld e (b + 9) 2 0) (fld e b 63 12 * 4096) (64 * 2 ^ fld e (b + 8) 4 0)

/-- The ring a block describes. -/
def blockRing (e : Entry) (b : Nat) : Ring :=
  Ring.create (BitVec.ofNat 64 (fld e b 63 12 * 4096)) (fld e (b + 8) 4 0) (fld e (b + 9) 2 0) (fld e (b + 12) 17 0)

end Sys2Proof.Machine
end

