-- ==== Sys2Proof/Machine/Admin.lean ====
section
/-!
DEFINITION. The admin ring and the event ring (Register Windows and the Admin Interface): enable, disable, fetch with the
checks of R122, event return, START_REPORT, and NOP.
-/

namespace Sys2Proof.Machine

/-! ### Register values that START_REPORT carries (Tables 4-2 and 4-15) -/

/-- GCTL_START_STATUS. -/
def startStatus (s : State) : Word :=
  let st := s.start
  BitVec.ofNat 32 (st.stage.toNat + 2 ^ 4 * st.copyAlt.toNat + 2 ^ 5 * st.fallback.toNat + 2 ^ 6 * st.scrubDone.toNat
    + 2 ^ 7 * st.fwRunning.toNat + 2 ^ 8 * st.seeded.toNat + 2 ^ 9 * st.entropyFailed.toNat)

/-- GCTL_UNIT_MAP. -/
def unitMap (s : State) : Word :=
  let st := s.start
  BitVec.ofNat 32 (st.coreOk.toNat + 2 ^ 16 * st.stackOk.toNat + 2 ^ 22 * st.nportOk.toNat + 2 ^ 26 * st.aportOk.toNat)

/-- Stacks that passed start-up. -/
def stackCount (s : State) : Nat := ((List.range 6).filter fun n => s.start.stackOk.getLsbD n).length

/-- The queue pairs, completion queues and outstanding messages of Table 4-14. -/
def limits (s : State) : Nat × Nat × Nat :=
  match stackCount s with
  | 0 => (0, 0, 0)
  | 1 => (131072, 32768, 32768)
  | 2 => (262144, 65536, 65536)
  | 3 => (524288, 131072, 131072)
  | 4 => (524288, 131072, 131072)
  | _ => (1048576, 262144, 262144)

/-! ### Enable and disable (R115, R116, R124) -/

/-- START_REPORT and the events held before enable (R83, R124). -/
def postReport (s : State) : State :=
  let s1 := putEvent { s with adm := { s.adm with held := [], heldLost := 0, reportOwed := false } } 0x0001 s.time.dev
    (evData [(16, 4, (startStatus s).toNat), (20, 4, (unitMap s).toNat), (24, 2, s.adm.heldLost.toNat)])
  s.adm.held.foldl (fun t e => putEvent t e.code e.time e.data) s1

/-- Posts an owed START_REPORT once the firmware runs and the device is out of Roost. -/
def payReport (s : State) : State :=
  if s.adm.reportOwed && s.adm.enabled && firmware s && s.pm.state != 2 then postReport s else s

/-- A write of 1 to ENABLE whose sizes stand (R115). The first event goes to slot 0 of the event ring.
(DESIGN CHOICE in part: assumption 106) -/
def admEnable (s : State) : State :=
  let legal (n : BitVec 4) := decide (6 ≤ n.toNat) && decide (n.toNat ≤ 12)
  if ready s && !s.adm.enabled && legal s.adm.ringLog2 && legal s.adm.evtLog2 then
    payReport { s with adm := { s.adm with
      enable := true, enabled := true, head := 0, seqNext := s.adm.seqBase, fetching := false, reading := false, bell := false, cmds := [], evtNext := 0
      evtFree := 2 ^ s.adm.evtLog2.toNat, reportOwed := true } }
  else s

/-- A write of the register that holds the sizes and ENABLE (Table 5-5). -/
def admCtrlWrite (s : State) (w : Word) : State :=
  let s1 := if s.adm.enable || s.adm.enabled then s
    else { s with adm := { s.adm with ringLog2 := w.extractLsb' 0 4, evtLog2 := w.extractLsb' 4 4 } }
  if w.getLsbD 8 then admEnable s1 else admSettle { s1 with adm := { s1.adm with enable := false, fetching := false, reading := false, bell := false } }

/-- ADM_ENABLE: a write of 1 to ENABLE. -/
def execAdmEnable (ctrl : Word) (s : State) : Result :=
  let s := heardTlp s
  .next (if live s && ctrl.getLsbD 8 then admCtrlWrite s ctrl else s)

/-- ADM_DISABLE: a write of 0 to ENABLE. -/
def execAdmDisable (ctrl : Word) (s : State) : Result :=
  let s := heardTlp s
  .next (if live s && !ctrl.getLsbD 8 then admCtrlWrite s ctrl else s)

/-- An ADM register that takes writes only while ENABLE and ENABLED are 0 (R116). -/
def admConfig (s : State) (f : Adm → Adm) : State :=
  if s.adm.enable || s.adm.enabled then s else { s with adm := f s.adm }

/-! ### Fetch (R118, R122) -/

/-- A write to DOORBELL: a run of reads from HEAD onward; one that comes during a read is remembered for its end. -/
def admDoorbell (s : State) : State :=
  if s.adm.enable && s.adm.enabled then
    admFetch { s with adm := { s.adm with fetching := true, bell := s.adm.reading } }
  else s

def execAdmDoorbell (s : State) : Result :=
  let s := heardBell s
  .next (if live s then admDoorbell s else s)

/-- The device enters Perch for a malformed admin entry (R122). -/
def admMalformed (s : State) : State := enterPerch s 0x06 s.adm.seqNext

/-- The read of the slot at HEAD is outstanding and its completion can be taken. -/
def admReadOpen (s : State) : Bool := serving s && s.adm.enable && s.adm.enabled && s.adm.reading

/-- ADMIN_ENTRY_FETCHED: the read of the slot at HEAD completes. A slot with OWN 0 ends the run of reads, unless a DOORBELL came during
the read. -/
def execAdminEntryFetched (r : SlotRead) (s : State) : Result :=
  let s := heardTlp s
  if !admReadOpen s then .next s
  else
    let s1 := { s with adm := { s.adm with reading := false, bell := false } }
    match r with
    | .failed => .next (admMalformed s1)
    | .data e =>
      if !bit e 63 7 then .next (admFetch { s1 with adm := { s1.adm with fetching := s.adm.bell } })
      else if fld e 4 31 0 != s.adm.seqNext.toNat || !adminLegal e then .next (admMalformed s1)
      else
        let h := s.adm.head.toNat
        .next (admFetch { s1 with adm := { s1.adm with
          cmds := s.adm.cmds ++ [{ slot := h, entry := e, phase := .queued, since := s.now }]
          head := BitVec.ofNat 12 ((h + 1) % 2 ^ s.adm.ringLog2.toNat), seqNext := s.adm.seqNext + 1 } })

/-! ### Events (R123) -/

/-- A write to EVT_RETURN. The device never holds more returned entries than the ring has. -/
def evtReturn (s : State) (count : Nat) : State :=
  if s.adm.enabled then
    { s with adm := { s.adm with evtFree := min (2 ^ s.adm.evtLog2.toNat) (s.adm.evtFree + count % 65536) } } else s

def execEvtReturn (count : Nat) (s : State) : Result :=
  let s := heardTlp s
  .next (if live s then evtReturn s count else s)

/-- What a PF function-level reset does to the admin interface (R121, R124): events held for a later enable, and those held in Roost,
are discarded and counted. -/
def admFlr (s : State) : State :=
  { s with
    adm := { Adm.reset with heldLost := BitVec.ofNat 16 (s.adm.heldLost.toNat + s.adm.held.length + s.pm.held.length) }
    pm := { s.pm with held := [] } }

/-! ### NOP and the order of commands -/

/-- ADM_NOP (Table 5-9). -/
def execAdmNop (slot : Nat) (s : State) : Result := .next (startAdmin s slot 0x0000 fun _ t => complete t slot)

/-- An earlier command of the ring for which `p` holds is still in execution. -/
def earlierRuns (s : State) (slot : Nat) (p : AdminCmd → Bool) : Bool := (cmdsBefore s slot).any p

/-- The refusal every command naming an instance has first: it is absent, or RESETTING (R378, R383). -/
def instRefusal (s : State) (i : Nat) : Option (BitVec 8 × Nat) :=
  match tget s.insts i with
  | none => some (stAborted, rsNoObject)
  | some x => if x.state == .resetting then some (stAborted, rsBadState) else none

/-- The same, and FROZEN while the instance is frozen. -/
def instRefusalFrozen (s : State) (i : Nat) : Option (BitVec 8 × Nat) :=
  match instRefusal s i with
  | some r => some r
  | none => if instFrozen s i then some (stFrozen, rsNone) else none

/-- The first refusal of a list of cases. -/
def firstRefusal : List (Bool × BitVec 8 × Nat) → Option (BitVec 8 × Nat)
  | [] => none
  | (b, r) :: t => if b then some r else firstRefusal t

/-- Ends the command in `slot`: refused with the first refusal, or `f`. (DEDUCED in part: assumption 30) -/
def settle (s : State) (slot : Nat) (r : Option (BitVec 8 × Nat)) (f : State → State) : State :=
  match r with
  | some (status, reason) => refuse s slot status reason
  | none => f s

end Sys2Proof.Machine
end

