-- ==== Sys2Proof/Machine/Gates.lean ====
section
/-!
DEFINITION. Gate control lists: the gate state at a device time, whether gating is applied, takeovers (10.5, 10.6).
-/

namespace Sys2Proof.Machine

/-- The cycle of a list: the sum of its durations (R248). -/
def GateList.cycle (l : GateList) : Nat := (l.entries.map (·.1)).sum

/-- The entry in force `off` ns into the cycle. -/
def gateIndexAt : List (Nat × BitVec 8) → Nat → Nat
  | [], _ => 0
  | (d, _) :: t, off => if off < d then 0 else gateIndexAt t (off - d) + 1

/-- RUN_INDEX at device time `t` (R248, Table 10-6). -/
def GateList.indexAt (l : GateList) (t : Nat) : Nat :=
  if l.cycle = 0 || decide (t < l.takeover) then 0 else gateIndexAt l.entries ((t - l.takeover) % l.cycle)

/-- The classes a list opens at device time `t`. -/
def GateList.gatesAt (l : GateList) (t : Nat) : BitVec 8 :=
  match l.entries[l.indexAt t]? with
  | some e => e.2
  | none => 0xFF

/-- Gating is applied on the port (R253). -/
def gateApplied (s : State) (p : Port) : Bool := s.time.trusted && p.disagree.isNone

/-- WHY_NOT of Table 10-6. -/
def gateWhyNot (s : State) (p : Port) : Nat :=
  if p.running.isNone || gateApplied s p then 0 else if !s.time.trusted then 1 else 2

/-- The classes open on the port at device time `t`: a pending list governs from its takeover on, and ends a disagreement with it; before it
the running list does while gating is applied (R248, R249, R253, R254). -/
def gatesOpen (s : State) (p : Port) (t : Nat) : BitVec 8 :=
  let now := if gateApplied s p then p.running.elim 0xFF fun r => r.gatesAt t else 0xFF
  match p.pendList with
  | some l => if l.takeover ≤ t then (if s.time.trusted then l.gatesAt t else 0xFF) else now
  | none => now

/-- The device times between `a` and `b` at which a list may change gates: the ends of its entries in the cycles the span meets. -/
def gateEdges (l : GateList) (a b : Nat) : List Nat :=
  if l.cycle = 0 then []
  else
    let c0 := (a - l.takeover) / l.cycle
    let n := (b - a) / l.cycle + 2
    let ends := (l.entries.foldl (fun (acc : Nat × List Nat) e => (acc.1 + e.1, acc.2 ++ [acc.1 + e.1])) (0, [])).2
    ((List.range n).flatMap fun k => ends.map fun e => l.takeover + (c0 + k) * l.cycle + e).filter
      fun t => decide (a < t) && decide (t < b)

/-- Class `c` is open at every instant from `a` until `b` of device time (R249). (DEDUCED in part: assumption 110) -/
def gateFits (s : State) (p : Port) (c a b : Nat) : Bool :=
  let lists := p.running.toList ++ p.pendList.toList
  let times := a :: (p.pendList.toList.map (·.takeover)).filter (fun t => decide (a < t) && decide (t < b))
    ++ lists.flatMap fun l => gateEdges l a b
  times.all fun t => (gatesOpen s p t).getLsbD c

/-- Posts GATE_STATE for a port whose applied state differs from the one last posted (R253). -/
def gateRefreshPort (s : State) (n : Nat) : State :=
  match s.ports[n]? with
  | none => s
  | some p =>
    let now := p.running.isSome && gateApplied s p
    if p.running.isSome && now != p.applied then
      let why := gateWhyNot s p
      let s1 := { s with ports := lmod s.ports n fun q => { q with applied := now } }
      post s1 0x0041 (evData ([(16, 1, n), (17, 1, now.toNat), (18, 1, why)]
        ++ if why = 2 then [(20, 3, p.disagree.getD 0)] else []))
    else s

/-- The same for every port: called when trust or a port's lists change. -/
def gateRefresh (s : State) : State := (List.range 8).foldl gateRefreshPort s

/-- The pending list of a port takes over (R248): it becomes the running list, and a peer disagreement ends (R254). -/
def gateTakeover (s : State) (n : Nat) : State :=
  match s.ports[n]? with
  | none => s
  | some p =>
    match p.pendList with
    | none => s
    | some l =>
      let app := s.time.trusted
      let s1 := { s with ports := lmod s.ports n fun q =>
        { q with running := some l, pendList := none, disagree := none } }
      let s2 := post s1 0x0040 (evData [(16, 1, n), (17, 1, app.toNat), (20, 8, l.takeover)])
      if p.running.isSome then gateRefreshPort s2 n
      else { s2 with ports := lmod s2.ports n fun q => { q with applied := app } }

/-- Every pending list whose instant has come takes over (R248, R251). -/
def gateTakeoversDue (s : State) : State :=
  (List.range 8).foldl (fun s n =>
    match s.ports[n]? with
    | some p => match p.pendList with
      | some l => if l.takeover ≤ s.time.dev.toNat then gateTakeover s n else s
      | none => s
    | none => s) s

/-- GATE_TAKEOVER: device time has reached the takeover instant of the port's pending list (R22, R248). -/
def execGateTakeover (port : Nat) (s : State) : Host.Outcome State Fault Refusal :=
  match s.ports[port]? with
  | some p => match p.pendList with
    | some l => .next (if live s && decide (l.takeover ≤ s.time.dev.toNat) then gateTakeover s port else s)
    | none => .next s
  | none => .next s

end Sys2Proof.Machine
end

