-- ==== Sys2Proof/Machine/Crypto.lean ====
section
/-!
DEFINITION. The cipher algorithms the manual names: AES (FIPS 197), GCM with 96-bit IVs and 16-byte tags (SP 800-38D), and
XTS-AES-256 with ciphertext stealing (IEEE 1619). They follow those standards; the manual cites them and restates nothing.
-/

namespace Sys2Proof.Machine

/-! ### AES -/

/-- The S-box of FIPS 197: byte `i` is bits `[8i+7:8i]`. -/
def sboxTable : Nat :=
  0x16bb54b00f2d99416842e6bf0d89a18cdf2855cee9871e9b948ed9691198f8e19e1dc186b95735610ef6034866b53e708a8bbd4b1f74dde8c6b4a61c2e2578ba08ae7a65eaf4566ca94ed58d6d37c8e779e4959162acd3c25c2406490a3a32e0db0b5ede14b8ee4688902a22dc4f816073195d643d7ea7c41744975fec130ccdd2f3ff1021dab6bcf5389d928f40a351a89f3c507f02f94585334d43fbaaefd0cf584c4a39becb6a5bb1fc20ed00d153842fe329b3d63b52a05a6e1b1a2c830975b227ebe28012079a059618c323c7041531d871f1e5a534ccf73f362693fdb7c072a49cafa2d4adf04759fa7dc982ca76abd7fe2b670130c56f6bf27b777c63

/-- Its inverse. -/
def invSboxTable : Nat :=
  0x7d0c2155631469e126d677ba7e042b17619953833cbbebc8b0f52aae4d3be0a0ef9cc9939f7ae52d0d4ab519a97f51605fec8027591012b131c7078833a8dd1ff45acd78fec0db9a2079d2c64b3e56fc1bbe18aa0e62b76f89c5291d711af1476edf751ce837f9e28535ade72274ac9673e6b4f0cecff297eadc674f4111913a6b8a130103bdafc1020f3fca8f1e2cd00645b3b80558e4f70ad3bc8c00abd890849d8da75746155edab9edfd5048706c92b6655dcc5ca4d41698688664f6f87225d18b6d49a25b76b224d92866a12e084ec3fa420b954cee3d23c2a632947b54cbe9dec444438e3487ff2f9b8239e37cfbd7f3819ea340bf38a53630d56a0952

def subByte (b : Byte) : Byte := BitVec.ofNat 8 (sboxTable >>> (8 * b.toNat))
def invSubByte (b : Byte) : Byte := BitVec.ofNat 8 (invSboxTable >>> (8 * b.toNat))

/-- Multiplication by x in GF(2^8). -/
def xtime (b : Byte) : Byte := if b.getLsbD 7 then (b <<< 1) ^^^ 0x1B else b <<< 1

/-- Multiplication by a small constant in GF(2^8). -/
def gmul (k : Nat) (b : Byte) : Byte :=
  let b2 := xtime b
  let b4 := xtime b2
  let b8 := xtime b4
  (if k % 2 = 1 then b else 0) ^^^ (if k / 2 % 2 = 1 then b2 else 0) ^^^ (if k / 4 % 2 = 1 then b4 else 0)
    ^^^ (if k / 8 % 2 = 1 then b8 else 0)

/-- Byte-wise exclusive or of equally long runs. -/
def xorBytes (a b : Bytes) : Bytes := List.zipWith (· ^^^ ·) a b

/-- One word of the key schedule after `prev`, `nk` words after `old`. -/
def nextWord (nk i : Nat) (rcon : Byte) (prev old : Bytes) : Bytes :=
  let t :=
    if i % nk = 0 then
      match prev with
      | [a, b, c, d] => [subByte b ^^^ rcon, subByte c, subByte d, subByte a]
      | _ => prev
    else if 6 < nk && i % nk == 4 then prev.map subByte else prev
  xorBytes old t

/-- The key schedule, newest word first. -/
def expandKeyLoop : Nat → Nat → Nat → Byte → List Bytes → List Bytes
  | 0, _, _, _, ws => ws
  | fuel + 1, nk, i, rcon, ws =>
    let w := nextWord nk i rcon (ws.headD []) (ws.getD (nk - 1) [])
    expandKeyLoop fuel nk (i + 1) (if i % nk = 0 then xtime rcon else rcon) (w :: ws)

/-- Runs of `n` items. -/
def chunks {α : Type} (n : Nat) : Nat → List α → List (List α)
  | 0, _ => []
  | fuel + 1, l => if l.isEmpty then [] else l.take n :: chunks n fuel (l.drop n)

/-- The round keys of a 16- or 32-byte key. -/
def roundKeys (key : Bytes) : List Bytes :=
  let nk := key.length / 4
  let ws := (expandKeyLoop (4 * (nk + 7) - nk) nk nk 1 (chunks 4 nk key).reverse).reverse
  (chunks 4 (nk + 7) ws).map List.flatten

def shiftRows (b : Bytes) : Bytes := [0, 5, 10, 15, 4, 9, 14, 3, 8, 13, 2, 7, 12, 1, 6, 11].map fun i => b.getD i 0
def invShiftRows (b : Bytes) : Bytes := [0, 13, 10, 7, 4, 1, 14, 11, 8, 5, 2, 15, 12, 9, 6, 3].map fun i => b.getD i 0

/-- One column times a circulant matrix. -/
def mixColumn (m0 m1 m2 m3 : Nat) (c : Bytes) : Bytes :=
  match c with
  | [a, b, d, e] =>
    [gmul m0 a ^^^ gmul m1 b ^^^ gmul m2 d ^^^ gmul m3 e, gmul m3 a ^^^ gmul m0 b ^^^ gmul m1 d ^^^ gmul m2 e,
      gmul m2 a ^^^ gmul m3 b ^^^ gmul m0 d ^^^ gmul m1 e, gmul m1 a ^^^ gmul m2 b ^^^ gmul m3 d ^^^ gmul m0 e]
  | _ => c

def mixColumns (b : Bytes) : Bytes := ((chunks 4 4 b).map (mixColumn 2 3 1 1)).flatten
def invMixColumns (b : Bytes) : Bytes := ((chunks 4 4 b).map (mixColumn 14 11 13 9)).flatten

def aesRounds : List Bytes → Bytes → Bytes
  | [], b => b
  | [k], b => xorBytes (shiftRows (b.map subByte)) k
  | k :: ks, b => aesRounds ks (xorBytes (mixColumns (shiftRows (b.map subByte))) k)

/-- AES on one block under round keys. -/
def aesBlock (rks : List Bytes) (b : Bytes) : Bytes :=
  match rks with
  | [] => b
  | k :: ks => aesRounds ks (xorBytes b k)

def aesInvRounds : List Bytes → Bytes → Bytes
  | [], b => b
  | [k], b => xorBytes ((invShiftRows b).map invSubByte) k
  | k :: ks, b => aesInvRounds ks (invMixColumns (xorBytes ((invShiftRows b).map invSubByte) k))

/-- The inverse cipher. -/
def aesInvBlock (rks : List Bytes) (b : Bytes) : Bytes :=
  match rks.reverse with
  | [] => b
  | k :: ks => aesInvRounds ks (xorBytes b k)

/-! ### GCM -/

/-- One bit step of the product in GF(2^128). -/
def gfStep (x : BitVec 128) (i : Nat) (zv : BitVec 128 × BitVec 128) : BitVec 128 × BitVec 128 :=
  let z := if x.getMsbD i then zv.1 ^^^ zv.2 else zv.1
  let v := if zv.2.getLsbD 0 then (zv.2 >>> 1) ^^^ 0xE1000000000000000000000000000000 else zv.2 >>> 1
  (z, v)

/-- The product of SP 800-38D. -/
def gfMul (x y : BitVec 128) : BitVec 128 := ((List.range 128).foldl (fun zv i => gfStep x i zv) (0, y)).1

/-- A block of up to 16 bytes, padded with zeros, as a field element. -/
def blockVal (b : Bytes) : BitVec 128 := BitVec.ofNat 128 (beNat (slice b 0 16))

/-- GHASH of bytes, padded to a whole block, onto an accumulator. -/
def ghash (h acc : BitVec 128) (bs : Bytes) : BitVec 128 :=
  (chunks 16 (bs.length / 16 + 1) bs).foldl (fun a b => gfMul (a ^^^ blockVal b) h) acc

/-- The counter block after `cb`: its last 32 bits plus 1. -/
def incCounter (cb : Bytes) : Bytes := cb.take 12 ++ beBytes 4 (beNat (cb.drop 12) + 1)

/-- GCTR over bytes from counter block `cb`, and the counter block after it. -/
def gctr (rks : List Bytes) (cb : Bytes) (bs : Bytes) : Bytes × Bytes :=
  (chunks 16 (bs.length / 16 + 1) bs).foldl
    (fun r b => (r.1 ++ xorBytes b ((aesBlock rks r.2).take b.length), incCounter r.2)) ([], cb)

/-- J0 of a 96-bit IV. -/
def gcmJ0 (iv : Bytes) : Bytes := iv ++ [0, 0, 0, 1]

def hashKey (rks : List Bytes) : BitVec 128 := blockVal (aesBlock rks (List.replicate 16 0))

/-- The tag over additional data and ciphertext. -/
def gcmTag (rks : List Bytes) (iv aad ct : Bytes) : Bytes :=
  let h := hashKey rks
  let s := ghash h (ghash h (ghash h 0 aad) ct) (beBytes 8 (8 * aad.length) ++ beBytes 8 (8 * ct.length))
  xorBytes (beBytes 16 s.toNat) (aesBlock rks (gcmJ0 iv))

/-- Ciphertext and tag. -/
def gcmSeal (key iv aad pt : Bytes) : Bytes × Bytes :=
  let rks := roundKeys key
  let ct := (gctr rks (incCounter (gcmJ0 iv)) pt).1
  (ct, gcmTag rks iv aad ct)

/-- The plaintext, where the tag verifies. -/
def gcmOpen (key iv aad ct tag : Bytes) : Option Bytes :=
  let rks := roundKeys key
  if gcmTag rks iv aad ct == tag then some (gctr rks (incCounter (gcmJ0 iv)) ct).1 else none

/-! ### XTS -/

/-- The next tweak: multiplication by the primitive element, little-endian. -/
def xtsNext (t : Bytes) : Bytes :=
  let v := BitVec.ofNat 128 (leNat t)
  leBytes 16 ((if v.getLsbD 127 then (v <<< 1) ^^^ 0x87 else v <<< 1).toNat)

def xtsBlock (enc : Bool) (rks : List Bytes) (t b : Bytes) : Bytes :=
  xorBytes ((if enc then aesBlock else aesInvBlock) rks (xorBytes b t)) t

/-- Whole blocks in order, and the tweak after them. -/
def xtsBlocks (enc : Bool) (rks : List Bytes) (t : Bytes) (bs : List Bytes) : Bytes × Bytes :=
  bs.foldl (fun r b => (r.1 ++ xtsBlock enc rks r.2 b, xtsNext r.2)) ([], t)

/-- One data unit of at least 16 bytes under a 64-byte key and a 16-byte tweak, with ciphertext stealing. -/
def xts (enc : Bool) (key tweak data : Bytes) : Bytes :=
  let rks := roundKeys (key.take 32)
  let t0 := aesBlock (roundKeys (key.drop 32)) tweak
  let part := data.length % 16
  if part = 0 then (xtsBlocks enc rks t0 (chunks 16 (data.length / 16 + 1) data)).1
  else
    let whole := data.length / 16 - 1
    let r := xtsBlocks enc rks t0 (chunks 16 whole (data.take (16 * whole)))
    let last := (data.drop (16 * whole)).take 16
    let tail := data.drop (16 * whole + 16)
    let ta := r.2
    let tb := xtsNext ta
    if enc then
      let cc := xtsBlock true rks ta last
      r.1 ++ xtsBlock true rks tb (tail ++ cc.drop part) ++ cc.take part
    else
      let pp := xtsBlock false rks tb last
      r.1 ++ xtsBlock false rks ta (tail ++ pp.drop part) ++ pp.take part

end Sys2Proof.Machine
end

