-- ==== Sys2Proof/Machine/Wire.lean ====
section
/-!
DEFINITION. Bytes on the wire (Urosh Transport on the Wire): packet headers, control bodies, the envelope, sealing, outer
headers, and the reading of each with its legal values.
-/

namespace Sys2Proof.Machine

/-! ### Packets (Tables 8-7 to 8-9) -/

/-- Bytes 0 to 7 of either packet header. -/
def pktWords (p : Pkt) : Bytes :=
  beBytes 4 (p.op * 2 ^ 28 + p.ackReq.toNat * 2 ^ 26 + p.retx.toNat * 2 ^ 25 + p.last.toNat * 2 ^ 24 + p.dstQpn)
    ++ beBytes 4 p.psn.toNat

/-- ADDR of a Kestrel cell (Table 8-8). -/
def cellAddr (p : Pkt) : Nat :=
  match p.op with
  | 1 | 3 => p.va
  | 4 => p.tag * 2 ^ 50 + p.offset
  | 5 => p.ctx * 2 ^ 49 + p.rank * 2 ^ 37 + p.epoch * 2 ^ 21 + p.offset
  | _ => 0

/-- ADDR of a Kite frame (Table 8-9). -/
def kiteAddr (p : Pkt) : Nat :=
  match p.op with
  | 1 | 3 => p.va
  | 4 | 5 => p.offset
  | _ => 0

/-- The header of a packet. -/
def pktHeader (p : Pkt) : Bytes :=
  if p.cell then pktWords p ++ beBytes 8 (p.payload.length * 2 ^ 58 + cellAddr p)
  else
    let acc := p.op == 5
    let read := p.op == 3 || p.op == 4
    pktWords p ++ beBytes 2 p.payload.length ++ [0, 0]
      ++ beBytes 4 (if acc then p.ctx * 2 ^ 24 + p.rank * 2 ^ 12 else if read then p.tag else 0)
      ++ beBytes 8 (kiteAddr p) ++ beBytes 2 (if acc then p.epoch else 0) ++ List.replicate 6 0

/-- The payload as sent: a cell's is padded to 48 bytes. -/
def pktPayload (p : Pkt) : Bytes := if p.cell then slice p.payload 0 48 else p.payload

/-- The payload of a READ_REQ. -/
def readReqPayload (length tag : Nat) : Bytes := beBytes 4 length ++ beBytes 1 tag ++ [0, 0, 0]

/-- The payload of a NOTIFY. -/
def notifyPayload (data : Word) (length : Nat) : Bytes := beBytes 4 data.toNat ++ beBytes 4 length

/-- The charge of a packet (R219). -/
def pktCharge (p : Pkt) : Nat := if p.cell then 48 else p.payload.length

/-- The fields both headers share, from bytes 0 to 7. -/
def parseWords (h : Bytes) (cell : Bool) : Pkt :=
  { op := beField h 0 4 31 28, cell := cell, last := beField h 0 4 24 24 == 1, retx := beField h 0 4 25 25 == 1
    ackReq := beField h 0 4 26 26 == 1, dstQpn := beField h 0 4 19 0, psn := BitVec.ofNat 32 (beField h 4 4 31 0)
    va := 0, offset := 0, tag := 0, ctx := 0, rank := 0, epoch := 0, payload := [] }

/-- Reserved bits and OP of bytes 0 to 3. -/
def wordsLegal (h : Bytes) : Bool :=
  beField h 0 4 27 27 == 0 && beField h 0 4 23 20 == 0 && decide (1 ≤ beField h 0 4 31 28) && decide (beField h 0 4 31 28 ≤ 5)

/-- A cell from its header and payload, where every field is legal (check 9). -/
def parseCell (h pl : Bytes) : Option Pkt :=
  let p := parseWords h true
  let len := beField h 8 8 63 58
  let q := { p with payload := slice pl 0 len }
  if !(wordsLegal h && decide (1 ≤ len) && decide (len ≤ 48) && beField h 8 8 57 57 == 0) then none
  else match p.op with
    | 1 => some { q with va := beField h 8 8 56 0 }
    | 2 => if len = 8 && beField h 8 8 56 0 == 0 then some q else none
    | 3 => if len = 8 then some { q with va := beField h 8 8 56 0, tag := beField pl 4 1 6 0 } else none
    | 4 => if beField h 8 8 49 32 = 0 then some { q with tag := beField h 8 8 56 50, offset := beField h 8 8 31 0 } else none
    | _ => some { q with ctx := beField h 8 8 56 49, rank := beField h 8 8 48 37, epoch := beField h 8 8 36 21
                         offset := beField h 8 8 20 0 }

/-- A Kite frame from its header and payload, where every field is legal (check 9). -/
def parseKite (h pl : Bytes) : Option Pkt :=
  let p := parseWords h false
  let len := beField h 8 2 13 0
  let q := { p with payload := pl }
  let acc := p.op == 5
  let read := p.op == 3 || p.op == 4
  let a := beField h 16 8 63 0
  if !(wordsLegal h && beField h 8 2 15 14 == 0 && decide (1 ≤ len) && decide (len ≤ 8192) && beField h 10 2 15 0 == 0
      && beField h 12 4 11 7 == 0 && (acc || beField h 12 4 31 12 == 0) && (read || beField h 12 4 6 0 == 0)
      && (acc || beField h 24 2 15 0 == 0) && beField h 26 6 47 0 == 0) then none
  else match p.op with
    | 1 => if a < 2 ^ 57 then some { q with va := a } else none
    | 2 => if len = 8 && a == 0 then some q else none
    | 3 => if len = 8 && decide (a < 2 ^ 57) then some { q with va := a, tag := beField h 12 4 6 0 } else none
    | 4 => if a < 2 ^ 32 then some { q with tag := beField h 12 4 6 0, offset := a } else none
    | _ => if a < 2 ^ 32 then some { q with ctx := beField h 12 4 31 24, rank := beField h 12 4 23 12
                                            epoch := beField h 24 2 15 0, offset := a } else none

/-! ### Control bodies (Tables 8-10 to 8-14) -/

def ctlCommon (op flags len dstQpn : Nat) : Bytes := beBytes 1 op ++ beBytes 1 flags ++ beBytes 2 len ++ beBytes 4 dstQpn

def connBytes (op dstQpn : Nat) (b : ConnBody) : Bytes :=
  ctlCommon op 0 (56 + 8 * b.kettles.length) dstQpn ++ beBytes 4 b.srcQpn ++ beBytes 2 b.srcInst ++ beBytes 2 b.dstInst
    ++ beBytes 4 b.initPsn.toNat ++ beBytes 2 b.reason.toNat ++ [0, 0]
    ++ beBytes 1 b.major ++ beBytes 1 b.minor ++ beBytes 1 b.kettles.length ++ [0] ++ beBytes 4 b.features.toNat
    ++ beBytes 4 b.digest.toNat ++ beBytes 4 b.srcCoord ++ beBytes 8 b.txTime.toNat ++ [BitVec.ofNat 8 b.trusted.toNat]
    ++ List.replicate 7 0
    ++ (b.kettles.map fun k => beBytes 4 k.1.toNat ++ beBytes 2 k.2 ++ [0, 0]).flatten

/-- A control body as sent. -/
def ctlBytes (dstQpn : Nat) : CtlBody → Bytes
  | .ack b =>
    ctlCommon 0x01 (b.nak.toNat + 2 * b.resend.toNat) (32 + 8 * b.sack.length) dstQpn ++ beBytes 4 b.cum.toNat
      ++ beBytes 4 b.trigger.toNat ++ beBytes 4 b.holdNs ++ beBytes 2 b.ce ++ beBytes 1 b.sack.length ++ [0]
      ++ beBytes 4 b.nakPsn.toNat ++ beBytes 1 b.nakStatus.toNat ++ [0] ++ beBytes 2 b.nakSub
      ++ (b.sack.map fun r => beBytes 4 r.1.toNat ++ beBytes 4 r.2.toNat).flatten
  | .moved b =>
    ctlCommon 0x02 0 24 dstQpn ++ beBytes 4 b.refused.toNat ++ beBytes 4 b.coord ++ beBytes 2 b.inst ++ [0, 0] ++ beBytes 4 b.qpn
  | .connReq b => connBytes 0x10 dstQpn b
  | .connAccept b => connBytes 0x11 dstQpn b
  | .connRefuse b => connBytes 0x12 dstQpn b

def word (bs : Bytes) (off : Nat) : Word := BitVec.ofNat 32 (beField bs off 4 31 0)

/-- A handshake body, where every field is legal. -/
def parseConn (b : Bytes) (refuse : Bool) : Option ConnBody :=
  let n := beField b 26 1 7 0
  let reason := beField b 20 2 15 0
  if !(decide (n ≤ 16) && beField b 2 2 15 0 == 56 + 8 * n && beField b 1 1 7 0 == 0 && beField b 8 4 31 20 == 0
      && beField b 12 2 15 11 == 0 && beField b 14 2 15 11 == 0
      && (if refuse then decide (0x0801 ≤ reason) && decide (reason ≤ 0x0804) else reason == 0)
      && beField b 22 2 15 0 == 0 && beField b 27 1 7 0 == 0 && beField b 36 4 31 24 == 0 && beField b 48 1 7 1 == 0
      && beField b 49 7 55 0 == 0 && (List.range n).all fun k => beField b (62 + 8 * k) 2 15 0 == 0) then none
  else some
    { srcQpn := beField b 8 4 19 0, srcInst := beField b 12 2 10 0, dstInst := beField b 14 2 10 0, initPsn := word b 16
      reason := BitVec.ofNat 16 reason, major := beField b 24 1 7 0, minor := beField b 25 1 7 0, features := word b 28
      digest := word b 32, srcCoord := beField b 36 4 23 0, txTime := BitVec.ofNat 64 (beField b 40 8 63 0)
      trusted := beField b 48 1 0 0 == 1
      kettles := (List.range n).map fun k => (word b (56 + 8 * k), beField b (60 + 8 * k) 2 15 0) }

/-- An ACK body, where every field is legal. -/
def parseAck (b : Bytes) : Option AckBody :=
  let f := beField b 1 1 7 0
  let n := beField b 22 1 7 0
  let nak := f % 2 == 1
  let resend := f / 2 % 2 == 1
  let status := beField b 28 1 7 0
  if !(decide (f ≤ 2) && decide (n ≤ 8) && beField b 2 2 15 0 == 32 + 8 * n && beField b 23 1 7 0 == 0
      && (nak || resend || beField b 24 4 31 0 == 0) && (if nak then decide (status ≤ 0x14) else status == 0)
      && beField b 29 1 7 0 == 0 && (nak || beField b 30 2 15 0 == 0)) then none
  else some
    { nak := nak, resend := resend, cum := word b 8, trigger := word b 12, holdNs := beField b 16 4 31 0
      ce := beField b 20 2 15 0, nakPsn := word b 24, nakStatus := BitVec.ofNat 8 status, nakSub := beField b 30 2 15 0
      sack := (List.range n).map fun k => (word b (32 + 8 * k), word b (36 + 8 * k)) }

def parseMoved (b : Bytes) : Option MovedBody :=
  let i := beField b 16 2 10 0
  if !(beField b 1 1 7 0 == 0 && beField b 2 2 15 0 == 24 && beField b 12 4 31 24 == 0 && beField b 16 2 15 11 == 0
      && decide (1 ≤ i) && decide (i ≤ 1024) && beField b 18 2 15 0 == 0 && beField b 20 4 31 20 == 0) then none
  else some { refused := word b 8, coord := beField b 12 4 23 0, inst := i, qpn := beField b 20 4 19 0 }

/-- A control body with its DST_QPN, where every field is legal (check 9). -/
def parseCtl (b : Bytes) : Option (Nat × CtlBody) :=
  if beField b 4 4 31 20 != 0 then none
  else
    let c : Option CtlBody := match beField b 0 1 7 0 with
      | 0x01 => (parseAck b).map .ack
      | 0x02 => (parseMoved b).map .moved
      | 0x10 => (parseConn b false).map .connReq
      | 0x11 => (parseConn b false).map .connAccept
      | 0x12 => (parseConn b true).map .connRefuse
      | _ => none
    c.map fun x => (beField b 4 4 19 0, x)

/-! ### Envelope and sealing (Table 8-6, R190, R351) -/

/-- RX_SPI as sent. -/
def spiOf (peer : Nat) (phase : Bool) : Nat := peer + phase.toNat * 2 ^ 14

def envelope (kind cells spi seq : Nat) : Bytes := beBytes 1 (0x10 + kind) ++ beBytes 1 cells ++ [0, 0] ++ beBytes 4 spi ++ beBytes 8 seq

/-- The parts of a datagram's body in datagram order: headers and payloads. -/
abbrev Parts := List (Bytes × Bytes)

def partsOf (ps : List Pkt) : Parts := ps.map fun p => (pktHeader p, pktPayload p)

/-- Ciphertext put back between the headers. -/
def interleave : Parts → Bytes → Bytes
  | [], _ => []
  | (h, p) :: t, ct => h ++ ct.take p.length ++ interleave t (ct.drop p.length)

/-- The sealed UDP payload: AAD is the envelope and every header, the IV is RX_SPI and SEAL_SEQ as they stand. -/
def sealDatagram (key env : Bytes) (parts : Parts) : Bytes :=
  let r := gcmSeal key (env.drop 4) (env ++ (parts.map (·.1)).flatten) (parts.map (·.2)).flatten
  env ++ interleave parts r.1 ++ r.2

/-- Headers and ciphertexts of a received body. -/
def splitBody (kind cells : Nat) (body : Bytes) : Parts :=
  match kind with
  | 1 => (chunks 64 cells body).map fun c => (c.take 16, c.drop 16)
  | 2 => [(body.take 32, body.drop 32)]
  | _ => [(body, [])]

/-- Plaintext dealt back to the parts. -/
def deal : Parts → Bytes → Parts
  | [], _ => []
  | (h, c) :: t, pt => (h, pt.take c.length) :: deal t (pt.drop c.length)

/-- The body opened, where the tag verifies. -/
def openDatagram (key env : Bytes) (parts : Parts) (tag : Bytes) : Option Parts :=
  (gcmOpen key (env.drop 4) (env ++ (parts.map (·.1)).flatten) (parts.map (·.2)).flatten tag).map (deal parts)

/-- Check 7 of Table 8-17 on a UDP payload. -/
def envelopeLegal (u : Bytes) : Bool :=
  let kind := beField u 0 1 3 0
  let cells := beField u 1 1 7 0
  decide (32 ≤ u.length) && beField u 0 1 7 4 == 1 && beField u 2 2 15 0 == 0 &&
    match kind with
    | 1 => decide (1 ≤ cells) && decide (cells ≤ 64) && u.length == 32 + 64 * cells
    | 2 => cells == 0 && decide (64 ≤ u.length) && u.length == 64 + beField u 24 2 13 0
    | 3 => cells == 0 && decide (40 ≤ u.length) && u.length == 32 + beField u 18 2 15 0
    | _ => false

/-! ### Addresses and outer headers (R185 to R187) -/

/-- The IP address of a coordinate (R185). -/
def ipOf (i : Image) (c : Nat) : Bytes :=
  let pl := planeOf c
  if i.ipv4 then [i.ipv4Net.getD pl 0, BitVec.ofNat 8 (c / 2 ^ 14), BitVec.ofNat 8 (c / 2 ^ 6), BitVec.ofNat 8 (c % 64 * 4 + pl)]
  else slice i.ipv6Prefix (8 * pl) 8 ++ [0, 0, 0, 1, 0] ++ beBytes 3 c

/-- The coordinate R185 maps an address from, where the address lies in a plane of PLANES. (DESIGN CHOICE in part: assumption 47) -/
def coordOf (i : Image) (a : Bytes) : Option Nat :=
  let c := if i.ipv4 then
      let last := (a.getD 3 0).toNat
      last % 4 * 2 ^ 22 + (a.getD 1 0).toNat * 2 ^ 14 + (a.getD 2 0).toNat * 2 ^ 6 + last / 4
    else beField a 13 3 23 0
  if ipOf i c == a && i.planes.getLsbD (planeOf c) then some c else none

/-- The source lies in the prefix or network of a plane in PLANES (check 5). -/
def inFabric (i : Image) (a : Bytes) : Bool :=
  (List.range 4).any fun pl => i.planes.getLsbD pl &&
    (if i.ipv4 then a.getD 0 0 == i.ipv4Net.getD pl 0 else a.take 8 == slice i.ipv6Prefix (8 * pl) 8)

/-- The MAC address of a logical port (R186). -/
def portMac (coord port : Nat) : Bytes := [0x02] ++ beBytes 3 coord ++ [0x00, BitVec.ofNat 8 port]

/-- The ones' complement sum of 16-bit words, folded. -/
def onesSum (bs : Bytes) : Nat :=
  let s := (chunks 2 (bs.length / 2 + 1) bs).foldl (fun a w => a + beNat (slice w 0 2)) 0
  let f := s % 65536 + s / 65536
  f % 65536 + f / 65536

/-- The Internet checksum. -/
def inetChecksum (bs : Bytes) : Nat := 65535 - onesSum bs

/-- The UDP checksum in IPv6 mode, 0 sent as all ones. -/
def udpChecksum6 (src dst udp : Bytes) : Nat :=
  let c := inetChecksum (src ++ dst ++ beBytes 4 udp.length ++ [0, 0, 0, 17] ++ udp)
  if c = 0 then 65535 else c

/-- The Ethernet header with the port's tag where its VID is not 0. -/
def ethHeader (dst src : Bytes) (vid pcp type : Nat) : Bytes :=
  dst ++ src ++ (if vid = 0 then [] else [0x81, 0x00] ++ beBytes 2 (pcp * 2 ^ 13 + vid)) ++ beBytes 2 type

/-- A Urosh frame without its FCS (Table 8-4): `tos` is DSCP and ECN, `sport` the UDP source port, `from_` the coordinate of
the IP source. -/
def frameWith (i : Image) (from_ port : Nat) (hop : Bytes) (tc tos sport dst : Nat) (u : Bytes) : Bytes :=
  let own := i.coord.toNat
  let src := ipOf i from_
  let dest := ipOf i dst
  let udpHead (c : Nat) := beBytes 2 sport ++ beBytes 2 i.udpPort.toNat ++ beBytes 2 (8 + u.length) ++ beBytes 2 c
  let eth := ethHeader hop (portMac own port) (i.vid.getD (port / 2) 0) tc (if i.ipv4 then 0x0800 else 0x86DD)
  if i.ipv4 then
    let h (c : Nat) := [0x45, BitVec.ofNat 8 tos] ++ beBytes 2 (28 + u.length) ++ [0, 0, 0x40, 0, 64, 17] ++ beBytes 2 c ++ src ++ dest
    eth ++ h (inetChecksum (h 0)) ++ udpHead 0 ++ u
  else
    eth ++ beBytes 4 (6 * 2 ^ 28 + tos * 2 ^ 20 + (0x10000 + sport % 256)) ++ beBytes 2 (8 + u.length) ++ [17, 64] ++ src ++ dest
      ++ udpHead (udpChecksum6 src dest (udpHead 0 ++ u)) ++ u

/-- The frame of an own datagram on a path. -/
def uroshFrame (i : Image) (from_ port : Nat) (hop : Bytes) (tc dscp path dst : Nat) (ect : Bool) (u : Bytes) : Bytes :=
  frameWith i from_ port hop tc (dscp * 4 + if ect then 2 else 0) (0xC000 + path) dst u

/-- Bytes of a frame on the wire, FCS included; a short one is padded to 64. -/
def wireLen (f : Bytes) : Nat := max 64 (f.length + 4)

/-! ### The outer headers of a received frame (checks 2 to 6) -/

/-- What checks 2 to 6 find in a frame without its FCS. -/
inductive Outer where
  | bad (check : Nat)
  | arp
  | neighbor
  | ptp
  | urosh (src : Bytes) (pcp : Option Nat) (dscp ecn sport : Nat) (udp : Bytes)
  deriving DecidableEq, Repr

/-- A UDP port of PTP, where PTP runs over UDP on this adapter and the port is not UDP_PORT itself. -/
def ptpUdp (i : Image) (dport : Nat) : Bool := (dport == 319 || dport == 320) && i.ptpPort != 0xF && dport != i.udpPort.toNat

/-- The IPv6 extension headers. (PRESUMED in part: assumption 111) -/
def isExtension (next : Nat) : Bool := [0, 43, 44, 50, 51, 60, 135, 139, 140].contains next

/-- Checks 5 and 6 on an IPv4 packet. -/
def outerIp4 (i : Image) (pcp : Option Nat) (p : Bytes) : Outer :=
  let len := beField p 2 2 15 0
  let udp := slice p 20 (len - 20)
  if !(decide (28 ≤ p.length) && beField p 0 1 7 4 == 4 && beField p 0 1 3 0 == 5 && decide (28 ≤ len) && decide (len ≤ p.length)
      && beField p 6 2 13 0 == 0 && inetChecksum (p.take 20) == 0 && slice p 16 4 == ipOf i i.coord.toNat
      && inFabric i (slice p 12 4)) then .bad 5
  else
    let dport := beField udp 2 2 15 0
    let sum := beField udp 6 2 15 0
    let ok := sum == 0 || inetChecksum (slice p 12 8 ++ [0, 17] ++ beBytes 2 udp.length ++ udp) == 0
    if !(beField p 9 1 7 0 == 17 && beField udp 4 2 15 0 == udp.length && ok) then .bad 6
    else if ptpUdp i dport then .ptp
    else if dport != i.udpPort.toNat then .bad 6
    else .urosh (slice p 12 4) pcp (beField p 1 1 7 2) (beField p 1 1 1 0) (beField udp 0 2 15 0) (udp.drop 8)

/-- Checks 5 and 6 on an IPv6 packet. -/
def outerIp6 (i : Image) (pcp : Option Nat) (p : Bytes) : Outer :=
  let len := beField p 4 2 15 0
  let udp := slice p 40 len
  let src := slice p 8 16
  let dst := slice p 24 16
  let icmp := beField p 6 1 7 0 == 58
  if !(decide (40 ≤ p.length) && beField p 0 1 7 4 == 6 && decide (40 + len ≤ p.length)) then .bad 5
  else if icmp && beField p 40 1 7 0 == 135 then .neighbor
  else if !(!isExtension (beField p 6 1 7 0) && dst == ipOf i i.coord.toNat && inFabric i src) then .bad 5
  else
    let dport := beField udp 2 2 15 0
    let sum := beField udp 6 2 15 0
    let ok := sum != 0 && inetChecksum (src ++ dst ++ beBytes 4 udp.length ++ [0, 0, 0, 17] ++ udp) == 0
    if !(beField p 6 1 7 0 == 17 && decide (8 ≤ len) && beField udp 4 2 15 0 == len && ok) then .bad 6
    else if ptpUdp i dport then .ptp
    else if dport != i.udpPort.toNat then .bad 6
    else .urosh src pcp (beField p 0 4 27 22) (beField p 0 4 21 20) (beField udp 0 2 15 0) (udp.drop 8)

/-- What check 2 lets a group address carry under an IP type: Neighbor Discovery and PTP. -/
def groupIp (i : Image) (p : Bytes) : Bool :=
  if i.ipv4 then beField p 9 1 7 0 == 17 && ptpUdp i (beField p 22 2 15 0)
  else (beField p 6 1 7 0 == 58 && decide (133 ≤ beField p 40 1 7 0) && decide (beField p 40 1 7 0 ≤ 137))
    || (beField p 6 1 7 0 == 17 && ptpUdp i (beField p 42 2 15 0))

/-- Checks 1 to 6 of Table 8-17 on a frame of a logical port, without its FCS. -/
def outerOf (i : Image) (port : Nat) (fcsOk : Bool) (f : Bytes) : Outer :=
  let vid := i.vid.getD (port / 2) 0
  let tagged := beField f 12 2 15 0 == 0x8100
  let tag := beField f 14 2 15 0
  let type := if tagged then beField f 16 2 15 0 else beField f 12 2 15 0
  let p := if tagged then f.drop 18 else f.drop 14
  let own := f.take 6 == portMac i.coord.toNat port
  let group := beField f 0 1 0 0 == 1
  if !fcsOk || decide (9216 < f.length + 4) then .bad 1
  else if !own && !(group && (type == 0x0806 || type == 0x88F7 || (type == (if i.ipv4 then 0x0800 else 0x86DD) && groupIp i p))) then .bad 2
  else if !(if vid = 0 then !tagged || tag % 4096 == 0 else tagged && tag % 4096 == vid) then .bad 3
  else if type = 0x0806 then .arp
  else if type = 0x88F7 then .ptp
  else if type != (if i.ipv4 then 0x0800 else 0x86DD) then .bad 4
  else
    (if i.ipv4 then outerIp4 else outerIp6) i (if vid = 0 then none else some (tag / 2 ^ 13)) p

end Sys2Proof.Machine
end

