-- ==== Sys2Proof/Machine/Ports.lean ====
section
/-!
DEFINITION. The logical ports: their states, PORT_CONTROL, priority flow control, receive reservations, and the answers to
ARP and Neighbor Discovery (Urosh Transport on the Wire; Pacing, Pause and Time Gates).
-/

namespace Sys2Proof.Machine

def modPort (s : State) (n : Nat) (f : Port → Port) : State := { s with ports := lmod s.ports n f }

def modClass (s : State) (n c : Nat) (f : PortClass → PortClass) : State :=
  modPort s n fun p => { p with classes := lmod p.classes c f }

def portOf (s : State) (n : Nat) : Port := s.ports.getD n Port.reset

def classOf (s : State) (n c : Nat) : PortClass := (portOf s n).classes.getD c PortClass.reset

def confOf (s : State) (c : Nat) : ClassConf := s.classes.getD c (ClassConf.reset c)

def portUp (s : State) (n : Nat) : Bool := (portOf s n).state == .up

/-- The adapter's own coordinate. -/
def ownCoord (s : State) : Nat := match img s with | some i => i.coord.toNat | none => 0

/-- The port's rate in units of 400 Gb/s. -/
def portSpeed (s : State) (n : Nat) : Nat :=
  match img s with
  | some i => if i.portMode.getD (n / 2) 0 = 1 then 2 else 1
  | none => 1

/-- Nanoseconds, rounded up, that `len` bytes take on the port's wire: 50 bytes a nanosecond at 400 Gb/s. -/
def wireNs (s : State) (n len : Nat) : Nat := (len + 50 * portSpeed s n - 1) / (50 * portSpeed s n)

/-- `q` pause quanta of 512 bit times on the port, in nanoseconds rounded up. -/
def quantaNs (s : State) (n q : Nat) : Nat := wireNs s n (64 * q)

/-! ### Port states (R182) -/

def portCode : PortState → Nat
  | .disabled => 0
  | .held => 1
  | .training => 2
  | .up => 3

/-- Moves a port and posts PORT_STATE. -/
def movePort (s : State) (n : Nat) (st : PortState) : State :=
  post (modPort s n fun p => { p with state := st, upSince := if st == .up then s.time.dev else p.upSince }) 0x0020
    (evData [(16, 1, n), (17, 1, portCode st)])

/-- The start of the hold of R182 after a change of lock and fault. -/
def holdStart (s : State) (p : Port) (locked faulted : Bool) : Option Nat :=
  let was := p.locked && !p.faulted
  let is_ := locked && !faulted
  if p.since.isSome && was == is_ then p.since else some s.now

/-- ALIGNMENT_LOCK_CHANGE: lock and fault as they now are; `corr` and `uncorr` FEC codewords were counted since the last
change. The hold of 1 ms or 10 us starts anew. -/
def execAlignmentLockChange (port : Nat) (locked faulted : Bool) (corr uncorr : Nat) (s : State) : Result :=
  if running s && (portOf s port).state != .disabled then
    .next (modPort s port fun p =>
      { p with locked := locked, faulted := faulted, since := holdStart s p locked faulted
               fecCorr := (p.fecCorr + corr) % 2 ^ 64, fecUncorr := (p.fecUncorr + uncorr) % 2 ^ 64 })
  else .next s

/-- ETH_REFCLK is good (R182 row 3). -/
def ethClock (s : State) : Bool := s.clocks.good.getLsbD 5

/-- The last hold began at least `ns` ago. -/
def heldFor (s : State) (p : Port) (ns : Nat) : Bool := match p.since with | some t => decide (t + ns ≤ s.now) | none => false

/-- PORT_LOCK_HELD: lock on every lane without fault for 1 ms. -/
def execPortLockHeld (port : Nat) (s : State) : Result :=
  let p := portOf s port
  .next (if running s && p.state == .training && p.locked && !p.faulted && ethClock s && heldFor s p 1000000
    then movePort s port .up else s)

/-- PORT_FAULT_HELD: lock lost, or a fault for 10 us. (DEDUCED in part: assumption 85) -/
def execPortFaultHeld (port : Nat) (s : State) : Result :=
  let p := portOf s port
  .next (if running s && p.state == .up && (!p.locked || (p.faulted && heldFor s p 10000)) then movePort s port .training else s)

/-- Places a port in HELD, its transmitter disabled. -/
def holdPort (s : State) (n : Nat) : State :=
  let st := (portOf s n).state
  if st == .training || st == .up then
    movePort { s with pins := { s.pins with nTxEnable := s.pins.nTxEnable &&& ~~~BitVec.ofNat 8 (2 ^ n) } } n .held
  else s

/-- Returns a HELD port to TRAINING. -/
def unholdPort (s : State) (n : Nat) : State :=
  if (portOf s n).state == .held && !(portOf s n).owlDown then
    movePort { s with pins := { s.pins with nTxEnable := s.pins.nTxEnable ||| BitVec.ofNat 8 (2 ^ n) } } n .training
  else s

/-- Every port that is up or training returns to TRAINING while ETH_REFCLK is lost (R182, Table 3-4). -/
def portsLoseClock (s : State) : State :=
  { s with ports := s.ports.map fun p =>
      if p.state == .up || p.state == .training then { p with state := .training, locked := false, since := none } else p }

/-- The results of PORT_CONTROL (Table 8-3). -/
def portResults (s : State) (n : Nat) (e : Entry) : Entry :=
  let p := portOf s n
  putFld (putFld (putFld (putFld (putFld e 16 1 0 (portCode p.state)) 17 0 0 p.nextHop.isSome.toNat) 24 63 0 p.fecCorr)
    32 63 0 p.fecUncorr) 40 63 0 p.upSince.toNat

/-- PORT_CONTROL (R183, R184). -/
def execPortControl (slot : Nat) (s : State) : Result :=
  .next (startAdmin s slot 0x0003 fun c t =>
    let n := fld c.entry 8 2 0
    let a := fld c.entry 9 1 0
    let p := portOf t n
    settle t slot (firstRefusal [(p.state == .disabled, stAborted, rsUnitOut), (a == 2 && p.owlDown, stAborted, rsBadState)])
      fun t =>
        let t1 := match a with
          | 1 => holdPort t n
          | 2 => unholdPort t n
          | 3 => modPort t n fun q => { q with nextHop := some ((entryBytes c.entry).drop 10 |>.take 6) }
          | _ => t
        completeWith t1 slot (portResults t1 n))

/-! ### Priority flow control, outbound (R243, R244, R247) -/

/-- Class `c` of port `n` is paused by the link partner. -/
def paused (s : State) (n c : Nat) : Bool :=
  match (classOf s n c).pausedTill with
  | some t => decide (s.now < t)
  | none => false

/-- The frame is a priority flow control frame; otherwise a MAC control frame the port discards. -/
def isPfc (f : Bytes) : Bool :=
  f.take 6 == [0x01, 0x80, 0xC2, 0x00, 0x00, 0x01] && beField f 12 2 15 0 == 0x8808 && beField f 14 2 15 0 == 0x0101

/-- Applies one class's time of a pause frame. -/
def pauseClass (s : State) (n c q : Nat) : State :=
  let s1 := count s 1 n (10 + c) 1
  modClass s1 n c fun k =>
    if q = 0 then { k with pausedTill := none, stuck := false }
    else { k with pausedTill := some (s.now + quantaNs s n q), pausedAt := if paused s n c then k.pausedAt else s.now
                  stuck := paused s n c && k.stuck }

/-- A MAC control frame at a port. -/
def macControl (s : State) (port : Nat) (f : Bytes) (fcsOk : Bool) : State :=
  if !(fcsOk && isPfc f) then count s 1 port 26 1
  else (List.range 8).foldl (fun t c =>
    if beField f 16 2 15 0 / 2 ^ c % 2 = 1 && (confOf t c).pfc then pauseClass t port c (beField f (18 + 2 * c) 2 15 0) else t) s

/-- A frame with `k` packets arrives on a logical port; a debug halt discards it uncounted (R482). -/
def heardOn (s : State) (port : Nat) (bytes : Bytes) (k : Nat) : State :=
  if portUp s port && !s.halted then heardFrame s (wireLen bytes) k else s

/-- PFC_FRAME_RECEIVED. -/
def execPfcFrameReceived (port : Nat) (bytes : Bytes) (fcsOk : Bool) (s : State) : Result :=
  let s := heardOn s port bytes 1
  .next (if serving s && portUp s port && beField bytes 12 2 15 0 == 0x8808 then macControl s port bytes fcsOk else s)

/-- PAUSE_EXPIRE. -/
def execPauseExpire (port tc : Nat) (s : State) : Result :=
  .next (if running s && (classOf s port tc).pausedTill.isSome && !paused s port tc then
    modClass s port tc fun k => { k with pausedTill := none, stuck := false } else s)

/-- PAUSE_STUCK_TIMER: 100 ms without a break. -/
def execPauseStuckTimer (port tc : Nat) (s : State) : Result :=
  let k := classOf s port tc
  .next (if running s && paused s port tc && !k.stuck && decide (k.pausedAt + 100000000 ≤ s.now) then
    post (modClass s port tc fun k => { k with stuck := true }) 0x0043 (evData [(16, 1, port), (17, 1, tc)]) else s)

/-! ### Receive reservations and pause frames sent (R245, R246) -/

/-- The pause frame for one class. -/
def pauseFrame (s : State) (port c q : Nat) : Bytes :=
  slice ([0x01, 0x80, 0xC2, 0x00, 0x00, 0x01] ++ portMac (ownCoord s) port ++ [0x88, 0x08, 0x01, 0x01] ++ beBytes 2 (2 ^ c)
    ++ ((List.range 8).map fun i => if i = c then beBytes 2 q else [0, 0]).flatten) 0 60

/-- Puts a frame of R235 in front of the port. -/
def sendCtlFrame (s : State) (port : Nat) (f : Bytes) : State := modPort s port fun p => { p with ctl := p.ctl ++ [f] }

/-- Sends a pause frame for the class with time `q`. -/
def sendPause (s : State) (port c q : Nat) : State := count (sendCtlFrame s port (pauseFrame s port c q)) 1 port (18 + c) 1

/-- What the class's count asks for after it changed: a pause at XOFF, its end at XON, and a new PAUSE_DROP episode. -/
def pauseRule (s : State) (port c : Nat) : State :=
  let k := classOf s port c
  let f := confOf s c
  let s1 := if f.pfc && !k.xoff && decide (f.xoff * 1024 ≤ k.rxCount) then
      modClass (sendPause s port c f.quanta) port c fun x =>
        { x with xoff := true, nextRepeat := s.now + quantaNs s port f.quanta / 2 }
    else if k.xoff && decide (k.rxCount ≤ f.xon * 1024) then
      modClass (sendPause s port c 0) port c fun x => { x with xoff := false }
    else s
  if k.dropPosted && decide (k.rxCount ≤ if f.pfc then f.xon * 1024 else f.reserve * 512) then
    modClass s1 port c fun x => { x with dropPosted := false } else s1

/-- The frame fits the class's reservation. (DEDUCED in part: assumption 44) -/
def rxFits (s : State) (port c len : Nat) : Bool := decide ((classOf s port c).rxCount + len ≤ (confOf s c).reserve * 1024)

/-- Counts an arriving frame's bytes. -/
def rxTake (s : State) (port c len : Nat) : State :=
  pauseRule (modClass s port c fun k => { k with rxCount := k.rxCount + len }) port c

/-- Returns bytes that are placed or discarded. -/
def rxRelease (s : State) (port c len : Nat) : State :=
  if len = 0 then s else pauseRule (modClass s port c fun k => { k with rxCount := k.rxCount - len }) port c

/-- A datagram beyond RX_RESERVE_KIB. -/
def rxDrop (s : State) (port c : Nat) : State :=
  let s1 := count s 1 port (2 + c) 1
  if (classOf s port c).dropPosted then s1
  else post (modClass s1 port c fun k => { k with dropPosted := true }) 0x0042 (evData [(16, 1, port), (17, 1, c)])

/-- PFC_REPEAT_TIMER. -/
def execPfcRepeatTimer (port tc : Nat) (s : State) : Result :=
  let k := classOf s port tc
  let f := confOf s tc
  .next (if running s && k.xoff && decide (f.xon * 1024 ≤ k.rxCount) && decide (k.nextRepeat ≤ s.now) then
    modClass (sendPause s port tc f.quanta) port tc fun x => { x with nextRepeat := s.now + quantaNs s port f.quanta / 2 }
    else s)

/-! ### Answers to ARP and Neighbor Discovery (R186) -/

/-- A frame of the port with its tag, class 0. -/
def portFrame (s : State) (i : Image) (port : Nat) (dst : Bytes) (type : Nat) (body : Bytes) : Bytes :=
  let f := ethHeader dst (portMac (ownCoord s) port) (i.vid.getD (port / 2) 0) 0 type ++ body
  f ++ List.replicate (60 - f.length) 0

/-- The payload of a frame after its tag. -/
def ethBody (f : Bytes) : Bytes := if beField f 12 2 15 0 = 0x8100 then f.drop 18 else f.drop 14

/-- ARP_REQUEST: a request for the adapter's own IPv4 address. -/
def execArpRequest (port : Nat) (bytes : Bytes) (s : State) : Result :=
  let s := heardOn s port bytes 1
  match img s with
  | none => .next s
  | some i =>
    let a := ethBody bytes
    let own := ipOf i i.coord.toNat
    if serving s && portUp s port && i.ipv4 && outerOf i port true bytes == .arp && beField a 0 8 63 0 == 0x0001080006040001
        && slice a 24 4 == own then
      let reply := beBytes 8 0x0001080006040002 ++ portMac i.coord.toNat port ++ own ++ slice a 8 6 ++ slice a 14 4
      .next (sendCtlFrame s port (portFrame s i port (slice a 8 6) 0x0806 reply))
    else .next s

/-- NEIGHBOR_SOLICITATION: for the adapter's own IPv6 address; the answer is the advertisement of RFC 4861. (PRESUMED in part: assumption 50) -/
def execNeighborSolicitation (port : Nat) (bytes : Bytes) (s : State) : Result :=
  let s := heardOn s port bytes 1
  match img s with
  | none => .next s
  | some i =>
    let p := ethBody bytes
    let own := ipOf i i.coord.toNat
    let src := slice p 8 16
    let len := beField p 4 2 15 0
    let icmp := slice p 40 len
    let sum (a b x : Bytes) := inetChecksum (a ++ b ++ beBytes 4 x.length ++ [0, 0, 0, 58] ++ x)
    if serving s && portUp s port && !i.ipv4 && outerOf i port true bytes == .neighbor && beField p 7 1 7 0 == 255
        && decide (24 ≤ len) && sum src (slice p 24 16) icmp == 0 && slice icmp 8 16 == own then
      let dad := src.all (· == 0)
      let dst := if dad then beBytes 16 (0xFF02 * 2 ^ 112 + 1) else src
      let mac := if dad then beBytes 6 0x333300000001 else slice bytes 6 6
      let na (c : Nat) := [136, 0] ++ beBytes 2 c ++ [if dad then 0x20 else 0x60, 0, 0, 0] ++ own ++ [2, 1]
        ++ portMac i.coord.toNat port
      let ip := beBytes 4 (6 * 2 ^ 28) ++ beBytes 2 32 ++ [58, 255] ++ own ++ dst
      .next (sendCtlFrame s port (portFrame s i port mac 0x86DD (ip ++ na (sum own dst (na 0)))))
    else .next s

/-! ### TC_CONFIG_SET (R241) -/

/-- Ends every pause in force for a class whose PFC_EN goes from 1 to 0 (R245), and the pauses it honoured. (DEDUCED in part: assumption 49) -/
def endPauses (s : State) (c : Nat) : State :=
  (List.range 8).foldl (fun t n =>
    let t1 := if (classOf t n c).xoff then sendPause t n c 0 else t
    modClass t1 n c fun k => { k with xoff := false, pausedTill := none, stuck := false }) s

/-- TC_CONFIG_SET. -/
def execTcConfigSet (slot : Nat) (s : State) : Result :=
  .next (startAdmin s slot 0x0611 fun cmd t =>
    let e := cmd.entry
    let c := fld e 8 2 0
    let conf : ClassConf :=
      { dscp := fld e 9 5 0, strict := bit e 10 0, pfc := bit e 10 1, weight := fld e 11 7 0, reserve := fld e 12 15 0
        xoff := fld e 14 15 0, xon := fld e 16 15 0, quanta := fld e 18 15 0 }
    let classes := t.classes.set c conf
    let nports := (t.ports.filter fun p => p.state != .disabled).length
    settle t slot (firstRefusal [(decide (32 * 1024 < (classes.map (·.reserve)).sum * nports), stAborted, 0x0A01)]) fun t =>
      let off := (confOf t c).pfc && !conf.pfc
      let t1 := { t with classes := classes }
      let t2 := if off then endPauses t1 c else t1
      complete ((List.range 8).foldl (fun u n => pauseRule u n c) t2) slot)

end Sys2Proof.Machine
end

