-- ==== Sys2Proof/Machine/Qp.lean ====
section
/-!
DEFINITION. Completion queue commands, queue pair states, what ends a queue pair's work, and the commands that create,
query and destroy queue pairs (Descriptor Rings and Completion; Queue Pairs, Remote Write and Remote Read).
-/

namespace Sys2Proof.Machine

/-! ### The DRBG (R160, R370) -/

/-- The DRBG delivers: it is seeded, and no health failure is being tested (R101, R371). -/
def seedReady (s : State) : Bool := s.start.seeded && !s.start.entropyFailed && !s.cipher.testing

/-- The next value the DRBG delivers: free. After 2^20 generate requests it reseeds first (R370). (DESIGN CHOICE in part: assumption 9) -/
def drawRandom (s : State) : BitVec 512 × State :=
  let full := decide (2 ^ 20 ≤ s.cipher.generated)
  let seeding := if full then s.cipher.seeding + 1 else s.cipher.seeding
  (Config.drbg seeding s.cipher.personal s.cipher.draws,
    { s with cipher := { s.cipher with
        seeding := seeding, draws := s.cipher.draws + 1, generated := if full then 1 else s.cipher.generated + 1
        seededAt := if full then s.now else s.cipher.seededAt } })

/-! ### CQ commands (R156, R157) -/

/-- How many rows of a table satisfy `p`. -/
def tcount {α : Type} (t : Tab α) (p : α → Bool) : Nat := (t.filter fun r => p r.2).length

def quotaOf (s : State) (i : Nat) : Quota :=
  match tget s.insts i with
  | some x => x.quota
  | none => { poolBytes := 0, qps := 0, cqs := 0, messages := 0, saSlots := 0, poolSlots := 0, laSlots := 0, ctxs := 0
              wUnits := 0, aUnits := 0, kettles := 0 }

/-- CQ_CREATE. -/
def execCqCreate (slot : Nat) (s : State) : Result :=
  .next (startAdmin s slot 0x0210 fun c t =>
    let e := c.entry
    let i := cmdInst c
    let n := fld e 8 17 0
    let loc := fld e 13 2 0
    let base := fld e 16 63 12 * 4096
    let log2 := fld e 12 4 0
    let r := match instRefusal t i with
      | some r => some r
      | none => match firstRefusal [(decide ((quotaOf t i).cqs ≤ tcount t.cqs (·.inst == i)), stQuota, rsNone),
          (decide ((limits t).2.1 ≤ n), stAborted, rsUnitOut), ((tget t.cqs n).isSome, stAborted, rsExists)] with
        | some r => some r
        | none => locRefusal t loc base (32 * 2 ^ log2)
    let q : Cq :=
      { inst := i, base := BitVec.ofNat 64 base, log2 := log2, loc := loc, vector := fld e 14 5 0, intEn := bit e 15 0
        modCount := fld e 24 15 0, modTime := fld e 26 9 0, next := 0, free := 2 ^ log2, pending := [], armed := false
        held := [], stall := false, error := false, strike := false }
    settle t slot r fun t => complete { t with cqs := tput t.cqs n q } slot)

/-- The refusal of a command on an existing CQ. -/
def cqRefusal (s : State) (i n : Nat) : Option (BitVec 8 × Nat) :=
  match instRefusal s i with
  | some r => some r
  | none => if (tget s.cqs n).any (·.inst == i) then none else some (stAborted, rsNoObject)

/-- CQ_MODIFY. -/
def execCqModify (slot : Nat) (s : State) : Result :=
  .next (startAdmin s slot 0x0211 fun c t =>
    let e := c.entry
    let n := fld e 8 17 0
    settle t slot (cqRefusal t (cmdInst c) n) fun t =>
      complete (modCq t n fun q =>
        { q with vector := if bit e 12 0 then fld e 14 5 0 else q.vector
                 modCount := if bit e 12 1 then fld e 24 15 0 else q.modCount
                 modTime := if bit e 12 1 then fld e 26 9 0 else q.modTime
                 intEn := if bit e 12 2 then bit e 15 0 else q.intEn }) slot)

/-- A ring is bound to the CQ. -/
def cqBound (s : State) (n : Nat) : Bool :=
  (s.qps.any fun r => r.2.sq.cqn == n || r.2.rq.cqn == n) || s.ctxs.any fun r => r.2.ring.cqn == n

/-- CQ_DESTROY. -/
def execCqDestroy (slot : Nat) (s : State) : Result :=
  .next (startAdmin s slot 0x0212 fun c t =>
    let n := fld c.entry 8 17 0
    let r := match cqRefusal t (cmdInst c) n with
      | some r => some r
      | none => firstRefusal [(cqBound t n || (tget t.cqs n).any fun q => !q.held.isEmpty, stAborted, rsBadState)]
    settle t slot r fun t => complete { t with cqs := tdel t.cqs n } slot)

/-! ### Queue pair states (R164) -/

def qpCode : QpState → Nat
  | .reset => 0
  | .init => 1
  | .ready => 2
  | .draining => 3
  | .error => 4
  | .frozen => 5

/-- A TPE step whose queue pair leaves READY fails with QP_ERROR (R340), unless it has failed already. -/
def tpeQpLost (s : State) (qpn : Nat) : State :=
  let hit (x : TpeRun) : TpeRun := if x.qpns.contains qpn && x.fail.isNone then { x with fail := some (stAborted, 3) } else x
  { s with ctxs := s.ctxs.map fun r => (r.1, { r.2 with runs := r.2.runs.map hit }) }

/-- Moves a queue pair, with its trace record (Table 18-10). -/
def moveQp (s : State) (n : Nat) (st : QpState) : State :=
  match tget s.qps n with
  | none => s
  | some q =>
    let s0 := if st == .ready || st == .frozen then s else tpeQpLost s n
    trace (modQp s0 n fun x => { x with state := st }) (some 2) 0x0012 q.inst
      (evData [(16, 4, n), (20, 1, qpCode q.state), (21, 1, qpCode st)])

/-- INIT, READY or DRAINING. -/
def qpActive (q : Qp) : Bool := q.state == .init || q.state == .ready || q.state == .draining

/-! ### Bytes in flight (R229) -/

def modDest (s : State) (coord : Nat) (f : Dest → Dest) : State := { s with dests := tmod s.dests coord f }

/-- Removes a charge from a destination. -/
def uncharge (s : State) (coord charge : Nat) : State :=
  if charge = 0 then s
  else modDest s coord fun d =>
    { d with inFlight := d.inFlight - charge, idleSince := if d.inFlight ≤ charge then s.now else d.idleSince }

/-- A path's row, HEALTHY where none is held. -/
def newPath (s : State) : Path :=
  { health := .healthy, losses := [], holdUs := s.cong.holdUs, holdEnd := 0, probe := none, cause := none, prev := .healthy }

def pathOf (s : State) (d : Dest) (p : Nat) : Path := (tget d.paths p).getD (newPath s)

def modPath (s : State) (coord p : Nat) (f : Path → Path) : State :=
  match tget s.dests coord with
  | none => s
  | some d => modDest s coord fun d' => { d' with paths := tput d.paths p (f (pathOf s d p)) }

/-- Forgets an unacknowledged packet: its charge, its part in a recovery, and a probe it was. -/
def forgetPkt (coord : Nat) (s : State) (t : TxPkt) : State :=
  let s1 := uncharge s coord t.charge
  let s2 := modDest s1 coord fun d => { d with recovery := d.recovery.filter fun x => !(x == t.id) }
  if t.probe then modPath s2 coord t.path fun p => if p.probe == some t.id then { p with probe := none } else p else s2

/-! ### What a queue pair leaves behind when its work ends (R145, R179) -/

/-- The access belongs to the queue pair. -/
def accOf (qpn : Nat) : AccOwner → Bool
  | .sqRead n _ | .rxPkt n _ | .respRead n _ => n == qpn
  | _ => false

/-- Packets for which `keep` does not hold leave trains, waiting datagrams and limiters. -/
def pullTx (s : State) (keep : Nat × Nat → Bool) : State :=
  { s with
    trains := (s.trains.map fun t => { t with cells := t.cells.filter keep }).filter fun t => !t.cells.isEmpty
    txq := s.txq.filterMap fun d => match d.body with
      | .train ps => if (ps.filter keep).isEmpty then none else some { d with body := .train (ps.filter keep) }
      | .kite n id => if keep (n, id) then some d else none
      | .control .. => some d
    limiters := s.limiters.map fun r => match r.2.slot with
      | some (_, n, id) => if keep (n, id) then r else (r.1, { r.2 with slot := none })
      | none => r }

/-- Packets of the queue pair leave trains, waiting datagrams, limiters and the list of unacknowledged packets. -/
def dropTx (s : State) (qpn : Nat) : State :=
  match tget s.qps qpn with
  | none => s
  | some q =>
    let s1 := q.tx.foldl (forgetPkt q.remoteCoord) s
    pullTx (modQp s1 qpn (fun x => { x with tx := [], resendAt := none })) fun c => !(c.1 == qpn)

/-- Held packets of the queue pair are discarded. -/
def dropHeld (s : State) (qpn : Nat) : State :=
  match tget s.qps qpn with
  | none => s
  | some q =>
    let held := q.recs.filter fun r => r.mark == .held
    let s1 := held.foldl (fun t r => rxRelease t r.port r.cls r.bytes) s
    modQp s1 qpn fun x => { x with recs := x.recs.filter fun r => !(r.mark == .held) }

/-- Work of which only the hand-back is left. -/
def SqWork.decide (w : SqWork) : SqWork := { w with decided := true, tag := none, unacked := [], due := none }

/-- Everything under way for the queue pair ends: sends, reads, waits, held packets, responder resources. The work of an entry not yet handed
back ends with its hand-back. -/
def stopQp (s : State) (qpn : Nat) : State :=
  match tget s.qps qpn with
  | none => s
  | some q =>
    let s1 := dropHeld (dropTx s qpn) qpn
    let kept (w : SqWork) : Bool := q.sq.taken.any fun t => t.slot == w.slot
    let s2 := (q.work.filter fun w => !kept w).foldl (fun t (w : SqWork) => endWork t qpn w.slot) s1
    let s3 := modQp s2 qpn fun x => { x with resp := [], spent := [], work := x.work.map SqWork.decide }
    { s3 with waits := s3.waits.filter fun w => !accOf qpn w.owner, reads := s3.reads.filter fun r => !accOf qpn r.owner }

/-- The queue pair ceases to exist, and what it had outstanding returns. -/
def dropQp (s : State) (qpn : Nat) : State :=
  let s1 := stopQp s qpn
  let s2 := match tget s1.qps qpn with
    | some q => q.work.foldl (fun t (w : SqWork) => endWork t qpn w.slot) s1
    | none => s1
  { s2 with qps := tdel s2.qps qpn }

/-- Ends a QP_MODIFY to READY in execution (R162). -/
def endHandshake (s : State) (qpn : Nat) (status : BitVec 8) (reason : Nat) : State :=
  match tget s.qps qpn with
  | none => s
  | some q =>
    match q.handshake with
    | none => s
    | some h =>
      let s1 := modQp s qpn fun x => { x with handshake := none }
      if status = stOk then complete s1 h.slot else refuse s1 h.slot status reason

/-- The queue pair enters ERROR with the entry that caused it: its outcome is decided by the caller, every other
outstanding entry of both rings ends ABORTED unless its outcome was decided (R143, R145, R179, R180). (DEDUCED in part: assumption 38) -/
def qpError (s : State) (qpn : Nat) (status : BitVec 8) (index : Nat) : State :=
  match tget s.qps qpn with
  | none => s
  | some q =>
    if !qpActive q then s
    else
      let s1 := endHandshake s qpn stAborted rsBadState
      let s2 := modQp (moveQp s1 qpn .error) qpn fun x =>
        if x.errSet then x else { x with errStatus := status, errIndex := BitVec.ofNat 16 index, errSet := true }
      let s3 := stopQp s2 qpn
      disableRing (disableRing s3 .sq qpn stAborted) .rq qpn stAborted

/-- Statuses that move a queue pair to ERROR (Table 7-6). -/
def errorStatus (st : BitVec 8) : Bool :=
  st == stMalformed || st == stRemoteAccess || st == stRemoteInvalid || st == stMoved || st == stTransFault
    || st == stPageTimeout || st == stRetryExceeded || st == stFlushed || st == stCipherCompare || st == stAuthFail

/-- After hand-backs: a ring whose hand-back write failed puts its queue pair into ERROR (R144). -/
def drainQp (s : State) (k : RingKind) (qpn : Nat) : State :=
  let s1 := drain s k qpn
  match getRing s1 k qpn with
  | some r => match r.deadBy with
    | some (slot, status) => if r.state != .disabled then qpError s1 qpn status slot else s1
    | none => s1
  | none => s1

/-- An entry ends with a status: its outcome is decided, an error status moves the queue pair, decided entries at the front
go back. (DEDUCED in part: assumption 39) -/
def endEntry (s : State) (k : RingKind) (qpn slot : Nat) (status : BitVec 8) (sub bytes : Nat) : State :=
  let s1 := endSlot s k qpn slot { status := status, sub := sub, bytes := bytes, notify := 0 }
  let s2 := if k == .sq then modQp s1 qpn fun q => { q with work := q.work.map fun w => if w.slot = slot then { w with decided := true } else w }
    else s1
  if errorStatus status then qpError s2 qpn status slot else drainQp s2 k qpn

/-! ### QP_CREATE, QP_QUERY, QP_DESTROY (R160, R161) -/

/-- A queue pair as created. -/
def Qp.create (inst : Nat) (sq rq : Ring) (psn : Word) : Qp :=
  { inst := inst, state := .reset, frozenFrom := .reset, sq := sq, rq := rq, tc := 0, missMode := false, remoteCoord := 0
    remoteInst := 0, remoteQpn := 0, saId := 0, errStatus := 0, errIndex := 0, errSet := false, returned := false
    sendPsn := psn, initPsn := psn, peerPsn := none, minor := 0, features := 0, handshake := none, work := [], tx := []
    resendAt := none, cumPsn := 0, recs := [], unflushed := [], flushing := [], ackFlush := [], ackTrig := none, ackDue := false, ackCount := 0
    ackExpire := none, ceCount := 0, lastTrig := none, resp := [], spent := [], nextTag := 0, missed := [], moves := [], oldCoord := none, kettles := [] }

/-- What a command that needs the seed does without it (R101): NOT_SEEDED at once after ENTROPY_FAILED, else it waits.
(DEDUCED in part: assumption 60) -/
def awaitSeed (s : State) (slot : Nat) : State :=
  if s.start.entropyFailed then refuse s slot stNotSeeded rsNone else keepRunning s slot

/-- QP_CREATE's refusals. -/
def qpCreateRefusal (s : State) (i n : Nat) (e : Entry) : Option (BitVec 8 × Nat) :=
  match instRefusalFrozen s i with
  | some r => some r
  | none => match firstRefusal [(decide ((quotaOf s i).qps ≤ tcount s.qps (·.inst == i)), stQuota, rsNone),
      (decide ((limits s).1 ≤ n), stAborted, rsUnitOut), ((tget s.qps n).isSome, stAborted, rsExists)] with
    | some r => some r
    | none => match blockRefusal s i e 16 with
      | some r => some r
      | none => blockRefusal s i e 32

/-- QP_CREATE from its start, or again once the seed has come. -/
def qpCreate (c : AdminCmd) (s : State) : State :=
  let e := c.entry
  let n := fld e 8 19 0
  settle s c.slot (qpCreateRefusal s (cmdInst c) n e) fun t =>
    if !seedReady t then awaitSeed t c.slot
    else
      let r := drawRandom t
      let psn := r.1.extractLsb' 0 32
      completeWith { r.2 with qps := tput r.2.qps n (Qp.create (cmdInst c) (blockRing e 16) (blockRing e 32) psn) } c.slot
        fun e => putFld e 48 31 0 psn.toNat

/-- QP_CREATE. A command naming the same QPN goes first (R163). -/
def sameQpn (n : Nat) (b : AdminCmd) : Bool :=
  decide (0x0200 ≤ cmdOpcode b) && decide (cmdOpcode b ≤ 0x0203) && fld b.entry 8 19 0 == n

def execQpCreate (slot : Nat) (s : State) : Result :=
  .next (startAdmin s slot 0x0200 fun c t => if earlierRuns t slot (sameQpn (fld c.entry 8 19 0)) then holdCmd t slot else qpCreate c t)

/-- The refusal of a command on an existing queue pair. -/
def qpRefusal (s : State) (i n : Nat) : Option (BitVec 8 × Nat) :=
  match instRefusal s i with
  | some r => some r
  | none =>
    if !(tget s.qps n).any (·.inst == i) then some (stAborted, rsNoObject)
    else if instFrozen s i then some (stFrozen, rsNone) else none

/-- The results of QP_QUERY (Table 7-1). -/
def qpResults (q : Qp) (e : Entry) : Entry :=
  let reads := (q.work.filter fun w => w.op == 3).length
  let fs : List (Nat × Nat × Nat × Nat) :=
    [(12, 2, 0, qpCode q.state), (12, 6, 4, if q.state == .frozen then qpCode q.frozenFrom else 0),
      (13, 7, 0, q.errStatus.toNat), (14, 15, 0, q.errIndex.toNat), (16, 15, 0, q.sq.head), (18, 15, 0, q.rq.head),
      (20, 16, 0, q.sq.taken.length), (24, 7, 0, reads), (25, 7, 0, q.resp.length), (28, 31, 0, q.sendPsn.toNat),
      (32, 31, 0, q.initPsn.toNat)]
  fs.foldl (fun x f => putFld x f.1 f.2.1 f.2.2.1 f.2.2.2) e

/-- QP_QUERY. -/
def execQpQuery (slot : Nat) (s : State) : Result :=
  .next (startAdmin s slot 0x0202 fun c t =>
    let n := fld c.entry 8 19 0
    if earlierRuns t slot (sameQpn n) then holdCmd t slot
    else settle t slot (qpRefusal t (cmdInst c) n) fun t =>
      match tget t.qps n with
      | some q => completeWith t slot (qpResults q)
      | none => t)

/-- QP_DESTROY. -/
def execQpDestroy (slot : Nat) (s : State) : Result :=
  .next (startAdmin s slot 0x0203 fun c t =>
    let n := fld c.entry 8 19 0
    let owed := (tget t.qps n).any fun q => !q.sq.taken.isEmpty || !q.rq.taken.isEmpty
    if earlierRuns t slot (sameQpn n) || (owed && (qpRefusal t (cmdInst c) n).isNone && (tget t.qps n).any fun q => !qpActive q) then holdCmd t slot
    else
      let bad : Bool := match tget t.qps n with
        | some q => q.state != .reset && q.state != .error
        | none => false
      let r := match qpRefusal t (cmdInst c) n with
        | some r => some r
        | none => if bad then some (stAborted, rsBadState) else none
      settle t slot r fun t => complete (dropQp t n) slot)

end Sys2Proof.Machine
end

