-- ==== Sys2Proof/Machine/Send.lean ====
section
/-!
DEFINITION. The way out (Spraying, Selective Repeat and Congestion; Pacing, Pause and Time Gates): destination entries and
paths, pacing, trains, sending and sealing a datagram, arbitration, loss and repair.
-/

namespace Sys2Proof.Machine

/-! ### Destination entries and paths (R205 to R211) -/

def pathConfOf (s : State) (coord : Nat) : PathConf := (tget s.pathConf coord).getD s.pathDef

/-- The path is configured and not excluded. -/
def configured (c : PathConf) (p : Nat) : Bool := decide (p < c.count) && !c.exclude.getLsbD p

/-- The highest configured path. -/
def highestPath (c : PathConf) : Nat := (((List.range 256).filter (configured c)).getLast?).getD 0

def newDest (s : State) (coord : Nat) : Dest :=
  { cwnd := s.cong.initWndB, srtt := s.cong.targetRttNs / 2, rttvar := s.cong.targetRttNs / 4, lastCut := none, recovery := []
    inFlight := 0, rot := highestPath (pathConfOf s coord), exhausted := false, lastSent := s.now, idleSince := s.now, paths := [] }

/-- The state with a destination entry for the coordinate; none while all 65,536 are in use: one is evicted once nothing has been in flight
and nothing has been sent for 10 ms. -/
def ensureDest (s : State) (coord : Nat) : Option State :=
  if (tget s.dests coord).isSome then some s
  else if s.dests.length < 65536 then some { s with dests := tput s.dests coord (newDest s coord) }
  else match s.dests.find? fun r =>
      r.2.inFlight == 0 && decide (r.2.idleSince + 10000000 ≤ s.now) && decide (r.2.lastSent + 10000000 ≤ s.now) with
    | some r => some { s with dests := tput (tdel s.dests r.1) coord (newDest s coord) }
    | none => none

/-- The logical ports that exist, in ascending order (R207). -/
def livePorts (s : State) : List Nat := (List.range 8).filter fun n => (portOf s n).state != .disabled

/-- The port on which a path leaves. -/
def pathPort (s : State) (p : Nat) : Option Nat :=
  let l := livePorts s
  if l.isEmpty then none else l[p % l.length]?

def onUpPort (s : State) (p : Nat) : Bool := match pathPort s p with | some n => portUp s n | none => false

/-- R209. -/
def usable (s : State) (d : Dest) (conf : PathConf) (p : Nat) : Bool :=
  let h := pathOf s d p
  configured conf p && onUpPort s p && (h.health == .healthy || (h.health == .probing && h.probe.isNone))

/-- Bytes of built frames in a class queue. -/
def queueBytes (s : State) (n c : Nat) : Nat := ((classOf s n c).queue.map fun f => wireLen f.bytes).sum

/-- The frame length of a datagram with a UDP payload of `u` bytes. -/
def frameLen (s : State) (port u : Nat) : Nat :=
  match img s with
  | some i => max 64 (u + 8 + (if i.ipv4 then 20 else 40) + 14 + (if i.vid.getD (port / 2) 0 = 0 then 0 else 4) + 4)
  | none => 0

/-- R233: the path's port takes no datagram of the class now. A port without a next hop sends no Urosh frame (R186). -/
def passedOver (s : State) (c u p : Nat) : Bool :=
  match pathPort s p with
  | none => true
  | some n =>
    paused s n c || !(gatesOpen s (portOf s n) s.time.dev.toNat).getLsbD c || decide (16384 < queueBytes s n c + frameLen s n u)
      || (portOf s n).nextHop.isNone

/-- The paths after the rotation pointer, in ascending order with wraparound. -/
def rotation (d : Dest) : List Nat := (List.range 256).map fun i => (d.rot + 1 + i) % 256

/-- The path of a data datagram with a UDP payload of `u` bytes, and whether it is a probe (R209, R210, R233). -/
def choosePath (s : State) (coord c u : Nat) (used : List Nat) : Option (Nat × Bool) :=
  match tget s.dests coord with
  | none => none
  | some d =>
    let conf := pathConfOf s coord
    let ok (p : Nat) := usable s d conf p && !passedOver s c u p
    match (List.range 256).find? fun p => (pathOf s d p).health == .probing && ok p with
    | some p => some (p, true)
    | none =>
      let l := (rotation d).filter ok
      match l.find? fun p => !used.contains p with
      | some p => some (p, false)
      | none => l.head?.map fun p => (p, false)

/-- The path of a CONTROL datagram: that of the packet it answers where it can be used, else the next usable one (R212). -/
def chooseCtlPath (s : State) (coord c u : Nat) (own : Option Nat) : Option Nat :=
  match tget s.dests coord with
  | none => none
  | some d =>
    let conf := pathConfOf s coord
    let ok (p : Nat) := usable s d conf p && !passedOver s c u p
    match own with
    | some p => if ok p then some p else (rotation d).find? ok
    | none => (rotation d).find? ok

/-- R211: with no HEALTHY path left, every DOWN path on an UP port probes, and PATHS_EXHAUSTED is posted once. -/
def exhaustCheck (s : State) (coord : Nat) : State :=
  match tget s.dests coord with
  | none => s
  | some d =>
    let conf := pathConfOf s coord
    let all := (List.range 256).filter (configured conf)
    if all.any fun p => (pathOf s d p).health == .healthy then
      if d.exhausted then modDest s coord fun x => { x with exhausted := false } else s
    else
      let s1 := all.foldl (fun t p =>
        if (pathOf s d p).health == .down && onUpPort s p then
          modPath t coord p fun x => { x with health := .probing, probe := none } else t) s
      if d.exhausted then s1
      else post (modDest s1 coord fun x => { x with exhausted := true }) 0x0032 (evData [(16, 3, coord)])

/-! ### Control datagrams -/

/-- Queues a control body for the peer that QP `qpn` is bound to, or for `coord` where given. -/
def queueControl (s : State) (qpn coord saId tc : Nat) (path : Option Nat) (dstQpn : Nat) (b : CtlBody) : State :=
  let r := takeFresh s
  { r.2 with txq := r.2.txq ++
      [{ id := r.1, coord := coord, saId := saId, tc := tc, path := path, body := .control qpn dstQpn b, src := none }] }

/-! ### Pacing (R236 to R238) -/

def limiterKey (inst tc : Nat) : Nat := inst * 8 + tc

def limiterOf (s : State) (inst tc : Nat) : Limiter :=
  (tget s.limiters (limiterKey inst tc)).getD { rate := 0, burst := 1, tat := 0, slot := none, robin := 0 }

def modTx (s : State) (qpn id : Nat) (f : TxPkt → TxPkt) : State :=
  modQp s qpn fun q => { q with tx := q.tx.map fun t => if t.id = id then f t else t }

def txOf (s : State) (qpn id : Nat) : Option TxPkt :=
  match tget s.qps qpn with
  | some q => q.tx.find? fun t => t.id == id
  | none => none

/-- Hands a closed train on as a datagram. -/
def closeTrain (s : State) (t : Train) : State :=
  let r := takeFresh { s with trains := s.trains.filter fun x => !(x.coord == t.coord && x.saId == t.saId && x.tc == t.tc) }
  { r.2 with txq := r.2.txq ++ [{ id := r.1, coord := t.coord, saId := t.saId, tc := t.tc, path := none, body := .train t.cells, src := none }] }

/-- A cell joins the open train of its adapter, association and class, or opens one; 64 cells close it (R191, R194). -/
def joinTrain (s : State) (coord saId tc qpn id : Nat) (last : Bool) : State :=
  match s.trains.find? fun t => t.coord == coord && t.saId == saId && t.tc == tc with
  | none => { s with trains := s.trains ++ [{ coord := coord, saId := saId, tc := tc, opened := s.now, last := last, cells := [(qpn, id)] }] }
  | some t =>
    let u := { t with cells := t.cells ++ [(qpn, id)], last := t.last || last }
    if u.cells.length = 64 then closeTrain s u
    else { s with trains := s.trains.map fun x => if x.coord == coord && x.saId == saId && x.tc == tc then u else x }

/-- Offers an eligible packet to the transport. -/
def offerPkt (s : State) (qpn id : Nat) : State :=
  match tget s.qps qpn, txOf s qpn id with
  | some q, some t =>
    let s1 := modTx s qpn id fun x => { x with stage := .offered }
    if t.pkt.cell then joinTrain s1 q.remoteCoord q.saId q.tc qpn id t.pkt.last
    else
      let r := takeFresh s1
      { r.2 with txq := r.2.txq ++
          [{ id := r.1, coord := q.remoteCoord, saId := q.saId, tc := q.tc, path := none, body := .kite qpn id, src := none }] }
  | _, _ => s

/-- A further cell that R191 allows into the train is eligible: it heads its limiter, and its eligible time has come. -/
def cellDue (s : State) (t : Train) : Bool :=
  s.limiters.any fun r => match r.2.slot with
    | some (e, n, id) => decide (e ≤ 256 * s.now) && match tget s.qps n, txOf s n id with
      | some q, some x => x.pkt.cell && q.remoteCoord == t.coord && q.saId == t.saId && q.tc == t.tc
      | _, _ => false
    | none => false

/-- Closes trains that carry a LAST cell when no further cell is eligible (R194). -/
def closeLast (s : State) : State := (s.trains.filter fun t => t.last && !cellDue s t).foldl closeTrain s

/-- The first packet of a queue pair that waits for its limiter. -/
def pacedOf (q : Qp) : Option TxPkt := q.tx.find? fun t => t.stage == .paced

/-- Queue pairs of the limiter with packets ready, in round robin order after the one served last (R238). -/
def pacedQps (s : State) (inst tc robin : Nat) : List Nat :=
  let l := (s.qps.filter fun r => r.2.inst == inst && r.2.tc == tc && (pacedOf r.2).isSome).map (·.1)
  l.filter (fun n => decide (robin < n)) ++ l.filter fun n => decide (n ≤ robin)

/-- R236 for the limiter's head packet: its eligible time and the new TAT, in 1/256 ns. -/
def wheelSlot (s : State) (l : Limiter) : Nat × Nat :=
  let t := 256000000000 / l.rate
  let e := max (256 * s.now) (l.tat - (l.burst - 1) * t)
  (e, max l.tat e + t)

/-- Serves a limiter: all its packets at once at PKT_RATE 0, else one packet onto its wheel. -/
def serveLimiter : Nat → State → Nat → Nat → State
  | 0, s, _, _ => s
  | fuel + 1, s, inst, tc =>
    let l := limiterOf s inst tc
    if l.slot.isSome then s
    else match pacedQps s inst tc l.robin with
      | [] => s
      | n :: _ =>
        match (tget s.qps n).bind pacedOf with
        | none => s
        | some t =>
          let put (x : Limiter) (u : State) : State := { u with limiters := tput u.limiters (limiterKey inst tc) x }
          if l.rate = 0 then serveLimiter fuel (put { l with robin := n } (offerPkt s n t.id)) inst tc
          else
            let w := wheelSlot s l
            put { l with tat := w.2, slot := some (w.1, n, t.id), robin := n } s

/-- Serves the limiter of an instance and class and closes what trains can close. -/
def paceClass (s : State) (inst tc : Nat) : State :=
  let n := ((s.qps.filter fun r => r.2.inst == inst && r.2.tc == tc).map fun r => r.2.tx.length).sum
  closeLast (serveLimiter (n + 1) s inst tc)

/-- The same for the limiter of a queue pair. -/
def pace (s : State) (qpn : Nat) : State :=
  match tget s.qps qpn with
  | some q => paceClass s q.inst q.tc
  | none => s

/-- WHEEL_SLOT: the slot of the limiter's head packet, its eligible time rounded up to 2 ns, comes (R237). -/
def execWheelSlot (inst tc : Nat) (s : State) : Result :=
  let l := limiterOf s inst tc
  match l.slot with
  | some (e, n, id) =>
    if serving s && decide ((e + 511) / 512 * 2 ≤ s.now) then
      let s1 := { s with limiters := tput s.limiters (limiterKey inst tc) { l with slot := none } }
      .next (paceClass (offerPkt s1 n id) inst tc)
    else .next s
  | none => .next s

/-- TRAIN_CLOSE_TIMER: 20 ns since the first cell. -/
def execTrainCloseTimer (coord saId tc : Nat) (s : State) : Result :=
  match s.trains.find? fun t => t.coord == coord && t.saId == saId && t.tc == tc with
  | some t => .next (if serving s && decide (t.opened + 20 ≤ s.now) then closeTrain s t else s)
  | none => .next s

/-- A packet on its way: header fields and payload, nothing sent. -/
def newTx (id : Nat) (owner : TxOwner) (p : Pkt) : TxPkt :=
  { id := id, owner := owner, pkt := p, numbered := false, stage := .paced, charge := 0, path := 0, used := [], again := false
    held := false, sentAt := 0, order := 0, overtaken := 0, deadline := none, repeats := 0, lost := false, everLost := false, lossPaths := []
    probe := false, failMark := 0 }

/-- Appends packets of a message to a queue pair, in order, for its limiter. -/
def enqueue (s : State) (qpn : Nat) (owner : TxOwner) (ps : List Pkt) : State :=
  pace (ps.foldl (fun t p =>
    let r := takeFresh t
    modQp r.2 qpn fun q => { q with tx := q.tx ++ [newTx r.1 owner p] }) s) qpn

/-! ### Cutting messages (R193, R196) -/

/-- A packet of a queue pair with every optional field clear. -/
def blankPkt (q : Qp) (op : Nat) (cell : Bool) : Pkt :=
  { op := op, cell := cell, last := false, retx := false, ackReq := false, dstQpn := q.remoteQpn, psn := 0, va := 0
    offset := 0, tag := 0, ctx := 0, rank := 0, epoch := 0, payload := [] }

/-- The data packets of a message, `mk` giving each its header from its offset; LAST on the last. -/
def cutData (cell : Bool) (data : Bytes) (mk : Nat → Pkt) : List Pkt :=
  let step := if cell then 48 else 8192
  let cs := chunks step (data.length / step + 1) data
  cs.mapIdx fun i c => { mk (i * step) with payload := c, last := i + 1 == cs.length }

/-- The packets of a WRITE or WRITE_NOTIFY. -/
def cutWrite (q : Qp) (w : SqWork) (data : Bytes) : List Pkt :=
  let ps := cutData w.cell data fun off => { blankPkt q 1 w.cell with va := (w.remote + off) % 2 ^ 57 }
  if w.op = 2 then
    ps.map (fun p => { p with last := false }) ++
      [{ blankPkt q 2 w.cell with payload := notifyPayload w.notify w.length, last := true }]
  else ps

/-! ### Sealing (R351, R357, R368) -/

def saOf (s : State) (id : Nat) : Option Sa := tget s.cipher.sas id

def modSa (s : State) (id : Nat) (f : Sa → Sa) : State := { s with cipher := { s.cipher with sas := tmod s.cipher.sas id f } }

/-- The key in a slot. -/
def slotKey (s : State) (n : Nat) : Bytes := match tget s.cipher.keys n with | some k => k.key | none => []

/-- Draws the next SEAL_SEQ of an association, with the events of R357. -/
def drawSeal (s : State) (id : Nat) (a : Sa) : State :=
  let s1 := modSa s id fun x => { x with sealSeq := a.sealSeq + 1, exhausted := a.exhausted || a.sealSeq + 1 == a.limit }
  let s2 := if a.sealSeq + 1 = 2 ^ 43 then post s1 0x0070 (evData [(16, 2, id)]) else s1
  if a.sealSeq + 1 = a.limit then post s2 0x0071 (evData [(16, 2, id)]) else s2

/-- A disagreement of the two computations (R368): counted, and posted at most once a millisecond per kind. -/
def cipherMismatch (s : State) (kind : Nat) : State :=
  let s1 := count s 0 0 (10 + kind) 1
  let quiet := match tget s.cipher.mismatchAt kind with | some t => decide (s.now < t + 1000000) | none => false
  if quiet then s1
  else
    post { s1 with cipher := { s1.cipher with mismatchAt := tput s1.cipher.mismatchAt kind s.now } } 0x0073
      (evData [(16, 1, kind), (20, 4, min (2 ^ 32 - 1) (counter s1 0 0 (10 + kind)))])

/-- What sealing a datagram comes to: it is sealed, both sealings disagreed, or no sequence number is left for the second. -/
inductive Sealed where
  | ok (u : Bytes)
  | failed
  | spent

/-- The association seals nothing more under its transmit key (R357, R401), or its metadata was lost (R474). -/
def sealSpent (a : Sa) : Bool := a.dead || decide (a.limit ≤ a.sealSeq)

/-- Seals parts under an association. `disagree` counts the sealings that disagree. -/
def sealUnder (s : State) (id : Nat) (a : Sa) (kind cells : Nat) (parts : Parts) (disagree : Nat) : State × Sealed :=
  let env (x : Sa) := envelope kind cells (spiOf x.peer x.txPhase) x.sealSeq
  let s1 := drawSeal s id a
  if disagree = 0 then (count s1 2 id 3 1, .ok (sealDatagram (slotKey s a.txSlot) (env a) parts))
  else
    let s2 := cipherMismatch s1 0
    let b := { a with sealSeq := a.sealSeq + 1 }
    if sealSpent b then (s2, .spent)
    else
      let s3 := drawSeal s2 id b
      if disagree = 1 then (count s3 2 id 3 1, .ok (sealDatagram (slotKey s a.txSlot) (env b) parts))
      else (cipherMismatch s3 0, .failed)

/-! ### Sending a datagram (R209, R219, R233, R234) -/

/-- The first PSN a queue pair may not yet send (R219). -/
def psnLimit (q : Qp) : Word :=
  match q.tx.filter (·.numbered) with
  | [] => q.sendPsn + 65536
  | t :: ts => (ts.foldl (fun (m : Word) x => if sdist x.pkt.psn m < 0 then x.pkt.psn else m) t.pkt.psn) + 65536

/-- The packets of a datagram that are still to be sent, in order. -/
def dgramPkts (s : State) (b : TxBody) : List (Nat × TxPkt) :=
  let l := match b with
    | .train ps => ps
    | .kite n id => [(n, id)]
    | .control .. => []
  l.filterMap fun c => match txOf s c.1 c.2 with
    | some t => if t.stage == .offered then some (c.1, t) else none
    | none => none

/-- A packet's turn within its queue pair: no packet before it still waits to take its PSN, nor, for a send of R223 or R230, to be sent
again. Those of `ids` go with it. -/
def inTurn (q : Qp) (t : TxPkt) (ids : List Nat) : Bool :=
  !(q.tx.takeWhile fun x => !(x.id == t.id)).any fun x =>
    (x.stage == .paced || x.stage == .offered) && !ids.contains x.id && ((!t.numbered && !x.numbered) || (t.again && x.again))

/-- Numbers the packets of a datagram as far as their turn, the PSN window and the congestion window let them be sent now; the answer
lists them with their PSNs. `acc` is the charge of those before, `ids` are their numbers. -/
def sendable (s : State) (d : Dest) : List (Nat × TxPkt) → Nat → Tab Word → List Nat → List (Nat × TxPkt)
  | [], _, _, _ => []
  | (n, t) :: rest, acc, next, ids =>
    match tget s.qps n with
    | none => []
    | some q =>
      let add := if t.charge = 0 then pktCharge t.pkt else 0
      let psn := if t.numbered then t.pkt.psn else (tget next n).getD q.sendPsn
      let fits := decide (d.inFlight + acc + add ≤ d.cwnd) || (d.inFlight == 0 && acc == 0)
      if fits && inTurn q t ids && (t.numbered || decide (sdist psn (psnLimit q) < 0)) then
        (n, { t with pkt := { t.pkt with psn := psn } }) ::
          sendable s d rest (acc + add) (if t.numbered then next else tput next n (psn + 1)) (t.id :: ids)
      else []

/-- The tag failures of an association since it was created (R353). -/
def saFails (s : State) (id : Nat) : Nat := (saOf s id).elim 0 (·.fails)

/-- Records that a packet has been placed in a class queue. -/
def noteSent (coord path order : Nat) (probe : Bool) (s : State) (c : Nat × TxPkt) : State :=
  match tget s.qps c.1 with
  | none => s
  | some q =>
    let t := c.2
    let first := !t.numbered
    let add := if t.charge = 0 then pktCharge t.pkt else 0
    let fails := saFails s q.saId
    let asked (w : SqWork) : SqWork :=
      if t.pkt.op = 3 && w.tag == some t.pkt.tag then
        { w with used := w.used ++ [path], req := if first then some t.pkt else w.req, failMark := if first then fails else w.failMark }
      else w
    let s1 := modQp s c.1 fun q => { q with
      sendPsn := if first then t.pkt.psn + 1 else q.sendPsn
      work := q.work.map asked
      tx := q.tx.map fun x => if x.id = t.id then
        { x with pkt := t.pkt, numbered := true, stage := .queued, charge := pktCharge t.pkt, path := path
                 used := x.used ++ [path], again := false, held := false, order := order, overtaken := 0, deadline := none
                 everLost := x.everLost || x.lost, lost := false, probe := probe
                 failMark := if first then fails else x.failMark } else x }
    modDest s1 coord fun d => { d with inFlight := d.inFlight + add, lastSent := s.now }

/-- Places a built frame in its class queue. -/
def pushFrame (s : State) (port c : Nat) (f : TxFrame) : State := modClass s port c fun k => { k with queue := k.queue ++ [f] }

/-- Builds and queues the frame of a sealed datagram on a path; `src` is the coordinate of its IP source. -/
def queueFrame (s : State) (src coord tc path : Nat) (ect : Bool) (u : Bytes) (pkts : List (Nat × Nat)) : State :=
  match img s, pathPort s path with
  | some i, some n =>
    let hop := ((portOf s n).nextHop).getD []
    pushFrame s n tc { bytes := uroshFrame i src n hop tc (confOf s tc).dscp path coord ect u, pkts := pkts }
  | _, _ => s

/-- What a datagram keeps after its first packets went. -/
def keepRest (s : State) (d : TxDgram) (sent : List Nat) : State :=
  { s with txq := s.txq.filterMap fun x =>
      if x.id = d.id then
        match x.body with
        | .train ps =>
          let rest := ps.filter fun c => !sent.contains c.2
          if rest.isEmpty then none else some { x with body := .train rest }
        | _ => none
      else some x }

/-- Both sealings of a datagram disagreed (Table 15-10): every SQ entry that owns a packet of it ends CIPHER_COMPARE, and their queue pairs
enter ERROR. -/
def sealFailed (s : State) (l : List (Nat × TxPkt)) : State :=
  let bad : Outcome := { status := stCipherCompare, sub := 0, bytes := 0, notify := 0 }
  let s1 := l.foldl (fun t c => match c.2.owner with
    | .sq slot => endSlot t .sq c.1 slot bad
    | _ => t) s
  l.foldl (fun t c => match tget t.qps c.1, c.2.owner with
    | some _, .sq slot => endEntry t .sq c.1 slot stCipherCompare 0 0
    | some q, _ => qpError t c.1 stCipherCompare q.sq.head
    | none, _ => t) s1

/-- Sends a data datagram. -/
def sendData (s : State) (d : TxDgram) (disagree : Nat) : State :=
  match dgramPkts s d.body with
  | [] => { s with txq := s.txq.filter fun x => !(x.id == d.id) }
  | all =>
    match ensureDest s d.coord, saOf s d.saId with
    | some s0, some a =>
      let s1 := exhaustCheck s0 d.coord
      match tget s1.dests d.coord with
      | none => s1
      | some de =>
        let ok := sendable s1 de all 0 [] []
        let kite := match d.body with | .kite .. => true | _ => false
        let size (l : List (Nat × TxPkt)) := if kite then 64 + (l.map fun c => c.2.pkt.payload.length).sum else 32 + 64 * l.length
        let len := size ok
        let used := ((ok.filter (·.2.lost)).map fun c => c.2.used).flatten
        if ok.isEmpty || sealSpent a then s1
        else match choosePath s1 d.coord d.tc len used with
          | none => s1
          | some (p, probe) =>
            let now := (if probe then ok.take 1 else ok).map fun c =>
              (c.1, if probe then { c.2 with pkt := { c.2.pkt with ackReq := true } } else c.2)
            let r := sealUnder s1 d.saId a (if kite then 2 else 1) (if kite then 0 else now.length)
              (partsOf (now.map fun c => c.2.pkt)) disagree
            match r.2 with
            | .spent => r.1
            | .failed => sealFailed (keepRest r.1 d (now.map fun c => c.2.id)) now
            | .ok u =>
              let f := takeFresh r.1
              let s2 := now.foldl (noteSent d.coord p f.1 probe) f.2
              let s3 := if probe then modPath s2 d.coord p fun x => { x with probe := (now.head?).map fun c => c.2.id }
                else modDest s2 d.coord fun x => { x with rot := p }
              keepRest (queueFrame s3 (d.src.getD (ownCoord s)) d.coord d.tc p true u (now.map fun c => (c.1, c.2.id))) d (now.map fun c => c.2.id)
    | _, _ => s

/-- The fields of a control body that its sending fills in: HOLD_NS (kept until then as the instant of the arrival), TX_TIME
and TIME_TRUSTED. -/
def stampCtl (s : State) : CtlBody → CtlBody
  | .ack b => .ack { b with holdNs := min (2 ^ 32 - 1) (s.now - b.holdNs) }
  | .moved b => .moved b
  | .connReq b => .connReq { b with txTime := s.time.dev, trusted := s.time.trusted }
  | .connAccept b => .connAccept { b with txTime := s.time.dev, trusted := s.time.trusted }
  | .connRefuse b => .connRefuse { b with txTime := s.time.dev, trusted := s.time.trusted }

/-- Sends a control datagram. -/
def sendCtl (s : State) (d : TxDgram) (qpn dstQpn : Nat) (b : CtlBody) (disagree : Nat) : State :=
  match ensureDest s d.coord, saOf s d.saId with
  | some s0, some a =>
    let s1 := exhaustCheck s0 d.coord
    let body := ctlBytes dstQpn (stampCtl s b)
    if sealSpent a then s1
    else match chooseCtlPath s1 d.coord d.tc (32 + body.length) d.path with
      | none => s1
      | some p =>
        let s2 := { s1 with txq := s1.txq.filter fun x => !(x.id == d.id) }
        let s3 := if d.path == some p then s2 else modDest s2 d.coord fun x => { x with rot := p }
        let r := sealUnder s3 d.saId a 3 0 [(body, [])] disagree
        match r.2 with
        | .spent => { r.1 with txq := s1.txq }
        | .failed => (match tget r.1.qps qpn with
          | some q => qpError r.1 qpn stCipherCompare q.sq.head
          | none => r.1)
        | .ok u => queueFrame (modDest r.1 d.coord fun x => { x with lastSent := s.now }) (d.src.getD (ownCoord s)) d.coord d.tc p false u []
  | _, _ => s

/-- DATAGRAM_SEND. `disagree` is how many of the two sealings disagree (R368); 0 in a sound engine. -/
def execDatagramSend (id disagree : Nat) (s : State) : Result :=
  match s.txq.find? fun d => d.id == id with
  | none => .next s
  | some d =>
    if !serving s || s.pm.state == 2 then .next s
    else if (saOf s d.saId).isNone then .next { s with txq := s.txq.filter fun x => !(x.id == id) }
    else match d.body with
      | .control n dst b => .next (sendCtl s d n dst b disagree)
      | _ => .next (sendData s d disagree)

/-! ### Arbitration (R235, R242, R249) -/

/-- The frame at the head of a class may start now. -/
def classReady (s : State) (n c : Nat) : Option TxFrame :=
  match (classOf s n c).queue with
  | [] => none
  | f :: _ =>
    let t := s.time.dev.toNat
    if !paused s n c && gateFits s (portOf s n) c t (t + wireNs s n (wireLen f.bytes + 8)) then some f else none

/-- Deficit round robin over the classes that are not strict, from the one served last. (DEDUCED in part: assumption 48) -/
def drr : Nat → State → Nat → Nat → Option (Nat × State)
  | 0, _, _, _ => none
  | fuel + 1, s, n, c =>
    match (if (confOf s c).strict then none else classReady s n c) with
    | some f =>
      let len := wireLen f.bytes
      if len ≤ (classOf s n c).deficit then
        some (c, modPort (modClass s n c fun k => { k with deficit := k.deficit - len }) n fun p => { p with robin := c })
      else
        let d := (c + 1) % 8
        drr fuel (earn s n d) n d
    | none =>
      let d := (c + 1) % 8
      drr fuel (earn s n d) n d
where
  /-- A class reached in the round earns its weight where it has a frame that may start; an empty one keeps nothing. -/
  earn (s : State) (n c : Nat) : State :=
    if (classOf s n c).queue.isEmpty then modClass s n c fun k => { k with deficit := 0 }
    else if (classReady s n c).isSome then modClass s n c fun k => { k with deficit := k.deficit + (confOf s c).weight * 1024 }
    else s

/-- The class that starts next: strict classes first, the highest number first. -/
def arbitrate (s : State) (n : Nat) : Option (Nat × State) :=
  match [7, 6, 5, 4, 3, 2, 1, 0].find? fun c => (confOf s c).strict && (classReady s n c).isSome with
  | some c => some (c, s)
  | none =>
    if (List.range 8).any fun c => !(confOf s c).strict && (classReady s n c).isSome then drr 800 s n (portOf s n).robin else none

/-- The retransmit timeout after the `n`-th repeat, in nanoseconds (R220). -/
def rtoNs (s : State) (d : Dest) (n : Nat) : Nat :=
  let mx := s.cong.rtoMaxUs * 1000
  let rto := max (s.cong.rtoMinUs * 1000) (min mx (d.srtt + 4 * d.rttvar))
  min (max mx rto) (rto * 2 ^ n)

/-- The frame of a packet begins transmission: its timer starts (R234). After a hold answer it runs RTO_MAX_US (R222). -/
def startTimer (s : State) (c : Nat × Nat) : State :=
  match tget s.qps c.1, txOf s c.1 c.2 with
  | some q, some t =>
    if t.stage == .queued || t.stage == .wire then
      let d := (tget s.dests q.remoteCoord).getD (newDest s q.remoteCoord)
      let wait := if t.held then s.cong.rtoMaxUs * 1000 else rtoNs s d t.repeats
      let s1 := modTx s c.1 c.2 fun x => { x with stage := .wire, sentAt := s.now, deadline := some (s.now + wait) }
      let mark (w : SqWork) : SqWork := if w.tag == some t.pkt.tag then { w with due := some (s.now + rtoNs s d 0) } else w
      if t.pkt.op = 3 then modQp s1 c.1 fun x => { x with work := x.work.map mark } else s1
    else s
  | _, _ => s

/-- FRAME_TRANSMIT_START: a logical port begins its next frame. -/
def execFrameTransmitStart (port : Nat) (s : State) : Result :=
  let p := portOf s port
  if !serving s || p.state != .up || decide (s.now < p.busyTill) then .next s
  else
    let busy (u : State) (f : Bytes) : State := modPort u port fun q => { q with busyTill := s.now + wireNs s port (wireLen f + 20) }
    match p.ctl with
    | f :: rest => .next (emit (sentFrame (busy (modPort s port fun q => { q with ctl := rest }) f) (wireLen f) 1) (.frame port f))
    | [] =>
      if s.pm.state = 2 then .next s
      else match arbitrate s port with
        | none => .next s
        | some (c, s1) =>
          match (classOf s1 port c).queue with
          | [] => .next s1
          | f :: rest =>
            let s2 := modClass s1 port c fun k => { k with queue := rest }
            let s3 := emit (sentFrame (busy (count s2 1 port 1 1) f.bytes) (wireLen f.bytes) (max 1 f.pkts.length)) (.frame port f.bytes)
            .next (f.pkts.foldl startTimer s3)

/-! ### Loss and repair (R213, R214, R220, R221, R228) -/

/-- The failure of a TPE step that owns a packet is kept for the step (R338). -/
def tpeFail (s : State) (ctx slot msg : Nat) (status : BitVec 8) (sub : Nat) : State :=
  let hit (r : TpeRun) : TpeRun :=
    if r.slot = slot && r.fail.isNone && r.out.any (fun m => m.id == msg) then { r with fail := some (status, sub) } else r
  { s with ctxs := tmod s.ctxs ctx fun c => { c with runs := c.runs.map hit } }

/-- The SQ entry that owns a packet ends with a status, and the queue pair enters ERROR; a list step then fails with QP_ERROR (R340). -/
def ownerFails (s : State) (qpn : Nat) (o : TxOwner) (status : BitVec 8) (sub : Nat) : State :=
  match o, tget s.qps qpn with
  | .sq slot, _ => endEntry s .sq qpn slot status sub 0
  | _, some q => qpError s qpn status q.sq.head
  | _, none => s

/-- The packet of an owner has been answered NAK (R223): a list step takes the NAK's status (R340). -/
def failByNak (s : State) (qpn : Nat) (o : TxOwner) (status : BitVec 8) (sub : Nat) : State :=
  match o with
  | .tpe ctx slot msg => ownerFails (tpeFail s ctx slot msg status sub) qpn o status sub
  | _ => ownerFails s qpn o status sub

/-- The status of exhausted repeats (R221). -/
def exhaustedStatus (s : State) (q : Qp) (o : TxOwner) (mark : Nat) : BitVec 8 :=
  match o with
  | .sq _ => if mark < saFails s q.saId then stAuthFail else stRetryExceeded
  | _ => stRetryExceeded

/-- Nothing can be sent to the destination now: no path can be used (R209, R211), or the association is exhausted (R357). -/
def sendBlocked (s : State) (coord saId : Nat) : Bool :=
  let d := (tget s.dests coord).getD (newDest s coord)
  !(saOf s saId).any (fun a => !sealSpent a) || !(List.range 256).any (usable s d (pathConfOf s coord))

/-- Declares a packet lost: its charge goes, the destination is in recovery, and the packet is repeated or its repeats are
exhausted. Its timer runs on until the repeat is sent: an expiry while nothing can be sent counts as a repeat (R211, R221). -/
def loseOne (s : State) (qpn id : Nat) : State :=
  match tget s.qps qpn, txOf s qpn id with
  | some q, some t =>
    let s1 := modDest (uncharge s q.remoteCoord t.charge) q.remoteCoord fun d =>
      { d with recovery := d.recovery.filter (fun x => !(x == id)) ++ [id] }
    let s2 := if t.probe then modPath s1 q.remoteCoord t.path fun p => if p.probe == some id then { p with probe := none } else p
      else s1
    if s.cong.maxRepeats ≤ t.repeats then ownerFails (modTx s2 qpn id fun x => { x with charge := 0 }) qpn t.owner
      (exhaustedStatus s q t.owner t.failMark) 0
    else
      modTx s2 qpn id fun x => { x with
        charge := 0, stage := if x.lost then x.stage else .paced, repeats := x.repeats + 1, lost := true, again := false
        deadline := some (s.now + rtoNs s ((tget s.dests q.remoteCoord).getD (newDest s q.remoteCoord)) (x.repeats + 1))
        lossPaths := if x.lost then x.lossPaths else x.lossPaths ++ [x.path]
        probe := false, pkt := { x.pkt with retx := true, ackReq := true } }
  | _, _ => s

/-- Packets in flight on a path of a destination: queue pair and packet. -/
def inFlightOn (s : State) (coord p : Nat) : List (Nat × TxPkt) :=
  s.qps.flatMap fun r =>
    if r.2.remoteCoord = coord then
      (r.2.tx.filter fun t => t.path == p && t.numbered && (t.stage == .queued || t.stage == .wire)).map fun t => (r.1, t)
    else []

/-- Starts the hold of a path that goes DOWN. -/
def downPath (s : State) (coord p holdUs : Nat) (cause : Nat) (prev : Health) : State :=
  modPath s coord p fun x => { x with
    health := .down, holdUs := holdUs, holdEnd := s.now + holdUs * 1000, probe := none, cause := some cause, prev := prev }

/-- Attributes a loss to its path (Table 9-2); a path that goes DOWN loses everything in flight on it. -/
def attributeLoss (s : State) (coord p id : Nat) : State :=
  match tget s.dests coord with
  | none => s
  | some d =>
    if !configured (pathConfOf s coord) p then s
    else
      let x := pathOf s d p
      let recent := x.losses.filter (fun l => decide (s.now < l.1 + s.cong.lossWinUs * 1000)) ++ [(s.now, id)]
      let s1 := modPath s coord p fun y => { y with losses := recent }
      match x.health with
      | .down => s1
      | .probing =>
        exhaustCheck (downPath s1 coord p (min (2 * x.holdUs) (max s.cong.holdUs (s.cong.holdMaxMs * 1000))) id .probing) coord
      | .healthy =>
        if recent.length < s.cong.lossLimit then s1
        else
          let s2 := post (downPath s1 coord p s.cong.holdUs id .healthy) 0x0030
            (evData [(16, 3, coord), (19, 1, p), (20, 1, recent.length)])
          let s3 := (inFlightOn s2 coord p).foldl (fun t c =>
            modPath (loseOne t c.1 c.2.id) coord p fun y => { y with losses := y.losses ++ [(s.now, c.2.id)] }) s2
          exhaustCheck s3 coord

/-- Declares a packet lost, with its path's share; repeats are offered again. -/
def declareLost (s : State) (qpn id : Nat) : State :=
  match tget s.qps qpn, txOf s qpn id with
  | some q, some t =>
    let s1 := if t.lost then loseOne s qpn id else attributeLoss (loseOne s qpn id) q.remoteCoord t.path id
    (s1.qps.filter fun r => (pacedOf r.2).isSome).foldl (fun u r => pace u r.1) s1
  | _, _ => s

/-- The window on a timer expiry (R228). -/
def expiryCut (s : State) (coord : Nat) : State :=
  modDest s coord fun d =>
    if (match d.lastCut with | some t => decide (d.srtt ≤ s.now - t) | none => true) then
      { d with cwnd := max s.cong.minWndB (d.cwnd / 2), lastCut := some s.now } else d

/-- RETRANSMIT_TIMEOUT: of a packet on the wire, or of one whose repeat nothing can carry (R221). (DESIGN CHOICE in part: assumption 3) -/
def execRetransmitTimeout (qpn id : Nat) (s : State) : Result :=
  match tget s.qps qpn, txOf s qpn id with
  | some q, some t =>
    let due := (match t.deadline with | some e => decide (e ≤ s.now) | none => false)
      && (t.stage == .wire || (t.lost && (t.stage == .paced || t.stage == .offered) && sendBlocked s q.remoteCoord q.saId))
    .next (if serving s && s.pm.state != 2 && due && q.state != .frozen then declareLost (expiryCut s q.remoteCoord) qpn id else s)
  | _, _ => .next s

/-- PATH_HOLD_EXPIRE: the hold of a DOWN path ends. -/
def execPathHoldExpire (coord path : Nat) (s : State) : Result :=
  match tget s.dests coord with
  | none => .next s
  | some d =>
    let x := pathOf s d path
    .next (if running s && x.health == .down && decide (x.holdEnd ≤ s.now) then
      modPath s coord path fun y => { y with health := .probing, probe := none } else s)

/-- R214: a loss is withdrawn; the path it moved returns to its earlier state. -/
def withdrawLoss (id coord : Nat) (s : State) (p : Nat) : State :=
  match tget s.dests coord with
  | none => s
  | some d =>
    if (tget d.paths p).isNone then s
    else exhaustCheck (modPath s coord p fun x =>
      { x with losses := x.losses.filter (fun l => !(l.2 == id))
               health := if x.cause == some id && x.health != .healthy then x.prev else x.health
               cause := if x.cause == some id then none else x.cause }) coord

end Sys2Proof.Machine
end

