-- ==== Sys2Proof/Machine/Pool.lean ====
section
/-!
DEFINITION. Pool memory (Pool Memory): the stacks' ranges, allocation, reads and writes with the written flags, failed
lines and page encryption, and the region commands.
-/

namespace Sys2Proof.Machine

/-! ### Layout (R95, R277) -/

/-- Where the state reserve begins (Table 12-1). -/
def reserveBase (s : State) : Nat :=
  match stackCount s with
  | 0 => 0
  | 1 => 0x3C0000000
  | 2 => 0x780000000
  | 3 => 0xB00000000
  | 4 => 0xF00000000
  | 5 => 0x1200000000
  | _ => 0x1600000000

/-- Bytes a mirror is charged (R265). (DEDUCED in part: assumption 92) -/
def mirrorBytes (m : Mirror) : Nat := 32 * m.maxEntries

/-! ### Allocation (R278, R280) -/

/-- Every allocation: base and size. -/
def allocs (s : State) : List (Nat × Nat) :=
  s.pool.regions.map (fun r => (r.base, r.size)) ++ s.pool.zeroing.map (fun z => (z.base, z.size))
    ++ s.mirrors.map (fun r => (r.2.base, mirrorBytes r.2)) ++ (s.ctxs.filter fun r => r.2.stageBytes != 0).map (fun r => (r.2.stageBase, r.2.stageBytes))
    ++ match s.trace.ring with
      | some (b, l) => [(b, 2 ^ l)]
      | none => []

/-- No allocation meets `[a, a + n)`. -/
def freeAt (s : State) (a n : Nat) : Bool := (allocs s).all fun x => !overlaps a n x.1 x.2

def alignUp (a unit : Nat) : Nat := (a + unit - 1) / unit * unit

/-- The lowest aligned free address in `[lo, hi)`: it is `lo` or the end of an allocation, rounded up. -/
def lowestFree (s : State) (size unit lo hi : Nat) : Option Nat :=
  (((alignUp lo unit :: (allocs s).map fun x => alignUp (max lo (x.1 + x.2)) unit).filter fun a =>
    decide (a + size ≤ hi) && freeAt s a size).min?)

/-- The free extents of the allocatable pool: start and end. -/
def freeGaps (s : State) : List (Nat × Nat) :=
  let al := allocs s
  let hi := reserveBase s
  (0 :: al.map fun x => x.1 + x.2).dedup.filterMap fun a =>
    let e := ((al.filterMap fun x => if a ≤ x.1 && x.2 != 0 then some x.1 else none) ++ [hi]).foldl min hi
    if a < e && freeAt s a 1 then some (a, e) else none

/-- FREE_LARGEST of Table 12-3. -/
def freeLargest (s : State) : Nat :=
  ((freeGaps s).map fun g => g.2 / 2 ^ 21 * 2 ^ 21 - alignUp g.1 (2 ^ 21)).foldl max 0

/-- A place for an allocation the device places as it likes: any 4 KiB boundary of any free extent that fits.
(DESIGN CHOICE in part: assumption 8) -/
def anyPlace (s : State) (size : Nat) : Option Nat :=
  let fits := (freeGaps s).filter fun g => decide (alignUp g.1 4096 + size ≤ g.2)
  match fits[Config.place s.fresh % fits.length]? with
  | some g =>
    let a := alignUp g.1 4096
    some (a + 4096 * (Config.place (s.fresh + 1) % ((g.2 - size - a) / 4096 + 1)))
  | none => none

/-- Pool bytes an instance uses (Table 16-4): regions, mirror and staging. -/
def poolUse (s : State) (i : Nat) : Nat :=
  ((s.pool.regions.filter fun r => r.inst == i).map (·.size)).sum
    + ((s.pool.zeroing.filter fun z => z.inst == i).map (·.size)).sum
    + (match tget s.mirrors i with | some m => mirrorBytes m | none => 0)
    + ((s.ctxs.filter fun r => r.2.inst == i).map fun r => r.2.stageBytes).sum

/-! ### Reading and writing (R283 to R289) -/

/-- The POOL key an instance loaded under a KSEL (R358). -/
def poolKey (s : State) (inst ksel : Nat) : Bytes :=
  match s.cipher.keys.find? fun r => r.2.type == 1 && r.2.inst == inst && r.2.ksel == ksel with
  | some r => r.2.key
  | none => []

/-- XTS over one 4 KiB block (R286). -/
def blockXts (s : State) (enc : Bool) (inst ksel blk : Nat) (bs : Bytes) : Bytes :=
  if ksel = 0 then bs else xts enc (poolKey s inst ksel) (leBytes 16 blk) bs

/-- The plaintext of a block as the instance reads it; zeros while its written flag is clear (R285). -/
def blockPlain (s : State) (inst ksel blk : Nat) : Bytes :=
  if writtenFlag s blk then blockXts s false inst ksel blk (memRead s.pool.mem (4096 * blk) 4096) else List.replicate 4096 0

/-- The blocks, and the lines, that `[a, a + n)` meets. -/
def spanOf (unit a n : Nat) : List Nat := if n = 0 then [] else (List.range ((a + n - 1) / unit - a / unit + 1)).map fun i => a / unit + i

/-- Reads `n` bytes at pool physical address `a`; none at an uncorrectable line, or where the two XTS computations disagree (R368). A clear block reads as zeros without the
stack. -/
def poolRead (s : State) (inst ksel a n : Nat) : Option Bytes :=
  if ((spanOf 64 a n).any fun l => writtenFlag s (l / 64) && lineFailed s l) || (s.cipher.xts && ksel != 0) then none
  else some ((((spanOf 4096 a n).map (blockPlain s inst ksel)).flatten.drop (a % 4096)).take n)

/-- Stores plaintext into one block, at offset `off`; the first write into a clear block writes all of it. -/
def storeBlock (s : State) (inst ksel blk off : Nat) (bs : Bytes) : State :=
  let p := blockPlain s inst ksel blk
  let q := p.take off ++ bs ++ p.drop (off + bs.length)
  { s with pool := { s.pool with
      mem := memWrite s.pool.mem (4096 * blk) (blockXts s true inst ksel blk q)
      written := if writtenFlag s blk then s.pool.written else blk :: s.pool.written
      failed := s.pool.failed.filter fun l =>
        !(l / 64 == blk && (!writtenFlag s blk || (decide (4096 * blk + off ≤ 64 * l) && decide (64 * l + 64 ≤ 4096 * blk + off + bs.length)))) } }

/-- Stores bytes block by block. -/
def storeSpan : Nat → State → Nat → Nat → Nat → Bytes → State
  | 0, s, _, _, _, _ => s
  | fuel + 1, s, inst, ksel, a, bs =>
    if bs.isEmpty then s
    else
      let n := min bs.length (4096 - a % 4096)
      storeSpan fuel (storeBlock s inst ksel (a / 4096) (a % 4096) (bs.take n)) inst ksel (a + n) (bs.drop n)

def poolStore (s : State) (inst ksel a : Nat) (bs : Bytes) : State := storeSpan (bs.length / 4096 + 2) s inst ksel a bs

/-- The line stops the write of `[a, a + n)`: it failed and is written only in part, or its stack is out (R289). -/
def writeBlocked (s : State) (a n line : Nat) : Bool :=
  let whole := decide (a ≤ 64 * line) && decide (64 * line + 64 ≤ a + n)
  stackLost s (64 * line) || (s.pool.failed.contains line && writtenFlag s (line / 64) && !whole)

/-- Writes bytes at pool physical address `a`. The answer's second half is false where the access failed; the lines then
written are not defined. (DESIGN CHOICE in part: assumption 7) -/
def poolWrite (s : State) (inst ksel a : Nat) (bs : Bytes) : State × Bool :=
  let lines := spanOf 64 a bs.length
  if s.cipher.xts && ksel != 0 then (s, false)
  else if lines.any (writeBlocked s a bs.length) then
    let r := takeFresh s
    (lines.foldl (fun t l =>
      if !writeBlocked s a bs.length l && Config.lineWritten r.1 l then
        let b := max a (64 * l)
        let e := min (a + bs.length) (64 * l + 64)
        poolStore t inst ksel b (slice bs (b - a) (e - b))
      else t) r.2, false)
  else (poolStore s inst ksel a bs, true)

/-- Zero data with valid ECC over a range, its written flags cleared (R282). -/
def poolZero (s : State) (base size : Nat) : State :=
  { s with pool := { s.pool with
      mem := memZero s.pool.mem base size
      written := s.pool.written.filter fun b => !overlaps (4096 * b) 4096 base size
      failed := s.pool.failed.filter fun l => !overlaps (64 * l) 64 base size } }

/-! ### Lines found in error (R288, R289) -/

/-- A corrected error of a stack: counted, and reported where the last hour has more than 1,000. -/
def corrected (s : State) (stack : Nat) : State :=
  let hour := 3600000000000
  let recent := (s.pool.corrected.filter fun c => decide (s.now < c.2 + hour)) ++ [(stack, s.now)]
  let n := (recent.filter fun c => c.1 == stack).length
  let s1 := count { s with pool := { s.pool with corrected := recent } } 3 stack 0 1
  let quiet := match tget s.pool.rateAt stack with | some t => decide (s.now < t + hour) | none => false
  if decide (1000 < n) && !quiet then
    post { s1 with pool := { s1.pool with rateAt := tput s1.pool.rateAt stack s.now } } 0x0062 (evData [(16, 1, stack), (20, 4, n)])
  else s1

/-- A line first found uncorrectable is reported and counted. -/
def lineLost (s : State) (line stack : Nat) : State :=
  post (count { s with pool := { s.pool with failed := line :: s.pool.failed } } 3 stack 1 1) 0x0060
    (evData [(16, 5, 64 * line), (21, 1, stack)])

/-- What a tenant's access finds at a line of the allocatable pool. -/
def foundLine (s : State) (x : Nat × LineFault) : State :=
  match stackOf s (64 * x.1) with
  | none => s
  | some stack =>
    if s.pool.stackOut.getLsbD stack || decide (reserveBase s ≤ 64 * x.1) || s.pool.failed.contains x.1 then s
    else match x.2 with
      | .clean => s
      | .corrected => corrected s stack
      | .uncorrectable => lineLost s x.1 stack

/-- What an access finds at a word of a TPE store: an error that is corrected is counted, an uncorrectable one makes the word fail (R313). -/
def foundWord (s : State) (x : StoreWord) : State :=
  match tget s.ctxs x.ctx with
  | none => s
  | some c =>
    if (if x.weight then c.wUnits * 32768 else c.aUnits * 16384) ≤ x.word then s
    else if !x.bad then count s 0 0 14 1
    else { count s 0 0 15 1 with ctxs := tmod s.ctxs x.ctx fun y =>
      if x.weight then { y with wBad := x.word :: y.wBad } else { y with aBad := x.word :: y.aBad } }

/-- `f` with what its memory accesses meet: lines and words in error are found, and the XTS computations disagree or not (R288, R289, R313, R368).
(DESIGN CHOICE in part: assumptions 80 and 107) -/
def underMeets (m : Meets) (s : State) (f : State → State) : State :=
  let s1 := m.words.foldl foundWord (m.lines.foldl foundLine s)
  let s2 := f { s1 with cipher := { s1.cipher with xts := m.xts } }
  { s2 with cipher := { s2.cipher with xts := false } }

/-! ### Region commands (R279 to R282) -/

/-- The address bits of an entry's page (Table 11-3). -/
def pteSizeLog (p : BitVec 128) : Nat :=
  match fld p 0 2 1 with
  | 0 => 12
  | 1 => 21
  | _ => 30

def pteTarget (p : BitVec 128) : Nat := fld p 0 5 3
def pteAddr (p : BitVec 128) : Nat := fld p 8 63 0

/-- A mirror entry points into `[base, base + size)` of the pool. -/
def mappedInto (m : Mirror) (base size : Nat) : Bool :=
  m.entries.any fun r => pteTarget r.2 == 5 && overlaps (pteAddr r.2) (2 ^ pteSizeLog r.2) base size

def regionOf (s : State) (i num : Nat) : Option Region := s.pool.regions.find? fun r => r.inst == i && r.num == num

/-- BASE and FREE_LARGEST. -/
def regionResults (s : State) (base : Nat) (e : Entry) : Entry := putFld (putFld e 24 36 0 base) 32 36 0 (freeLargest s)

/-- POOL_REGION_CREATE. -/
def execPoolRegionCreate (slot : Nat) (s : State) : Result :=
  .next (startAdmin s slot 0x0310 fun c t =>
    let e := c.entry
    let i := cmdInst c
    let num := fld e 8 5 0
    let size := fld e 16 36 0
    let unit := if bit e 9 0 then 2 ^ 30 else 2 ^ 21
    let stack := fld e 10 3 0
    let k := (liveStacks t).idxOf stack
    let lo := if stack = 15 then 0 else k * 2 ^ 34
    let hi := if stack = 15 then reserveBase t else min (reserveBase t) ((k + 1) * 2 ^ 34)
    let place := lowestFree t size unit lo hi
    let r := match instRefusal t i with
      | some r => some r
      | none => firstRefusal [(decide ((quotaOf t i).poolBytes < poolUse t i + size), stQuota, rsNone),
          ((regionOf t i num).isSome || t.pool.zeroing.any (fun z => z.inst == i && z.num == some num), stAborted, rsExists),
          (stack != 15 && !t.start.stackOk.getLsbD stack, stAborted, rsUnitOut), (place.isNone, stAborted, 0x0C01),
          (decide (4096 ≤ t.pool.regions.length), stAborted, 0x0C03)]
    settle t slot r fun t =>
      let base := place.getD 0
      let t1 := { t with pool := { t.pool with regions := t.pool.regions ++ [{ inst := i, num := num, base := base, size := size, big := bit e 9 0, stack := stack }] } }
      completeWith t1 slot (regionResults t1 base))

/-- POOL_REGION_DESTROY: the zeroing begins. -/
def execPoolRegionDestroy (slot : Nat) (s : State) : Result :=
  .next (startAdmin s slot 0x0311 fun c t =>
    let i := cmdInst c
    let num := fld c.entry 8 5 0
    match instRefusal t i, regionOf t i num with
      | some r, _ => refuse t slot r.1 r.2
      | none, none => refuse t slot stAborted rsNoObject
      | none, some g =>
        if (tget t.mirrors i).any fun m => mappedInto m g.base g.size then refuse t slot stAborted 0x0C02
        else keepRunning { t with pool := { t.pool with
          regions := t.pool.regions.filter fun x => !(x.inst == i && x.num == num)
          zeroing := t.pool.zeroing ++ [{ base := g.base, size := g.size, inst := i, num := some num, slot := some slot }] } } slot)

end Sys2Proof.Machine
end

