-- ==== Sys2Proof/Machine/Translate.lean ====
section
/-!
DEFINITION. Address translation (Address Translation and On-Demand Paging): mirror entries, lookup, the translation and ATS
caches, misses and page requests, mirror updates and their drains. What an access does once it is translated belongs to
its owner (Machine/Resume.lean).
-/

namespace Sys2Proof.Machine

/-! ### Page table entries (R261, R262) -/

def pteValid (p : BitVec 128) : Bool := p.getLsbD 0
def pteKsel (p : BitVec 128) : Nat := fld p 0 27 16
def pteRun (p : BitVec 128) : Nat := fld p 0 12 10
def pteSize (p : BitVec 128) : Nat := 2 ^ pteSizeLog p

/-- The permission bit of Table 11-3. -/
def pteAllows (p : BitVec 128) : Need → Bool
  | .localRead => p.getLsbD 6
  | .localWrite => p.getLsbD 7
  | .remoteRead => p.getLsbD 8
  | .remoteWrite => p.getLsbD 9

def needsWrite : Need → Bool
  | .localWrite | .remoteWrite => true
  | _ => false

/-- Tables 11-3 and 11-6 and the offset rule of R262, on one update record. -/
def recordLegal (r : BitVec 256) : Bool :=
  let p : BitVec 128 := r.extractLsb' 64 128
  let va := fld r 0 56 0
  let t := pteTarget p
  let a := pteAddr p
  let run := 2 ^ pteRun p * pteSize p
  fld r 0 63 57 == 0 && zeroBytes r 24 31 && fld p 0 2 1 != 3 && va % pteSize p == 0 &&
    if !pteValid p then p.toNat == 0
    else
      decide (t ≤ 5) && decide (pteRun p ≤ 4) && fld p 0 15 13 == 0 && fld p 0 63 28 == 0 && (t == 5 || pteKsel p == 0)
        && a % pteSize p == 0 && (t == 0 || va % run == a % run) &&
        (match t with
        | 0 => a == 0
        | 5 => decide (a < 2 ^ 37)
        | _ => decide (a < 2 ^ 56))

/-- The mirror entry whose page holds `va`. -/
def mirrorAt (m : Mirror) (va : Nat) : Option (Nat × BitVec 128) :=
  m.entries.find? fun r => decide (r.1 ≤ va) && decide (va < r.1 + pteSize r.2)

/-! ### The translation cache (R262, R263) -/

/-- The run of an entry may be merged: every page present with equal bytes 0 to 7, and contiguous ADDR. -/
def runMerges (m : Mirror) (va : Nat) (p : BitVec 128) : Bool :=
  let n := 2 ^ pteRun p
  let size := pteSize p
  let start := va / (n * size) * (n * size)
  let first := pteAddr p - (va - start)
  (List.range n).all fun k => match tget m.entries (start + k * size) with
    | some q => fld q 0 63 0 == fld p 0 63 0 && (pteTarget p == 0 || pteAddr q == first + k * size)
    | none => false

/-- The cache entry a walk of `va` leaves. -/
def walkEntry (inst : Nat) (m : Mirror) (va : Nat) (p : BitVec 128) : CacheEntry :=
  let run := 2 ^ pteRun p * pteSize p
  if pteRun p != 0 && runMerges m va p then
    { inst := inst, va := va / run * run, size := run, pte := (tget m.entries (va / run * run)).getD p }
  else { inst := inst, va := va, size := pteSize p, pte := p }

def cacheFind (s : State) (inst va : Nat) : Option CacheEntry :=
  s.tcache.find? fun e => e.inst == inst && decide (e.va ≤ va) && decide (va < e.va + e.size)

/-- Every byte of `[va, va + n)` hits the translation cache. -/
def cacheHits : Nat → State → Nat → Nat → Nat → Bool
  | 0, _, _, _, n => n == 0
  | fuel + 1, s, inst, va, n =>
    if n = 0 then true
    else match cacheFind s inst va with
      | none => false
      | some e => let k := min n (e.va + e.size - va); cacheHits fuel s inst (va + k) (n - k)

/-- Caches an entry; a full cache evicts its oldest (the choice has no effect on any result, R263). (DESIGN CHOICE in part: assumption 81) -/
def cachePut (s : State) (e : CacheEntry) : State :=
  if s.tcache.contains e then s
  else { s with tcache := (if s.tcache.length < 262144 then s.tcache else s.tcache.drop 1) ++ [e] }

/-! ### Pages of an access (R256 to R258) -/

/-- What one page of an access finds. -/
inductive PageFind where
  | ok (p : Piece)
  | denied
  | absent (page : Nat)            -- the 4 KiB page address
  | needAts (page : Nat)
  deriving DecidableEq, Repr

/-- The bytes of an access in one mirror entry, or in one 4 KiB page where there is none. -/
structure PageSpan where
  va    : Nat
  len   : Nat
  entry : Option (Nat × BitVec 128)
  deriving DecidableEq, Repr

/-- Cuts an access at page boundaries; host pages are cut at 4 KiB, the size ATS answers for. -/
def cutPages : Nat → Mirror → Nat → Nat → List PageSpan
  | 0, _, _, _ => []
  | fuel + 1, m, va, n =>
    if n = 0 then []
    else
      let e := mirrorAt m va
      let stop := match e with
        | some (b, p) => if pteTarget p = 0 then va / 4096 * 4096 + 4096 else b + pteSize p
        | none => va / 4096 * 4096 + 4096
      let k := min n (stop - va)
      { va := va, len := k, entry := e } :: cutPages fuel m (va + k) (n - k)

def instFn (s : State) (i : Nat) : Nat := match tget s.insts i with | some x => if x.fn then x.vf else 0 | none => 0

def instPasid (s : State) (i : Nat) : Option Nat :=
  match tget s.insts i with
  | some x => if x.fn then none else some x.pasid
  | none => none

def fnOf (s : State) (n : Nat) : FnState := (tget s.fns n).getD (FnState.reset 64)

def modFn (s : State) (n : Nat) (f : FnState → FnState) : State := { s with fns := tmod s.fns n f }

/-- The ATS result of a page: the access's own, or a cached one. -/
def atsFind (s : State) (got : List AtsEntry) (inst va : Nat) : Option AtsEntry :=
  (got ++ s.ats).find? fun e => e.inst == inst && decide (e.va ≤ va) && decide (va < e.va + e.size)

/-- ATS results of an instance that hold a byte of `[va, va + size)` go. -/
def dropAts (s : State) (inst va size : Nat) : State :=
  let keep (e : AtsEntry) : Bool := !(e.inst == inst && overlaps e.va e.size va size)
  { s with ats := s.ats.filter keep, waits := s.waits.map fun w => { w with got := w.got.filter keep } }

/-- What one span finds. ATS is used where the instance's function has it enabled (R262). -/
def spanFind (s : State) (got : List AtsEntry) (inst : Nat) (need : Need) (x : PageSpan) : PageFind :=
  match x.entry with
  | none => .absent (x.va / 4096 * 4096)
  | some (b, p) =>
    if !pteAllows p need then .denied
    else
      let piece (port addr : Nat) (tr : Bool) : PageFind :=
        .ok { port := port, addr := addr, len := x.len, ksel := pteKsel p, va := x.va, translated := tr }
      match pteTarget p with
      | 0 =>
        if !(fnOf s (instFn s inst)).ats then piece 0 x.va false
        else match atsFind s got inst x.va with
          | some a =>
            if if needsWrite need then a.write else a.read then piece 0 (a.bus + (x.va - a.va)) true
            else .absent (x.va / 4096 * 4096)
          | none => .needAts (x.va / 4096 * 4096)
      | 5 => piece 5 (pteAddr p + (x.va - b)) false
      | t => piece t (pteAddr p + (x.va - b)) false

/-- The result of translating an access. -/
inductive Xlat where
  | done (ps : List Piece)
  | permission
  | notMapped
  | timeout
  | waits
  deriving DecidableEq, Repr

def pieceOf : PageFind → Option Piece
  | .ok p => some p
  | _ => none

def spansOf (s : State) (inst va len : Nat) : List PageSpan :=
  match tget s.mirrors inst with
  | some m => cutPages (len / 4096 + 2) m va len
  | none => []

/-! ### Page requests (R268) -/

/-- Page requests on the host of one function: issued and not answered. -/
def reqsOut (s : State) (fn : Nat) : Nat := (s.pageReqs.filter fun r => r.issued && instFn s r.inst == fn).length

/-- Page requests outstanding for an instance: issued and not answered. -/
def reqsPending (s : State) (inst : Nat) : Nat := (s.pageReqs.filter fun r => r.issued && r.inst == inst).length

/-- The request that an access waits on for a page. -/
def reqFor (s : State) (inst page : Nat) : Option PageReq :=
  s.pageReqs.find? fun r => r.inst == inst && r.page == page && !r.settled

/-- The request a miss shares (R268): one that accesses wait on, else one not answered yet, but for an access whose miss a PT_UPDATE has
resolved before (R269). (DEDUCED in part: assumption 91) -/
def shareable (s : State) (inst page : Nat) (own : Bool) : Option PageReq :=
  match reqFor s inst page with
  | some r => some r
  | none => if own then none else s.pageReqs.find? fun r => r.inst == inst && r.page == page

/-- Every request that the host lets the function have is in use, or an older miss of it waits. -/
def reqsFull (s : State) (fn : Nat) : Bool :=
  let f := fnOf s fn
  !f.pri || decide (min f.alloc 512 ≤ reqsOut s fn) || s.pageReqs.any fun r => !r.issued && instFn s r.inst == fn

/-- PAGE_TIMEOUT_MS of an instance. -/
def pageLimit (s : State) (inst : Nat) : Nat := (tget s.mirrors inst).elim 0 (·.timeoutMs)

/-- Raises the request of a miss, or shares the one outstanding. -/
def raiseReq (inst : Nat) (need : Need) (fresh : List Nat) (s : State) (page : Nat) : State :=
  match shareable s inst page (fresh.contains page) with
  | some r => { s with pageReqs := s.pageReqs.map fun x => if x = r then { x with settled := false } else x }
  | none =>
    { s with pageReqs := s.pageReqs ++
        [{ index := 0, inst := inst, page := page, write := needsWrite need, need := need, issued := false
           waited := reqsFull s (instFn s inst), sentAt := s.now, limit := pageLimit s inst, settled := false }] }

/-- PAGE_REQUEST_ISSUE: the oldest waiting miss of a function gets a free page request. -/
def execPageRequestIssue (fn : Nat) (s : State) : Result :=
  let f := fnOf s fn
  match s.pageReqs.find? fun r => !r.issued && instFn s r.inst == fn with
  | none => .next s
  | some r =>
    if serving s && s.pm.state != 2 && f.pri && !f.stopped && decide (reqsOut s fn < min f.alloc 512) then
      let t := takeFresh s
      let upd (x : PageReq) : PageReq :=
        if !x.issued && x.inst == r.inst && x.page == r.page then
          { x with issued := true, index := t.1, sentAt := if x.waited then x.sentAt else s.now, limit := pageLimit s x.inst } else x
      .next (emit { t.2 with pageReqs := t.2.pageReqs.map upd } (.pageRequest fn (instPasid s r.inst) t.1 r.page r.write))
    else .next s

/-! ### An access (R256, R268) -/

/-- Adds a waiting access. -/
def addWait (s : State) (w : Waiting) : State := { s with waits := s.waits ++ [w] }

def dropWait (s : State) (id : Nat) : State := { s with waits := s.waits.filter fun w => !(w.id == id) }

/-- Asks ATS for a page on behalf of a waiting access. -/
def askAts (s : State) (w : Waiting) (page : Nat) : State :=
  emit s (.atsRequest (instFn s w.inst) (instPasid s w.inst) page w.id)

/-- The pages of an access that need an ATS answer, and those that miss. -/
def atsPages (fs : List PageFind) : List Nat := fs.filterMap fun f => match f with | .needAts p => some p | _ => none

def missPages (fs : List PageFind) : List Nat := fs.filterMap fun f => match f with | .absent p => some p | _ => none

/-- Pages of an access miss: it waits for the host, unless the host has answered for one of them or takes no more requests. -/
def missAccess (s : State) (w : Waiting) (pages : List Nat) : State × Xlat :=
  if pages.any w.again.contains || (fnOf s (instFn s w.inst)).stopped then (s, .notMapped)
  else (addWait (pages.foldl (raiseReq w.inst w.need w.fresh) s) { w with walked := true, missed := pages }, .waits)

/-- Translates a walked access: the result, or the access waits for ATS or for the host. -/
def tryAccess (s : State) (w : Waiting) : State × Xlat :=
  let finds := (spansOf s w.inst w.va w.len).map (spanFind s w.got w.inst w.need)
  if finds.isEmpty && w.len != 0 then (s, .notMapped)
  else if finds.contains .denied then (s, .permission)
  else match atsPages finds, missPages finds with
    | p :: _, _ => (askAts (addWait s { w with walked := true, missed := [] }) w p, .waits)
    | [], [] => (s, .done (finds.filterMap pieceOf))
    | [], absent => missAccess s w absent

/-- Begins an access. A hit goes on at once; otherwise the mirror is walked first. -/
def beginAccess (s : State) (inst : Nat) (owner : AccOwner) (need : Need) (va len : Nat) (again : List Nat := []) : State × Xlat :=
  if 2 ^ 57 < va + len || (tget s.mirrors inst).isNone then (s, .notMapped)
  else
    let r := takeFresh s
    let w : Waiting :=
      { id := r.1, inst := inst, owner := owner, need := need, va := va, len := len, arose := s.now, walked := false
        missed := [], again := again, fresh := [], got := [] }
    if cacheHits (len / 4096 + 2) s inst va len then tryAccess r.2 { w with walked := true }
    else (addWait r.2 w, .waits)

/-- A mirror walk fills the cache with what it found. -/
def fillCache (s : State) (w : Waiting) : State :=
  match tget s.mirrors w.inst with
  | none => s
  | some m => (spansOf s w.inst w.va w.len).foldl (fun t x => match x.entry with
      | some (b, p) => cachePut t (walkEntry w.inst m b p)
      | none => t) s

/-- Accesses whose translation has ended, with how. -/
abbrev Settled := List (Waiting × Xlat)

/-- Takes an access off the waiting list and translates it again. -/
def retry (s : State) (w : Waiting) : State × Settled :=
  let r := tryAccess (dropWait s w.id) w
  match r.2 with
  | .waits => (r.1, [])
  | x => (r.1, [(w, x)])

/-- The same for several accesses, oldest first. -/
def retryAll (s : State) (ws : List Waiting) : State × Settled :=
  ws.foldl (fun a w => let r := retry a.1 w; (r.1, a.2 ++ r.2)) (s, [])

/-- Ends waiting accesses with one result. -/
def endAll (s : State) (ws : List Waiting) (x : Xlat) : State × Settled :=
  (ws.foldl (fun t w => dropWait t w.id) s, ws.map fun w => (w, x))

/-- Accesses that wait for a page. -/
def waitersOn (s : State) (inst page : Nat) : List Waiting := s.waits.filter fun w => w.inst == inst && w.missed.contains page

/-- A mirror walk completes (R263). -/
def walkDone (s : State) (id : Nat) : State × Settled :=
  match s.waits.find? fun w => w.id == id && !w.walked with
  | none => (s, [])
  | some w => retry (fillCache s w) { w with walked := true }

/-- An ATS translation completion (R262, R268). The access keeps the answer beside the cache. -/
def atsDone (s : State) (id : Nat) (res : AtsResult) : State × Settled :=
  match s.waits.find? fun w => w.id == id && w.walked && w.missed.isEmpty with
  | none => (s, [])
  | some w =>
    match atsPages ((spansOf s w.inst w.va w.len).map (spanFind s w.got w.inst w.need)), res with
    | p :: _, .page bus log2 rd wr =>
      let size := 2 ^ max 12 log2
      let e : AtsEntry := { inst := w.inst, va := p / size * size, size := size, bus := bus / size * size, read := rd, write := wr }
      retry { s with ats := (if s.ats.length < 131072 then s.ats else s.ats.drop 1) ++ [e] } { w with got := w.got ++ [e] }
    | p :: _, _ =>
      let r := missAccess (dropWait s w.id) w [p]
      (r.1, match r.2 with | .waits => [] | x => [(w, x)])
    | [], _ => retry s w

/-! ### Responses and timeouts (R269, R271) -/

/-- Marks the PSNs that were answered RESEND for a page whose request has timed out (1) or was resolved (2) (R272). -/
def markMissed (s : State) (inst page code : Nat) : State :=
  { s with qps := s.qps.map fun r =>
      if r.2.inst = inst then (r.1, { r.2 with missed := r.2.missed.map fun m => if m.2.1 = page then (m.1, page, code) else m }) else r }

/-- The response to a page request. -/
def prgResponse (s : State) (fn index : Nat) (code : PrgCode) : State × Settled :=
  match s.pageReqs.find? fun r => r.issued && r.index == index && instFn s r.inst == fn with
  | none => (s, [])
  | some r =>
    let s0 := if r.settled then s else markMissed s r.inst r.page 2
    let s1 := { s0 with pageReqs := s.pageReqs.filter fun x => !(x.issued && x.index == index) }
    let ws := if r.settled then [] else waitersOn s1 r.inst r.page
    match code with
    | .success =>
      if r.settled then (s1, [])
      else
        let s2 := dropAts s1 r.inst r.page 4096
        retryAll s2 ((waitersOn s2 r.inst r.page).map fun w => { w with again := w.again ++ [r.page] })
    | .invalid => endAll s1 ws .notMapped
    | .failure =>
      let s2 := post (modFn s1 fn fun f => { f with stopped := true }) 0x0050 (evData [(16, 2, r.inst)])
      let idle := s2.pageReqs.filter fun x => !x.issued && instFn s2 x.inst == fn
      let more := idle.flatMap fun x => waitersOn s2 x.inst x.page
      endAll { s2 with pageReqs := s2.pageReqs.filter fun x => !(!x.issued && instFn s2 x.inst == fn) } ((ws ++ more).dedup) .notMapped

/-- PAGE_TIMEOUT_MS has passed for a page's request. -/
def pageTimeout (s : State) (inst page : Nat) : State × Settled :=
  match reqFor s inst page with
  | none => (s, [])
  | some r =>
    let limit := if r.issued then r.limit else pageLimit s inst
    if !(r.issued || r.waited) || decide (s.now < r.sentAt + limit * 1000000) then (s, [])
    else
      let s1 := { s with pageReqs := (s.pageReqs.map fun x =>
        if x.inst == inst && x.page == page && !x.settled then { x with settled := true } else x).filter fun x => x.issued || !x.settled }
      endAll (markMissed s1 inst page 1) (waitersOn s1 inst page) .timeout

/-! ### Mirror commands (R264 to R267, R273, R274) -/

/-- PT_MIRROR_SET. -/
def execPtMirrorSet (slot : Nat) (s : State) : Result :=
  .next (startAdmin s slot 0x0300 fun c t =>
    let e := c.entry
    let i := cmdInst c
    let results (u : State) (e : Entry) : Entry :=
      putFld (putFld e 24 31 0 (match tget u.mirrors i with | some m => m.entries.length | none => 0)) 28 31 0 (reqsPending u i)
    match instRefusal t i with
    | some r => refuse t slot r.1 r.2
    | none =>
      if bit e 8 0 then
        if (tget t.mirrors i).isNone then refuse t slot stAborted rsNoObject else completeWith t slot (results t)
      else
        let n := fld e 12 24 0
        let ms := fld e 16 15 0
        let old := tget t.mirrors i
        let oldBytes := match old with | some m => mirrorBytes m | none => 0
        let used := match old with | some m => m.entries.length | none => 0
        let t1 := { t with mirrors := tdel t.mirrors i }
        let keep := match old with
          | some m => decide (n ≤ m.maxEntries) || freeAt t1 m.base (32 * n) && decide (m.base + 32 * n ≤ reserveBase t)
          | none => false
        let base := if keep then (match old with | some m => some m.base | none => none) else anyPlace t1 (32 * n)
        settle t slot (firstRefusal [(decide ((quotaOf t i).poolBytes < poolUse t i - oldBytes + 32 * n), stQuota, rsNone),
            (decide (n < used), stAborted, rsBadState), (base.isNone, stAborted, 0x0C01)]) fun t =>
          let f := takeFresh (takeFresh t).2
          let m : Mirror := match old with
            | some m => { m with maxEntries := n, timeoutMs := ms, base := base.getD 0 }
            | none => { maxEntries := n, timeoutMs := ms, base := base.getD 0, entries := [], dirty := [] }
          let t2 := { f.2 with mirrors := tput f.2.mirrors i m }
          completeWith t2 slot (results t2))

/-- Mirror entries that overlap a range. -/
def overlapping (m : Mirror) (va size : Nat) : Tab (BitVec 128) := m.entries.filter fun r => overlaps r.1 (pteSize r.2) va size

/-- Data reads in progress that translated through a range of an instance (R273). -/
def readsThrough (s : State) (inst va size : Nat) : List Nat :=
  (s.reads.filter fun r => r.inst == inst && r.pieces.any fun p => overlaps p.va p.len va size).map (·.id)

/-- What goes with the mirror entries that overlap `[va, va + size)`: those entries and every cache entry that holds such a page, as ranges. -/
def goneRanges (s : State) (inst : Nat) (gone : Tab (BitVec 128)) : List (Nat × Nat) :=
  let pages := gone.map fun r => (r.1, pteSize r.2)
  pages ++ (s.tcache.filter fun e => e.inst == inst && pages.any fun g => overlaps e.va e.size g.1 g.2).map fun e => (e.va, e.size)

/-- What a removal took: how many mirror entries, the PCIe ports that carried writes through them, the data reads in progress through them. -/
structure Removed where
  count : Nat
  ports : List Nat
  reads : List Nat
  deriving DecidableEq, Repr

/-- Removes the mirror entries that overlap `[va, va + size)`, with every cache entry and every ATS result that holds such a page (R273). -/
def removeRange (s : State) (inst va size : Nat) : State × Removed :=
  match tget s.mirrors inst with
  | none => (s, { count := 0, ports := [], reads := [] })
  | some m =>
    let gone := overlapping m va size
    let held := goneRanges s inst gone
    let hit (a n : Nat) : Bool := gone.any fun r => overlaps a n r.1 (pteSize r.2)
    let s1 : State := { s with
        mirrors := tput s.mirrors inst { m with
          entries := m.entries.filter fun r => !overlaps r.1 (pteSize r.2) va size
          dirty := m.dirty.filter fun b => !gone.any fun r => r.1 == b }
        tcache := s.tcache.filter fun e => !(e.inst == inst && hit e.va e.size)
        waits := s.waits.map fun w =>
          if w.inst == inst && w.missed.isEmpty && hit w.va w.len then { w with walked := false } else w }
    (gone.foldl (fun t r => dropAts t inst r.1 (pteSize r.2)) s1,
      { count := gone.length
        ports := (gone.filter fun r => m.dirty.contains r.1 && pteTarget r.2 != 5).map fun r => pteTarget r.2
        reads := held.flatMap fun h => readsThrough s inst h.1 h.2 })

/-- A command's drain begins; with nothing to drain it completes by `fin`. -/
def beginDrain (s : State) (slot removed : Nat) (reads ports : List Nat) (inst : Nat) (fin : State → State) : State :=
  let r := issueFlushes s ports inst .invalidate
  if reads.isEmpty && r.1.isEmpty then fin r.2
  else keepRunning { r.2 with drains := r.2.drains ++ [{ slot := some slot, tag := 0, removed := removed, reads := reads, flushes := r.1 }] } slot

/-- The results of the two commands that drain. -/
def drainResult (removed : Nat) (e : Entry) : Entry :=
  if fld e 0 15 0 = 0x0301 then putFld e 24 31 0 removed else putFld e 32 31 0 removed

/-- Ends every drain that waits for nothing any more (R273, R275). A command's waits for the firmware (R120). -/
def endDrains (s : State) : State :=
  let ended (d : Drain) : Bool := d.reads.isEmpty && d.flushes.isEmpty && (d.slot.isNone || !s.ctlReset)
  (s.drains.filter ended).foldl (fun t d => match d.slot with
    | some slot => completeWith t slot (drainResult d.removed)
    | none => emit t (.atsInvalidated d.tag)) { s with drains := s.drains.filter fun d => !ended d }

/-- A data read or a flushing read that drains wait for has ended. -/
def drainStep (s : State) (id : Nat) : State :=
  endDrains { s with drains := s.drains.map fun d =>
    { d with reads := d.reads.filter (fun x => !(x == id)), flushes := d.flushes.filter fun x => !(x == id) } }

/-- A command of the instance whose drain or check PT_INVALIDATE follows (R267, R347). -/
def mapOrdered (i : Nat) (b : AdminCmd) : Bool :=
  cmdInst b == i && (cmdOpcode b == 0x0301 || cmdOpcode b == 0x0302 || cmdOpcode b == 0x0502)

/-- PT_INVALIDATE. -/
def execPtInvalidate (slot : Nat) (s : State) : Result :=
  .next (startAdmin s slot 0x0302 fun c t =>
    let e := c.entry
    let i := cmdInst c
    if earlierRuns t slot (mapOrdered i) then holdCmd t slot
    else
      let r := match instRefusal t i with
        | some r => some r
        | none => if (tget t.mirrors i).isNone then some (stAborted, rsNoObject) else none
      let all := bit e 24 0
      let va := if all then 0 else fld e 8 56 12 * 4096
      let size := if all then 2 ^ 57 else fld e 16 45 0 * 4096
      settle t slot r fun t =>
        let r := removeRange t i va size
        beginDrain r.1 slot r.2.count r.2.reads.dedup r.2.ports i fun u => completeWith u slot (drainResult r.2.count))

/-- The records of a PT_UPDATE buffer. -/
def updateRecords (bs : Bytes) : List (BitVec 256) := (chunks 32 (bs.length / 32 + 1) bs).map entryOf

/-- The first refusal of R266 that a record meets. -/
def recordRefusal (s : State) (i : Nat) (r : BitVec 256) : Option (BitVec 8 × Nat) :=
  let p : BitVec 128 := r.extractLsb' 64 128
  let t := pteTarget p
  if !pteValid p then none
  else if 1 ≤ t && t ≤ 4 then
    if !aportInService s (t - 1) then some (stAborted, rsUnitOut)
    else if apertureSize s (t - 1) < pteAddr p + pteSize p then some (stAborted, 0x0B03) else none
  else if t = 5 then
    let inside := s.pool.regions.any fun g => g.inst == i && decide (g.base ≤ pteAddr p) && decide (pteAddr p + pteSize p ≤ g.base + g.size)
    if !inside then some (stAborted, 0x0B02)
    else if pteKsel p != 0 && !(s.cipher.keys.any fun k => k.2.type == 1 && k.2.inst == i && k.2.ksel == pteKsel p) then
      some (stAborted, 0x0B04)
    else none
  else none

/-- The range of a record's page; a record with VALID 0 removes what holds its 4 KiB page. -/
def recordRange (r : BitVec 256) : Nat × Nat :=
  let p : BitVec 128 := r.extractLsb' 64 128
  (fld r 0 56 0, if pteValid p then pteSize p else 4096)

/-- Applies one record: the entries it overlaps go, its own comes (R266). Answers what went, too. -/
def applyRecord (i : Nat) (a : State × Removed) (r : BitVec 256) : State × Removed :=
  let p : BitVec 128 := r.extractLsb' 64 128
  let g := recordRange r
  let d := removeRange a.1 i g.1 g.2
  let s1 := if pteValid p then { d.1 with mirrors := tmod d.1.mirrors i fun m => { m with entries := tput m.entries g.1 p } } else d.1
  (s1, { count := a.2.count + d.2.count, ports := a.2.ports ++ d.2.ports, reads := a.2.reads ++ d.2.reads })

/-- Applies every record of a buffer. -/
def applyRecords (s : State) (i : Nat) (rs : List (BitVec 256)) : State × Removed :=
  rs.foldl (applyRecord i) (s, { count := 0, ports := [], reads := [] })

/-- Entries the mirror would hold after the records. -/
def mirrorAfter (s : State) (i : Nat) (rs : List (BitVec 256)) : Nat :=
  match tget (applyRecords s i rs).1.mirrors i with
  | some m => m.entries.length
  | none => 0

/-- The requests a PT_UPDATE resolves: those whose page it gives a present entry with the request's permission (R269). Their accesses
translate again, by ATS too. -/
def resolveReqs (s : State) (i : Nat) (rs : List (BitVec 256)) : State × Settled :=
  match tget s.mirrors i with
  | none => (s, [])
  | some m =>
    let given (page : Nat) : Bool := rs.any fun r => decide ((recordRange r).1 ≤ page) && decide (page < (recordRange r).1 + (recordRange r).2)
    let hit (r : PageReq) : Bool := r.inst == i && !r.settled && given r.page && match mirrorAt m r.page with
      | some (_, p) => pteAllows p r.need
      | none => false
    let pages := (s.pageReqs.filter hit).map (·.page)
    let s1 := { s with
      pageReqs := (s.pageReqs.map fun r => if hit r then { r with settled := true } else r).filter fun r => r.issued || !r.settled
      qps := s.qps.map fun q => if q.2.inst = i then
        (q.1, { q.2 with missed := q.2.missed.filter fun x => !pages.contains x.2.1 }) else q }
    let s2 := pages.foldl (fun t p => dropAts t i p 4096) s1
    retryAll s2 ((s2.waits.filter fun w => w.inst == i && w.missed.any pages.contains).map fun w => { w with fresh := w.fresh ++ pages })

/-- PT_UPDATE on the records `buf` read from SRC. The accesses it resolves are answered with the state. -/
def ptUpdate (c : AdminCmd) (buf : Option Bytes) (s : State) : State × Settled :=
  let i := cmdInst c
  let slot := c.slot
  match instRefusal s i with
  | some r => (refuse s slot r.1 r.2, [])
  | none =>
    if (tget s.mirrors i).isNone then (refuse s slot stAborted rsNoObject, [])
    else match buf with
      | none => (refuse s slot stAborted rsHostRead, [])
      | some b =>
        let rs := updateRecords (slice b 0 (32 * fld c.entry 16 12 0))
        let max_ := match tget s.mirrors i with | some m => m.maxEntries | none => 0
        if !rs.all recordLegal then (refuse s slot stMalformed rsNone, [])
        else match rs.findSome? (recordRefusal s i) with
          | some r => (refuse s slot r.1 r.2, [])
          | none =>
            if max_ < mirrorAfter s i rs then (refuse s slot stAborted 0x0B01, [])
            else
              let a := applyRecords s i rs
              let r := resolveReqs a.1 i rs
              (beginDrain r.1 slot a.2.count a.2.reads.dedup a.2.ports i fun u => completeWith u slot (drainResult a.2.count), r.2)

/-! ### ATS Invalidate Requests (R275) -/

/-- The instance a function and PASID name. -/
def instOfFn (s : State) (fn : Nat) (pasid : Option Nat) : List Nat :=
  (s.insts.filter fun r => if r.2.fn then r.2.vf == fn else fn == 0 && pasid == some r.2.pasid).map (·.1)

/-- ATS_INVALIDATE: `tag` is the request's ITag, `[va, va + size)` its range. -/
def execAtsInvalidate (fn : Nat) (pasid : Option Nat) (va size tag : Nat) (s : State) : Result :=
  let s := heardTlp s
  if !live s then .next s
  else
    let is_ := instOfFn s fn pasid
    let keep (e : AtsEntry) : Bool := !(is_.contains e.inst && overlaps e.va e.size va size)
    let reads := (s.reads.filter fun r => is_.contains r.inst && r.pieces.any fun p => p.translated && overlaps p.va p.len va size).map (·.id)
    let wrote := s.mirrors.any fun r => is_.contains r.1 && r.2.entries.any fun e =>
      pteTarget e.2 == 0 && r.2.dirty.contains e.1 && overlaps e.1 (pteSize e.2) va size
    let removed := (s.flushes.filter fun f => f.port == 0 && is_.contains f.inst && f.why == .invalidate).map (·.id)
    let s1 := { s with ats := s.ats.filter keep, waits := s.waits.map fun w => { w with got := w.got.filter keep } }
    let r := issueFlushes s1 (if wrote then [0] else []) 0 .invalidate
    .next (endDrains { r.2 with
      drains := r.2.drains ++ [{ slot := none, tag := tag, removed := 0, reads := reads, flushes := r.1 ++ removed }] })

end Sys2Proof.Machine
end

