-- ==== Sys2Proof/Machine/Accum.lean ====
section
/-!
DEFINITION. The stores of a TPE context and the partials that arrive for it: staging, matching to REDUCE steps, and their
addition (Tensor Path Engine: Command Lists, Kettles and Collectives, 14.4 and 14.5).
-/

namespace Sys2Proof.Machine

/-! ### Contexts and steps -/

def modCtx (s : State) (n : Nat) (f : Ctx → Ctx) : State := { s with ctxs := tmod s.ctxs n f }

def modRun (s : State) (ctx slot : Nat) (f : TpeRun → TpeRun) : State :=
  modCtx s ctx fun c => { c with runs := c.runs.map fun r => if r.slot = slot then f r else r }

def runOf (s : State) (ctx slot : Nat) : Option TpeRun :=
  match tget s.ctxs ctx with
  | some c => c.runs.find? fun r => r.slot == slot
  | none => none

/-- A step fails with a status; only its first failure counts. -/
def TpeRun.failWith (r : TpeRun) (status : BitVec 8) (sub : Nat) : TpeRun :=
  if r.fail.isSome then r else { r with fail := some (status, sub) }

/-- SUB values of Table 14-8. -/
def subWaitExpired : Nat := 1
def subPartialSize : Nat := 2
def subQpError : Nat := 3
def subStoreEcc : Nat := 4
def subBadMap : Nat := 5
def subSpaceRange : Nat := 6

/-! ### The stores (R311 to R313) -/

/-- The words of 64 bits that a range of a store meets. -/
def storeWords (off n : Nat) : List Nat := spanOf 8 off n

/-- The 4 KiB blocks that a range meets. -/
def zeroBlocks (off n : Nat) : List Nat := spanOf 4096 off n

/-- A range of the accumulation store, unless a word of it is uncorrectable; a zero-flagged block returns +0 whatever its words hold. -/
def accRead (c : Ctx) (off n : Nat) : Option Bytes :=
  if (storeWords off n).any fun w => c.aBad.contains w && !c.aZero.contains (w / 512) then none else some (memRead c.aMem off n)

/-- Writes the accumulation store. A whole-word write ends a failure; a block whose zero flag the write ends is written whole. -/
def accWrite (c : Ctx) (off : Nat) (bs : Bytes) : Ctx :=
  let met := if bs.isEmpty then [] else zeroBlocks off bs.length
  { c with aMem := memWrite c.aMem off bs
           aZero := c.aZero.filter fun b => !met.contains b
           aBad := c.aBad.filter fun w => !(decide (off ≤ 8 * w) && decide (8 * w + 8 ≤ off + bs.length))
             && !(c.aZero.contains (w / 512) && met.contains (w / 512)) }

/-- Sets the zero flags of a buffer's range, which is whole 4 KiB blocks (R312). -/
def accZero (c : Ctx) (off n : Nat) : Ctx :=
  let bs := if n = 0 then [] else zeroBlocks off n
  { c with aMem := bs.foldl (fun m b => memZero m (4096 * b) 4096) c.aMem, aZero := (c.aZero ++ bs).dedup }

/-- The FP32 words of bytes. -/
def wordsOf (n : Nat) (bs : Bytes) : List Word := (List.range n).map fun i => BitVec.ofNat 32 (leNat (slice bs (4 * i) 4))

def wordBytes (ws : List Word) : Bytes := ws.flatMap fun w => leBytes 4 w.toNat

/-- `n` FP32 values of the accumulation store. -/
def accWords (c : Ctx) (off n : Nat) : Option (List Word) := (accRead c off (4 * n)).map (wordsOf n)

def spaceA (c : Ctx) : Nat := c.aUnits * 131072
def spaceW (c : Ctx) : Nat := c.wUnits * 262144

/-! ### Fields of a REDUCE (Table 14-4) -/

def stepOp (r : TpeRun) : Nat := fld r.entry 0 7 0
def stepFmtA (r : TpeRun) : Nat := fld r.entry 2 3 0
def stepFmtB (r : TpeRun) : Nat := fld r.entry 2 7 4
def reduceOrder (r : TpeRun) : Bool := bit r.entry 1 2
def reduceOff (r : TpeRun) : Nat := fld r.entry 4 31 0
def reduceBytes (r : TpeRun) : Nat := fld r.entry 16 31 0

/-- Bytes in one unit of addition: an element, or for MX a row (R330). -/
def reduceUnit (r : TpeRun) : Nat := max 1 (unitBytes (stepFmtA r))

/-- The REDUCE under way. -/
def reduceOf (c : Ctx) : Option TpeRun := c.runs.find? fun r => stepOp r == 0x05

/-! ### Staging (R328, R332) -/

/-- Units of a run of bytes that lower ranks have not all reached. -/
def beforeTurn (r : TpeRun) (rank off len : Nat) : Bool :=
  !reduceOrder r && (spanOf (reduceUnit r) off len).any fun k => decide ((tget r.turn k).getD 0 < rank)

/-- Bytes of a message that stand in the staging area. -/
def stagedBytes (c : Ctx) (m : TpeIn) : Nat :=
  match reduceOf c with
  | some r =>
    if m.num + 1 = c.reduces then
      ((m.parts.filter fun p => beforeTurn r m.rank p.1 p.2.1.length).map fun p => p.2.1.length).sum
    else (m.parts.map fun p => p.2.1.length).sum
  | none => (m.parts.map fun p => p.2.1.length).sum

def stageFree (c : Ctx) : Nat := c.stageBytes - (c.inbox.map (stagedBytes c)).sum

/-! ### Messages at a context -/

/-- The message of a rank that is arriving: the one begun, or a new one with the rank's next number. -/
def openMsg (c : Ctx) (rank : Nat) : TpeIn :=
  let n := (tget c.count rank).getD 0
  match c.inbox.find? fun m => m.rank == rank && m.num == n with
  | some m => m
  | none => { rank := rank, num := n, parts := [], got := 0, stop := none, used := [] }

/-- Stores a message; one received whole makes way for its rank's next. -/
def putMsg (c : Ctx) (m : TpeIn) : Ctx :=
  let rest := c.inbox.filter fun x => !(x.rank == m.rank && x.num == m.num)
  let whole := m.stop == some m.got
  { c with inbox := rest ++ (if whole && m.parts.isEmpty then [] else [m])
           count := if whole then tput c.count m.rank (m.num + 1) else c.count }

/-- Receives bytes into a message. -/
def TpeIn.take (m : TpeIn) (off : Nat) (bs : Bytes) (epoch : Nat) (last keep : Bool) : TpeIn :=
  { m with parts := if keep then m.parts ++ [(off, bs, epoch)] else m.parts
           got := m.got + bs.length
           stop := if last then some (off + bs.length) else m.stop }

/-- One byte of a message, where it has arrived and waits. -/
def TpeIn.byteAt (m : TpeIn) (o : Nat) : Option Byte :=
  match m.parts.find? fun p => decide (p.1 ≤ o) && decide (o < p.1 + p.2.1.length) with
  | some p => p.2.1[o - p.1]?
  | none => none

/-- The bytes of unit `k`, once all have arrived. -/
def TpeIn.unit (m : TpeIn) (u k : Nat) : Option Bytes := (List.range u).mapM fun i => m.byteAt (k * u + i)

/-- Marks a unit added; parts none of whose units wait are dropped. -/
def TpeIn.useUnit (m : TpeIn) (u k : Nat) : TpeIn :=
  let used := k :: m.used
  { m with used := used, parts := m.parts.filter fun p => (spanOf u p.1 p.2.1.length).any fun j => !used.contains j }

/-- Adds the elements of one unit into the accumulation store (R330). -/
def addUnit (c : Ctx) (r : TpeRun) (k : Nat) (bs : Bytes) : Ctx × TpeRun :=
  let f := stepFmtA r
  let n := unitElems f
  let d := decodeFmt f n bs
  let off := reduceOff r + 4 * n * k
  match accWords c off n with
  | none => (c, r.failWith stAborted subStoreEcc)
  | some ws =>
    let rs := List.zipWith addInto ws d.1
    (accWrite c off (wordBytes (rs.map (·.1))),
      { r with flags := rs.foldl (fun a x => a ||| x.2) (r.flags ||| d.2), turn := tput r.turn k ((tget r.turn k).getD 0 + 1)
               added := r.added + bs.length })

/-- Adds what unit `k` can take: in rank order each contribution in its turn, else each that is whole (R332). -/
def reduceUnits : Nat → Ctx → TpeRun → Nat → Ctx × TpeRun
  | 0, c, r, _ => (c, r)
  | fuel + 1, c, r, k =>
    let u := reduceUnit r
    let turn := (tget r.turn k).getD 0
    let ok (m : TpeIn) : Bool := m.num + 1 == c.reduces && !m.used.contains k && (reduceOrder r || m.rank == turn) && (m.unit u k).isSome
    match c.inbox.find? ok with
    | none => (c, r)
    | some m =>
      match m.unit u k with
      | none => (c, r)
      | some bs =>
        let a := addUnit c r k bs
        if a.2.fail.isSome then a
        else
          let rest := a.1.inbox.filterMap fun x =>
            if x.rank = m.rank && x.num = m.num then
              let y := x.useUnit u k
              if y.parts.isEmpty && y.stop == some y.got then none else some y
            else some x
          reduceUnits fuel { a.1 with inbox := rest } a.2 k

/-- Puts a changed step back. -/
def putRun (c : Ctx) (r : TpeRun) : Ctx := { c with runs := c.runs.map fun x => if x.slot = r.slot then r else x }

/-- Adds what several units can take. -/
def reduceAll (c : Ctx) (r : TpeRun) (ks : List Nat) : Ctx :=
  let a := ks.foldl (fun a k => if a.2.fail.isSome then a else reduceUnits (a.1.inbox.length + 1) a.1 a.2 k) (c, r)
  putRun a.1 a.2

/-- What becomes of bytes that arrive for a context. -/
inductive AccRes where
  | placed
  | held
  | refused
  deriving DecidableEq, Repr

/-- Bytes `bs` at offset `off` of a rank's message reach their context (R328 to R334). -/
def accArrive (c : Ctx) (rank off : Nat) (bs : Bytes) (epoch : Nat) (last : Bool) : Ctx × AccRes :=
  let m := openMsg c rank
  let stage : Ctx × AccRes :=
    if bs.length ≤ stageFree c then (putMsg c (m.take off bs epoch last true), .placed) else (c, .held)
  if c.state = .error then
    match c.dead with
    | some d => if m.num ≤ d then (putMsg c (m.take off bs epoch last false), .placed) else (c, .refused)
    | none => (c, .refused)
  else match reduceOf c with
    | none => stage
    | some r =>
      if m.num + 1 != c.reduces then stage
      else
        let n := reduceBytes r
        let beyond := decide (n < off + bs.length) || (last && decide (off + bs.length < n))
        if r.fail.isSome || epoch != r.epoch || beyond then
          let r1 := if epoch != r.epoch then r.failWith stKettleEpoch 0 else if beyond then r.failWith stAborted subPartialSize else r
          (putRun (putMsg c (m.take off bs epoch last false)) r1, .placed)
        else if beforeTurn r rank off bs.length then
          match stage with
          | (c1, .placed) => (reduceAll c1 r (spanOf (reduceUnit r) off bs.length), .placed)
          | x => x
        else (reduceAll (putMsg c (m.take off bs epoch last true)) r (spanOf (reduceUnit r) off bs.length), .placed)

/-- R327: the context an ACCUMULATE packet may reach. -/
def accTarget (s : State) (inst qpn ctx rank : Nat) : Option Ctx :=
  match tget s.ctxs ctx with
  | none => none
  | some c =>
    match c.kettle.bind (tget s.kettles) with
    | none => none
    | some k =>
      if c.inst = inst && rank != k.myRank && (k.members[rank]?).any (fun m => m.1 == qpn) then some c else none

/-- An ACCUMULATE packet reaches its context. -/
def accAccept (s : State) (inst qpn : Nat) (p : Pkt) : State × AccRes :=
  match accTarget s inst qpn p.ctx p.rank with
  | none => (s, .refused)
  | some c =>
    let r := accArrive c p.rank p.offset p.payload p.epoch p.last
    (modCtx s p.ctx fun _ => r.1, r.2)

end Sys2Proof.Machine
end

