-- ==== Sys2Proof/Machine/Issue.lean ====
section
/-!
DEFINITION. Messages that wait for the transport's limits: the counts of R173, R174 and R381, and the messages of TPE list
steps (Tensor Path Engine: Command Lists, Kettles and Collectives, R325, R338, R339).
-/

namespace Sys2Proof.Machine

/-! ### Messages and reads outstanding -/

/-- READs outstanding as initiator, from their start to their completion, those of TPE steps included (R173, Table 19-3). -/
def readsOut (q : Qp) : Nat := (q.work.filter fun w => w.op == 3).length

/-- The limits of R174 and R381 allow one more message of the instance. -/
def messageFits (s : State) (inst : Nat) : Bool :=
  decide (s.msgOut < (limits s).2.2) && match tget s.insts inst with | some i => decide (i.messages < i.quota.messages) | none => false

/-- Takes work up: the message counts as outstanding. -/
def addWork (s : State) (qpn : Nat) (q : Qp) (w : SqWork) : State :=
  beginMessage (modQp s qpn fun x => { x with work := x.work ++ [w] }) q.inst

/-- The READ_REQ of a READ (R194). (DEDUCED in part: assumption 40) -/
def readReq (q : Qp) (w : SqWork) : Pkt :=
  { blankPkt q 3 w.cell with last := true, va := w.remote, tag := w.tag.getD 0, payload := readReqPayload w.length (w.tag.getD 0) }

/-- Bytes of a READ that have been placed. -/
def placedBytes (w : SqWork) : Nat := (w.placed.map (·.2)).sum

/-! ### Read tags and the peer's resources (R173) -/

/-- A READ_TAG that no request or unacknowledged response uses, the longest unused first. -/
def freeTag (q : Qp) : Nat :=
  (((List.range 128).map fun i => (q.nextTag + i) % 128).find? fun t =>
    !(q.work.any fun w => w.tag == some t) && !q.spent.any fun x => x.1 == t).getD 0

/-- The peer's resources that this side's READs may still hold: from the request until an ACK has reported every response.
(DESIGN CHOICE in part: assumption 109) -/
def peerReads (q : Qp) : Nat := (q.work.filter fun w => w.tag.isSome).length + q.spent.length

/-- A READ whose request has not been handed on. -/
def unasked (w : SqWork) : Bool := w.op == 3 && !w.decided && w.tag.isNone && decide (placedBytes w < w.length)

/-- Hands on the READ_REQs that the peer's resources allow, in order (R173). -/
def askReads : Nat → State → Nat → State
  | 0, s, _ => s
  | fuel + 1, s, qpn =>
    match tget s.qps qpn with
    | none => s
    | some q =>
      match q.work.find? unasked with
      | none => s
      | some w0 =>
        if 128 ≤ peerReads q then s
        else
          let w := { w0 with tag := some (freeTag q) }
          let s1 := modQp s qpn fun x => { x with
            nextTag := (freeTag q + 1) % 128, work := x.work.map fun y => if y.slot = w.slot then w else y }
          let owner : TxOwner := match w.tpe with | some (c, sl, m) => .tpe c sl m | none => .sq w.slot
          askReads fuel (enqueue s1 qpn owner [readReq q w]) qpn

/-- Tags whose responses are all placed and reported are free again; waiting requests go on. -/
def releaseTags (s : State) (qpn : Nat) : State :=
  let done (w : SqWork) : Bool := w.op == 3 && w.unacked.isEmpty && placedBytes w == w.length
  askReads 128 (modQp s qpn fun x => { x with work := x.work.map fun w => if done w then { w with tag := none } else w }) qpn

/-! ### Messages of list steps -/

/-- A message of a step has been acknowledged, or its READ has been answered in full. -/
def tpeMsgEnded (s : State) (ctx slot : Nat) (m : TpeMsg) : Bool :=
  match tget s.qps m.qpn with
  | none => true
  | some q =>
    if m.kind = 2 then
      match q.work.find? fun w => w.tpe == some (ctx, slot, m.id) with
      | some w => placedBytes w == w.length
      | none => true
    else !q.tx.any fun t => t.owner == .tpe ctx slot m.id

/-- The pseudo-slot under which a READ of a step stands among a queue pair's work. -/
def readSlot (m : TpeMsg) : Nat := 65536 + m.id

/-- One message of a step ends. -/
def tpeMsgEnd (inst : Nat) (s : State) (m : TpeMsg) : State :=
  if m.kind = 2 then endWork s m.qpn (readSlot m) else endMessage s inst

/-- The kettle a context is bound to. -/
def kettleOf (s : State) (c : Ctx) : Option Kettle := c.kettle.bind (tget s.kettles)

/-- Sends a message of a step (R325, R338, R339). -/
def tpeMsgBegin (s : State) (ctx : Nat) (c : Ctx) (r : TpeRun) (m : TpeMsg) : State :=
  match tget s.qps m.qpn with
  | none => s
  | some q =>
    let owner : TxOwner := .tpe ctx r.slot m.id
    if m.kind = 2 then
      let w : SqWork :=
        { slot := readSlot m, op := 3, cell := m.form, length := m.len, va := 0, remote := m.addr, notify := 0, tag := none
          placed := [], unacked := [], due := none, used := [], repeats := 0, cut := true, decided := false, req := none, failMark := 0, ports := []
          tpe := some (ctx, r.slot, m.id) }
      askReads 128 (addWork s m.qpn q w) m.qpn
    else
      let ps : List Pkt :=
        if m.kind = 0 then
          cutData m.form m.data fun off => { blankPkt q 5 m.form with
            ctx := m.addr, rank := (kettleOf s c).elim 0 (·.myRank), epoch := r.epoch, offset := off }
        else
          (cutData m.form m.data fun off => { blankPkt q 1 m.form with va := (m.addr + off) % 2 ^ 57 }).map (fun p => { p with last := false }) ++
            [{ blankPkt q 2 m.form with payload := notifyPayload m.note m.data.length, last := true }]
      enqueue (beginMessage s c.inst) m.qpn owner ps

/-- The runs of a context before that of `slot`. -/
def runsBefore (c : Ctx) (slot : Nat) : List TpeRun := c.runs.takeWhile fun r => !(r.slot == slot)

/-- The step is a SEND_PARTIAL to the rank that has not made its shares yet: its source is still being read. -/
def sharesDue (x : TpeRun) (rank : Nat) : Bool :=
  stepOp x == 0x04 && !x.made && x.fail.isNone && decide (fld x.entry 20 11 0 ≤ rank) && decide (rank < fld x.entry 20 11 0 + fld x.entry 22 12 0)

/-- The limits allow a message of a step to begin: R174 and R381, the order to one rank of R325, the reads of R339. -/
def tpeMsgMay (s : State) (c : Ctx) (r : TpeRun) (m : TpeMsg) : Bool :=
  messageFits s c.inst &&
    match m.kind with
    | 0 => !(runsBefore c r.slot).any fun x => sharesDue x m.rank || (x.todo ++ x.out).any fun y => y.kind == 0 && y.rank == m.rank
    | 2 => decide ((r.out.filter fun y => y.kind == 2).length < 8) && (tget s.qps m.qpn).any fun q => decide (readsOut q < 128)
    | _ => true

/-- Begins the messages of a step that may. -/
def tpeIssue (ctx slot : Nat) (s : State) (m : TpeMsg) : State :=
  match tget s.ctxs ctx, runOf s ctx slot with
  | some c, some r =>
    if r.fail.isNone && r.todo.any (·.id == m.id) && tpeMsgMay s c r m then
      let s1 := modRun s ctx slot fun x => { x with todo := x.todo.filter (fun y => !(y.id == m.id)), out := x.out ++ [m] }
      tpeMsgBegin s1 ctx c r m
    else s
  | _, _ => s

/-- Ends the messages of a step that have ended. -/
def tpeRetire (s : State) (ctx inst : Nat) (r : TpeRun) : State :=
  let done := r.out.filter (tpeMsgEnded s ctx r.slot)
  done.foldl (tpeMsgEnd inst) (modRun s ctx r.slot fun x =>
    { x with out := x.out.filter (fun m => !done.any fun d => d.id == m.id), written := x.written + (done.map fun m => m.data.length).sum })

/-- Delivers pieces of a step's own share while they find room (R325). -/
def ownPieces : Nat → Ctx → Nat → Nat → Ctx
  | 0, c, _, _ => c
  | fuel + 1, c, myRank, slot =>
    match c.runs.find? fun r => r.slot == slot with
    | none => c
    | some r =>
      match r.own with
      | [] => c
      | (off, bs) :: rest =>
        if r.fail.isSome || (runsBefore c slot).any (fun x => !x.own.isEmpty || sharesDue x myRank) then c
        else
          let a := accArrive c myRank off bs r.epoch rest.isEmpty
          if a.2 == .placed then
            ownPieces fuel { a.1 with runs := a.1.runs.map fun x =>
              if x.slot = slot then { x with own := rest, written := x.written + bs.length } else x } myRank slot
          else c

/-- What the steps of a context can do now: messages that ended are retired, waiting ones begin, own shares are delivered. -/
def pumpCtx (s : State) (ctx : Nat) : State :=
  match tget s.ctxs ctx with
  | none => s
  | some c =>
    if c.state != .ready then s
    else
      let s1 := c.runs.foldl (fun t r => tpeRetire t ctx c.inst r) s
      let s2 := c.runs.foldl (fun t r => r.todo.foldl (tpeIssue ctx r.slot) t) s1
      match kettleOf s c with
      | some k => c.runs.foldl (fun t r => modCtx t ctx fun x => ownPieces (r.own.length + 1) x k.myRank r.slot) s2
      | none => s2

/-- The same for every context with steps under way. -/
def pumpAll (s : State) : State := (s.ctxs.filter fun r => !r.2.runs.isEmpty).foldl (fun t r => pumpCtx t r.1) s

end Sys2Proof.Machine
end

