-- ==== Sys2Proof/Machine/Receive.lean ====
section
/-!
DEFINITION. The way in (Urosh Transport on the Wire, 8.9; Spraying, Selective Repeat and Congestion, 9.5): receive checks,
duplicates, placement, holding, notifies, read responders, and the acknowledgements a receiver sends.
-/

namespace Sys2Proof.Machine

/-! ### What is reported (R215, R217, R460) -/

/-- PSNs placed and not yet known visible. -/
def hiddenPsns (q : Qp) : List Word := q.unflushed.map (·.1) ++ q.flushing

/-- CUM_PSN as reported. -/
def shownCum (q : Qp) : Word := (hiddenPsns q).foldl (fun m x => if sdist x m < 0 then x else m) q.cumPsn

def recOf (q : Qp) (psn : Word) : Option RxRec := q.recs.find? fun r => r.psn == psn

/-- Puts a number into a rising list. -/
def insNat (n : Nat) : List Nat → List Nat
  | [] => [n]
  | m :: t => if n < m then n :: m :: t else if n = m then m :: t else m :: insNat n t

/-- The runs of a rising list: first and last. -/
def runsOf : List Nat → List (Nat × Nat)
  | [] => []
  | n :: t => match runsOf t with
    | (a, b) :: r => if n + 1 = a then (n, b) :: r else (n, n) :: (a, b) :: r
    | [] => [(n, n)]

/-- The SACK blocks: the lowest eight runs beyond the reported CUM_PSN. -/
def sackOf (q : Qp) : List (Word × Word) :=
  let c := shownCum q
  let hid := hiddenPsns q
  let below := (List.range (q.cumPsn - c).toNat).filter fun i => !hid.contains (c + BitVec.ofNat 32 i)
  let recs := (q.recs.filter fun r => r.mark != .held && decide (0 ≤ sdist r.psn q.cumPsn) && !hid.contains r.psn).map
    fun r => (r.psn - c).toNat
  ((runsOf ((below ++ recs).foldl (fun l n => insNat n l) [])).take 8).map fun r => (c + BitVec.ofNat 32 r.1, c + BitVec.ofNat 32 r.2)

/-- Where an ACK comes from: the packet that triggers it, its arrival and its path. -/
abbrev Trigger := Word × Nat × Nat

/-- The body of an ACK without NAK or RESEND; HOLD_NS is the arrival until the body is sent. -/
def ackBody (q : Qp) (t : Trigger) : AckBody :=
  { nak := false, resend := false, cum := shownCum q, trigger := t.1, holdNs := t.2.1, ce := min 65535 q.ceCount, nakPsn := 0
    nakStatus := 0, nakSub := 0, sack := sackOf q }

/-- The ACK reports a PSN as received. -/
def ackCovers (b : AckBody) (psn : Word) : Bool :=
  sdist psn b.cum < 0 || b.sack.any fun r => decide (0 ≤ sdist psn r.1) && decide (sdist psn r.2 ≤ 0)

/-- What an ACK sent reports of READ responses (R173). -/
def noteReported (q : Qp) (b : AckBody) : Qp :=
  let left (l : List Word) : List Word := l.filter fun p => !ackCovers b p
  { q with
    work := q.work.map fun w => { w with unacked := left w.unacked }
    spent := (q.spent.map fun x => (x.1, left x.2)).filter fun x => !x.2.isEmpty }

/-- Sends an ACK body of a queue pair to its peer. -/
def sendAckBody (s : State) (qpn path : Nat) (b : AckBody) : State :=
  match tget s.qps qpn with
  | none => s
  | some q =>
    let next := (q.unflushed.map (·.2.2)).min?
    releaseTags (modQp (queueControl s qpn q.remoteCoord q.saId q.tc (some path) q.remoteQpn (.ack b)) qpn fun x =>
      noteReported { x with ackCount := 0, ceCount := 0, ackExpire := next } b) qpn

/-- Sends an ACK at once. -/
def sendAck (s : State) (qpn : Nat) (t : Trigger) : State :=
  match tget s.qps qpn with
  | some q => sendAckBody s qpn t.2.2 (ackBody q t)
  | none => s

/-- Sends an ACK with NAK. -/
def sendNak (s : State) (qpn : Nat) (t : Trigger) (status : BitVec 8) (sub : Nat) : State :=
  match tget s.qps qpn with
  | some q => sendAckBody s qpn t.2.2 { ackBody q t with nak := true, nakPsn := t.1, nakStatus := status, nakSub := sub }
  | none => s

/-- Sends an ACK with RESEND. -/
def sendResend (s : State) (qpn : Nat) (t : Trigger) : State :=
  match tget s.qps qpn with
  | some q => sendAckBody s qpn t.2.2 { ackBody q t with resend := true, nakPsn := t.1 }
  | none => s

/-- An ACK is due: at once, or after flushing reads on the ports that carried what it newly reports (R460). -/
def askAck (s : State) (qpn : Nat) (t : Trigger) : State :=
  match tget s.qps qpn with
  | none => s
  | some q =>
    if !q.ackFlush.isEmpty then modQp s qpn fun x => { x with ackDue := true, lastTrig := some t }
    else if q.unflushed.isEmpty then sendAck s qpn t
    else
      let r := issueFlushes s (q.unflushed.flatMap (·.2.1)) q.inst (.ack qpn)
      modQp r.2 qpn fun x =>
        { x with ackFlush := r.1, ackTrig := some t, flushing := x.unflushed.map (·.1), unflushed := [], ackDue := false }

/-! ### Notifies (R170, R171) -/

/-- The notify that is next in PSN order, with everything before it received. (DEDUCED in part: assumption 43) -/
def nextNotify (q : Qp) : Option RxRec :=
  match recOf q q.cumPsn with
  | some r => if r.mark == .held && (r.pkt.any fun p => p.op == 2) then some r else none
  | none => none

/-- The data packets of a notify's own message: as many PSNs before it as R193 and R196 cut its LENGTH into. -/
def messagePsns (p : Pkt) : List Word :=
  let step := if p.cell then 48 else 8192
  (List.range ((beField p.payload 4 4 31 0 + step - 1) / step)).map fun i => p.psn - BitVec.ofNat 32 (i + 1)

/-- The refusal that a data packet of a notify's message met: not every byte of the message is visible then (R170). -/
def messageRefusal (q : Qp) (p : Pkt) : Option (BitVec 8 × Nat) :=
  (messagePsns p).findSome? fun n => match recOf q n with
    | some r => (match r.mark with
      | .refused st sub => some (st, sub)
      | _ => none)
    | none => none

/-- The RQ entry that a notify can take now: the ring is ENABLED, and nothing keeps the instance from matching (R138, R390). -/
def nextReceive (s : State) (q : Qp) : Option Taken :=
  if instStopped s q.inst || q.rq.state != .enabled then none else q.rq.taken.find? fun t => !t.started && t.outcome.isNone

/-- After CUM_PSN moved or data became visible: the flushing reads a notify needs are issued, and the moment is noted from which only an RQ
entry is missing. -/
def notifyWaits (s : State) (qpn : Nat) : State :=
  match tget s.qps qpn with
  | none => s
  | some q =>
    match nextNotify q with
    | none => s
    | some r =>
      if !q.flushing.isEmpty then s
      else if !q.unflushed.isEmpty then askAck s qpn (q.lastTrig.getD (r.psn, r.arrived, r.path))
      else if r.waitAt.isNone then
        modQp s qpn fun x => { x with recs := x.recs.map fun y => if y.psn = r.psn then { y with waitAt := some s.now } else y }
      else s

/-- A flushing read of an ACK has ended. -/
def ackFlushed (s : State) (qpn id : Nat) : State :=
  match tget s.qps qpn with
  | none => s
  | some q =>
    if !q.ackFlush.contains id then s
    else
      let rest := q.ackFlush.filter fun x => !(x == id)
      if !rest.isEmpty then modQp s qpn fun x => { x with ackFlush := rest }
      else
        let s1 := modQp s qpn fun x => { x with ackFlush := [], flushing := [], ackTrig := none, ackDue := false }
        let s2 := match q.ackTrig with | some t => sendAck s1 qpn t | none => s1
        notifyWaits (match q.ackDue, q.lastTrig with
          | true, some t => askAck s2 qpn t
          | _, _ => s2) qpn

/-! ### Recording (R216) -/

/-- CUM_PSN slides over what is recorded and not held; what it passes is forgotten, but for refusals. -/
def slideCum : Nat → Qp → Qp
  | 0, q => q
  | fuel + 1, q =>
    match recOf q q.cumPsn with
    | some r =>
      if r.mark == .held then q
      else slideCum fuel { q with
        cumPsn := q.cumPsn + 1, recs := if r.mark == .placed then q.recs.filter fun x => !(x.psn == r.psn) else q.recs }
    | none => q

def slide (s : State) (qpn : Nat) : State :=
  notifyWaits (modQp s qpn fun q => slideCum (q.recs.length + 1) q) qpn

/-- schedule_ack of R216 with the moments of R217. -/
def scheduleAck (s : State) (qpn : Nat) (p : Pkt) (t : Trigger) : State :=
  let s1 := modQp s qpn fun q =>
    { q with ackCount := q.ackCount + 1, lastTrig := some t
             ackExpire := match q.ackExpire with | some a => some (min a (t.2.1 + s.cong.ackDelayNs)) | none => some (t.2.1 + s.cong.ackDelayNs) }
  match tget s1.qps qpn with
  | none => s1
  | some q =>
    if p.ackReq || p.retx || decide (s.cong.ackCoalesce ≤ q.ackCount) then
      (if (recOf q p.psn).any fun r => r.mark == .held then sendAck s1 qpn t else askAck s1 qpn t)
    else s1

/-- A packet that was recorded held ends: its reservation returns, the window slides, and the answer goes. `first` says that
this is still its arrival: a NAK then goes before the window slides, otherwise after it (R216). -/
def finishRx (s : State) (qpn : Nat) (psn : Word) (mark : RxMark) (ports : List Nat) (first : Bool) : State :=
  match tget s.qps qpn with
  | none => s
  | some q =>
    match recOf q psn with
    | none => s
    | some r =>
      let t : Trigger := (psn, r.arrived, r.path)
      let s1 := rxRelease s r.port r.cls r.bytes
      let s2 := modQp s1 qpn fun x => { x with
        recs := x.recs.map fun y => if y.psn = psn then { y with mark := mark, pkt := none, bytes := 0, waitAt := none, miss := false } else y
        missed := x.missed.filter fun m => !(m.1 == psn)
        unflushed := if ports.isEmpty then x.unflushed else x.unflushed ++ [(psn, ports.dedup, r.arrived + s.cong.ackDelayNs)] }
      let s3 := match mark with
        | .refused st sub => if first then slide (sendNak s2 qpn t st sub) qpn else sendNak (slide s2 qpn) qpn t st sub
        | _ => slide s2 qpn
      match first, r.pkt with
      | true, some p => scheduleAck s3 qpn p t
      | _, _ => match mark with
        | .refused .. => s3
        | _ => askAck s3 qpn t

/-- Takes back the record of a packet that is answered RESEND. -/
def unrecord (s : State) (qpn : Nat) (r : RxRec) : State :=
  modQp (rxRelease s r.port r.cls r.bytes) qpn fun q => { q with recs := q.recs.filter fun x => !(x.psn == r.psn) }

/-- A packet whose placement needs an A port that is down is not acknowledged: its sender repeats it (Table 3-4). -/
def dropRx (s : State) (qpn : Nat) (psn : Word) : State :=
  match (tget s.qps qpn).bind fun q => recOf q psn with
  | some r => unrecord s qpn r
  | none => s

/-! ### Placing bytes -/

/-- Memory outside the device that a port number of a piece names. -/
def pieceTarget (s : State) (inst port : Nat) : Target :=
  if port = 0 then (match tget s.insts inst with | some i => instTarget i | none => pfHost) else .aper (port - 1)

/-- Marks the mirror entries a write went through, all those of a merged cache entry (R273). -/
def markDirty (s : State) (inst : Nat) (p : Piece) : State :=
  let here (r : Nat × BitVec 128) : Bool := match cacheFind s inst p.va with
    | some e => overlaps r.1 (pteSize r.2) e.va e.size
    | none => overlaps r.1 (pteSize r.2) p.va 1
  { s with mirrors := tmod s.mirrors inst fun m => { m with dirty := (m.dirty ++ (m.entries.filter here).map (·.1)).dedup } }

/-- Writes bytes through translated pieces: the ports they left on, and how many were written. The write stops at a pool access that fails. -/
def writePieces : State → Nat → List Piece → Bytes → State × List Nat × Nat
  | s, _, [], _ => (s, [], 0)
  | s, inst, p :: ps, bs =>
    let now := bs.take p.len
    let more (t : State) (ports : List Nat) : State × List Nat × Nat :=
      let r := writePieces t inst ps (bs.drop p.len)
      (r.1, ports ++ r.2.1, now.length + r.2.2)
    if p.port = 5 then
      let r := poolWrite s inst p.ksel p.addr now
      if r.2 then more r.1 [] else (r.1, [], 0)
    else more (writeData (markDirty s inst p) (pieceTarget s inst p.port) p.addr now) [p.port]

/-- A piece lies behind an A port whose link is down. -/
def behindDown (s : State) (ps : List Piece) : Bool := ps.any fun p => p.port != 0 && p.port != 5 && !aLinkUp s (p.port - 1)

/-- The status and SUB of a failed access: MEMORY_ERROR under `base`, or CIPHER_COMPARE where the XTS computations
disagreed on an encrypted page (R289, R368). (DEDUCED in part: assumption 93) -/
def accessFault (s : State) (base : BitVec 8) (ps : List Piece) : BitVec 8 × Nat :=
  if s.cipher.xts && ps.any (fun p => p.port == 5 && p.ksel != 0) then (stCipherCompare, 0) else (base, 3)

/-- Counts the disagreement that made an access fail. -/
def noteXts (s : State) (ps : List Piece) : State :=
  if s.cipher.xts && ps.any (fun p => p.port == 5 && p.ksel != 0) then
    cipherMismatch { s with cipher := { s.cipher with xts := false } } 2
  else s

/-! ### Reading bytes (R459) -/

/-- The bytes of pieces: pool bytes now, the others from `ext` in order. -/
def gather (s : State) (inst : Nat) : List Piece → Bytes → Option Bytes
  | [], _ => some []
  | p :: ps, ext =>
    if p.port = 5 then
      match poolRead s inst p.ksel p.addr p.len, gather s inst ps ext with
      | some a, some b => some (a ++ b)
      | _, _ => none
    else (gather s inst ps (ext.drop p.len)).map fun b => slice ext 0 p.len ++ b

/-- Issues the reads of the pieces outside pool memory for which `p` holds. -/
def issueReads (s : State) (inst id : Nat) (ps : List Piece) (p : Piece → Bool) : State :=
  (ps.filter fun x => x.port != 5 && p x).foldl (fun t x => readData t (pieceTarget t inst x.port) x.addr x.len id) s

/-- Begins a data read: the bytes at once where all lie in pool memory, else its reads are issued. -/
def beginRead (s : State) (inst : Nat) (owner : AccOwner) (ps : List Piece) : State × Option (Option Bytes) :=
  if ps.all fun p => p.port == 5 then (s, some (gather s inst ps []))
  else
    let r := takeFresh s
    let s1 := { r.2 with reads := r.2.reads ++ [{ id := r.1, inst := inst, owner := owner, pieces := ps }] }
    (issueReads s1 inst r.1 ps fun _ => true, none)

/-! ### The read responder (R173, R176, R216) -/

/-- The LENGTH a READ_REQ asks for. -/
def reqLength (p : Pkt) : Nat := beField p.payload 0 4 31 0

def respOf (q : Qp) (tag : Nat) : Option RespSlot := q.resp.find? fun r => r.tag == tag

def modResp (s : State) (qpn tag : Nat) (f : RespSlot → RespSlot) : State :=
  modQp s qpn fun q => { q with resp := q.resp.map fun r => if r.tag = tag then f r else r }

/-- Frees the responder resources whose responses have all been acknowledged. -/
def freeResp (s : State) (qpn : Nat) : State :=
  modQp s qpn fun q => { q with resp := q.resp.filter fun r => r.reading || q.tx.any fun t => t.owner == .resp r.tag }

/-- The responses to a request: its bytes in packets of the form it came in. -/
def sendResponses (s : State) (qpn tag : Nat) (bytes : Bytes) : State :=
  match tget s.qps qpn with
  | none => s
  | some q =>
    match respOf q tag with
    | none => s
    | some r =>
      let ps := cutData r.cell bytes fun off => { blankPkt q 4 r.cell with tag := tag, offset := off }
      freeResp (enqueue (modResp s qpn tag fun x => { x with reading := false }) qpn (.resp tag) ps) qpn

/-- A request is refused: recorded so and answered NAK, its resource free. -/
def refuseRead (s : State) (qpn tag : Nat) (status : BitVec 8) (sub : Nat) (first : Bool) : State :=
  match (tget s.qps qpn).bind fun q => respOf q tag with
  | none => s
  | some r =>
    let s1 := freeResp (modResp s qpn tag fun x => { x with reading := false }) qpn
    match (tget s1.qps qpn).bind fun q => recOf q r.psn with
    | some _ => finishRx s1 qpn r.psn (.refused status sub) [] first
    | none => match tget s1.qps qpn with
      | some q => sendNak s1 qpn (r.psn, s.now, (q.lastTrig.map (·.2.2)).getD 0) status sub
      | none => s1

/-- The bytes of a request have been read, or the read failed. -/
def respData (s : State) (qpn tag : Nat) (ps : List Piece) (b : Option Bytes) (first : Bool) : State :=
  match b with
  | some bytes => sendResponses s qpn tag bytes
  | none => let f := accessFault s stRemoteAccess ps; refuseRead (noteXts s ps) qpn tag f.1 f.2 first

/-! ### Packets that met a miss under MISS_MODE 1 (R272) -/

/-- The waiting access of an owner. -/
def waitOf (s : State) (o : AccOwner) : Option Waiting := s.waits.find? fun w => w.owner == o

/-- The pages of a PSN that is answered RESEND are noted, and the resource its request took goes. -/
def noteMissed (s : State) (qpn : Nat) (psn : Word) (o : AccOwner) (pages : List Nat) : State :=
  modQp s qpn fun x => { x with
    missed := x.missed.filter (fun m => !(m.1 == psn)) ++ pages.map fun p => (psn, p, 0)
    resp := match o with | .respRead _ tag => x.resp.filter fun y => !(y.tag == tag && y.psn == psn) | _ => x.resp }

/-- An inbound access waits: on a miss, MISS_MODE 1 answers RESEND and forgets the packet; MISS_MODE 0 holds it. The same of a request
executed again, whose PSN stays recorded. -/
def rxMiss (s : State) (qpn : Nat) (psn : Word) (o : AccOwner) : State :=
  match tget s.qps qpn, waitOf s o with
  | some q, some w =>
    if w.missed.isEmpty then s
    else match (recOf q psn).filter fun r => r.mark == .held with
      | some r =>
        if q.missMode then sendResend (noteMissed (unrecord (dropWait s w.id) qpn r) qpn psn o w.missed) qpn (psn, r.arrived, r.path)
        else modQp s qpn fun x => { x with recs := x.recs.map fun y => if y.psn = psn then { y with miss := true } else y }
      | none => match o with
        | .respRead _ tag => match (respOf q tag).bind fun r => r.held with
          | some h => if q.missMode then sendResend (noteMissed (dropWait s w.id) qpn psn o w.missed) qpn (psn, h.1, h.2) else s
          | none => s
        | _ => s
  | _, _ => s

/-- The translation of inbound WRITE data ended, or it waits. -/
def placeWrite (s : State) (qpn : Nat) (psn : Word) (x : Xlat) (first : Bool) : State :=
  match (tget s.qps qpn).bind fun q => (recOf q psn).bind fun r => r.pkt.map fun p => (q, p) with
  | none => s
  | some (q, p) =>
    match x with
    | .done ps =>
      if behindDown s ps then dropRx s qpn psn
      else
        let w := writePieces s q.inst ps p.payload
        if w.2.2 = p.payload.length then finishRx w.1 qpn psn .placed w.2.1 first
        else let f := accessFault s stRemoteAccess ps; finishRx (noteXts w.1 ps) qpn psn (.refused f.1 f.2) w.2.1 first
    | .permission => finishRx s qpn psn (.refused stRemoteAccess 1) [] first
    | .notMapped => finishRx s qpn psn (.refused stRemoteAccess 2) [] first
    | .timeout => finishRx s qpn psn (.refused stPageTimeout 2) [] first
    | .waits =>
      let s1 := rxMiss s qpn psn (.rxPkt qpn psn)
      match first, (tget s1.qps qpn).bind fun q => recOf q psn with
      | true, some r => scheduleAck s1 qpn p (psn, r.arrived, r.path)
      | _, _ => s1

/-- The translation of a READ_REQ ended, or it waits. -/
def placeReq (s : State) (qpn tag : Nat) (x : Xlat) (first : Bool) : State :=
  match (tget s.qps qpn).bind fun q => (respOf q tag).map fun r => (q, r) with
  | none => s
  | some (q, r) =>
    match x with
    | .done ps =>
      let s1 := if (recOf q r.psn).any fun y => y.mark == .held then finishRx s qpn r.psn .placed [] first else s
      let b := beginRead s1 q.inst (.respRead qpn tag) ps
      (match b.2 with
      | some v => respData b.1 qpn tag ps v false
      | none => b.1)
    | .permission => refuseRead s qpn tag stRemoteAccess 1 first
    | .notMapped => refuseRead s qpn tag stRemoteAccess 2 first
    | .timeout => refuseRead s qpn tag stPageTimeout 2 first
    | .waits =>
      let s1 := rxMiss s qpn r.psn (.respRead qpn tag)
      match first, (tget s1.qps qpn).bind fun q => (recOf q r.psn).bind fun y => y.pkt.map fun p => (y, p) with
      | true, some (y, p) => scheduleAck s1 qpn p (r.psn, y.arrived, y.path)
      | _, _ => s1

/-! ### Read responses at the initiator (R172, R176, R225) -/

/-- A range of a READ has been placed already. -/
def coversRange (w : SqWork) (off len : Nat) : Bool := w.placed.any fun r => decide (r.1 ≤ off) && decide (off + len ≤ r.1 + r.2)

/-- Adds a range to those placed, which stay rising and apart. -/
def addRange (r : Nat × Nat) : List (Nat × Nat) → List (Nat × Nat)
  | [] => [r]
  | x :: t =>
    if r.1 + r.2 < x.1 then r :: x :: t
    else if x.1 + x.2 < r.1 then x :: addRange r t
    else addRange (min r.1 x.1, max (r.1 + r.2) (x.1 + x.2) - min r.1 x.1) t

/-- A READ whose bytes have all been placed ends (R225); one of a TPE step is left to the step. -/
def finishRead (s : State) (qpn : Nat) (w : SqWork) : State :=
  match w.tpe with
  | none => endEntry s .sq qpn w.slot stOk 0 w.length
  | some _ => s

def modWork (s : State) (qpn slot : Nat) (f : SqWork → SqWork) : State :=
  modQp s qpn fun q => { q with work := q.work.map fun w => if w.slot = slot then f w else w }

def workByTag (q : Qp) (tag : Nat) : Option SqWork := q.work.find? fun w => w.op == 3 && w.tag == some tag && !w.decided

/-- Bytes of a READ have been placed. -/
def readPlaced (s : State) (qpn slot off len : Nat) (ports : List Nat) : State :=
  let d := match tget s.qps qpn with
    | some q => (tget s.dests q.remoteCoord).getD (newDest s q.remoteCoord)
    | none => newDest s 0
  let s1 := modWork s qpn slot fun w =>
    { w with placed := addRange (off, len) w.placed, due := some (s.now + rtoNs s d 0), ports := w.ports ++ ports }
  match (tget s1.qps qpn).bind fun q => q.work.find? fun w => w.slot == slot with
  | some w => if placedBytes w = w.length then finishRead (releaseTags s1 qpn) qpn w else s1
  | none => s1

/-- The bytes of a response for a TPE step go to the step (R339). -/
def tpeReadBytes (s : State) (ctx slot msg off : Nat) (bs : Bytes) : State :=
  modRun s ctx slot fun r => { r with bufs := match r.out.find? fun m => m.id == msg with
    | some m => tput r.bufs (m.off + off) bs
    | none => r.bufs }

/-- A response counts as one of its READ's until an ACK has reported it (R173). -/
def noteResp (s : State) (qpn slot : Nat) (psn : Word) : State :=
  modWork s qpn slot fun w => { w with unacked := if w.unacked.contains psn then w.unacked else w.unacked ++ [psn] }

/-- A READ_RESP is placed, or its translation waits. A copy of bytes placed meanwhile is discarded (R176). -/
def placeResp (s : State) (qpn : Nat) (psn : Word) (x : Xlat) (first : Bool) : State :=
  match (tget s.qps qpn).bind fun q => (recOf q psn).bind fun r => r.pkt.map fun p => (q, p) with
  | none => s
  | some (q, p) =>
    match workByTag q p.tag with
    | none => finishRx s qpn psn .placed [] first
    | some w =>
      let end_ (u : State) (ports : List Nat) (st : BitVec 8) (sub : Nat) : State :=
        endEntry (finishRx (modWork u qpn w.slot fun y => { y with ports := y.ports ++ ports }) qpn psn .placed [] first) .sq qpn w.slot st sub 0
      if coversRange w p.offset p.payload.length then finishRx s qpn psn .placed [] first
      else match x with
      | .done ps =>
        if behindDown s ps then dropRx s qpn psn
        else
          let r := writePieces s q.inst ps p.payload
          if r.2.2 = p.payload.length then readPlaced (finishRx r.1 qpn psn .placed r.2.1 first) qpn w.slot p.offset p.payload.length r.2.1
          else let f := accessFault s stTransFault ps; end_ (noteXts r.1 ps) r.2.1 f.1 f.2
      | .permission => end_ s [] stTransFault 1
      | .notMapped => end_ s [] stTransFault 2
      | .timeout => end_ s [] stPageTimeout 1
      | .waits => match first, recOf q psn with
        | true, some r => scheduleAck s qpn p (psn, r.arrived, r.path)
        | _, _ => s

/-- A READ_RESP arrives. -/
def acceptResp (s0 : State) (qpn : Nat) (q : Qp) (p : Pkt) : State :=
  match workByTag q p.tag with
  | none => finishRx s0 qpn p.psn .placed [] true
  | some w =>
    let n := p.payload.length
    let s := noteResp s0 qpn w.slot p.psn
    if coversRange w p.offset n || decide (w.length < p.offset + n) then finishRx s qpn p.psn .placed [] true
    else match w.tpe with
      | some (ctx, slot, msg) =>
        readPlaced (tpeReadBytes (finishRx s qpn p.psn .placed [] true) ctx slot msg p.offset p.payload) qpn w.slot p.offset n []
      | none =>
        let r := beginAccess s q.inst (.rxPkt qpn p.psn) .localWrite (w.va + p.offset) n
        placeResp r.1 qpn p.psn r.2 true

/-! ### Packets (R204, R216, R393, R407) -/

/-- Records a packet as held, until its acceptance says otherwise. -/
def recordHeld (s : State) (qpn : Nat) (d : RxDgram) (share : Nat) (p : Pkt) : State :=
  modQp s qpn fun q => { q with recs := q.recs ++
    [{ psn := p.psn, mark := .held, arrived := d.arrived, pkt := some p, miss := false, staging := false, waitAt := none
       bytes := share, port := d.port, cls := d.cls, path := d.path }] }

/-- The earlier execution of a request ends: its waits, reads and unsent responses go (R216). (DEDUCED in part: assumption 89) -/
def cancelResp (s : State) (qpn tag : Nat) : State :=
  let o := AccOwner.respRead qpn tag
  let gone : List Nat := match tget s.qps qpn with
    | some q => (q.tx.filter fun t => t.owner == .resp tag && !t.numbered).map (·.id)
    | none => []
  let s1 := pullTx (modQp s qpn fun q => { q with tx := q.tx.filter fun t => !gone.contains t.id }) fun c => !(c.1 == qpn && gone.contains c.2)
  { s1 with waits := s1.waits.filter (fun w => !(w.owner == o)), reads := s1.reads.filter fun r => !(r.owner == o) }

/-- Executes a READ_REQ under its tag. `held`: it is executed again, with its arrival and its path. -/
def executeRead (s : State) (qpn : Nat) (p : Pkt) (first : Bool) (again : List Nat) (held : Option (Nat × Nat)) : State :=
  match tget s.qps qpn with
  | none => s
  | some q =>
    let s1 := cancelResp s qpn p.tag
    let slot : RespSlot := { tag := p.tag, psn := p.psn, length := reqLength p, cell := p.cell, reading := true, held := held }
    let s2 := modQp s1 qpn fun x => { x with resp := (x.resp.filter fun y => !(y.tag == p.tag)) ++ [slot] }
    let r := beginAccess s2 q.inst (.respRead qpn p.tag) .remoteRead p.va (reqLength p) again
    placeReq r.1 qpn p.tag r.2 first

/-- What a PSN answered RESEND meets when it comes again: a page that timed out, and the pages the host has answered (R272). -/
def missedBefore (q : Qp) (psn : Word) : Bool × List Nat :=
  let old := q.missed.filter fun m => m.1 == psn
  (old.any fun m => m.2.2 == 1, (old.filter fun m => m.2.2 == 2).map (·.2.1))

/-- `accept` of R216 on a packet recorded held. -/
def acceptPkt (s : State) (qpn : Nat) (p : Pkt) : State :=
  match tget s.qps qpn with
  | none => s
  | some q =>
    let old := missedBefore q p.psn
    if old.1 then finishRx s qpn p.psn (.refused stPageTimeout 2) [] true
    else match p.op with
      | 1 =>
        let r := beginAccess s q.inst (.rxPkt qpn p.psn) .remoteWrite p.va p.payload.length old.2
        placeWrite r.1 qpn p.psn r.2 true
      | 2 =>
        let s1 := notifyWaits s qpn
        (match recOf q p.psn with
        | some r => scheduleAck s1 qpn p (p.psn, r.arrived, r.path)
        | none => s1)
      | 3 =>
        if (respOf q p.tag).isNone && decide (128 ≤ q.resp.length) then finishRx s qpn p.psn (.refused stRemoteInvalid 4) [] true
        else executeRead s qpn p true old.2 none
      | 4 => acceptResp s qpn q p
      | _ =>
        let r := accAccept s q.inst qpn p
        match r.2 with
        | .placed => finishRx r.1 qpn p.psn .placed [] true
        | .refused => finishRx r.1 qpn p.psn (.refused stRemoteInvalid 5) [] true
        | .held =>
          let s1 := modQp r.1 qpn fun x => { x with recs := x.recs.map fun y => if y.psn = p.psn then { y with staging := true } else y }
          match recOf q p.psn with
          | some y => scheduleAck s1 qpn p (p.psn, y.arrived, y.path)
          | none => s1

/-- A READ_REQ that arrives again is executed again (R176, R216), unless a page of it has timed out (R272); while its first arrival is held,
the answer is a hold answer. -/
def readAgainReq (s : State) (qpn : Nat) (q : Qp) (p : Pkt) (t : Trigger) : State :=
  let old := missedBefore q p.psn
  match recOf q p.psn with
  | some r =>
    if r.mark == .held then sendAck (executeRead s qpn p false [] none) qpn (p.psn, r.arrived, t.2.2)
    else match r.mark with
      | .refused st sub => sendNak s qpn t st sub
      | _ => sendAck (executeRead s qpn p false [] (some (t.2.1, t.2.2))) qpn t
  | none =>
    if old.1 then sendNak s qpn t stPageTimeout 2
    else sendAck (executeRead s qpn p false old.2 (some (t.2.1, t.2.2))) qpn t

/-- An ACCUMULATE packet held for staging space. -/
def stagingPkt (s : State) : Option (Nat × Pkt) :=
  s.qps.findSome? fun r => r.2.recs.findSome? fun y =>
    match y.pkt with
    | some p =>
      if y.mark == .held && y.staging && (accAccept s r.2.inst r.1 p).2 != .held then some (r.1, p) else none
    | none => none

/-- Held ACCUMULATE packets for which space has come are staged, added or refused, oldest first. -/
def retryStaging : Nat → State → State
  | 0, s => s
  | fuel + 1, s =>
    match stagingPkt s with
    | none => s
    | some (n, p) =>
      match tget s.qps n with
      | none => s
      | some q =>
        let r := accAccept s q.inst n p
        let mark : RxMark := if r.2 == .placed then .placed else .refused stRemoteInvalid 5
        retryStaging fuel (finishRx r.1 n p.psn mark [] false)

/-- The number of held ACCUMULATE packets, as fuel. -/
def heldCount (s : State) : Nat := (s.qps.map fun r => r.2.recs.length).sum

def settleStaging (s : State) : State := retryStaging (heldCount s) s

/-- What list steps and held partials can do after a change. -/
def tpeSettle (s : State) : State := pumpAll (settleStaging (pumpAll s))

/-- An answer to a sender whose queue pair this adapter does not know: NAK under the datagram's association (R204). Its
DST_QPN and CUM_PSN are stated nowhere and stay free. (DESIGN CHOICE in part: assumption 11) -/
def nakStranger (s : State) (d : RxDgram) (p : Pkt) (sub : Nat) : State :=
  let r := takeFresh s
  let b : AckBody :=
    { nak := true, resend := false, cum := Config.strangerCum r.1, trigger := p.psn, holdNs := d.arrived, ce := 0, nakPsn := p.psn
      nakStatus := stRemoteInvalid, nakSub := sub, sack := [] }
  queueControl r.2 p.dstQpn d.src d.saId d.cls (some d.path) (Config.strangerQpn r.1) (.ack b)

/-- The receive state machine of R216 for a bound queue pair that serves requests. -/
def onData (s : State) (qpn : Nat) (d : RxDgram) (share : Nat) (p : Pkt) : State :=
  match tget s.qps qpn with
  | none => s
  | some q =>
    let t : Trigger := (p.psn, d.arrived, d.path)
    let off := sdist p.psn q.cumPsn
    if 65536 ≤ off then count (rxRelease s d.port d.cls share) 0 0 9 1
    else
      let s0 := if d.ce then modQp s qpn fun x => { x with ceCount := x.ceCount + 1 } else s
      let rec_ := recOf q p.psn
      if off < 0 || rec_.isSome then
        let s1 := rxRelease s0 d.port d.cls share
        if p.op = 3 then readAgainReq s1 qpn q p t
        else match rec_ with
          | some r => (match r.mark with
            | .refused st sub => sendNak s1 qpn t st sub
            | .held => sendAck s1 qpn (p.psn, r.arrived, d.path)
            | .placed => if (hiddenPsns q).contains p.psn then askAck s1 qpn t else sendAck s1 qpn t)
          | none => if (hiddenPsns q).contains p.psn then askAck s1 qpn t else sendAck s1 qpn t
      else settleStaging (acceptPkt (recordHeld s0 qpn d share p) qpn p)

/-- A packet of a datagram handed to the transport. (DEDUCED in part: assumption 42) -/
def rxPacket (s : State) (d : RxDgram) (share : Nat) (p : Pkt) : State :=
  let drop_ := rxRelease s d.port d.cls share
  let t : Trigger := (p.psn, d.arrived, d.path)
  match tget s.qps p.dstQpn with
  | none => nakStranger drop_ d p 1
  | some q =>
    if q.saId != d.saId then nakStranger drop_ d p 2
    else if q.state = .frozen then
      match tget s.insts q.inst with
      | some i => sendAckBody drop_ p.dstQpn d.path (ackBody q (p.psn, i.frozenAt, d.path))
      | none => drop_
    else if q.oldCoord = some d.src && q.state != .reset then
      let r := takeFresh drop_
      { r.2 with txq := r.2.txq ++
          [{ id := r.1, coord := q.remoteCoord, saId := q.saId, tc := q.tc, path := some d.path
             body := .control p.dstQpn q.remoteQpn (.moved { refused := p.psn, coord := ownCoord s, inst := q.inst, qpn := p.dstQpn })
             src := some d.src }] }
    else if q.state == .reset || q.state == .init || q.remoteCoord != d.src then nakStranger drop_ d p 2
    else if q.state = .error then sendNak drop_ p.dstQpn t stFlushed 0
    else onData s p.dstQpn d share p

/-- The shares of a frame's bytes that its packets keep of the reservation. -/
def shareOf (d : RxDgram) (n i : Nat) : Nat := if i = 0 then d.frameLen - d.frameLen / n * (n - 1) else d.frameLen / n

/-- Every packet of a datagram. -/
def rxPackets (s : State) (d : RxDgram) (ps : List Pkt) : State :=
  (ps.mapIdx fun i p => (shareOf d ps.length i, p)).foldl (fun t x => rxPacket t d x.1 x.2) s

/-- A handshake body: the control cluster's firmware serves it, the transport the rest. -/
def isHandshake : RxBody → Bool
  | .control _ (.connReq _) | .control _ (.connAccept _) | .control _ (.connRefuse _) => true
  | _ => false

/-- The first item for which `p` holds, and the others. -/
def takeFirst {α : Type} (p : α → Bool) : List α → Option (α × List α)
  | [] => none
  | x :: t => if p x then some (x, t) else (takeFirst p t).map fun r => (r.1, x :: r.2)

/-- A control datagram is held no longer once it is taken: its bytes leave the count (R245). Packets give theirs back one by one. -/
def takenRx (s : State) (d : RxDgram) : State :=
  match d.body with
  | .control .. => rxRelease s d.port d.cls d.frameLen
  | .train _ | .kite _ => s

/-- The oldest waiting datagram of the transport, or of the firmware, taken. -/
def takeRx (s : State) (hs : Bool) : Option (RxDgram × State) :=
  (takeFirst (fun d => isHandshake d.body == hs) s.rxq).map fun r => (r.1, takenRx { s with rxq := r.2 } r.1)

/-- TRAIN_RECEIVED: the oldest waiting datagram is a train. `m`: what the pool accesses it causes meet. -/
def execTrainReceived (m : Meets) (s : State) : Result :=
  match takeRx s false with
  | some (d, t) => match d.body with
    | .train ps =>
      if !serving s then .next s
      else .next (tpeSettle (underMeets m t fun u => rxPackets u d ps))
    | _ => .next s
  | none => .next s

/-- KITE_RECEIVED. -/
def execKiteReceived (m : Meets) (s : State) : Result :=
  match takeRx s false with
  | some (d, t) => match d.body with
    | .kite p =>
      if !serving s then .next s
      else .next (tpeSettle (underMeets m t fun u => rxPacket u d d.frameLen p))
    | _ => .next s
  | none => .next s

/-! ### Receive checks (R203, R350 to R354) -/

/-- A tag failure of an association (R353). -/
def tagFails (s : State) (id : Nat) (phase : Bool) : State :=
  let s1 := modSa (count (count s 0 0 7 1) 2 id 0 1) id fun a => { a with fails := a.fails + 1 }
  let quiet := match (saOf s id).bind (·.failAt) with | some t => decide (s.now < t + 1000000) | none => false
  if quiet then s1
  else post (modSa s1 id fun a => { a with failAt := some s.now }) 0x0072
    (evData [(16, 2, id), (18, 1, phase.toNat), (20, 4, min (2 ^ 32 - 1) (counter s1 2 id 0))])

def phaseOf (a : Sa) (phase : Bool) : Option RxPhase := if phase then a.rx1 else a.rx0

def setPhase (a : Sa) (phase : Bool) (r : Option RxPhase) : Sa := if phase then { a with rx1 := r } else { a with rx0 := r }

/-- The replay window refuses a SEAL_SEQ (R352). -/
def isReplay (r : RxPhase) (seq : Nat) : Bool := decide (seq + 65536 ≤ r.high) || r.seen.contains seq

def noteSeq (r : RxPhase) (seq : Nat) : RxPhase :=
  let h := max r.high seq
  { r with high := h, seen := (seq :: r.seen).filter fun x => decide (h < x + 65536) }

/-- The first authentic datagram of the next phase makes it the receive phase; the old one retires (R354). -/
def switchPhase (s : State) (id : Nat) (phase : Bool) : State :=
  match saOf s id with
  | some a => if a.pending && phase != a.rxPhase then
      modSa s id fun x => { x with rxPhase := phase, pending := false, retiring := some (s.now + 100000000) } else s
  | none => s

/-- The body of an opened datagram, where every field is legal (check 9). -/
def parseBody (kind : Nat) (parts : Parts) : Option RxBody :=
  match kind, parts with
  | 1, ps => (ps.mapM fun x => parseCell x.1 x.2).map .train
  | 2, [(h, p)] => (parseKite h p).map .kite
  | 3, [(b, _)] => (parseCtl b).map fun c => .control c.1 c.2
  | _, _ => none

/-- R240. -/
def rxClass (s : State) (pcp : Option Nat) (dscp : Nat) : Nat :=
  match pcp with
  | some c => c
  | none => ((List.range 8).find? fun c => (confOf s c).dscp == dscp).getD 0

/-- The difference of two device times. -/
def timeGap (a b : BitVec 64) : Nat := (a.toNat : Int).sub b.toNat |>.natAbs

/-- R254: the time of an authenticated handshake body against device time at its arrival, on a port whose running list has a GUARD_NS. -/
def checkPeerTime (s : State) (port : Nat) (b : ConnBody) : State :=
  match (portOf s port).running with
  | none => s
  | some l =>
    if l.guardNs = 0 || !b.trusted || !s.time.trusted then s
    else
      let off := decide (l.guardNs < timeGap s.time.dev b.txTime)
      gateRefreshPort (modPort s port fun p => { p with disagree := if off then some b.srcCoord else none }) port

/-- The time comparison that an arriving body calls for; a list whose instant has come has taken over before it. -/
def notePeerTime (s : State) (port : Nat) : RxBody → State
  | .control _ (.connReq b) | .control _ (.connAccept b) | .control _ (.connRefuse b) => checkPeerTime (gateTakeoversDue s) port b
  | .control _ (.ack _) | .control _ (.moved _) | .train _ | .kite _ => s

/-- Checks 8 and 9 on an envelope that is legal, and the hand-over to the transport. -/
def openFrame (s : State) (port : Nat) (src pcp dscp : Nat) (ce : Bool) (path len : Nat) (u : Bytes) (disagree : Bool) : State :=
  let spi := beField u 4 4 31 0
  let id := spi % 2 ^ 14
  let phase := spi / 2 ^ 14 % 2 == 1
  let kind := beField u 0 1 3 0
  let body := (u.drop 16).take (u.length - 32)
  match saOf s id with
  | none => count s 0 0 7 1
  | some a =>
    if spi / 2 ^ 15 != 0 || a.dead then count s 0 0 7 1
    else match phaseOf a phase with
      | none => tagFails s id phase
      | some r =>
        if disagree then cipherMismatch s 1
        else match openDatagram (slotKey s r.slot) (u.take 16) (splitBody kind (beField u 1 1 7 0) body) (u.drop (u.length - 16)) with
          | none => tagFails s id phase
          | some parts =>
            let seq := beField u 8 8 63 0
            if isReplay r seq then count s 2 id 1 1
            else
              let s1 := modSa s id fun x => setPhase x phase (some (noteSeq r seq))
              let s2 := switchPhase s1 id phase
              match parseBody kind parts with
              | none => count s2 0 0 8 1
              | some b =>
                let s3 := count s2 2 id 2 1
                let c := rxClass s (if pcp = 8 then none else some pcp) dscp
                let d : RxDgram :=
                  { port := port, cls := c, frameLen := len, src := src, saId := id, path := path, ce := ce, arrived := s.now, body := b }
                let s4 := notePeerTime s3 port b
                if !rxFits s4 port c len then rxDrop s4 port c
                else if s.ctlReset && isHandshake b then s4
                else
                  let s5 := rxTake s4 port c len
                  { s5 with rxq := s5.rxq ++ [d] }

/-- The forwarding record that relays a datagram (R406). -/
def forwardOf (s : State) (u : Bytes) : Option Forward :=
  let id := beField u 4 4 13 0
  s.forwards.find? fun f => f.sas.contains id && decide (s.now < f.limit)

/-- Relays a datagram to the new adapter: UDP payload, source port, DSCP and ECN as they came (R406). It leaves on its path's
port, or on another where that one is not UP. (DEDUCED in part: assumption 46) -/
def relay (s : State) (f : Forward) (pcp : Option Nat) (dscp ecn sport : Nat) (u : Bytes) : State :=
  let c := rxClass s pcp dscp
  let ports := ((pathPort s (sport % 256)).toList ++ livePorts s).filter fun n => portUp s n && (portOf s n).nextHop.isSome
  match img s, ports with
  | some i, n :: _ =>
    let s1 := { s with forwards := s.forwards.map fun x =>
      if x.inst = f.inst && x.limit = f.limit then { x with relayed := min (2 ^ 32 - 1) (x.relayed + 1) } else x }
    pushFrame s1 n c { bytes := frameWith i (ownCoord s) n (((portOf s n).nextHop).getD []) c (dscp * 4 + ecn) sport f.coord u, pkts := [] }
  | _, _ => s

/-- The packets of a frame: CELLS of a train (Table 8-6), else one. -/
def framePackets (o : Outer) : Nat :=
  match o with
  | .urosh _ _ _ _ _ u => max 1 (beField u 1 1 7 0)
  | _ => 1

/-- FRAME_RECEIVED: a frame of a logical port, without its FCS. `disagree`: the two openings of it disagree (R368).
(DEDUCED in part: assumption 99) -/
def execFrameReceived (port : Nat) (bytes : Bytes) (fcsOk disagree : Bool) (s : State) : Result :=
  match img s with
  | none => .next s
  | some i =>
    if !(running s && portUp s port) || beField bytes 12 2 15 0 == 0x8808 then .next s
    else
      let s := heardOn s port bytes (framePackets (outerOf i port fcsOk bytes))
      match outerOf i port fcsOk bytes with
      | .bad n => .next (count s 0 0 (n - 1) 1)
      | .urosh srcIp pcp dscp ecn sport u =>
        let s1 := count s 1 port 0 1
        if !ready s then .next s1
        else if !envelopeLegal u then .next (count s1 0 0 6 1)
        else match forwardOf s1 u with
          | some f =>
            let c := rxClass s1 pcp dscp
            .next (if rxFits s1 port c (wireLen bytes) then relay s1 f pcp dscp ecn sport u else rxDrop s1 port c)
          | none =>
            .next (openFrame s1 port ((coordOf i srcIp).getD (2 ^ 24)) (pcp.getD 8) dscp (ecn == 3) (sport % 256) (wireLen bytes) u disagree)
      | _ => .next s

/-! ### Timers of the receiver -/

/-- ACK_DELAY_EXPIRE (R217). -/
def execAckDelayExpire (qpn : Nat) (s : State) : Result :=
  match tget s.qps qpn with
  | none => .next s
  | some q =>
    match q.ackExpire, q.lastTrig with
    | some a, some t => .next (if serving s && q.state != .frozen && decide (a ≤ s.now) then askAck s qpn t else s)
    | _, _ => .next s

/-- A held notify that lacks only an RQ entry. -/
def lacksReceive (s : State) (q : Qp) (r : RxRec) : Bool := r.waitAt.isSome && (nextReceive s q).isNone

/-- A request executed again has waited 1.5 ms on a miss (R272): it ends, and is answered NAK. -/
def endReexecuted (s : State) (qpn : Nat) (psn : Word) : State :=
  match (tget s.qps qpn).bind fun q => q.resp.find? fun r => r.psn == psn && r.held.isSome with
  | some r => match r.held with
    | some h =>
      if (waitOf s (.respRead qpn r.tag)).any (fun w => !w.missed.isEmpty) && decide (h.1 + 1500000 ≤ s.now) then
        sendNak (modQp (cancelResp s qpn r.tag) qpn fun q => { q with resp := q.resp.filter fun y => !(y.tag == r.tag) }) qpn
          (psn, h.1, h.2) stPageTimeout 2
      else s
    | none => s
  | none => s

/-- HOLD_TIMEOUT: a packet has been held for 1.5 ms (R215, R272). (DEDUCED in part: assumption 87) -/
def execHoldTimeout (qpn : Nat) (psn : Word) (s : State) : Result :=
  match tget s.qps qpn with
  | none => .next s
  | some q =>
    if !serving s then .next s
    else match (recOf q psn).filter fun r => r.mark == .held with
      | none => .next (endReexecuted s qpn psn)
      | some r =>
        if s.now < r.arrived + 1500000 then .next s
        else if r.miss then
          let own (w : Waiting) : Bool := match w.owner with
            | .rxPkt n p => n == qpn && p == psn
            | .respRead n tag => n == qpn && (r.pkt.any fun p => p.op == 3 && p.tag == tag)
            | _ => false
          let s1 := { s with waits := s.waits.filter fun w => !own w }
          let s2 := modQp s1 qpn fun q => { q with resp := q.resp.filter fun y => !((r.pkt.any fun p => p.op == 3) && y.psn == psn) }
          .next (finishRx s2 qpn psn (.refused stPageTimeout 2) [] false)
        else if r.staging then .next (finishRx s qpn psn (.refused stRemoteInvalid 6) [] false)
        else if lacksReceive s q r then .next (finishRx s qpn psn (.refused stRemoteInvalid 3) [] false)
        else .next s

/-- NOTIFY_WAIT_TIMEOUT: a notify has waited 1 ms for an RQ entry (R171). -/
def execNotifyWaitTimeout (qpn : Nat) (s : State) : Result :=
  match tget s.qps qpn with
  | none => .next s
  | some q =>
    match nextNotify q with
    | none => .next s
    | some r =>
      let due := match r.waitAt with | some t => decide (t + 1000000 ≤ s.now) | none => false
      .next (if serving s && due && lacksReceive s q r then finishRx s qpn r.psn (.refused stRemoteInvalid 3) [] false else s)

/-- The form of an RQ entry (R142, R167). -/
def receiveLegal (e : Entry) : Bool := fld e 0 7 0 == 0x10 && zeroBytes e 1 47 && tailLegal e

/-- What a notify brings to its RQ entry. -/
def notifyOutcome (p : Bytes) : Outcome :=
  { status := stOk, sub := 0, bytes := beField p 4 4 31 0, notify := BitVec.ofNat 32 (beField p 0 4 31 0) }

/-- NOTIFY_DELIVER: the next notify takes the next RQ entry (R170). One whose message lost a data packet to a refusal is refused so too.
(DESIGN CHOICE in part: assumption 109) -/
def execNotifyDeliver (qpn : Nat) (s : State) : Result :=
  match tget s.qps qpn with
  | none => .next s
  | some q =>
    match nextNotify q, nextReceive s q with
    | some r, some t =>
      if !serving s || !(q.state == .ready || q.state == .draining) || !(hiddenPsns q).isEmpty then .next s
      else match r.pkt.bind (messageRefusal q) with
        | some x => .next (finishRx s qpn r.psn (.refused x.1 x.2) [] false)
        | none =>
          let s1 := modQp s qpn fun x => { x with rq := { x.rq with taken := x.rq.taken.map fun y => if y.slot = t.slot then { y with started := true } else y } }
          if !receiveLegal t.entry then .next (endEntry s1 .rq qpn t.slot stMalformed 0 0)
          else
            let s2 := drainQp (endSlot s1 .rq qpn t.slot (notifyOutcome ((r.pkt.map (·.payload)).getD []))) .rq qpn
            .next (fetchRing (finishRx s2 qpn r.psn .placed [] false) .rq qpn)
    | _, _ => .next s

end Sys2Proof.Machine
end

