-- ==== Sys2Proof/Machine/Repair.lean ====
section
/-!
DEFINITION. What a sender does with answers (Spraying, Selective Repeat and Congestion, 9.6 to 9.8): acknowledgements, the
congestion window, NAK, RESEND and hold answers, redirection, repeats of a READ_REQ; and the commands that configure paths,
congestion, rates and gates.
-/

namespace Sys2Proof.Machine

/-! ### What an ACK says -/

/-- A hold answer (R216): its trigger is neither below CUM_PSN nor in a SACK block. One with NAK or RESEND is none.
(DEDUCED in part: assumption 88) -/
def isHoldAnswer (b : AckBody) : Bool := !b.nak && !b.resend && !ackCovers b b.trigger

/-- The owner of a PSN: of its packet, or of the READ whose request it was. -/
def ownerOfPsn (q : Qp) (psn : Word) : Option TxOwner :=
  match q.tx.find? fun t => t.numbered && t.pkt.psn == psn with
  | some t => some t.owner
  | none => (q.work.find? fun w => w.req.any fun p => p.psn == psn).map fun w =>
      match w.tpe with
      | some (c, sl, m) => .tpe c sl m
      | none => .sq w.slot

/-! ### The congestion window (R227) -/

/-- Applies an RTT sample. (DEDUCED in part: assumption 45) -/
def rttSample (d : Dest) (rtt : Int) : Dest :=
  let var := (d.rttvar : Int) + Int.tdiv (Int.natAbs (rtt - d.srtt) - (d.rttvar : Int)) 4
  let srtt := (d.srtt : Int) + Int.tdiv (rtt - d.srtt) 8
  { d with rttvar := var.toNat, srtt := srtt.toNat }

/-- The cut that marks and RTT call for, in 1/1024. -/
def windowCut (p : CongParams) (srtt ce pkts : Nat) : Nat :=
  let a := if 0 < pkts && 0 < ce then min 1024 (ce * 1024 / pkts) else 0
  if p.targetRttNs < srtt then max a ((srtt - p.targetRttNs) * 1024 / srtt) else a

/-- on_ack_window: `sample` is the RTT sample, where the ACK gives one. -/
def ackWindow (s : State) (d : Dest) (sample : Option Int) (ce bytes pkts : Nat) : Dest :=
  let p := s.cong
  let d1 := match sample with | some r => rttSample d r | none => d
  let cut := windowCut p d1.srtt ce pkts
  if 0 < cut then
    if (match d1.lastCut with | some t => decide (d1.srtt ≤ s.now - t) | none => true) then
      { d1 with cwnd := max p.minWndB (d1.cwnd - d1.cwnd * p.beta / 1024 * cut / 1024), lastCut := some s.now }
    else d1
  else if d1.recovery.isEmpty then { d1 with cwnd := min p.maxWndB (d1.cwnd + p.addIncB * bytes / d1.cwnd) }
  else d1

/-! ### Acknowledged packets -/

/-- A probe of a path has been acknowledged (Table 9-2). -/
def probeAcked (s : State) (coord path : Nat) : State :=
  match tget s.dests coord with
  | none => s
  | some d =>
    if (pathOf s d path).health = .probing then
      let s1 := modPath s coord path fun p =>
        { p with health := .healthy, holdUs := s.cong.holdUs, probe := none, cause := none, losses := [] }
      post (modDest s1 coord fun x => { x with exhausted := false }) 0x0031 (evData [(16, 3, coord), (19, 1, path)])
    else s

/-- Counts one acknowledged packet against those sent earlier on its path (R220). -/
def overtake (s : State) (coord path order : Nat) : State :=
  { s with qps := s.qps.map fun r =>
      if r.2.remoteCoord = coord then
        (r.1, { r.2 with tx := r.2.tx.map fun t =>
          if t.numbered && (t.stage == .queued || t.stage == .wire) && t.path == path && decide (t.order < order) then
            { t with overtaken := t.overtaken + 1 } else t })
      else r }

/-- One packet is acknowledged. The repeats of a READ_REQ stay with its READ (R224). -/
def ackOne (qpn coord : Nat) (s : State) (t : TxPkt) : State :=
  let s1 := modDest (uncharge s coord t.charge) coord fun d => { d with recovery := d.recovery.filter fun x => !(x == t.id) }
  let asked (w : SqWork) : SqWork := if t.pkt.op = 3 && w.tag == some t.pkt.tag then { w with repeats := t.repeats } else w
  let s2 := modQp s1 qpn fun q => { q with tx := q.tx.filter (fun x => !(x.id == t.id)), work := q.work.map asked }
  let s3 := if t.probe then probeAcked s2 coord t.path else s2
  if t.sentAt = 0 && t.order = 0 then s3 else overtake s3 coord t.path t.order

/-- Packets that acknowledged later sends have shown lost (R220), those the receiver holds left out (R222). -/
def lostByOrder (s : State) (coord : Nat) : List (Nat × Nat) :=
  s.qps.flatMap fun r =>
    if r.2.remoteCoord = coord && r.2.state != .frozen then
      (r.2.tx.filter fun t => t.numbered && !t.held && (t.stage == .queued || t.stage == .wire)
          && decide (s.cong.lossReorder ≤ t.overtaken)).map
        fun t => (r.1, t.id)
    else []

/-- Entries of the queue pair that are finished on the wire (R225), that of `skip` left out. -/
def finishedEntries (q : Qp) (skip : Option TxOwner) : List SqWork :=
  q.work.filter fun w => w.op != 3 && w.cut && !w.decided && w.tpe.isNone && skip != some (.sq w.slot) && !(q.tx.any fun t => t.owner == .sq w.slot)

/-- Ends them: OK with BYTES their LENGTH. -/
def finishWire (s : State) (qpn : Nat) (skip : Option TxOwner) : State :=
  match tget s.qps qpn with
  | none => s
  | some q => freeResp ((finishedEntries q skip).foldl (fun t w => endEntry t .sq qpn w.slot stOk 0 w.length) s) qpn

/-- A probe whose packet goes another way is none any longer (R213). -/
def clearProbe (coord : Nat) (s : State) (t : TxPkt) : State :=
  if t.probe then modPath s coord t.path fun p => if p.probe == some t.id then { p with probe := none } else p else s

/-- Puts a numbered packet in its place by PSN. -/
def insTx (x : TxPkt) : List TxPkt → List TxPkt
  | [] => [x]
  | y :: r => if y.numbered && decide (sdist y.pkt.psn x.pkt.psn < 0) then y :: insTx x r else x :: y :: r

/-- Hands an acknowledged READ_REQ on once more, under its own PSN. -/
def requestAgain (s : State) (qpn : Nat) (w : SqWork) (p : Pkt) (f : TxPkt → TxPkt) : State :=
  let r := takeFresh s
  let owner : TxOwner := match w.tpe with | some (c, sl, m) => .tpe c sl m | none => .sq w.slot
  let t : TxPkt := { newTx r.1 owner { p with retx := true, ackReq := true } with
    numbered := true, used := w.used, repeats := w.repeats, everLost := decide (0 < w.repeats), failMark := w.failMark }
  modQp r.2 qpn fun x => { x with tx := insTx (f t) x.tx }

/-- A repeat that has not left is taken back; it counts as none. -/
def unsend (t : TxPkt) : TxPkt :=
  if t.lost && (t.stage == .paced || t.stage == .offered) then { t with lost := false, repeats := t.repeats - 1 } else t

/-- A packet and every later one wait for RESEND_WAIT_US; they leave limiters, trains and waiting datagrams. -/
def holdFrom (s : State) (qpn : Nat) (q : Qp) (psn : Word) : State :=
  let first := match q.resendAt with | some (_, p) => if sdist p psn < 0 then p else psn | none => psn
  let hit (t : TxPkt) : Bool := t.numbered && t.stage != .waiting && decide (0 ≤ sdist t.pkt.psn psn)
  let ids := (q.tx.filter hit).map (·.id)
  let s1 := (q.tx.filter hit).foldl (clearProbe q.remoteCoord) s
  pullTx (modQp s1 qpn fun x => { x with
    resendAt := some (s.now + s.cong.resendUs * 1000, first)
    tx := x.tx.map fun t => if hit t then { unsend t with stage := .waiting, again := true, probe := false, deadline := none } else t })
    fun c => !(c.1 == qpn && ids.contains c.2)

/-- A RESEND names a packet (R223), which may be an acknowledged READ_REQ that the peer executes again (R272). -/
def resendFrom (s : State) (qpn : Nat) (psn : Word) : State :=
  match tget s.qps qpn with
  | none => s
  | some q =>
    let out (x : Qp) : Bool := x.tx.any fun t => t.numbered && t.pkt.psn == psn
    let asks := q.work.findSome? fun w => if w.decided then none else (w.req.filter fun p => p.psn == psn).map fun p => (w, p)
    let s1 := match out q, asks with
      | false, some (w, p) => requestAgain s qpn w p id
      | _, _ => s
    match tget s1.qps qpn with
    | some x => if out x then holdFrom s1 qpn x psn else s1
    | none => s1

/-- A hold answer for a packet (R214, R222): its losses are withdrawn, and its timer starts again at RTO_MAX_US. -/
def heldAnswer (s : State) (qpn : Nat) (q : Qp) (psn : Word) : State :=
  match q.tx.find? fun t => t.numbered && t.pkt.psn == psn with
  | none => s
  | some t =>
    let s1 := t.lossPaths.foldl (withdrawLoss t.id q.remoteCoord) s
    let unsent := t.lost && (t.stage == .paced || t.stage == .offered)
    let back : TxStage := if unsent then .wire else t.stage
    let s2 := modTx s1 qpn t.id fun x =>
      { x with lost := false, lossPaths := [], repeats := 0, overtaken := 0, held := true, stage := back
               deadline := if back == .wire then some (s.now + s.cong.rtoMaxUs * 1000) else x.deadline }
    if unsent then pullTx s2 fun c => !(c.1 == qpn && c.2 == t.id) else s2

/-- The RTT sample of an ACK: its trigger was not repeated, and it is no hold answer. -/
def rttOf (s : State) (q : Qp) (b : AckBody) : Option Int :=
  if !ackCovers b b.trigger then none
  else match q.tx.find? fun t => t.numbered && t.pkt.psn == b.trigger with
    | some t => if t.everLost then none else some ((s.now : Int) - t.sentAt - b.holdNs)
    | none => none

/-- An ACK for a queue pair (R220 to R229). -/
def onAck (s : State) (qpn : Nat) (q : Qp) (b : AckBody) : State :=
  let coord := q.remoteCoord
  let acked := q.tx.filter fun t => t.numbered && ackCovers b t.pkt.psn
  let nakOwner := if b.nak then ownerOfPsn q b.nakPsn else none
  let s1 := modDest s coord fun d => ackWindow s d (rttOf s q b) b.ce (acked.map fun t => pktCharge t.pkt).sum acked.length
  let s2 := acked.foldl (ackOne qpn coord) s1
  let s3 := if isHoldAnswer b then heldAnswer s2 qpn q b.trigger else s2
  let s4 := finishWire s3 qpn nakOwner
  let s5 := match nakOwner with
    | some o => failByNak s4 qpn o b.nakStatus b.nakSub
    | none => s4
  let s6 := if b.resend then resendFrom s5 qpn b.nakPsn else s5
  (lostByOrder s6 coord).foldl (fun t c => declareLost t c.1 c.2) s6

/-- The queue pair a control datagram is for, where it comes from its peer under its association. ACKs may come by relay
(R407). -/
def ctlQp (s : State) (d : RxDgram) (qpn : Nat) (relayed : Bool) : Option Qp :=
  match tget s.qps qpn with
  | some q => if q.saId == d.saId && (d.src == q.remoteCoord || (relayed && q.oldCoord == some d.src)) then some q else none
  | none => none

/-- ACK_RECEIVED: the oldest waiting datagram is an ACK. -/
def execAckReceived (s : State) : Result :=
  match takeRx s false with
  | some (d, s1) => match d.body with
    | .control qpn (.ack b) =>
      if !serving s then .next s
      else match ctlQp s1 d qpn true with
        | some q => .next (if q.state == .ready || q.state == .draining then tpeSettle (onAck s1 qpn q b) else s1)
        | none => .next s1
    | _ => .next s
  | none => .next s

/-! ### Redirection (R230, R231) -/

/-- Moves every unacknowledged packet of a queue pair to its new location. -/
def redirect (s : State) (qpn : Nat) (q : Qp) (b : MovedBody) : State :=
  let s1 := q.tx.foldl (forgetPkt q.remoteCoord) s
  let s2 := pullTx s1 fun c => !(c.1 == qpn)
  let again (t : TxPkt) : TxPkt :=
    { unsend t with pkt := { t.pkt with dstQpn := b.qpn }, stage := .paced, charge := 0, used := [], again := t.numbered, deadline := none
                    overtaken := 0, probe := false, lost := false }
  let s3 := modQp s2 qpn fun x =>
    { x with remoteCoord := b.coord, remoteInst := b.inst, remoteQpn := b.qpn, resendAt := none
             moves := (x.moves.filter fun t => decide (s.now < t + 1000000000)) ++ [s.now], tx := x.tx.map again
             work := x.work.map fun w => { w with used := [], req := w.req.map fun p => { p with dstQpn := b.qpn } } }
  pace (post s3 0x0033 (evData [(16, 3, qpn), (19, 3, b.coord), (22, 2, b.inst), (24, 3, b.qpn)])) qpn

/-- A MOVED that the queue pair acts on. -/
def onMoved (s : State) (qpn : Nat) (q : Qp) (b : MovedBody) : State :=
  match q.tx.find? fun t => t.numbered && t.pkt.psn == b.refused with
  | none => s
  | some t =>
    let planes := match img s with | some i => i.planes | none => 0
    let many := decide (4 ≤ (q.moves.filter fun m => decide (s.now < m + 1000000000)).length)
    if !planes.getLsbD (planeOf b.coord) || b.coord == q.remoteCoord || many then ownerFails s qpn t.owner stMoved 0
    else redirect s qpn q b

/-- MOVED_RECEIVED. -/
def execMovedReceived (s : State) : Result :=
  match takeRx s false with
  | some (d, s1) => match d.body with
    | .control qpn (.moved b) =>
      if !serving s then .next s
      else match ctlQp s1 d qpn false with
        | some q => .next (if q.state == .ready || q.state == .draining then onMoved s1 qpn q b else s1)
        | none => .next s1
    | _ => .next s
  | none => .next s

/-! ### Timers of the sender (R223, R224) -/

/-- RESEND_WAIT_EXPIRE. -/
def execResendWaitExpire (qpn : Nat) (s : State) : Result :=
  match tget s.qps qpn with
  | none => .next s
  | some q =>
    match q.resendAt with
    | some (t, _) =>
      .next (if serving s && q.state != .frozen && decide (t ≤ s.now) then
        pace (modQp s qpn fun x => { x with
          resendAt := none, tx := x.tx.map fun y => if y.stage == .waiting then { y with stage := .paced } else y }) qpn
      else s)
    | none => .next s

/-- Repeats a READ_REQ: one not yet acknowledged where it stands, another handed on anew. -/
def repeatReq (s : State) (qpn : Nat) (q : Qp) (w : SqWork) (p : Pkt) : State :=
  let d := (tget s.dests q.remoteCoord).getD (newDest s q.remoteCoord)
  let again (t : TxPkt) : TxPkt :=
    { t with repeats := t.repeats + 1, lost := true, stage := .paced, pkt := { t.pkt with retx := true, ackReq := true }, again := false
             deadline := some (s.now + rtoNs s d (t.repeats + 1)) }
  let s1 := modQp s qpn fun x => { x with work := x.work.map fun y => if y.slot = w.slot then { y with due := none } else y }
  pace (match q.tx.find? fun t => t.numbered && t.pkt.psn == p.psn with
    | some t => modTx (clearProbe q.remoteCoord s1 t) qpn t.id fun x => { again x with probe := false }
    | none => requestAgain s1 qpn w p again) qpn

/-- READ_REQ_TIMEOUT: RTO has passed without a new byte of the READ since its request was last sent or a response last placed; the request is
sent again under its own PSN (R224). (DEDUCED in part: assumption 90) -/
def execReadReqTimeout (qpn slot : Nat) (s : State) : Result :=
  match tget s.qps qpn with
  | none => .next s
  | some q =>
    match (q.work.find? fun w => w.slot == slot && w.op == 3 && !w.decided).bind fun w => w.req.map fun p => (w, p) with
    | none => .next s
    | some (w, p) =>
      let out := q.tx.find? fun t => t.numbered && t.pkt.psn == p.psn
      let held := out.any fun t => t.stage != .queued && t.stage != .wire
      let due := match w.due with | some e => decide (e ≤ s.now) | none => false
      if !serving s || !qpActive q || held || !due || placedBytes w == w.length then .next s
      else
        let owner : TxOwner := match w.tpe with | some (c, sl, m) => .tpe c sl m | none => .sq slot
        let made := (out.map (·.repeats)).getD w.repeats
        .next (if s.cong.maxRepeats ≤ made then ownerFails s qpn owner (exhaustedStatus s q owner w.failMark) 0 else repeatReq s qpn q w p)

/-! ### DEST_PATHS_SET and CONG_PARAMS_SET (R206, R208, R226) -/

/-- Forgets the health of paths that a destination's configuration no longer has. -/
def prunePaths (s : State) : State :=
  { s with dests := s.dests.map fun r => (r.1, { r.2 with paths := r.2.paths.filter fun p => configured (pathConfOf s r.1) p.1 }) }

/-- A new configuration may leave a destination without a HEALTHY path (R211). -/
def pathsChanged (s : State) : State := (prunePaths s).dests.foldl (fun t r => exhaustCheck t r.1) (prunePaths s)

/-- The results of a QUERY (Table 9-1). -/
def pathsQuery (s : State) (coord : Nat) (dflt : Bool) (e : Entry) : Entry :=
  let conf := if dflt then s.pathDef else pathConfOf s coord
  let d := if dflt then none else tget s.dests coord
  let ok (p : Nat) : Bool := configured conf p && match d with | some d => (pathOf s d p).health == .healthy | none => true
  let bits := ((List.range 256).filter ok).foldl (fun a p => a + 2 ^ p) 0
  let e1 := putFld e 16 255 0 bits
  match d with
  | some d => putFld (putFld e1 48 31 0 d.srtt) 52 31 0 d.cwnd
  | none => e1

/-- DEST_PATHS_SET. -/
def execDestPathsSet (slot : Nat) (s : State) : Result :=
  .next (startAdmin s slot 0x0600 fun c t =>
    let e := c.entry
    let coord := fld e 8 23 0
    let dflt := bit e 12 2
    let act := fld e 12 1 0
    let planes := match img t with | some i => i.planes | none => 0
    let conf : PathConf := { count := fld e 14 8 0, exclude := BitVec.ofNat 256 (fld e 16 255 0) }
    settle t slot (firstRefusal [(!dflt && !planes.getLsbD (planeOf coord), stAborted, 0x0901),
        (!dflt && coord == ownCoord t, stAborted, 0x0902),
        (act == 0 && !dflt && (tget t.pathConf coord).isNone && decide (65536 ≤ t.pathConf.length), stAborted, 0x0903)]) fun t =>
      match act, dflt with
      | 0, true => complete (pathsChanged { t with pathDef := conf }) slot
      | 0, false => complete (pathsChanged { t with pathConf := tput t.pathConf coord conf }) slot
      | 1, _ => complete (pathsChanged { t with pathConf := tdel t.pathConf coord }) slot
      | _, _ => completeWith t slot (pathsQuery t coord dflt))

/-- The parameters a CONG_PARAMS_SET carries (Table 9-3). -/
def congParams (e : Entry) : CongParams :=
  { rtoMinUs := fld e 8 15 0, rtoMaxUs := fld e 10 15 0, maxRepeats := fld e 12 7 0, lossReorder := fld e 13 7 0
    ackDelayNs := fld e 14 15 0, ackCoalesce := fld e 16 15 0, targetRttNs := fld e 18 15 0, minWndB := fld e 20 31 0
    initWndB := fld e 24 31 0, maxWndB := fld e 28 31 0, addIncB := fld e 32 15 0, beta := fld e 34 9 0, lossLimit := fld e 36 7 0
    lossWinUs := fld e 38 15 0, holdUs := fld e 40 15 0, holdMaxMs := fld e 42 15 0, resendUs := fld e 44 15 0 }

/-- CONG_PARAMS_SET. -/
def execCongParamsSet (slot : Nat) (s : State) : Result :=
  .next (startAdmin s slot 0x0601 fun c t =>
    let p := congParams c.entry
    complete { t with
      cong := p, dests := t.dests.map fun r => (r.1, { r.2 with cwnd := max p.minWndB (min p.maxWndB r.2.cwnd) }) } slot)

/-! ### RATE_LIMIT_SET (R239) -/

/-- RATE_LIMIT_SET. -/
def execRateLimitSet (slot : Nat) (s : State) : Result :=
  .next (startAdmin s slot 0x0610 fun c t =>
    let e := c.entry
    let i := cmdInst c
    let tc := fld e 8 2 0
    let l := limiterOf t i tc
    settle t slot (instRefusalFrozen t i) fun t =>
      if bit e 8 3 then completeWith t slot fun e => putFld (putFld e 12 31 0 l.rate) 16 12 0 l.burst
      else
        let t1 := { t with limiters := tput t.limiters (limiterKey i tc) { l with rate := fld e 12 31 0, burst := fld e 16 12 0 } }
        complete (paceClass t1 i tc) slot)

/-! ### Gate list commands (R250 to R252) -/

/-- Entries of a gate list buffer: duration, gates, and the reserved bytes. -/
def gateEntries (n : Nat) (b : Bytes) : List (Nat × BitVec 8 × Nat) :=
  (List.range n).map fun i => (leField b (8 * i) 4 31 0, BitVec.ofNat 8 (leField b (8 * i + 4) 1 7 0), leField b (8 * i + 5) 3 23 0)

/-- An earlier command of the same port goes first. -/
def samePort (n : Nat) (b : AdminCmd) : Bool := (cmdOpcode b == 0x0612 || cmdOpcode b == 0x0614) && fld b.entry 8 2 0 == n

/-- GATE_LIST_INSTALL on the array read from SRC. -/
def execGateListInstall (slot : Nat) (buf : Option Bytes) (s : State) : Result :=
  .next (startAdmin s slot 0x0612 fun c t =>
    let e := c.entry
    let n := fld e 8 2 0
    let at_ := fld e 16 63 0
    if earlierRuns t slot (samePort n) then holdCmd t slot
    else settle t slot (firstRefusal [((portOf t n).state == .disabled, stAborted, rsUnitOut), (t.time.state == .unset, stAborted, 0x0A03)])
      fun t => match buf with
      | none => refuse t slot stAborted rsHostRead
      | some b =>
        let es := gateEntries (fld e 10 8 0) b
        if !es.all fun x => decide (8 ≤ x.1) && decide (x.1 ≤ 1000000000) && x.2.2 == 0 then refuse t slot stMalformed rsNone
        else if at_ < t.time.dev.toNat + 10000 then refuse t slot stAborted 0x0A02
        else
          let l : GateList := { entries := es.map fun x => (x.1, x.2.1), takeover := at_, guardNs := fld e 12 31 0 }
          completeWith (modPort (gateTakeoversDue t) n fun p => { p with pendList := some l }) slot fun e => putFld e 32 63 0 l.cycle)

/-- The results of GATE_LIST_QUERY (Table 10-6). -/
def gateResults (s : State) (p : Port) (e : Entry) : Entry :=
  let run := p.running.isSome
  let pend := match p.pendList with | some l => l.takeover | none => 0
  let e1 := putFld e 9 4 0 (run.toNat + 2 * p.pendList.isSome.toNat + 4 * (run && gateApplied s p).toNat + 8 * gateWhyNot s p)
  let e2 := putFld e1 24 63 0 pend
  match p.running with
  | some l => putFld (putFld (putFld (putFld (putFld e2 10 8 0 l.entries.length) 12 31 0 l.guardNs) 16 63 0 l.takeover) 32 63 0 l.cycle)
      40 8 0 (l.indexAt s.time.dev.toNat)
  | none => e2

/-- GATE_LIST_QUERY. -/
def execGateListQuery (slot : Nat) (s : State) : Result :=
  .next (startAdmin s slot 0x0613 fun c t =>
    let n := fld c.entry 8 2 0
    settle t slot (firstRefusal [((portOf t n).state == .disabled, stAborted, rsUnitOut)]) fun t =>
      let t1 := gateTakeoversDue t
      completeWith t1 slot (gateResults t1 (portOf t1 n)))

/-- GATE_LIST_CANCEL. -/
def execGateListCancel (slot : Nat) (s : State) : Result :=
  .next (startAdmin s slot 0x0614 fun c t =>
    let n := fld c.entry 8 2 0
    let which := bit c.entry 9 0
    if earlierRuns t slot (samePort n) then holdCmd t slot
    else
      let t0 := gateTakeoversDue t
      let p := portOf t0 n
      settle t0 slot (firstRefusal [(if which then p.running.isNone else p.pendList.isNone, stAborted, 0x0A04)]) fun t =>
        complete (modPort t n fun q => if which then { q with running := none, applied := false, disagree := none } else { q with pendList := none }) slot)

end Sys2Proof.Machine
end

