-- ==== Sys2Proof/Machine/Connect.lean ====
section
/-!
DEFINITION. QP_MODIFY and the connection handshake (Queue Pairs, Remote Write and Remote Read, 7.2 and 7.3; Urosh Transport
on the Wire, 8.8), and the time comparison of R254.
-/

namespace Sys2Proof.Machine

/-! ### The compatibility record (R198, Tables 8-14 and 8-15) -/

/-- FEATURES of the XV4800 B0. -/
def ownFeatures : Word := 0x0000000F

/-- KETTLE_TAG and epoch of the kettles bound to a queue pair. -/
def ownKettles (s : State) (q : Qp) : List (Word × Nat) := (q.kettles.filterMap (tget s.kettles)).map fun k => (k.tag, k.epoch)

def ownDigest (s : State) : Word := match img s with | some i => i.digest | none => 0

/-- A handshake body of a queue pair; TX_TIME and TIME_TRUSTED are filled in at its sending. -/
def connBody (s : State) (qpn : Nat) (q : Qp) (reason : BitVec 16) : ConnBody :=
  { srcQpn := qpn, srcInst := q.inst, dstInst := q.remoteInst, initPsn := q.initPsn, reason := reason, major := 1, minor := 0
    features := ownFeatures, digest := ownDigest s, srcCoord := ownCoord s, txTime := 0, trusted := false, kettles := ownKettles s q }

/-- The first disagreement of Table 8-15. -/
def recordReason (s : State) (q : Qp) (b : ConnBody) : Option (BitVec 16) :=
  if b.major != 1 then some 0x0801
  else if b.features.extractLsb' 0 16 != ownFeatures.extractLsb' 0 16 then some 0x0802
  else if b.digest != ownDigest s then some 0x0803
  else if (ownKettles s q).any fun k => b.kettles.any fun x => x.1 == k.1 && x.2 != k.2 then some 0x0804
  else none

/-- Sends a handshake body to the peer a queue pair is bound to. (DEDUCED in part: assumption 41) -/
def sendConn (s : State) (qpn : Nat) (q : Qp) (mk : ConnBody → CtlBody) (reason : BitVec 16) : State :=
  queueControl s qpn q.remoteCoord q.saId q.tc none q.remoteQpn (mk (connBody s qpn q reason))

/-- PEER_REFUSED (Table 8-16). -/
def peerRefused (s : State) (qpn : Nat) (q : Qp) (reason : BitVec 16) (byPeer : Bool) : State :=
  post s 0x0021 (evData [(16, 4, qpn), (20, 3, q.remoteCoord), (24, 2, reason.toNat), (26, 1, byPeer.toNat)])

/-- What both sides take from an agreed record: the peer's initial PSN, the lower minor version, the common features. -/
def takeRecord (s : State) (qpn : Nat) (b : ConnBody) : State :=
  modQp s qpn fun q => { q with
    peerPsn := some b.initPsn, cumPsn := if q.state == .init then b.initPsn else q.cumPsn, minor := min 0 b.minor
    features := ownFeatures &&& b.features }

/-! ### QP_MODIFY (R160 to R165) -/

/-- The queue pair enters READY. -/
def qpReady (s : State) (qpn : Nat) : State :=
  match tget s.qps qpn with
  | none => s
  | some q =>
    let s1 := moveQp s qpn .ready
    if q.state == .draining then ringDoorbell s1 .sq qpn else enableRing s1 .sq qpn

/-- The queue pair returns to RESET: rings disabled with `status`, binding, PSN state and error fields cleared. -/
def qpReset (s : State) (qpn : Nat) (status : BitVec 8) : State :=
  let s1 := stopQp s qpn
  let s2 := disableRing (disableRing s1 .sq qpn status) .rq qpn status
  modQp (moveQp s2 qpn .reset) qpn fun q =>
    { Qp.create q.inst q.sq q.rq 0 with returned := true, kettles := q.kettles, work := q.work }

/-- QP_MODIFY to INIT, once a seed it needs is there. -/
def qpInit (s : State) (slot : Nat) (e : Entry) (n : Nat) (q : Qp) : State :=
  let planes := match img s with | some i => i.planes | none => 0
  let coord := fld e 16 23 0
  let sa := fld e 22 13 0
  settle s slot (firstRefusal [(!(saOf s sa).any (·.inst == q.inst), stAborted, rsNoObject),
      (!planes.getLsbD (planeOf coord), stAborted, 0x0901)]) fun t =>
    if q.returned && !seedReady t then awaitSeed t slot
    else
      let r := if q.returned then drawRandom t else (0, t)
      let psn := if q.returned then r.1.extractLsb' 0 32 else q.initPsn
      let t1 := modQp (moveQp r.2 n .init) n fun x =>
        { x with tc := fld e 13 2 0, missMode := bit e 13 3, remoteCoord := coord, remoteInst := fld e 20 10 0, saId := sa
                 remoteQpn := fld e 24 19 0, initPsn := psn, sendPsn := psn, returned := false }
      complete (enableRing t1 .rq n) slot

/-- QP_MODIFY from its start, or again once the seed has come. -/
def qpModify (c : AdminCmd) (s : State) : State :=
  let e := c.entry
  let n := fld e 8 19 0
  let slot := c.slot
  match qpRefusal s (cmdInst c) n, tget s.qps n with
  | some r, _ => refuse s slot r.1 r.2
  | none, none => s
  | none, some q =>
    match fld e 12 2 0, q.state with
    | 0, .init | 0, .ready | 0, .draining | 0, .error => complete (qpReset s n stAborted) slot
    | 1, .reset => qpInit s slot e n q
    | 2, .init =>
      let h : Handshake := { slot := slot, retryAt := s.now + 1000000, giveUp := s.now + fld e 14 15 0 * 1000000 }
      sendConn (keepRunning (modQp s n fun x => { x with handshake := some h }) slot) n q .connReq 0
    | 2, .draining => complete (qpReady s n) slot
    | 3, .ready => complete (moveQp s n .draining) slot
    | _, _ => refuse s slot stAborted rsBadState

/-- QP_MODIFY. -/
def execQpModify (slot : Nat) (s : State) : Result :=
  .next (startAdmin s slot 0x0201 fun c t =>
    if earlierRuns t slot (sameQpn (fld c.entry 8 19 0)) then holdCmd t slot else qpModify c t)

/-! ### Timers of the handshake (R162) -/

/-- The firmware serves the handshake now. -/
def handshakes (s : State) : Bool := serving s && firmware s && s.pm.state != 2

/-- HANDSHAKE_RETRY: 1 ms has passed without acceptance. -/
def execHandshakeRetry (qpn : Nat) (s : State) : Result :=
  match tget s.qps qpn with
  | none => .next s
  | some q =>
    match q.handshake with
    | none => .next s
    | some h =>
      .next (if handshakes s && q.state == .init && decide (h.retryAt ≤ s.now) && decide (s.now < h.giveUp) then
        sendConn (modQp s qpn fun x => { x with handshake := some { h with retryAt := s.now + 1000000 } }) qpn q .connReq 0
      else s)

/-- HANDSHAKE_TIMEOUT: HANDSHAKE_MS has passed without acceptance. -/
def execHandshakeTimeout (qpn : Nat) (s : State) : Result :=
  match (tget s.qps qpn).bind (·.handshake) with
  | none => .next s
  | some h => .next (if running s && firmware s && decide (h.giveUp ≤ s.now) then endHandshake s qpn stRetryExceeded 0x0201 else s)

/-! ### Handshake bodies (R199 to R201) -/

/-- The body comes from the address the queue pair is bound to, for its instance, under its association. -/
def fromPeer (d : RxDgram) (q : Qp) (b : ConnBody) : Bool :=
  q.saId == d.saId && q.remoteCoord == d.src && q.remoteCoord == b.srcCoord && q.remoteInst == b.srcInst && q.remoteQpn == b.srcQpn
    && q.inst == b.dstInst

/-- A disagreement found here: CONNECT_REFUSE, PEER_REFUSED, and the end of a QP_MODIFY in execution (R199 to R201). -/
def refusePeer (s : State) (qpn : Nat) (q : Qp) (reason : BitVec 16) : State :=
  endHandshake (peerRefused (sendConn s qpn q .connRefuse reason) qpn q reason false) qpn stPeerIncompatible reason.toNat

/-- A CONNECT_REQ for a queue pair (R199). -/
def onConnReq (s : State) (d : RxDgram) (qpn : Nat) (b : ConnBody) : State :=
  match tget s.qps qpn with
  | none => s
  | some q =>
    if b.srcCoord != d.src || !(q.state == .init || q.state == .ready) || !fromPeer d q b
        || (q.state == .ready && q.peerPsn != some b.initPsn) then s
    else match recordReason s q b with
      | some r => refusePeer s qpn q r
      | none => sendConn (takeRecord s qpn b) qpn q .connAccept 0

/-- CONNECT_REQ: the firmware's oldest waiting body is a request. -/
def execConnectReq (s : State) : Result :=
  match takeRx s true with
  | some (d, t) => match d.body with
    | .control qpn (.connReq b) => .next (if handshakes s then onConnReq t d qpn b else s)
    | _ => .next s
  | none => .next s

/-- A CONNECT_ACCEPT for a queue pair (R200). -/
def onConnAccept (s : State) (d : RxDgram) (qpn : Nat) (b : ConnBody) : State :=
  match tget s.qps qpn with
  | none => s
  | some q =>
    if q.handshake.isNone || !fromPeer d q b then s
    else match recordReason s q b with
      | some r => refusePeer s qpn q r
      | none => endHandshake (qpReady (takeRecord s qpn b) qpn) qpn stOk 0

/-- CONNECT_ACCEPT. -/
def execConnectAccept (s : State) : Result :=
  match takeRx s true with
  | some (d, t) => match d.body with
    | .control qpn (.connAccept b) => .next (if handshakes s then onConnAccept t d qpn b else s)
    | _ => .next s
  | none => .next s

/-- A CONNECT_REFUSE for a queue pair (R200). -/
def onConnRefuse (s : State) (d : RxDgram) (qpn : Nat) (b : ConnBody) : State :=
  match tget s.qps qpn with
  | none => s
  | some q =>
    if q.handshake.isNone || !fromPeer d q b then s
    else endHandshake (peerRefused s qpn q b.reason true) qpn stPeerIncompatible b.reason.toNat

/-- CONNECT_REFUSE. -/
def execConnectRefuse (s : State) : Result :=
  match takeRx s true with
  | some (d, t) => match d.body with
    | .control qpn (.connRefuse b) => .next (if handshakes s then onConnRefuse t d qpn b else s)
    | _ => .next s
  | none => .next s

end Sys2Proof.Machine
end

