-- ==== Sys2Proof/Machine/Begin.lean ====
section
/-!
DEFINITION. The start of an SQ entry: its form, its conditions, the read of its source and the cutting of its packets (Queue
Pairs, Remote Write and Remote Read, 7.4 to 7.7).
-/

namespace Sys2Proof.Machine

/-! ### The SQ entry (R166, Tables 7-4 and 7-5) -/

/-- The form of an SQ entry. -/
def sendLegal (e : Entry) : Bool :=
  let op := fld e 0 7 0
  decide (1 ≤ op) && decide (op ≤ 4) && decide (fld e 1 2 1 ≤ 1) && fld e 1 7 3 == 0 && zeroBytes e 2 3
    && fld e 8 63 57 == 0 && fld e 16 63 57 == 0 && (op != 4 || zeroBytes e 4 23) && (op == 2 || zeroBytes e 24 27)
    && zeroBytes e 28 47 && tailLegal e

/-- LENGTH is over the limit of R168. -/
def overLength (e : Entry) : Bool :=
  fld e 0 7 0 != 4 && decide ((if fld e 1 2 1 = 1 then 65536 else 1073741824) < fld e 4 31 0)

/-- The entry whose start is next: the first taken and not started one. -/
def nextStart (r : Ring) : Option Taken := r.taken.find? fun t => !t.started && t.outcome.isNone

/-- R174, R147, R384 and R390: the entry may start now. -/
def sqMayStart (s : State) (q : Qp) (t : Taken) : Bool :=
  let first := match q.sq.taken with | x :: _ => x.slot == t.slot | [] => false
  serving s && s.pm.state != 2 && !instStopped s q.inst && q.state == .ready && q.sq.state == .enabled
    && (!bit t.entry 1 0 || first) && (fld t.entry 0 7 0 != 3 || decide (readsOut q < 128)) && messageFits s q.inst

/-- Marks an entry started. -/
def markStarted (s : State) (k : RingKind) (id slot : Nat) : State :=
  match getRing s k id with
  | some r => setRing s k id { r with taken := r.taken.map fun y => if y.slot = slot then { y with started := true } else y }
  | none => s

/-- The work of an entry as it starts. -/
def workOf (slot : Nat) (e : Entry) : SqWork :=
  { slot := slot, op := fld e 0 7 0, cell := fld e 1 2 1 == 1, length := fld e 4 31 0, va := fld e 8 56 0, remote := fld e 16 56 0
    notify := BitVec.ofNat 32 (fld e 24 31 0), tag := none, placed := [], unacked := [], due := none, used := [], repeats := 0, cut := false
    decided := false, req := none, failMark := 0, ports := [], tpe := none }

/-- Hands all packets of a WRITE or WRITE_NOTIFY to the limiter. -/
def cutEntry (s : State) (qpn : Nat) (w : SqWork) (data : Bytes) : State :=
  match tget s.qps qpn with
  | some q => enqueue (modWork s qpn w.slot fun x => { x with cut := true }) qpn (.sq w.slot) (cutWrite q w data)
  | none => s

/-- The bytes of an entry's source have come, or the read failed. -/
def sqData (s : State) (qpn slot : Nat) (ps : List Piece) (b : Option Bytes) : State :=
  match (tget s.qps qpn).bind fun q => q.work.find? fun w => w.slot == slot with
  | none => s
  | some w =>
    match b with
    | some bytes => cutEntry s qpn w bytes
    | none => let f := accessFault s stTransFault ps; endEntry (noteXts s ps) .sq qpn slot f.1 f.2 0

/-- The translation of an entry's source ended, or it waits. -/
def sqSource (s : State) (qpn slot : Nat) (x : Xlat) : State :=
  match x with
  | .done ps =>
    let b := beginRead s (ringInst s .sq qpn) (.sqRead qpn slot) ps
    (match b.2 with
    | some v => sqData b.1 qpn slot ps v
    | none => b.1)
  | .permission => endEntry s .sq qpn slot stTransFault 1 0
  | .notMapped => endEntry s .sq qpn slot stTransFault 2 0
  | .timeout => endEntry s .sq qpn slot stPageTimeout 1 0
  | .waits => s

/-- Starts a READ: its request leaves as soon as the peer's resources allow (R173). -/
def startRead (s : State) (qpn : Nat) (q : Qp) (w : SqWork) : State := askReads 128 (addWork s qpn q { w with cut := true }) qpn

/-- Starts a legal entry. -/
def startEntry (s : State) (qpn : Nat) (q : Qp) (t : Taken) : State :=
  let e := t.entry
  let op := fld e 0 7 0
  let len := fld e 4 31 0
  let s1 := markStarted s .sq qpn t.slot
  if op = 4 || (len = 0 && op != 2) then endEntry s1 .sq qpn t.slot stOk 0 0
  else if op = 3 then startRead s1 qpn q (workOf t.slot e)
  else
    let w := workOf t.slot e
    let s2 := addWork s1 qpn q w
    if len = 0 then cutEntry s2 qpn w []
    else
      let r := beginAccess s2 q.inst (.sqRead qpn t.slot) .localRead w.va w.length
      sqSource r.1 qpn t.slot r.2

/-- SQ_ENTRY_START. `m`: what the entry's pool reads meet. -/
def execSqEntryStart (qpn : Nat) (m : Meets) (s : State) : Result :=
  match tget s.qps qpn with
  | none => .next s
  | some q =>
    match nextStart q.sq with
    | none => .next s
    | some t =>
      if !sqMayStart s q t then .next s
      else if !sendLegal t.entry then .next (endEntry s .sq qpn t.slot stMalformed 0 0)
      else if overLength t.entry then .next (fetchRing (endEntry s .sq qpn t.slot stLengthLimit 0 0) .sq qpn)
      else .next (fetchRing (underMeets m s fun u => startEntry u qpn q t) .sq qpn)

end Sys2Proof.Machine
end

