-- ==== Sys2Proof/Machine/Cipher.lean ====
section
/-!
DEFINITION. Key slots, security associations and the DRBG's reseeding (Cipher Engine and Key Slots).
-/

namespace Sys2Proof.Machine

def modCipher (s : State) (f : Cipher → Cipher) : State := { s with cipher := f s.cipher }

/-! ### Key slots (R343 to R347) -/

/-- Loaded slots of an instance by type. -/
def slotUse (s : State) (inst type : Nat) : Nat := tcount s.cipher.keys fun k => k.inst == inst && k.type == type

/-- The instance's quota for a type (Table 16-4). -/
def slotQuota (s : State) (inst type : Nat) : Nat :=
  match type with
  | 0 => (quotaOf s inst).saSlots
  | 1 => (quotaOf s inst).poolSlots
  | _ => (quotaOf s inst).laSlots

/-- Key bytes of a KEY_LEN (R344). -/
def keyBytes (keyLen : Nat) : Nat := 16 * 2 ^ keyLen

/-- The refusals KEY_SLOT_WRITE and KEY_SLOT_GENERATE share (Table 15-3). -/
def keyLoadRefusal (s : State) (i : Nat) (e : Entry) : Option (BitVec 8 × Nat) :=
  let type := fld e 10 1 0
  match instRefusalFrozen s i with
  | some r => some r
  | none => firstRefusal [(decide (slotQuota s i type ≤ slotUse s i type), stQuota, rsNone),
      ((tget s.cipher.keys (fld e 8 13 0)).isSome, stAborted, rsExists),
      (type == 1 && s.cipher.keys.any (fun k => k.2.type == 1 && k.2.inst == i && k.2.ksel == fld e 12 11 0), stAborted, 0x0F01)]

/-- Loading or clearing a key writes every byte of its place in the key store (Table 20-6): what the debug port left in the `n` bytes
from `a` is gone. -/
def purgeKeyMem (s : State) (a n : Nat) : State :=
  { s with dbg := { s.dbg with keyMem := s.dbg.keyMem.filter fun c => decide (c.1 < a) || decide (a + n ≤ c.1) } }

/-- Loads the slot an entry names. -/
def loadKey (s : State) (i : Nat) (e : Entry) (key : Bytes) : State :=
  let k : KeySlot := { type := fld e 10 1 0, keyLen := fld e 10 3 2, ksel := fld e 12 11 0, inst := i, key := key }
  purgeKeyMem (modCipher s fun c => { c with keys := tput c.keys (fld e 8 13 0) k }) (64 * fld e 8 13 0) 64

/-- KEY_SLOT_WRITE: `buf` is what the read of SRC returns. -/
def execKeySlotWrite (slot : Nat) (buf : Option Bytes) (s : State) : Result :=
  .next (startAdmin s slot 0x0500 fun c t =>
    let e := c.entry
    settle t slot (keyLoadRefusal t (cmdInst c) e) fun t =>
      match buf with
      | none => refuse t slot stAborted rsHostRead
      | some b =>
        let key := slice b 0 (keyBytes (fld e 10 3 2))
        if fld e 10 3 2 = 2 && key.take 32 == key.drop 32 then refuse t slot stMalformed rsNone
        else complete (loadKey t (cmdInst c) e key) slot)

/-- KEY_SLOT_GENERATE from its start, or again once the seed has come. -/
def keySlotGenerate (c : AdminCmd) (s : State) : State :=
  let e := c.entry
  settle s c.slot (keyLoadRefusal s (cmdInst c) e) fun t =>
    if !seedReady t then awaitSeed t c.slot
    else
      let r := drawRandom t
      complete (loadKey r.2 (cmdInst c) e (leBytes (keyBytes (fld e 10 3 2)) r.1.toNat)) c.slot

/-- KEY_SLOT_GENERATE. -/
def execKeySlotGenerate (slot : Nat) (s : State) : Result := .next (startAdmin s slot 0x0501 fun c t => keySlotGenerate c t)

/-- The slots an association uses: transmit, and every receive phase that holds a key. -/
def saSlots (a : Sa) : List Nat := a.txSlot :: (a.rx0.toList ++ a.rx1.toList).map (·.slot)

/-- An association uses the slot. -/
def slotServes (s : State) (n : Nat) : Bool := s.cipher.sas.any fun r => (saSlots r.2).contains n

/-- The slot's KSEL stands in a mirror entry of its instance. -/
def kselMapped (s : State) (k : KeySlot) : Bool :=
  k.type == 1 && (tget s.mirrors k.inst).any fun m => m.entries.any fun r => fld r.2 0 5 3 == 5 && fld r.2 0 27 16 == k.ksel

/-- A lookaside request that has started names the slot (R345). -/
def laUses (s : State) (n : Nat) : Bool :=
  s.insts.any fun r => r.2.laRun.any fun x => fld x.entry 0 7 0 != 3 && fld x.entry 2 13 0 == n

/-- KEY_SLOT_CLEAR. -/
def execKeySlotClear (slot : Nat) (s : State) : Result :=
  .next (startAdmin s slot 0x0502 fun c t =>
    let i := cmdInst c
    let n := fld c.entry 8 13 0
    let own := (tget t.cipher.keys n).any (·.inst == i)
    let used := slotServes t n || (tget t.cipher.keys n).any (kselMapped t)
    let r := match instRefusalFrozen t i with
      | some r => some r
      | none => firstRefusal [(!own, stAborted, rsNoObject), (used, stAborted, 0x0F02)]
    if r.isNone && laUses t n then holdCmd t slot
    else settle t slot r fun t => complete (purgeKeyMem (modCipher t fun k => { k with keys := tdel k.keys n }) (64 * n) 64) slot)

/-! ### Security associations (R348 to R357) -/

/-- The slot is a loaded SA slot of the instance that serves no association. -/
def saSlotFree (s : State) (i n : Nat) : Bool :=
  (tget s.cipher.keys n).any (fun k => k.type == 0 && k.inst == i) && !slotServes s n

/-- A receive phase as installed: an empty replay window. -/
def RxPhase.fresh (slot : Nat) : RxPhase := { slot := slot, high := 0, seen := [] }

/-- The first SEAL_SEQ that may not be sealed under a transmit key (R357). -/
def sealLimit : Nat := 2 ^ 44

/-- SA_CREATE. An SA_ID that a forwarding record holds counts as existing (R406). -/
def execSaCreate (slot : Nat) (s : State) : Result :=
  .next (startAdmin s slot 0x0503 fun c t =>
    let e := c.entry
    let i := cmdInst c
    let id := fld e 8 13 0
    let tx := fld e 14 13 0
    let rx := fld e 16 13 0
    let r := match instRefusalFrozen t i with
      | some r => some r
      | none => firstRefusal [((saOf t id).isSome || t.forwards.any (·.sas.contains id), stAborted, rsExists),
          (!saSlotFree t i tx || !saSlotFree t i rx || tx == rx, stAborted, 0x0F03)]
    let a : Sa :=
      { inst := i, peer := fld e 12 13 0, txSlot := tx, txPhase := false, sealSeq := 1, limit := sealLimit
        rx0 := some (RxPhase.fresh rx), rx1 := none, rxPhase := false, pending := false, retiring := none, fails := 0, failAt := none
        exhausted := false, dead := false }
    settle t slot r fun t => complete (modCipher t fun k => { k with sas := tput k.sas id a }) slot)

/-- The results of SA_REKEY (Table 15-4). -/
def rekeyResults (a : Sa) (e : Entry) : Entry :=
  putFld (putFld e 24 3 0 (a.txPhase.toNat + 2 * a.rxPhase.toNat + 4 * a.pending.toNat + 8 * a.retiring.isSome.toNat))
    32 63 0 a.sealSeq

/-- The association after SA_REKEY (R354, R355). -/
def rekeyed (a : Sa) (tx : Bool) (slot : Nat) : Sa :=
  if tx then { a with txSlot := slot, txPhase := !a.txPhase, sealSeq := 1, limit := sealLimit, exhausted := false }
  else if a.rxPhase then { a with rx0 := some (RxPhase.fresh slot), pending := true }
  else { a with rx1 := some (RxPhase.fresh slot), pending := true }

/-- The refusal of a command on an existing association. -/
def saRefusal (s : State) (i id : Nat) : Option (BitVec 8 × Nat) :=
  match instRefusalFrozen s i with
  | some r => some r
  | none => if (saOf s id).any (·.inst == i) then none else some (stAborted, rsNoObject)

/-- SA_REKEY. -/
def execSaRekey (slot : Nat) (s : State) : Result :=
  .next (startAdmin s slot 0x0504 fun c t =>
    let e := c.entry
    let i := cmdInst c
    let id := fld e 8 13 0
    let tx := bit e 10 0
    let n := if tx then fld e 14 13 0 else fld e 16 13 0
    let busy := !tx && (saOf t id).any fun a => a.pending || a.retiring.isSome
    let r := match saRefusal t i id with
      | some r => some r
      | none => firstRefusal [(!saSlotFree t i n, stAborted, 0x0F03), (busy, stAborted, 0x0F05)]
    settle t slot r fun t =>
      match saOf t id with
      | some a => completeWith (modSa t id fun _ => rekeyed a tx n) slot (rekeyResults (rekeyed a tx n))
      | none => t)

/-- A queue pair outside RESET is bound to the association. -/
def saBound (s : State) (id : Nat) : Bool := s.qps.any fun r => r.2.saId == id && r.2.state != .reset

/-- Removes an association, its counters and what waits to be sealed under it (R475). -/
def dropSa (s : State) (id : Nat) : State :=
  { modCipher s (fun k => { k with sas := tdel k.sas id }) with
    counters := s.counters.filter fun r => !(r.1 / 64 == 2 * 65536 + id)
    txq := s.txq.filter fun d => !(d.saId == id) }

/-- SA_DESTROY. -/
def execSaDestroy (slot : Nat) (s : State) : Result :=
  .next (startAdmin s slot 0x0505 fun c t =>
    let id := fld c.entry 8 13 0
    let r := match saRefusal t (cmdInst c) id with
      | some r => some r
      | none => firstRefusal [(saBound t id, stAborted, 0x0F04)]
    settle t slot r fun t => complete (dropSa t id) slot)

/-- RX_PHASE_RETIRE: 100 ms after the switch the old phase's key is dropped (R354). -/
def execRxPhaseRetire (sa : Nat) (s : State) : Result :=
  match saOf s sa with
  | none => .next s
  | some a =>
    match a.retiring with
    | none => .next s
    | some t =>
      .next (if running s && decide (t ≤ s.now) then
        post (modSa s sa fun x => { setPhase x (!a.rxPhase) none with retiring := none }) 0x0074
          (evData [(16, 2, sa), (18, 1, (!a.rxPhase).toNat)])
      else s)

/-! ### The DRBG (R370, R371) -/

/-- DRBG_RESEED: after 2^20 generate requests or 60 s. -/
def execDrbgReseed (s : State) : Result :=
  .next (if running s && seedReady s && (decide (2 ^ 20 ≤ s.cipher.generated) || decide (s.cipher.seededAt + 60000000000 ≤ s.now)) then
    modCipher s fun c => { c with generated := 0, seededAt := s.now, seeding := c.seeding + 1 } else s)

/-- ENTROPY_HEALTH_FAIL: a continuous test fails. The start-up tests run again, each ended by ENTROPY_TEST_RUN, and the DRBG
delivers nothing before one passes. -/
def execEntropyHealthFail (s : State) : Result :=
  .next (if running s && seedReady s then
    { modCipher s (fun c => { c with testing := true }) with start := { s.start with entropyRuns := 0 } } else s)

end Sys2Proof.Machine
end

