-- ==== Sys2Proof/Machine/Lookaside.lean ====
section
/-!
DEFINITION. The lookaside queue (15.5): the form of a request, its reads, GCM, XTS and RANDOM, its writes and hand-back.
-/

namespace Sys2Proof.Machine

/-! ### The request entry (Tables 15-5 and 15-6) -/

def laOp (e : Entry) : Nat := fld e 0 7 0
def laGcm (e : Entry) : Bool := laOp e == 1 || laOp e == 2
def laXts (e : Entry) : Bool := laOp e == 4 || laOp e == 5
def laFirst (e : Entry) : Bool := bit e 1 0
def laLast (e : Entry) : Bool := bit e 1 1
def laWrapped (e : Entry) : Bool := bit e 1 2
def laSlot (e : Entry) : Nat := fld e 2 13 0
def laLen (e : Entry) : Nat := fld e 4 31 0
def laAadLen (e : Entry) : Nat := fld e 32 31 0

/-- The form of a request entry (R360). SUB and STATUS are the XV4800's to write: their values at fetch do not matter.
(DEDUCED in part: assumption 57) -/
def laLegal (e : Entry) : Bool :=
  let op := laOp e
  let len := laLen e
  decide (1 ≤ op) && decide (op ≤ 5) && fld e 1 7 3 == 0 && (laGcm e || fld e 1 2 0 == 0) && fld e 2 15 14 == 0
    && (op != 3 || laSlot e == 0) && (!laGcm e || laLast e || len % 16 == 0) && fld e 8 63 57 == 0 && fld e 16 63 57 == 0
    && fld e 24 63 57 == 0 && fld e 40 63 57 == 0 && (op != 3 || (fld e 8 56 0 == 0 && fld e 40 56 0 == 0))
    && (laGcm e || (fld e 24 56 0 == 0 && laAadLen e == 0)) && (!laGcm e || laLast e || len != 0 || laAadLen e % 16 == 0)
    && fld e 40 3 0 == 0 && zeroBytes e 36 39 && zeroBytes e 58 59 && fld e 60 7 1 == 0 && fld e 61 7 0 == 0 && fld e 63 6 0 == 0

/-- A limit of Table 15-9 that the entry alone shows is exceeded. -/
def laOver (e : Entry) : Bool :=
  let len := laLen e
  if laGcm e then decide (16777216 < len) || decide (16777216 < laAadLen e)
  else if laXts e then decide (len < 16) || decide (16777216 < len)
  else decide (len < 1) || decide (65536 < len)

/-- The slot serves the request. -/
def laKeyOk (s : State) (inst : Nat) (e : Entry) : Bool :=
  (tget s.cipher.keys (laSlot e)).any fun k => k.inst == inst && k.type == 2 && (if laGcm e then decide (k.keyLen ≤ 1) else k.keyLen == 2)

/-- The request loads or saves a wrapped chaining state. -/
def laWraps (e : Entry) : Bool := laGcm e && laWrapped e && !(laFirst e && laLast e)

/-- What a request reads: part, address and length. Of the control block it reads the IV or the tweak, the tag it checks
and the state it loads. -/
def laReads (e : Entry) : List (Nat × Nat × Nat) :=
  let ctrl := fld e 40 56 0
  let src : List (Nat × Nat × Nat) := if laLen e = 0 then [] else [(0, fld e 8 56 0, laLen e)]
  if laOp e = 3 then []
  else if laXts e then src ++ [(2, ctrl, 16)]
  else
    let aad : List (Nat × Nat × Nat) := if laAadLen e = 0 then [] else [(1, fld e 24 56 0, laAadLen e)]
    let tag := laLast e && laOp e == 2
    let lo := if laFirst e then 0 else if tag then 16 else 32
    let hi := if laFirst e then (if tag then 32 else 16) else if laWrapped e then 144 else 112
    src ++ aad ++ [(2, ctrl + lo, hi - lo)]

/-! ### Running -/

def modLa (s : State) (inst : Nat) (f : LaRun → LaRun) : State := modInst s inst fun x => { x with laRun := x.laRun.map f }

def laRunOf (s : State) (inst : Nat) : Option LaRun := (tget s.insts inst).bind (·.laRun)

/-- The accesses under way of an instance's request end with it. -/
def laForget (s : State) (inst : Nat) : State :=
  let own (o : AccOwner) : Bool := match o with | .lookaside i _ => i == inst | _ => false
  let s1 := { s with waits := s.waits.filter (fun w => !own w.owner), reads := s.reads.filter fun x => !own x.owner }
  modInst s1 inst fun x => { x with laRun := none }

/-- After hand-backs: a queue whose hand-back write failed enters ERROR (R144, R360). -/
def drainLa (s : State) (inst : Nat) : State :=
  let s1 := drain s .lookaside inst
  match getRing s1 .lookaside inst with
  | some r => if r.deadBy.isSome && r.state != .disabled then laForget (disableRing s1 .lookaside inst stAborted) inst else s1
  | none => s1

/-- The request ends: it is handed back, and further slots are read. -/
def laEnd (s : State) (inst : Nat) (status : BitVec 8) (sub : Nat) : State :=
  match laRunOf s inst with
  | none => s
  | some r =>
    let s2 := laForget (endSlot s .lookaside inst r.slot { status := status, sub := sub, bytes := 0, notify := 0 }) inst
    fetchRing (drainLa s2 inst) .lookaside inst

/-- A translation that ended without pieces (Table 11-7, initiator). -/
def xlatStatus : Xlat → BitVec 8 × Nat
  | .permission => (stTransFault, 1)
  | .notMapped => (stTransFault, 2)
  | .timeout => (stPageTimeout, 1)
  | _ => (stOk, 0)

/-! ### GCM chaining state (R362, R363, Table 15-8) -/

/-- The chaining state. -/
structure GcmState where
  acc    : BitVec 128
  ctr    : Bytes
  ekj0   : Bytes
  aad    : Nat                    -- bits
  text   : Nat
  slot   : Nat
  dec    : Bool
  closed : Bool
  deriving DecidableEq, Repr

/-- The 80 bytes in the clear. -/
def gcmStateBytes (g : GcmState) : Bytes :=
  beBytes 16 g.acc.toNat ++ g.ctr ++ g.ekj0 ++ leBytes 8 g.aad ++ leBytes 8 g.text ++ leBytes 2 g.slot
    ++ leBytes 1 (g.dec.toNat + 2 * g.closed.toNat) ++ List.replicate 13 0

def gcmStateOf (b : Bytes) : GcmState :=
  { acc := blockVal (slice b 0 16), ctr := slice b 16 16, ekj0 := slice b 32 16, aad := leNat (slice b 48 8)
    text := leNat (slice b 56 8), slot := leField b 64 2 13 0, dec := leField b 66 1 0 0 == 1, closed := leField b 66 1 1 1 == 1 }

/-- The first 16 bytes of a wrapped state. -/
def wrapHead (seq : Nat) : Bytes := leBytes 8 seq ++ [1] ++ List.replicate 7 0

def wrapAad (head : Bytes) (inst : Nat) : Bytes := head ++ leBytes 2 inst

/-- Wraps a state. (DEDUCED in part: assumption 58) -/
def wrapState (key : BitVec 256) (seq inst : Nat) (clear : Bytes) : Bytes :=
  let r := gcmSeal (leBytes 32 key.toNat) ([0, 0, 0, 0] ++ beBytes 8 seq) (wrapAad (wrapHead seq) inst) clear
  wrapHead seq ++ r.1 ++ r.2

/-- Opens a wrapped state. -/
def unwrapState (key : BitVec 256) (inst : Nat) (b : Bytes) : Option Bytes :=
  let head := slice b 0 16
  if slice head 8 8 != [1, 0, 0, 0, 0, 0, 0, 0] then none
  else gcmOpen (leBytes 32 key.toNat) ([0, 0, 0, 0] ++ beBytes 8 (leNat (slice head 0 8))) (wrapAad head inst) (slice b 16 80) (slice b 96 16)

/-- A finished computation: status, SUB and what is to be written. -/
structure LaDone where
  status : BitVec 8
  sub    : Nat
  outs   : List (Nat × Nat × Bytes)
  wraps  : Nat                    -- WRAP_SEQ values used
  deriving DecidableEq, Repr

def laFail (status : BitVec 8) (sub : Nat) : LaDone := { status := status, sub := sub, outs := [], wraps := 0 }

/-- The state a GCM request starts from: fresh, or loaded; none where the loaded one fails. `ctrl` is what was read of the
control block. -/
def gcmStart (s : State) (inst : Nat) (e : Entry) (rks : List Bytes) (ctrl : Bytes) : Option GcmState :=
  if laFirst e then
    let j0 := gcmJ0 (slice ctrl 0 12)
    some { acc := 0, ctr := incCounter j0, ekj0 := aesBlock rks j0, aad := 0, text := 0, slot := laSlot e, dec := laOp e == 2, closed := false }
  else
    let off := if laLast e && laOp e == 2 then 16 else 0
    let b := ctrl.drop off
    let clear := if laWrapped e then s.cipher.ctxKey.bind fun k => unwrapState k inst (slice b 0 112) else some (slice b 0 80)
    match clear with
    | none => none
    | some c =>
      let g := gcmStateOf c
      if g.slot == laSlot e && g.dec == (laOp e == 2) then some g else none

/-- A GCM request on its inputs (R362, R365, R366). -/
def laGcmDone (s : State) (inst : Nat) (e : Entry) (src aad ctrl : Bytes) : LaDone :=
  let dec := laOp e == 2
  let rks := roundKeys (slotKey s (laSlot e))
  match gcmStart s inst e rks ctrl with
  | none => laFail stAuthFail 2
  | some g =>
    if g.closed && !aad.isEmpty then laFail stAborted 3
    else if 8 * (2 ^ 36 - 32) < g.text + 8 * src.length || 8 * 2 ^ 32 < g.aad + 8 * aad.length then laFail stLengthLimit 0
    else
      let h := hashKey rks
      let r := gctr rks g.ctr src
      let ct := if dec then src else r.1
      let g1 := { g with
        acc := ghash h (ghash h g.acc aad) ct, ctr := r.2, aad := g.aad + 8 * aad.length, text := g.text + 8 * src.length
        closed := g.closed || !src.isEmpty }
      let at_ := fld e 40 56 0
      let dst : List (Nat × Nat × Bytes) := if src.isEmpty then [] else [(3, fld e 16 56 0, r.1)]
      if laLast e then
        let tag := xorBytes (beBytes 16 (ghash h g1.acc (beBytes 8 g1.aad ++ beBytes 8 g1.text)).toNat) g1.ekj0
        let zeros := List.replicate 112 0
        if dec then
          let want := slice ctrl (if laFirst e then 16 else 0) 16
          if tag == want then { status := stOk, sub := 0, outs := dst ++ [(4, at_ + 32, zeros)], wraps := 0 }
          else { status := stAuthFail, sub := 0, outs := [(4, at_ + 32, zeros)], wraps := 0 }
        else { status := stOk, sub := 0, outs := dst ++ [(4, at_ + 16, tag ++ zeros)], wraps := 0 }
      else if laWrapped e then
        match s.cipher.ctxKey with
        | some k => { status := stOk, sub := 0, wraps := 1
                      outs := dst ++ [(4, at_ + 32, wrapState k s.cipher.wrapSeq.toNat inst (gcmStateBytes g1))] }
        | none => laFail stNotSeeded 0
      else { status := stOk, sub := 0, outs := dst ++ [(4, at_ + 32, gcmStateBytes g1)], wraps := 0 }

/-- A request other than RANDOM on its inputs. -/
def laDone (s : State) (inst : Nat) (e : Entry) (r : LaRun) : LaDone :=
  let b (n : Nat) : Bytes := (tget r.bufs n).getD []
  if laGcm e then laGcmDone s inst e (b 0) (b 1) (b 2)
  else
    { status := stOk, sub := 0, wraps := 0
      outs := [(3, fld e 16 56 0, xts (laOp e == 4) (slotKey s (laSlot e)) (slice (b 2) 0 16) (b 0))] }

/-! ### Writing -/

/-- What translating a request's writes gives. -/
inductive LaTry where
  | all (l : List (List Piece × Bytes))
  | waits
  | fails (status : BitVec 8) (sub : Nat)

/-- Translates the writes in turn, as far as the first that waits or fails. (DEDUCED in part: assumption 59) -/
def tryWrites (inst : Nat) : List (Nat × Nat × Bytes) → List (List Piece × Bytes) → State → State × LaTry
  | [], acc, s => (s, .all acc)
  | (part, va, bs) :: rest, acc, s =>
    let r := beginAccess s inst (.lookaside inst part) .localWrite va bs.length
    match r.2 with
    | .done ps => tryWrites inst rest (acc ++ [(ps, bs)]) r.1
    | .waits => (r.1, .waits)
    | x => (r.1, .fails (xlatStatus x).1 (xlatStatus x).2)

/-- Writes all, as far as the first that fails: the ports they left on, and the pieces of the one that failed. -/
def writeAll (inst : Nat) : List (List Piece × Bytes) → List Nat → State → State × List Nat × Option (List Piece)
  | [], ports, s => (s, ports, none)
  | (ps, bs) :: rest, ports, s =>
    let r := writePieces s inst ps bs
    if r.2.2 = bs.length then writeAll inst rest (ports ++ r.2.1) r.1 else (r.1, ports ++ r.2.1, some ps)

/-- Writes the output once every write is translated, and hands the request back once all is visible. -/
def laCommit (s : State) (inst : Nat) : State :=
  match laRunOf s inst with
  | none => s
  | some r =>
    let t := tryWrites inst r.outs [] s
    match t.2 with
    | .waits => t.1
    | .fails st sub => laEnd t.1 inst st sub
    | .all l =>
      let w := writeAll inst l [] t.1
      match w.2.2 with
      | some ps =>
        let f := accessFault w.1 stTransFault ps
        laEnd (modLa (noteXts w.1 ps) inst fun x => { x with ports := w.2.1 }) inst f.1 f.2
      | none =>
        let f := issueFlushes w.1 w.2.1 inst (.lookaside inst)
        if f.1.isEmpty then laEnd f.2 inst r.status 0 else modLa f.2 inst fun x => { x with outs := [], flushes := f.1 }

/-- Every input has come: the request is computed, and the two results compared (R368): where they disagree, nothing of either is
given, not even that a state's tag does not match. -/
def laCompute (s : State) (inst : Nat) (r : LaRun) : State :=
  let d := laDone s inst r.entry r
  let s1 := modCipher s fun c => { c with wrapSeq := c.wrapSeq + BitVec.ofNat 64 d.wraps }
  if r.bad then laEnd (cipherMismatch s1 3) inst stCipherCompare 0
  else if d.outs.isEmpty then laEnd s1 inst d.status d.sub
  else laCommit (modLa s1 inst fun x => { x with made := true, outs := d.outs, status := d.status }) inst

/-- RANDOM: LEN bytes from the DRBG. -/
def laRandom : Nat → State → Nat → Bytes → State × Bytes
  | 0, s, _, acc => (s, acc)
  | fuel + 1, s, n, acc =>
    if n ≤ acc.length then (s, acc.take n)
    else let r := drawRandom s; laRandom fuel r.2 n (acc ++ leBytes 64 r.1.toNat)

/-- RANDOM once the seed is there. -/
def laDraw (s : State) (inst : Nat) (r : LaRun) : State :=
  let n := laLen r.entry
  let d := laRandom (n / 64 + 2) s n []
  laCommit (modLa d.1 inst fun x => { x with seed := false, made := true, outs := [(3, fld r.entry 16 56 0, d.2)], status := stOk }) inst

/-! ### Reading -/

/-- A part of the input has come, or its read failed. -/
def laData (s : State) (inst part : Nat) (ps : List Piece) (b : Option Bytes) : State :=
  match laRunOf s inst, b with
  | none, _ => s
  | some r, some bytes =>
    if r.made || !r.todo.contains part then s
    else
      let r1 := { r with todo := r.todo.filter (· != part), bufs := tput r.bufs part bytes }
      let s1 := modLa s inst fun _ => r1
      if r1.todo.isEmpty then laCompute s1 inst r1 else s1
  | some _, none => let f := accessFault s stTransFault ps; laEnd (noteXts s ps) inst f.1 f.2

/-- The translation of a part ended, or it waits. -/
def laAccess (s : State) (inst part : Nat) (x : Xlat) : State :=
  match laRunOf s inst with
  | none => s
  | some _ =>
    match x with
    | .waits => s
    | .done ps =>
      if part < 3 then
        let b := beginRead s inst (.lookaside inst part) ps
        match b.2 with
        | some v => laData b.1 inst part ps v
        | none => b.1
      else laCommit s inst
    | _ => laEnd s inst (xlatStatus x).1 (xlatStatus x).2

/-- Begins one read of a request that still runs. -/
def laRead (inst slot : Nat) (s : State) (p : Nat × Nat × Nat) : State :=
  if (laRunOf s inst).any fun r => r.slot == slot && r.todo.contains p.1 then
    let r := beginAccess s inst (.lookaside inst p.1) .localRead p.2.1 p.2.2
    laAccess r.1 inst p.1 r.2
  else s

/-- A request that has started and is legal. -/
def laBegin (s : State) (inst slot : Nat) (e : Entry) (bad : Bool) : State :=
  let reads := laReads e
  let r : LaRun :=
    { slot := slot, entry := e, since := s.now, seed := laOp e == 3, bad := bad, todo := reads.map (·.1), bufs := [], made := false
      outs := [], status := stOk, ports := [], flushes := [] }
  let s1 := modInst s inst fun x => { x with laRun := some r }
  if laOver e then laEnd s1 inst stLengthLimit 0
  else if laOp e = 3 then
    if seedReady s1 then laDraw s1 inst r
    else if s1.start.entropyFailed then laEnd s1 inst stNotSeeded 0 else s1
  else if !laKeyOk s inst e then laEnd s1 inst stAborted 1
  else if laWraps e && s.cipher.ctxKey.isNone then laEnd s1 inst stNotSeeded 0
  else reads.foldl (laRead inst slot) s1

/-- A request may start: it is the oldest outstanding one, and none runs (R359). -/
def laNext (s : State) (inst : Nat) : Option Taken :=
  match tget s.insts inst with
  | none => none
  | some i =>
    match i.la.taken with
    | t :: _ =>
      if serving s && s.pm.state != 2 && !instStopped s inst && i.la.state == .enabled && i.laRun.isNone && !t.started
          && t.outcome.isNone then some t else none
    | [] => none

/-- LOOKASIDE_START. `disagree`: the two computations of the request disagree (R368); `m`: what its pool accesses meet. -/
def execLookasideStart (inst : Nat) (disagree : Bool) (m : Meets) (s : State) : Result :=
  match laNext s inst with
  | none => .next s
  | some t =>
    if !laLegal t.entry then
      .next (disableRing (endSlot s .lookaside inst t.slot { status := stMalformed, sub := 0, bytes := 0, notify := 0 })
        .lookaside inst stAborted)
    else .next (underMeets m (markStarted s .lookaside inst t.slot) fun u => laBegin u inst t.slot t.entry disagree)

/-- A write of 1 to bit 31 of an instance channel's OUT_DOORBELL (R359, R419). -/
def laDoorbell (s : State) (inst : Nat) : State := if pageOpen s inst then ringDoorbell s .lookaside inst else s

/-- LOOKASIDE_DOORBELL. -/
def execLookasideDoorbell (inst : Nat) (s : State) : Result :=
  let s := heardBell s
  .next (if live s then laDoorbell s inst else s)

/-! ### The seed (R100, R101, R371) -/

/-- A command that waits for the seed runs again. -/
def seedCommand (s : State) (c : AdminCmd) : State :=
  if c.phase != .running then s
  else match cmdOpcode c with
    | 0x0200 => qpCreate c s
    | 0x0201 => if fld c.entry 12 2 0 = 1 then qpModify c s else s
    | 0x0501 => keySlotGenerate c s
    | _ => s

/-- Every command and lookaside request that waits for the seed goes on. -/
def seedCome (s : State) : State :=
  let s1 := s.adm.cmds.foldl seedCommand s
  s1.insts.foldl (fun t r => match laRunOf t r.1 with
    | some x => if x.seed then (if t.start.entropyFailed then laEnd t r.1 stNotSeeded 0 else laDraw t r.1 x) else t
    | none => t) s1

/-- The personalization string (R370): the adapter's coordinate followed by device time; before the image has given the coordinate, 0
stands for it. (DESIGN CHOICE in part: assumption 9) -/
def personalization (s : State) : BitVec 88 := (match img s with | some i => i.coord | none => 0) ++ s.time.dev

/-- The DRBG is instantiated, or reseeded once it has been, with new entropy (R100, R370, R371). -/
def seedDrbg (s : State) : State :=
  modCipher s fun c => { c with
    testing := false, generated := 0, seededAt := s.now, seeding := c.seeding + 1
    personal := if s.start.seeded then c.personal else personalization s }

/-- ENTROPY_TEST_RUN: a run of the start-up tests ends. A pass seeds the DRBG, and with the first seeding the context key is
drawn (R363); the third failed run sets ENTROPY_FAILED. -/
def execEntropyTestRun (pass : Bool) (s : State) : Result :=
  let due := running s && !s.start.entropyFailed && (!s.start.seeded || s.cipher.testing)
  if !due then .next s
  else if pass then
    let s1 := { seedDrbg s with
      start := { s.start with seeded := true, entropyRuns := 0 } }
    let s2 := if s1.cipher.ctxKey.isSome then s1
      else let r := drawRandom s1; purgeKeyMem (modCipher r.2 fun c => { c with ctxKey := some (r.1.extractLsb' 0 256) }) 0x100000 32
    .next (seedCome s2)
  else if s.start.entropyRuns < 2 then .next { s with start := { s.start with entropyRuns := s.start.entropyRuns + 1 } }
  else
    let s1 := { modCipher s (fun c => { c with testing := false }) with
      start := { s.start with entropyFailed := true, entropyRuns := s.start.entropyRuns + 1 } }
    .next (seedCome (post s1 0x0003 0))

/-- SEED_WAIT_TIMEOUT: the command in an admin slot, or an instance's lookaside request, has waited 10 ms for the seed. -/
def execSeedWaitTimeout (w : SeedWait) (s : State) : Result :=
  if !running s || seedReady s then .next s
  else match w with
    | .admin slot =>
      match admCmd s slot with
      | none => .next s
      | some c =>
        let waits := c.phase == .running && (cmdOpcode c == 0x0200 || (cmdOpcode c == 0x0201 && fld c.entry 12 2 0 == 1) || cmdOpcode c == 0x0501)
        .next (if waits && firmware s && decide (c.since + 10000000 ≤ s.now) then refuse s slot stNotSeeded rsNone else s)
    | .lookaside inst =>
      match laRunOf s inst with
      | none => .next s
      | some r => .next (if r.seed && decide (r.since + 10000000 ≤ s.now) then laEnd s inst stNotSeeded 0 else s)

end Sys2Proof.Machine
end

