-- ==== Sys2Proof/Machine/Mailbox.lean ====
section
/-!
DEFINITION. Mailbox channels (Mailboxes, Control Cores and the Watchdog, 17.1 to 17.4): notices, their ends, interrupts,
the relay between instances and the PF.
-/

namespace Sys2Proof.Machine

/-! ### Channels (Tables 17-1 and 17-3) -/

def chanOf (s : State) : ChanRef → Option Channel
  | .inst i => (tget s.insts i).map (·.mbx)
  | .pf k => s.pfMbx[k]?
  | .secure k => s.secMbx[k]?

/-- A secure channel holds an interrupt that has not been cleared (R427). -/
def chanHolds (c : Channel) : Bool :=
  c.inDb &&& ~~~c.inMask != 0 || c.outAcked &&& ~~~c.outMask != 0 || (c.empty && !c.emptyMask)

/-- SMB_ALERT_N: in Perch, and while a secure channel holds an interrupt (R104, R427). (DEDUCED in part: assumption 100) -/
def alertRefresh (s : State) : State :=
  { s with pins := { s.pins with smbAlert := s.start.stage == 0xF || s.secMbx.any chanHolds } }

def modChan (s : State) (r : ChanRef) (f : Channel → Channel) : State :=
  match r with
  | .inst i => modInst s i fun x => { x with mbx := f x.mbx }
  | .pf k => { s with pfMbx := lmod s.pfMbx k f }
  | .secure k => alertRefresh { s with secMbx := lmod s.secMbx k f }

/-- Software can write the window: the device is live, and the instance exists and is not RESETTING (R384). -/
def chanOpen (s : State) : ChanRef → Bool
  | .inst i => live s && pageOpen s i
  | .pf k => live s && decide (k < 16)
  | .secure k => live s && decide (k < 16)

/-- A mailbox write has been received: on the H port, but for a secure channel's. -/
def heardMbx (r : ChanRef) (s : State) : State :=
  match r with
  | .secure _ => s
  | _ => heardBell s

/-- Sends a channel's interrupt (R418). A secure channel's is SMB_ALERT_N, which follows the registers. -/
def chanIrq (s : State) : ChanRef → State
  | .inst i => match tget s.insts i with | some x => raiseVector s i x.mbxVec | none => s
  | .pf k => msixRaise s 0 (3 + k)
  | .secure _ => alertRefresh s

/-- Word with one bit set, or cleared. -/
def wordBit (n : Nat) : Word := BitVec.ofNat 32 (2 ^ n)

/-! ### Notices (Table 17-2) -/

def noticePeer (w : BitVec 128) : Nat := fld w 12 10 0
def noticeEmpty (w : BitVec 128) : Bool := bit w 13 7
def noticeBit (w : BitVec 128) : Nat := fld w 14 4 0

/-- The sender's bytes are within Table 17-2. -/
def noticeLegal (r : ChanRef) (w : BitVec 128) : Bool :=
  fld w 12 14 11 == 0 && fld w 14 7 5 == 0 && fld w 15 7 0 == 0 &&
    match r with
    | .pf _ => decide (1 ≤ noticePeer w) && decide (noticePeer w ≤ 1024) && decide (noticeBit w ≤ 30)
    | .inst _ => noticePeer w == 0 && noticeBit w == 0
    | .secure _ => noticePeer w == 0 && noticeBit w == 0 && decide (fld w 8 31 0 + fld w 0 63 0 ≤ 4096)

/-- Notice `n` of a list of slots. -/
def noticeAt (l : List Notice) (n : Nat) : Notice := l.getD n { words := 0, seq := 0, ret := 0, epoch := 0 }

/-- Ends OUT notice `n` of a channel: as in ACK mode with a code (R416), or in EMPTY mode (R417). -/
def endNotice (s : State) (r : ChanRef) (n : Nat) (code : BitVec 16) (ack : Bool) : State :=
  match chanOf s r with
  | none => s
  | some c =>
    let db := c.outDb &&& ~~~wordBit n
    let empties := !ack && db == 0
    let s1 := modChan s r fun x => { x with
      outN := lmod x.outN n fun m => { m with ret := if ack then code else 0, epoch := s.epoch }
      outDb := db, outAcked := if ack then x.outAcked ||| wordBit n else x.outAcked, empty := x.empty || empties }
    let fires := (ack && !c.outAcked.getLsbD n && !c.outMask.getLsbD n) || (empties && !c.empty && !c.emptyMask)
    if fires then chanIrq s1 r else s1

/-- Delivers a notice into IN slot `n` under `seq`; `sender` is where its end goes back to. -/
def deliver (s : State) (r : ChanRef) (n : Nat) (words : BitVec 128) (seq : BitVec 16) (sender : Option (Nat × Nat)) : State :=
  match chanOf s r with
  | none => s
  | some c =>
    let s1 := modChan s r fun x => { x with
      inN := lmod x.inN n fun _ => { words := words, seq := seq, ret := 0, epoch := s.epoch }
      inDb := x.inDb ||| wordBit n, inLast := seq
      senders := match sender with | some p => tput x.senders n p | none => tdel x.senders n }
    if !c.inDb.getLsbD n && !c.inMask.getLsbD n then chanIrq s1 r else s1

/-! ### Sending (R414, R415, R419 to R421, R428) -/

/-- Sets OUT_DOORBELL bit `n`. -/
def mbxSend (s : State) (r : ChanRef) (n : Nat) : State :=
  match chanOf s r with
  | none => s
  | some c =>
    let lookaside := match r with | .inst _ => n == 31 | _ => false
    if lookaside then (match r with | .inst i => laDoorbell s i | _ => s)
    else if c.outDb.getLsbD n then s
    else
      let seq := c.outLast + 1
      let w := (noticeAt c.outN n).words
      let s1 := modChan s r fun x => { x with
        outN := lmod x.outN n fun m => { m with seq := seq }
        outDb := x.outDb ||| wordBit n, outLast := seq }
      if !noticeLegal r w then endNotice s1 r n 3 true
      else match r with
        | .secure _ => s1
        | .inst i =>
          let k := match tget s.insts i with | some x => x.relayCh | none => 0
          { s1 with relays := s1.relays ++ [{ up := true, chan := k, inst := i, bit := n, slot := 0, begun := none }] }
        | .pf k =>
          match tget s.insts (noticePeer w) with
          | none => endNotice s1 r n 1 true
          | some x =>
            if x.state == .resetting then endNotice s1 r n 0x13 true
            else { s1 with relays := s1.relays ++
              [{ up := false, chan := k, inst := noticePeer w, bit := n, slot := noticeBit w, begun := none }] }

/-- The set bits of a word, ascending. -/
def bitsOf (w : Word) : List Nat := (List.range 32).filter fun n => w.getLsbD n

/-- A write to OUT_DOORBELL. -/
def outDoorbell (s : State) (r : ChanRef) (w : Word) : State := (bitsOf w).foldl (fun t n => mbxSend t r n) s

/-- MBX_OUT_DOORBELL. -/
def execMbxOutDoorbell (r : ChanRef) (w : Word) (s : State) : Result :=
  let s := heardMbx r s
  .next (if chanOpen s r then outDoorbell s r w else s)

/-! ### Ending (R416, R417, R419) -/

/-- The channel a notice in an IN slot came from. -/
def senderRef (r : ChanRef) (p : Nat × Nat) : ChanRef :=
  match r with
  | .pf _ => .inst p.1
  | _ => .pf p.1

/-- IN slot `n` is ended by its receiver: its bit clears, and the end goes back to the sender. -/
def endIn (s : State) (r : ChanRef) (n : Nat) (code : BitVec 16) : State :=
  match chanOf s r with
  | none => s
  | some c =>
    let ack := !noticeEmpty (noticeAt c.inN n).words
    let s1 := modChan s r fun x => { x with inDb := x.inDb &&& ~~~wordBit n, senders := tdel x.senders n }
    match tget c.senders n with
    | some p => endNotice s1 (senderRef r p) p.2 code ack
    | none => s1

/-- IN bit 31 of an instance channel: the lookaside queue's, without a notice. -/
def isSignal (r : ChanRef) (n : Nat) : Bool := match r with | .inst _ => n == 31 | _ => false

/-- A write to IN_ACK. -/
def inAck (s : State) (r : ChanRef) (n : Nat) (code : BitVec 16) : State :=
  match chanOf s r with
  | none => s
  | some c => if c.inDb.getLsbD n && !isSignal r n then endIn s r n code else s

/-- MBX_IN_ACK. -/
def execMbxInAck (r : ChanRef) (n : Nat) (code : BitVec 16) (s : State) : Result :=
  let s := heardMbx r s
  .next (if chanOpen s r && decide (n < 32) then inAck s r n code else s)

/-- A 1 written to IN_DOORBELL bit `n`: it ends an EMPTY-mode notice and clears the lookaside bit. -/
def inClear (r : ChanRef) (s : State) (n : Nat) : State :=
  match chanOf s r with
  | none => s
  | some c =>
    if !c.inDb.getLsbD n then s
    else if isSignal r n then modChan s r fun x => { x with inDb := x.inDb &&& ~~~wordBit n }
    else if noticeEmpty (noticeAt c.inN n).words then endIn s r n 0 else s

/-- A write to IN_DOORBELL. -/
def inDoorbell (s : State) (r : ChanRef) (w : Word) : State := (bitsOf w).foldl (inClear r) s

/-- MBX_IN_DOORBELL_CLEAR. -/
def execMbxInDoorbellClear (r : ChanRef) (w : Word) (s : State) : Result :=
  let s := heardMbx r s
  .next (if chanOpen s r then inDoorbell s r w else s)

/-! ### Registers of the window (Table 17-3) -/

/-- Sends the interrupt of a write that unmasked a set bit. -/
def unmaskIrq (s : State) (r : ChanRef) (fires : Bool) : State := if fires then chanIrq s r else s

/-- A write to a mask register, by its offset. -/
def maskWrite (s : State) (r : ChanRef) (off : Nat) (w : Word) : State :=
  match chanOf s r with
  | none => s
  | some c =>
    match off with
    | 0x808 => unmaskIrq (modChan s r fun x => { x with outMask := w }) r (c.outAcked &&& c.outMask &&& ~~~w != 0)
    | 0x814 => unmaskIrq (modChan s r fun x => { x with inMask := w }) r (c.inDb &&& c.inMask &&& ~~~w != 0)
    | 0x80C =>
      let empty := c.empty && !w.getLsbD 0
      unmaskIrq (modChan s r fun x => { x with empty := empty, emptyMask := w.getLsbD 1 }) r (empty && c.emptyMask && !w.getLsbD 1)
    | _ => s

/-- MBX_MASK_WRITE: OUT_MASK at 0x808, EMPTY and EMPTY_MASK at 0x80C, IN_MASK at 0x814. -/
def execMbxMaskWrite (r : ChanRef) (off : Nat) (w : Word) (s : State) : Result :=
  let s := heardMbx r s
  .next (if chanOpen s r then maskWrite s r off w else s)

/-- Bytes 16 to 31 of a slot. -/
def noticeTail (n : Notice) : Bytes := leBytes 2 n.seq.toNat ++ leBytes 2 n.ret.toNat ++ leBytes 2 n.epoch.toNat ++ List.replicate 10 0

def noticeBytes (n : Notice) : Bytes := entryBytes n.words ++ noticeTail n

/-- The word at an offset of a channel window; `area` says whether it has a MESSAGE_AREA. -/
def chanRead (c : Channel) (area : Bool) (off : Nat) : Word :=
  let slot (l : List Notice) : Word := BitVec.ofNat 32 (leNat (slice (noticeBytes (noticeAt l (off % 0x400 / 32))) (off % 32) 4))
  if off < 0x400 then slot c.outN
  else if off < 0x800 then slot c.inN
  else if 0x1000 ≤ off && off < 0x2000 then (if area then BitVec.ofNat 32 (leNat (memRead c.area (off - 0x1000) 4)) else 0)
  else match off with
    | 0x800 => c.outDb
    | 0x804 => c.outAcked
    | 0x808 => c.outMask
    | 0x80C => BitVec.ofNat 32 (c.empty.toNat + 2 * c.emptyMask.toNat)
    | 0x810 => c.inDb
    | 0x814 => c.inMask
    | 0x81C => BitVec.ofNat 32 (c.outLast.toNat + c.inLast.toNat * 2 ^ 16)
    | _ => 0

/-- A write of the word at an offset of a channel window. -/
def chanWrite (s : State) (r : ChanRef) (off : Nat) (w : Word) : State :=
  match chanOf s r with
  | none => s
  | some c =>
    let secure := match r with | .secure _ => true | _ => false
    if off < 0x400 then
      if off % 32 < 16 && !c.outDb.getLsbD (off / 32) then
        modChan s r fun x => { x with outN := lmod x.outN (off / 32) fun m => { m with words := putFld m.words (off % 32) 31 0 w.toNat } }
      else s
    else if 0x1000 ≤ off && off < 0x2000 && secure then
      modChan s r fun x => { x with area := memWrite x.area (off - 0x1000) (leBytes 4 w.toNat) }
    else match off with
      | 0x800 => outDoorbell s r w
      | 0x804 => modChan s r fun x => { x with outAcked := x.outAcked &&& ~~~w }
      | 0x808 | 0x80C | 0x814 => maskWrite s r off w
      | 0x810 => inDoorbell s r w
      | 0x818 => inAck s r (fld w 0 4 0) (BitVec.ofNat 16 (fld w 2 15 0))
      | _ => s

/-! ### The relay (R420, R421) -/

/-- The queue a relay waits in. -/
def relayTo (x : Relay) : RelayTo := if x.up then .pf x.chan else .inst x.inst x.slot

/-- The bytes a relayed notice arrives with: PEER and PEER_BIT name the sending side. -/
def relayWords (x : Relay) (w : BitVec 128) : BitVec 128 :=
  putFld (putFld w 12 10 0 (if x.up then x.inst else 0)) 14 4 0 x.bit

/-- The channel a relay is sent from, and the one it is delivered to. -/
def relayFrom (x : Relay) : ChanRef := if x.up then .inst x.inst else .pf x.chan
def relayDest (x : Relay) : ChanRef := if x.up then .pf x.chan else .inst x.inst

/-- The IN slot that is free for a relay. -/
def relaySlot (x : Relay) (c : Channel) : Option Nat :=
  if x.up then (List.range 32).find? fun n => !c.inDb.getLsbD n
  else if c.inDb.getLsbD x.slot then none else some x.slot

/-- The relay may be delivered: its instance is not FROZEN, and takes notices where it is to receive one (R423). -/
def relayFree (s : State) (x : Relay) : Bool := !instFrozen s x.inst && (x.up || pageOpen s x.inst)

/-- MBX_RELAY_DELIVER: the oldest notice of a queue that may be delivered is; those of a FROZEN instance wait and hold back no other's. With
`done` false the delivery only begins: it takes its SEQ, and a control reset before its end takes that SEQ with it (R414, R435). One that
another delivery has overtaken takes a new SEQ. (DEDUCED in part: assumption 116) -/
def execMbxRelayDeliver (to_ : RelayTo) (done : Bool) (s : State) : Result :=
  match s.relays.find? fun x => relayTo x == to_ && relayFree s x with
  | none => .next s
  | some x =>
    match chanOf s (relayFrom x), chanOf s (relayDest x) with
    | some a, some c =>
      match relaySlot x c with
      | none => .next s
      | some n =>
        if !firmware s then .next s
        else
          let kept := x.begun == some c.inTaken
          let seq := if kept then c.inTaken else c.inTaken + 1
          let s1 := if kept then s else modChan s (relayDest x) fun y => { y with inTaken := seq }
          if !done then .next { s1 with relays := s1.relays.map fun y => if y = x then { y with begun := some seq } else y }
          else
            let s2 := { s1 with relays := s1.relays.filter fun y => !(y == x) }
            .next (deliver s2 (relayDest x) n (relayWords x (noticeAt a.outN x.bit).words) seq
              (some (if x.up then (x.inst, x.bit) else (x.chan, x.bit))))
    | _, _ => .next s

/-! ### Resets (R423, R424) -/

/-- The OUT notices of PF channel `k` that wait for an instance. -/
def pfPending (s : State) (i k : Nat) : List Nat :=
  match s.pfMbx[k]? with
  | some c => (bitsOf c.outDb).filter fun n => noticePeer (noticeAt c.outN n).words == i
  | none => []

/-- The channel of an instance that resets or is destroyed. -/
def mbxInstReset (s : State) (i : Nat) : State :=
  let s1 := { modInst s i (fun x => { x with mbx := Channel.reset }) with
    relays := s.relays.filter fun x => !(x.inst == i)
    pfMbx := s.pfMbx.map fun c => { c with senders := c.senders.filter fun r => !(r.2.1 == i) } }
  (List.range 16).foldl (fun t k => (pfPending s i k).foldl (fun u n => endNotice u (.pf k) n 0x13 true) t) s1

/-- What a PF function-level reset does to the channels (R424); it destroys every instance, so every notice that waits is withdrawn
(R423). -/
def mbxPfReset (s : State) : State := { s with pfMbx := List.replicate 16 Channel.reset, relays := [] }

/-! ### MBX_CHANNEL_CONFIG (R422) -/

/-- MBX_CHANNEL_CONFIG. -/
def execMbxChannelConfig (slot : Nat) (s : State) : Result :=
  .next (startAdmin s slot 0x0720 fun c t =>
    let e := c.entry
    let i := cmdInst c
    settle t slot (instRefusalFrozen t i) fun t =>
      let queued := (t.relays.filter fun x => x.up && x.inst == i).length
      if bit e 8 0 then
        match tget t.insts i with
        | some x => completeWith t slot fun e => putFld (putFld (putFld e 9 3 0 x.relayCh) 10 5 0 x.mbxVec) 12 15 0 queued
        | none => t
      else completeWith (modInst t i fun x => { x with relayCh := fld e 9 3 0, mbxVec := fld e 10 5 0 }) slot fun e => putFld e 12 15 0 queued)

/-! ### Relays after a control reset (R435) -/

/-- Takes the items of a list in an order the implementation chooses. (DESIGN CHOICE in part: assumption 12) -/
def reorder {α : Type} : Nat → Nat → List α → List α
  | 0, _, l => l
  | fuel + 1, k, l =>
    match l[Config.relayOrder k % l.length]? with
    | some x => x :: reorder fuel (k + 1) (l.eraseIdx (Config.relayOrder k % l.length))
    | none => l

/-- Deliveries under way are made again, and the queue is rebuilt in an order the XV4800 chooses. -/
def relaysAgain (s : State) : State :=
  { s with relays := (reorder s.relays.length s.fresh s.relays).map (fun x => { x with begun := none }), fresh := s.fresh + s.relays.length }

end Sys2Proof.Machine
end

