-- ==== Sys2Proof/Machine/TpeSteps.lean ====
section
/-!
DEFINITION. The operands of TPE list steps and what the units compute on the stores (Tensor Path Engine: Array and Numerics;
Tensor Path Engine: Command Lists, Kettles and Collectives, 14.2, 14.5, 14.6).
-/

namespace Sys2Proof.Machine

/-! ### The form of a step (R319, Tables 14-3 and 14-4) -/

def isAsync (e : Entry) : Bool := bit e 1 0
def isCells (e : Entry) : Bool := bit e 1 1
def isClear (e : Entry) : Bool := bit e 1 3
def isAlt (e : Entry) : Bool := bit e 1 4
def opOf (e : Entry) : Nat := fld e 0 7 0
def fmtA (e : Entry) : Nat := fld e 2 3 0
def fmtB (e : Entry) : Nat := fld e 2 7 4

/-- The bits of byte 1 an opcode uses. -/
def headMask (e : Entry) : BitVec 8 :=
  match opOf e with
  | 0x02 => 0x01
  | 0x03 | 0x04 => 0x13
  | 0x05 => 0x04
  | 0x06 | 0x07 => 0x08
  | 0x09 => 0x02
  | 0x0A => if isAlt e then 0x12 else 0x10
  | _ => 0x00

def vop (e : Entry) : Nat := fld e 4 7 0

/-- The format codes are those the opcode allows (R299). -/
def formatsLegal (e : Entry) : Bool :=
  let a := fmtA e
  let b := fmtB e
  (match opOf e with
    | 0x03 | 0x05 => decide (a ≤ 10)
    | 0x06 => arrayInput a
    | _ => a == 0) &&
  match opOf e with
  | 0x03 | 0x04 | 0x0A => decide (b ≤ 10)
  | 0x06 => arrayInput b
  | 0x07 => if vop e = 0x0C then decide (b ≤ 10) else b == 0
  | 0x09 => decide (b ≤ 4)
  | _ => b == 0

/-- Operands a vector operation uses. (DEDUCED in part: assumption 56) -/
def vopOperands (v : Nat) : Nat := if v = 0x04 then 3 else if v ≤ 0x0A then 2 else 1

/-- Bytes of a weight tile (R301). -/
def tileBytes (f : Nat) : Nat := 256 * (32 * fmtBits f) + if isMx f then 2048 else 0

def mult4 (e : Entry) (byte : Nat) : FormField := (byte, 31, 0, fld e byte 31 0 % 4 == 0)
def zeroField (e : Entry) (byte : Nat) : FormField := (byte, 31, 0, fld e byte 31 0 == 0)
def addrField (e : Entry) (byte : Nat) : FormField := (byte, 63, 0, fld e byte 63 57 == 0)

/-- A LENGTH from 1 to `hi` in whole elements or MX rows of a format. -/
def unitsField (e : Entry) (f hi : Nat) : FormField :=
  let n := fld e 16 31 0
  (16, 31, 0, decide (1 ≤ n) && decide (n ≤ hi) && n % max 1 (unitBytes f) == 0)

/-- The opcode fields of Table 14-4. -/
def stepFields (e : Entry) : Option (List FormField) :=
  match opOf e with
  | 0x01 => some [(4, 31, 0, fld e 4 31 0 % 4096 == 0), (8, 31, 0, fld e 8 31 0 % 4096 == 0 && fld e 8 31 0 != 0)]
  | 0x02 => some [addrField e 8, rng e 16 31 0 1 67108864, any_ 20 31 0]
  | 0x03 => some [any_ 4 19 0, addrField e 8, unitsField e (fmtA e) 1073741824, if isAlt e then any_ 24 63 0 else addrField e 24]
  | 0x04 => some [if isAlt e then mult4 e 4 else zeroField e 4, if isAlt e then rng e 8 63 0 0 0 else addrField e 8,
      unitsField e (fmtB e) (if isCells e then 65536 else 16777216), any_ 20 11 0, rng e 22 12 0 1 4096, any_ 24 31 0]
  | 0x05 => some [(4, 31, 0, fld e 4 31 0 % 4096 == 0), unitsField e (fmtA e) 16777216, rng e 20 15 0 1 60000]
  | 0x06 => some [mult4 e 4, mult4 e 8, (12, 31, 0, fld e 12 31 0 % tileBytes (fmtB e) == 0), rng e 16 15 0 1 65535,
      rng e 18 15 0 1 256, rng e 20 15 0 1 256]
  | 0x07 =>
    let n := vopOperands (vop e)
    let s := fromTwos 2 (fld e 6 15 0)
    some [rng e 4 7 0 1 0x15, (6, 15, 0, if vop e = 0x0B then decide (-255 ≤ s) && decide (s ≤ 255) else s == 0), mult4 e 8,
      if 2 ≤ n then mult4 e 12 else zeroField e 12, if 3 ≤ n then mult4 e 16 else zeroField e 16, mult4 e 20,
      (24, 31, 0, fld e 24 31 0 == 0xFFFFFFFF || fld e 24 31 0 % 4 == 0), rng e 28 31 0 1 8388608]
  | 0x08 => some [mult4 e 4, mult4 e 8, rng e 12 15 0 1 65535, rng e 14 15 0 1 4096, rng e 16 7 0 1 (min 16 (fld e 14 15 0))]
  | 0x09 => some [mult4 e 4, mult4 e 8, rng e 12 15 0 1 4096, rng e 14 15 0 1 16384, rng e 16 7 0 1 16, rng e 18 15 0 1 4096,
      addrField e 24, addrField e 32]
  | 0x0A => some [mult4 e 4, addrField e 8, rng e 16 31 0 1 8388608, if isAlt e then any_ 20 11 0 else rng e 20 15 0 0 0,
      if isAlt e then rng e 22 12 0 1 4096 else rng e 22 15 0 0 0, if isAlt e then any_ 24 31 0 else zeroField e 24]
  | 0x0B => some []
  | _ => none

/-- A step names an MXFP6 format, which stepping A1 lacks (Table 20-8). -/
def namesMxfp6 (e : Entry) : Bool := fmtA e == 7 || fmtA e == 8 || fmtB e == 7 || fmtB e == 8

/-- R319 and R142; `a1` is the part's stepping (R484). -/
def stepLegal (a1 : Bool) (e : Entry) : Bool :=
  match stepFields e with
  | none => false
  | some fs =>
    !(a1 && namesMxfp6 e) && (BitVec.ofNat 8 (fld e 1 7 0) &&& ~~~(headMask e)) == 0 && formatsLegal e && fld e 3 7 5 == 0 && fs.all (fun f => f.2.2.2)
      && zeroBytes (fs.foldl (fun x f => putFld x f.1 f.2.1 f.2.2.1 0) e) 4 47 && tailLegal e

/-! ### What a step reads and writes -/

/-- A range a step touches: the accumulation space (0), the weight space (1) or virtual addresses (2); offset, bytes, and
whether it is written. -/
abbrev Span := Nat × Nat × Nat × Bool

/-- Elements in `n` bytes of a format. -/
def elemsIn (f n : Nat) : Nat := n / max 1 (unitBytes f) * unitElems f

/-- Bytes a STREAM writes. -/
def streamOut (e : Entry) : Nat :=
  if fmtA e = fmtB e then fld e 16 31 0 else fmtLen (fmtB e) (elemsIn (fmtA e) (fld e 16 31 0))

/-- The output range of a REDUCE: FP32, whole 4 KiB blocks (R330). -/
def reduceRange (e : Entry) : Nat := alignUp (4 * elemsIn (fmtA e) (fld e 16 31 0)) 4096

def vecGroups (e : Entry) : Nat := (fld e 28 31 0 + 1023) / 1024

/-- Bytes VECTOR writes. -/
def vecOut (e : Entry) : Nat := if 0x14 ≤ vop e then 4 * vecGroups e else 4 * fld e 28 31 0

/-- The kettle's member of this adapter is among the ranks that a step addresses. -/
def ownRankIn (e : Entry) (k : Option Kettle) : Bool :=
  k.any fun x => decide (fld e 20 11 0 ≤ x.myRank) && decide (x.myRank < fld e 20 11 0 + fld e 22 12 0)

def stepSpans (e : Entry) (k : Option Kettle) : List Span :=
  let w (byte : Nat) := fld e byte 31 0
  let h (byte : Nat) := fld e byte 15 0
  match opOf e with
  | 0x01 => [(0, w 4, w 8, true)]
  | 0x02 => [(2, fld e 8 56 0, w 16, false), (1, w 20, w 16, true)]
  | 0x03 => [if isAlt e then (1, fld e 24 63 0, streamOut e, true) else (2, fld e 24 56 0, streamOut e, true)]
  | 0x04 =>
    let lead := w 24 * (fld e 22 12 0 - 1)
    [if isAlt e then (0, w 4, lead + 4 * elemsIn (fmtB e) (w 16), false) else (2, fld e 8 56 0, lead + w 16, false)]
  | 0x05 => [(0, w 4, reduceRange e, true)]
  | 0x06 => [(0, w 4, h 16 * h 18 * 1024, false), (0, w 8, h 16 * h 20 * 1024, true),
      (1, w 12, h 18 * h 20 * tileBytes (fmtB e), false)]
  | 0x07 =>
    let n := 4 * w 28
    let ops : List Span := ((List.range (vopOperands (vop e))).map fun i => (0, w (8 + 4 * i), n, false))
    ops ++ (if w 24 = 0xFFFFFFFF then [] else [(0, w 24, n, false)]) ++ [(0, w 20, vecOut e, true)]
  | 0x08 => [(0, w 4, 4 * h 12 * h 14, false), (0, w 8, 8 * h 12 * fld e 16 7 0, true)]
  | 0x09 => [(0, w 4, 4 * h 12 * h 14, false), (0, w 8, 8 * h 12 * fld e 16 7 0, false), (2, fld e 24 56 0, 2 * h 18, false),
      (2, fld e 32 56 0, 8 * k.elim 0 (·.members.length), false), (2, 0, 2 ^ 57, true)]
  | 0x0A => (0, w 4, 4 * w 16, false) :: if isAlt e && !ownRankIn e k then [] else [(2, fld e 8 56 0, fmtLen (fmtB e) (w 16), true)]
  | _ => []

/-- A range lies beyond the context's spaces (R321). -/
def beyondSpace (c : Ctx) (x : Span) : Bool :=
  (x.1 == 0 && decide (spaceA c < x.2.1 + x.2.2.1)) || (x.1 == 1 && decide (spaceW c < x.2.1 + x.2.2.1))

/-- A step touches what an unfinished ASYNC step writes (R320). -/
def spansMeet (new old : List Span) : Bool :=
  new.any fun x => old.any fun y => y.2.2.2 && x.1 == y.1 && overlaps x.2.1 x.2.2.1 y.2.1 y.2.2.1

/-! ### The weight space -/

def wtRead (c : Ctx) (off n : Nat) : Option Bytes :=
  if (storeWords off n).any c.wBad.contains then none else some (memRead c.wMem off n)

def wtWrite (c : Ctx) (off : Nat) (bs : Bytes) : Ctx :=
  { c with wMem := memWrite c.wMem off bs
           wBad := c.wBad.filter fun w => !(decide (off ≤ 8 * w) && decide (8 * w + 8 ≤ off + bs.length)) }

/-! ### The array (R296, R300, R301, R336) -/

/-- Activation rows one step carries. -/
def rowsPerStep (e : Entry) : Nat :=
  let b := max (fmtBits (fmtA e)) (fmtBits (fmtB e))
  if b = 16 then 1 else if b = 4 then 4 else 2

/-- The columns of a tile, each of 256 values, and whether a block's scale is 0xFF. -/
def tileColumns (f : Nat) (t : Bytes) : List (List Num) × Flags :=
  let rb := 32 * fmtBits f
  let rowAt (k : Nat) : Bytes := slice t (k * rb + if isMx f then k / 32 * 256 else 0) rb
  let scalesAt (b : Nat) : Bytes := slice t ((b + 1) * 32 * rb + b * 256) 256
  let rows := (List.range 256).map fun k =>
    let row := rowAt k
    let sc := if isMx f then scalesAt (k / 32) else []
    (List.range 256).map fun c =>
      let x := decodeElem f (elemBits (fmtBits f) row c)
      if isMx f then scaled (sc.getD c 0).toNat x else x
  ((List.range 256).map (fun c => rows.map fun r => r.getD c (.fin false 0 0)),
    flIf (isMx f && (List.range 8).any fun b => (scalesAt b).contains 0xFF) flMxScale)

/-- One activation row times the current tile into the accumulation store. -/
def arrayRow (e : Entry) (cols : List (List Num)) (kb nb : Nat) (a : Ctx × TpeRun) (row : Nat) : Ctx × TpeRun :=
  let act := fld e 4 31 0 + 1024 * (row * fld e 18 15 0 + kb)
  let out := fld e 8 31 0 + 1024 * (row * fld e 20 15 0 + nb)
  match accWords a.1 act 256, accWords a.1 out 256 with
  | some xs, some ys =>
    let en := encodeFmt (fmtA e) (xs.map fp)
    let de := decodeFmt (fmtA e) 256 en.1
    let rs := List.zipWith (fun y col => accumulate y de.1 col) ys cols
    (accWrite a.1 out (wordBytes (rs.map (·.1))),
      { a.2 with flags := rs.foldl (fun f r => f ||| r.2) (a.2.flags ||| en.2 ||| de.2) })
  | _, _ => (a.1, a.2.failWith stAborted subStoreEcc)

/-- One array step of a GEMM. -/
def arrayStep (c : Ctx) (r : TpeRun) : Ctx × TpeRun :=
  let e := r.entry
  let kt := fld e 18 15 0
  let kb := r.tile % kt
  let nb := r.tile / kt
  let size := tileBytes (fmtB e)
  match wtRead c (fld e 12 31 0 + r.tile * size) size with
  | none => (c, r.failWith stAborted subStoreEcc)
  | some t =>
    let cols := tileColumns (fmtB e) t
    let rows := fld e 16 15 0
    let n := min (rowsPerStep e) (rows - r.row)
    let a := ((List.range n).map (r.row + ·)).foldl (arrayRow e cols.1 kb nb) (c, { r with flags := r.flags ||| cols.2 })
    let last := decide (rows ≤ r.row + n)
    (a.1, { a.2 with row := if last then 0 else r.row + n, tile := if last then r.tile + 1 else r.tile })

/-- Tiles of a GEMM. -/
def gemmTiles (e : Entry) : Nat := fld e 18 15 0 * fld e 20 15 0

/-! ### The vector unit (R307, R308, R336) -/

/-- The lanes of one group of at most 1,024: the results and which of them are written; none at a failed store word. -/
def vecLanes (c : Ctx) (e : Entry) (base n : Nat) : Option (List (Word × Flags) × List Bool) :=
  let v := vop e
  let opnd (i : Nat) : Option (List Word) :=
    if i < vopOperands v then accWords c (fld e (8 + 4 * i) 31 0 + base) n else some (List.replicate n 0)
  let mask : Option (List Bool) :=
    if fld e 24 31 0 = 0xFFFFFFFF then some (List.replicate n true) else (accWords c (fld e 24 31 0 + base) n).map (·.map laneOn)
  match opnd 0, opnd 1, opnd 2, mask with
  | some a, some b, some d, some m =>
    if v = 0x0C then
      let ws := (decodeFmt (fmtB e) n (encodeFmt (fmtB e) (a.map fp)).1).1.map toFp32
      some (List.zipWith (fun w fl => (w.1, w.2 ||| fl)) ws (laneFlags (fmtB e) (a.map fp)), m)
    else if 0x14 ≤ v then
      let lanes := List.zip a m ++ List.replicate (1024 - n) (0, false)
      some ([vReduce (v == 0x15) lanes], [true])
    else
      let sh := fromTwos 2 (fld e 6 15 0)
      let r := List.zipWith (fun x y => vLane v sh y.2 x y.1.1 y.1.2) a (List.zip (List.zip b d) m)
      some (r, if v = 0x0A then List.replicate n true else m)
  | _, _, _, _ => none

/-- Writes the lanes that the mask selects. -/
def vecStore (c : Ctx) (dst : Nat) (rs : List (Word × Flags)) (m : List Bool) : Ctx :=
  if m.all id then accWrite c dst (wordBytes (rs.map (·.1)))
  else ((List.zip rs m).mapIdx fun i x => (i, x)).foldl
    (fun c x => if x.2.2 then accWrite c (dst + 4 * x.1) (leBytes 4 x.2.1.1.toNat) else c) c

/-- One group of a VECTOR step. -/
def vecGroup (e : Entry) (a : Ctx × TpeRun) (g : Nat) : Ctx × TpeRun :=
  let n := min 1024 (fld e 28 31 0 - 1024 * g)
  match vecLanes a.1 e (4096 * g) n with
  | none => (a.1, a.2.failWith stAborted subStoreEcc)
  | some (rs, m) =>
    let dst := fld e 20 31 0 + if 0x14 ≤ vop e then 4 * g else 4096 * g
    (vecStore a.1 dst rs m, { a.2 with flags := (List.zip rs m).foldl (fun f x => if x.2 then f ||| x.1.2 else f) a.2.flags })

/-- One row of a TOPK step. -/
def topkRow (e : Entry) (a : Ctx × TpeRun) (row : Nat) : Ctx × TpeRun :=
  let n := fld e 14 15 0
  let k := fld e 16 7 0
  match accWords a.1 (fld e 4 31 0 + 4 * n * row) n with
  | none => (a.1, a.2.failWith stAborted subStoreEcc)
  | some ws =>
    let r := topk k ws
    (accWrite a.1 (fld e 8 31 0 + 8 * k * row) (r.1.flatMap fun x => leBytes 4 x.2.toNat ++ leBytes 4 (fpNat x.1).toNat),
      { a.2 with flags := a.2.flags ||| r.2 })

/-- What a step computes on the stores before it completes. -/
def stepCompute (c : Ctx) (r : TpeRun) : Ctx × TpeRun :=
  match opOf r.entry with
  | 0x07 => (List.range (vecGroups r.entry)).foldl (vecGroup r.entry) (c, r)
  | 0x08 => (List.range (fld r.entry 12 15 0)).foldl (topkRow r.entry) (c, r)
  | _ => (c, r)

/-! ### DISPATCH (R310, R338) -/

/-- The copies of a DISPATCH, in order: the rank that gets each, and its bytes; or why there are none. -/
def dispatchCopies (c : Ctx) (e : Entry) (members myRank : Nat) (map : List Nat) : Except Nat (List (Nat × Bytes) × Flags) :=
  let h := fld e 14 15 0
  let k := fld e 16 7 0
  if map.any fun m => decide (members ≤ m) then .error subBadMap
  else (List.range (fld e 12 15 0)).foldl (fun acc t =>
    match acc, accWords c (fld e 4 31 0 + 4 * h * t) h, accWords c (fld e 8 31 0 + 8 * k * t) (2 * k) with
    | .ok (out, fl), some row, some sel =>
      let en := encodeFmt (fmtB e) (row.map fp)
      let one (j : Nat) : Option (Nat × Bytes) :=
        match fpToNat (sel.getD (2 * j + 1) 0) with
        | none => none
        | some x => (map[x]?).map fun owner =>
            (owner, leBytes 2 t ++ leBytes 2 x ++ leBytes 1 j ++ [0] ++ leBytes 2 myRank ++ leBytes 4 (sel.getD (2 * j) 0).toNat
              ++ [0, 0, 0, 0] ++ en.1)
      (match (List.range k).mapM one with
      | some cs => .ok (out ++ cs, fl ||| en.2)
      | none => .error subBadMap)
    | .error x, _, _ => .error x
    | _, _, _ => .error subStoreEcc) (.ok ([], 0))

end Sys2Proof.Machine
end

