-- ==== Sys2Proof/Machine/Tpe.lean ====
section
/-!
DEFINITION. TPE contexts, kettles and the course of a list step (Tensor Path Engine: Command Lists, Kettles and Collectives).
-/

namespace Sys2Proof.Machine

/-! ### The end of steps and of contexts (R340 to R342) -/

/-- Everything under way for a step ends; packets already on their way go on. -/
def endRun (s : State) (ctx : Nat) (c : Ctx) (r : TpeRun) : State :=
  let own (o : AccOwner) : Bool := match o with | .tpe n sl _ => n == ctx && sl == r.slot | _ => false
  let s1 := { s with waits := s.waits.filter (fun w => !own w.owner), reads := s.reads.filter fun x => !own x.owner }
  let gone (n sl : Nat) : Bool := n == ctx && sl == r.slot
  let s2 := { s1 with array := { s1.array with
    current := s1.array.current.filter fun x => !gone x.1 x.2, shadow := s1.array.shadow.filter fun x => !gone x.1 x.2.1 } }
  modCtx (r.out.foldl (tpeMsgEnd c.inst) s2) ctx fun x => { x with runs := x.runs.filter fun y => !(y.slot == r.slot) }

/-- The context enters ERROR: its ring is disabled, its accumulation space zero-flagged, its staged messages discarded (R341).
`dead`: the REDUCE that ended by R334, whose later packets are acknowledged and discarded. -/
def ctxError (s : State) (ctx : Nat) (dead : Option Nat) (status : BitVec 8) : State :=
  match tget s.ctxs ctx with
  | none => s
  | some c =>
    let s1 := c.runs.foldl (fun t r => endRun t ctx c r) (disableRing s .tpe ctx status)
    settleStaging (modCtx s1 ctx fun x => { x with
      state := .error, aMem := [], aZero := List.range (32 * x.aUnits), dead := dead
      inbox := (x.inbox.map fun m => { m with parts := [] }).filter fun m => m.stop != some m.got })

/-- After hand-backs: a list ring whose hand-back write failed puts its context into ERROR (R144). -/
def drainTpe (s : State) (ctx : Nat) : State :=
  let s1 := drain s .tpe ctx
  match tget s1.ctxs ctx with
  | some c => if c.ring.deadBy.isSome && c.state == .ready then ctxError s1 ctx none stAborted else s1
  | none => s1

/-- BYTES of a step that ends without a failure (R342). (DEDUCED in part: assumption 55) -/
def stepBytes (s : State) (ctx : Nat) (c : Ctx) (r : TpeRun) : Nat :=
  if opOf r.entry = 0x05 then (kettleOf s c).elim 0 fun k => k.members.length * reduceBytes r else runBytes s ctx r

/-- A step completes. -/
def finishStep (s : State) (ctx : Nat) (c : Ctx) (r : TpeRun) : State :=
  let trap := BitVec.ofNat 8 (fld r.entry 3 4 0)
  let o : Outcome := match r.fail with
    | some (st, sub) => { status := st, sub := sub, bytes := if opOf r.entry = 0x05 then 0 else runBytes s ctx r, notify := 0 }
    | none => { status := if r.flags &&& trap = 0 then stOk else stArithFlag, sub := r.flags.toNat, bytes := stepBytes s ctx c r, notify := 0 }
  let s1 := endRun (endSlot s .tpe ctx r.slot o) ctx c r
  if r.fail.isSome then
    let dead := if opOf r.entry = 0x05 && o.status == stAborted && (o.sub == subWaitExpired || o.sub == subPartialSize) then
      some (c.reduces - 1) else none
    ctxError s1 ctx dead stAborted
  else fetchRing (drainTpe s1 ctx) .tpe ctx

/-! ### Accesses of a step (R321) -/

def failStep (s : State) (ctx slot : Nat) (status : BitVec 8) (sub : Nat) : State :=
  modRun s ctx slot fun r => r.failWith status sub

/-- An access of a step has ended. -/
def dropAcc (s : State) (ctx slot part : Nat) : State :=
  modRun s ctx slot fun r => { r with accs := r.accs.filter fun a => !(a.part == part) }

/-- The bytes of a step's read have come, or the read failed. -/
def tpeData (s : State) (ctx slot part : Nat) (ps : List Piece) (b : Option Bytes) : State :=
  match b with
  | some bytes => modRun (dropAcc s ctx slot part) ctx slot fun r => { r with bufs := tput r.bufs part bytes }
  | none => let f := accessFault s stTransFault ps; failStep (dropAcc (noteXts s ps) ctx slot part) ctx slot f.1 f.2

/-- The translation of a step's access ended, or it waits. -/
def tpeAccess (s : State) (ctx slot part : Nat) (x : Xlat) : State :=
  match tget s.ctxs ctx, (runOf s ctx slot).bind fun r => r.accs.find? fun a => a.part == part with
  | some c, some a =>
    (match x with
    | .done ps =>
      if a.write then
        let w := writePieces s c.inst ps a.data
        let s1 := modRun (dropAcc w.1 ctx slot part) ctx slot fun r => { r with ports := (r.ports ++ w.2.1).dedup, written := r.written + w.2.2 }
        if w.2.2 = a.data.length then s1
        else let f := accessFault s stTransFault ps; failStep (noteXts s1 ps) ctx slot f.1 f.2
      else
        let b := beginRead s c.inst (.tpe ctx slot part) ps
        match b.2 with
        | some v => tpeData b.1 ctx slot part ps v
        | none => b.1
    | .permission => failStep (dropAcc s ctx slot part) ctx slot stTransFault 1
    | .notMapped => failStep (dropAcc s ctx slot part) ctx slot stTransFault 2
    | .timeout => failStep (dropAcc s ctx slot part) ctx slot stPageTimeout 1
    | .waits => s)
  | _, _ => s

/-- Begins an access of a step. -/
def startAcc (ctx slot : Nat) (s : State) (a : TpeAcc) : State :=
  match tget s.ctxs ctx with
  | none => s
  | some c =>
    let s1 := modRun s ctx slot fun r => { r with accs := r.accs ++ [a] }
    let r := beginAccess s1 c.inst (.tpe ctx slot a.part) (if a.write then .localWrite else .localRead) a.va a.len
    tpeAccess r.1 ctx slot a.part r.2

def readAcc (part va len : Nat) : TpeAcc := { part := part, va := va, len := len, write := false, data := [] }
def writeAcc (part va : Nat) (bs : Bytes) : TpeAcc := { part := part, va := va, len := bs.length, write := true, data := bs }

/-! ### Messages and writes a step makes -/

/-- Adds a message to what a step has to send. -/
def addMsg (ctx slot : Nat) (s : State) (m : TpeMsg) : State :=
  let f := takeFresh s
  modRun f.2 ctx slot fun r => { r with todo := r.todo ++ [{ m with id := f.1 }] }

/-- Pieces of a run of bytes with their offsets. -/
def withOffsets (step : Nat) (bs : Bytes) : List (Nat × Bytes) := (chunks step (bs.length / step + 1) bs).mapIdx fun i c => (i * step, c)

/-- Ranks a step addresses: RANK_FIRST and the following (Table 14-4). -/
def ranksOf (e : Entry) : List Nat := (List.range (fld e 22 12 0)).map fun i => fld e 20 11 0 + i

/-- The shares of SEND_PARTIAL (R325): to each rank its bytes, to this member's own rank locally. -/
def makeShares (s : State) (ctx : Nat) (c : Ctx) (r : TpeRun) (k : Kettle) : State :=
  let e := r.entry
  let stride := fld e 24 31 0
  let n := elemsIn (fmtB e) (fld e 16 31 0)
  let share (j : Nat) : Option (Bytes × Flags) :=
    if isAlt e then (accWords c (fld e 4 31 0 + j * stride) n).map fun ws => encodeFmt (fmtB e) (ws.map fp)
    else some ((tget r.bufs (if stride = 0 then 0 else j)).getD [], 0)
  (List.range (fld e 22 12 0)).foldl (fun t j =>
    let rank := fld e 20 11 0 + j
    match share j, k.members[rank]? with
    | some (bs, fl), some (qpn, dst) =>
      let t1 := modRun t ctx r.slot fun x => { x with flags := x.flags ||| fl }
      if rank = k.myRank then
        modRun t1 ctx r.slot fun x => { x with own := withOffsets (if isCells e then 48 else 8192) bs }
      else addMsg ctx r.slot t1
        { id := 0, qpn := qpn, rank := rank, kind := 0, addr := dst, data := bs, note := 0, off := 0, len := bs.length, form := isCells e }
    | none, _ => failStep t ctx r.slot stAborted subStoreEcc
    | _, none => t) s

/-- The output of STORE: a local write, or one WRITE_NOTIFY to each rank. -/
def makeStore (s : State) (ctx : Nat) (c : Ctx) (r : TpeRun) : State :=
  let e := r.entry
  let dst := fld e 8 56 0
  match accWords c (fld e 4 31 0) (fld e 16 31 0) with
  | none => failStep s ctx r.slot stAborted subStoreEcc
  | some ws =>
    let en := encodeFmt (fmtB e) (ws.map fp)
    let s1 := modRun s ctx r.slot fun x => { x with flags := x.flags ||| en.2 }
    if !isAlt e then startAcc ctx r.slot s1 (writeAcc 0 dst en.1)
    else match kettleOf s c with
      | none => s1
      | some k => (ranksOf e).foldl (fun t rank => match k.members[rank]? with
          | none => t
          | some (qpn, _) =>
            if rank = k.myRank then startAcc ctx r.slot t (writeAcc 0 dst en.1)
            else addMsg ctx r.slot t
              { id := 0, qpn := qpn, rank := rank, kind := 1, addr := dst, data := en.1, note := BitVec.ofNat 32 (fld e 24 31 0)
                off := 0, len := en.1.length, form := isCells e }) s1

/-- The copies of DISPATCH, packed for each rank (R338). (DESIGN CHOICE in part: assumption 117) -/
def makeDispatch (s : State) (ctx : Nat) (c : Ctx) (r : TpeRun) (k : Kettle) : State :=
  let e := r.entry
  let mapBytes := (tget r.bufs 0).getD []
  let dests := (tget r.bufs 1).getD []
  let m := k.members.length
  match dispatchCopies c e m k.myRank ((List.range (fld e 18 15 0)).map fun i => leNat (slice mapBytes (2 * i) 2)) with
  | .error sub => failStep s ctx r.slot stAborted sub
  | .ok (copies, fl) =>
    let s1 := modRun s ctx r.slot fun x => { x with flags := x.flags ||| fl }
    (List.range m).foldl (fun t rank =>
      let mine := copies.filter fun y => y.1 == rank
      let bs := mine.flatMap (·.2)
      let dst := leNat (slice dests (8 * rank) 8)
      if rank = k.myRank then (if bs.isEmpty then t else startAcc ctx r.slot t (writeAcc 2 dst bs))
      else if !bs.isEmpty && decide (2 ^ 57 < dst + bs.length) then failStep t ctx r.slot stTransFault 2
      else match k.members[rank]? with
        | none => t
        | some (qpn, _) => addMsg ctx r.slot t
          { id := 0, qpn := qpn, rank := rank, kind := 1, addr := dst, data := bs
            note := BitVec.ofNat 32 (mine.length % 65536 + k.myRank * 65536), off := 0, len := bs.length, form := isCells e }) s1

/-- The output of STREAM (R339). -/
def makeStream (s : State) (ctx : Nat) (r : TpeRun) : State :=
  let e := r.entry
  let raw := r.bufs.flatMap fun b => b.2
  let n := elemsIn (fmtA e) (fld e 16 31 0)
  let de := decodeFmt (fmtA e) n raw
  let en := encodeFmt (fmtB e) de.1
  let out := if fmtA e = fmtB e then raw else en.1
  let fl := if fmtA e = fmtB e then 0 else de.2 ||| en.2
  let s1 := modRun s ctx r.slot fun x => { x with flags := x.flags ||| fl }
  if isAlt e then modCtx s1 ctx fun c => wtWrite c (fld e 24 63 0) out
  else startAcc ctx r.slot s1 (writeAcc 0 (fld e 24 56 0) out)

/-- What a step makes of its inputs once it has them. -/
def makeStep (s : State) (ctx : Nat) (c : Ctx) (r : TpeRun) : State :=
  let s1 := modRun s ctx r.slot fun x => { x with made := true }
  match opOf r.entry, kettleOf s c with
  | 0x02, _ => modCtx s1 ctx fun x => wtWrite x (fld r.entry 20 31 0) ((tget r.bufs 0).getD [])
  | 0x03, _ => makeStream s1 ctx r
  | 0x04, some k => makeShares s1 ctx c r k
  | 0x09, some k => makeDispatch s1 ctx c r k
  | 0x0A, _ => makeStore s1 ctx c r
  | _, _ => s1

/-- Carries a step on: from its inputs to its output, and from its output to the flushing reads that make it visible. -/
def tpeAdvance (s : State) (ctx slot : Nat) : State :=
  match tget s.ctxs ctx, runOf s ctx slot with
  | some c, some r =>
    let s1 := if !r.made && r.fail.isNone && r.accs.isEmpty && (opOf r.entry != 0x03 || (r.todo.isEmpty && r.out.isEmpty)) then
      makeStep s ctx c r else s
    match runOf s1 ctx slot with
    | some q =>
      if q.made && q.accs.isEmpty && !q.ports.isEmpty then
        let f := issueFlushes s1 (gatePorts s1 c.ring q.ports) c.inst (.tpe ctx slot)
        modRun f.2 ctx slot fun x => { x with ports := [], flushes := x.flushes ++ f.1 }
      else s1
    | none => s1
  | _, _ => s

/-- Nothing of a step is left to do. -/
def stepDone (s : State) (c : Ctx) (r : TpeRun) : Bool :=
  r.made && r.accs.isEmpty && r.todo.isEmpty && r.out.isEmpty && r.own.isEmpty && r.ports.isEmpty && r.flushes.isEmpty &&
    match opOf r.entry with
    | 0x05 => r.added == stepBytes s 0 c r
    | 0x06 => r.tile == gemmTiles r.entry
    | _ => true

/-! ### TPE_STEP_START (R320, R321, R330) -/

/-- The step may start now. -/
def tpeMayStart (s : State) (c : Ctx) (t : Taken) : Bool :=
  let spans (e : Entry) : List Span := stepSpans e (kettleOf s c)
  serving s && s.pm.state != 2 && !instStopped s c.inst && c.state == .ready && c.ring.state == .enabled &&
    (match c.runs.getLast? with | some r => isAsync r.entry | none => true) &&
    !c.runs.any fun r => spansMeet (spans t.entry) (spans r.entry)

/-- The step needs a kettle. -/
def needsKettle (e : Entry) : Bool := opOf e == 0x04 || opOf e == 0x05 || opOf e == 0x09 || (opOf e == 0x0A && isAlt e)

/-- The queue pairs a step sends on. -/
def stepQpns (e : Entry) (k : Option Kettle) : List Nat :=
  let of (ranks : List Nat) : List Nat := match k with
    | some k => (ranks.filter fun r => r != k.myRank).filterMap fun r => (k.members[r]?).map (·.1)
    | none => []
  match opOf e with
  | 0x03 => [fld e 4 19 0]
  | 0x04 => of (ranksOf e)
  | 0x09 => of (List.range (k.elim 0 fun k => k.members.length))
  | 0x0A => if isAlt e then of (ranksOf e) else []
  | _ => []

/-- The failure with which a step starts (R321, R340). (DEDUCED in part: assumption 96) -/
def startFailure (s : State) (c : Ctx) (e : Entry) : Option (BitVec 8 × Nat) :=
  let k := kettleOf s c
  let members := k.elim 0 fun k => k.members.length
  let ranked := opOf e == 0x04 || (opOf e == 0x0A && isAlt e)
  let notReady (n : Nat) : Bool := !(tget s.qps n).any fun q => q.inst == c.inst && q.state == .ready
  if (stepSpans e k).any (beyondSpace c) then some (stAborted, subSpaceRange)
  else if (needsKettle e && k.isNone) || (ranked && decide (members < fld e 20 11 0 + fld e 22 12 0)) then some (stAborted, subBadMap)
  else if (stepQpns e k).any notReady then some (stAborted, subQpError)
  else none

/-- A REDUCE takes its matched staged messages (R330, R333, R334). -/
def reduceStart (c : Ctx) (r : TpeRun) : Ctx :=
  let n := reduceBytes r
  let mine := c.inbox.filter fun m => m.num + 1 == c.reduces
  if mine.any fun m => m.parts.any fun p => p.2.2 != r.epoch then putRun c (r.failWith stKettleEpoch 0)
  else if mine.any fun m => (m.parts.any fun p => decide (n < p.1 + p.2.1.length)) || m.stop.any fun k => decide (k < n) then
    putRun c (r.failWith stAborted subPartialSize)
  else reduceAll c r (List.range (n / reduceUnit r))

/-- The READs of a STREAM (R339): up to 1 MiB each, in address order. -/
def streamReads (e : Entry) : List TpeMsg :=
  let n := fld e 16 31 0
  (List.range ((n + 1048575) / 1048576)).map fun i =>
    let off := i * 1048576
    { id := 0, qpn := fld e 4 19 0, rank := 0, kind := 2, addr := (fld e 8 56 0 + off) % 2 ^ 57, data := [], note := 0, off := off
      len := min 1048576 (n - off), form := isCells e }

/-- The buffer a step starts from zero (R312, R330). -/
def startZero (e : Entry) (c : Ctx) : Ctx :=
  match opOf e with
  | 0x01 => accZero c (fld e 4 31 0) (fld e 8 31 0)
  | 0x05 => accZero c (fld e 4 31 0) (reduceRange e)
  | 0x06 => if isClear e then accZero c (fld e 8 31 0) (1024 * fld e 16 15 0 * fld e 20 15 0) else c
  | 0x07 => if isClear e then accZero c (fld e 20 31 0) (vecOut e) else c
  | _ => c

/-- The first work of a step that starts. -/
def stepBegin (s : State) (ctx : Nat) (r : TpeRun) : State :=
  let e := r.entry
  let read (t : State) (part va len : Nat) : State := startAcc ctx r.slot t (readAcc part va len)
  match opOf e with
  | 0x02 => read s 0 (fld e 8 56 0) (fld e 16 31 0)
  | 0x03 => (streamReads e).foldl (addMsg ctx r.slot) s
  | 0x04 =>
    if isAlt e then s
    else (List.range (if fld e 24 31 0 = 0 then 1 else fld e 22 12 0)).foldl
      (fun t j => read t j (fld e 8 56 0 + j * fld e 24 31 0) (fld e 16 31 0)) s
  | 0x05 => settleStaging (modCtx s ctx fun c => reduceStart c r)
  | 0x09 => read (read s 0 (fld e 24 56 0) (2 * fld e 18 15 0)) 1 (fld e 32 56 0)
      (8 * ((tget s.ctxs ctx).bind (kettleOf s)).elim 0 fun k => k.members.length)
  | _ => s

/-- The step as it starts. -/
def newRun (s : State) (c : Ctx) (t : Taken) : TpeRun :=
  { slot := t.slot, entry := t.entry, started := s.now, epoch := (kettleOf s c).elim 0 (·.epoch), flags := 0
    qpns := stepQpns t.entry (kettleOf s c), accs := [], bufs := [], made := false, todo := [], out := [], own := [], ports := []
    flushes := [], tile := 0, row := 0, turn := [], added := 0, written := 0, fail := startFailure s c t.entry }

/-- TPE_STEP_START. `m`: what its accesses meet as it starts; `words`: the store words in error that are met after the step's buffer has
been zero-flagged. -/
def execTpeStepStart (ctx : Nat) (words : List StoreWord) (m : Meets) (s : State) : Result :=
  match tget s.ctxs ctx with
  | none => .next s
  | some c =>
    match nextStart c.ring with
    | none => .next s
    | some t =>
      if !tpeMayStart s c t then .next s
      else if !stepLegal s.a1 t.entry then
        .next (ctxError (endSlot s .tpe ctx t.slot { status := stMalformed, sub := 0, bytes := 0, notify := 0 }) ctx none stAborted)
      else
        let r := newRun s c t
        let begin_ (u : State) : State :=
          let s1 := modCtx (markStarted u .tpe ctx t.slot) ctx fun x =>
            { x with runs := x.runs ++ [r], reduces := if opOf t.entry = 0x05 then x.reduces + 1 else x.reduces }
          if r.fail.isSome then s1
          else tpeAdvance (stepBegin (words.foldl foundWord (modCtx s1 ctx (startZero t.entry))) ctx r) ctx t.slot
        .next (tpeSettle (underMeets m s begin_))

/-! ### TILE_LOAD_DONE, ARRAY_STEP, TPE_STEP_COMPLETE, REDUCE_WAIT_EXPIRE -/

/-- The GEMM under way. (DEDUCED in part: assumption 54) -/
def gemmOf (c : Ctx) : Option TpeRun := c.runs.find? fun r => opOf r.entry == 0x06 && r.fail.isNone

/-- A context's GEMM that has work for the array. -/
def arrayWork (s : State) (ctx : Nat) : Option (Ctx × TpeRun) :=
  (tget s.ctxs ctx).bind fun c => if c.state == .ready then (gemmOf c).map fun r => (c, r) else none

/-- The tile of a context that is to be loaded next: the one after the tile in use, or the one its step has come to. -/
def nextTile (s : State) (ctx : Nat) : Option (Nat × Nat) :=
  match arrayWork s ctx with
  | none => none
  | some (_, r) =>
    let t := if s.array.current = some (ctx, r.slot) then r.tile + 1 else r.tile
    if t < gemmTiles r.entry then some (r.slot, t) else none

/-- The context whose tile the shadow takes: the next in turn after the one loaded last (R294, R297). (DEDUCED in part: assumption 113) -/
def loadTurn (s : State) : Option Nat :=
  let all := s.ctxs.map (·.1)
  (all.filter (fun n => decide (s.array.last < n)) ++ all.filter fun n => decide (n ≤ s.array.last)).find? fun n => (nextTile s n).isSome

/-- The step is at a boundary of its tile: the array may change its context here, at the latest after 4,096 steps (R294). -/
def atBoundary (r : TpeRun) : Bool := r.row / rowsPerStep r.entry % 4096 == 0

/-- The context whose array step is next: that of the tile in use, but at a boundary a tile of another context in the shadow goes first. -/
def arrayTurn (s : State) : Option Nat :=
  let waiting := s.array.shadow.map (·.1)
  match s.array.current with
  | none => waiting
  | some (a, slot) => match runOf s a slot with
    | none => waiting
    | some r => if atBoundary r && waiting.any (· != a) then waiting else some a

/-- TILE_LOAD_DONE (R297): the tile in the shadow becomes usable. -/
def execTileLoadDone (ctx : Nat) (s : State) : Result :=
  match nextTile s ctx with
  | none => .next s
  | some (slot, tile) =>
    .next (if serving s && s.array.shadow.isNone && loadTurn s == some ctx then
      { s with array := { s.array with shadow := some (ctx, slot, tile), last := ctx } } else s)

/-- The tile a context steps with is the current one: the shadow's, where the array turns to it. -/
def takeTile (s : State) (ctx slot : Nat) : State :=
  if s.array.current = some (ctx, slot) then s else { s with array := { s.array with current := some (ctx, slot), shadow := none } }

/-- One step of the array for a context; at the end of its tile the array is free. -/
def stepArray (s : State) (ctx : Nat) : State :=
  match arrayWork s ctx with
  | none => s
  | some (c, r) =>
    let a := arrayStep c r
    let s1 := modCtx (takeTile s ctx r.slot) ctx fun _ => putRun a.1 a.2
    if a.2.row = 0 || a.2.fail.isSome then { s1 with array := { s1.array with current := none } } else s1

/-- ARRAY_STEP (R294, R296, R336). -/
def execArrayStep (a : ArrayAccess) (s : State) : Result :=
  .next (if serving s && arrayTurn s == some a.ctx then underMeets a.meets s fun t => stepArray t a.ctx else s)

/-- TPE_STEP_COMPLETE: what the step can still do is done, and it completes where nothing is left. -/
def execTpeStepComplete (ctx slot : Nat) (m : Meets) (s : State) : Result :=
  match tget s.ctxs ctx with
  | none => .next s
  | some c0 =>
    if !serving s || c0.state != .ready then .next s
    else
      let s3 := underMeets m s fun u => pumpCtx (tpeAdvance (pumpCtx u ctx) ctx slot) ctx
      match tget s3.ctxs ctx, runOf s3 ctx slot with
      | some c, some r =>
        if r.fail.isSome then .next (tpeSettle (finishStep s3 ctx c r))
        else if !stepDone s3 c r then .next (tpeSettle s3)
        else
          let a := stepCompute c r
          let s4 := modCtx s3 ctx fun _ => putRun a.1 a.2
          .next (tpeSettle (finishStep s4 ctx (putRun a.1 a.2) a.2))
      | _, _ => .next s3

/-- REDUCE_WAIT_EXPIRE (R334). -/
def execReduceWaitExpire (ctx : Nat) (s : State) : Result :=
  match (tget s.ctxs ctx).bind fun c => (reduceOf c).map fun r => (c, r) with
  | none => .next s
  | some (c, r) =>
    .next (if serving s && c.state == .ready && decide (r.started + fld r.entry 20 15 0 * 1000000 ≤ s.now) && !stepDone s c r then
      tpeSettle (finishStep s ctx c (r.failWith stAborted subWaitExpired)) else s)

/-! ### Context commands (R316, R317) -/

/-- Store units in use device-wide. -/
def wUnitsUsed (s : State) : Nat := (s.ctxs.map fun r => r.2.wUnits).sum
def aUnitsUsed (s : State) : Nat := (s.ctxs.map fun r => r.2.aUnits).sum

/-- A sum over the contexts of an instance. -/
def ctxSum (s : State) (i : Nat) (f : Ctx → Nat) : Nat := ((s.ctxs.filter fun r => r.2.inst == i).map fun r => f r.2).sum

/-- TPE_CTX_CREATE. -/
def execTpeCtxCreate (slot : Nat) (s : State) : Result :=
  .next (startAdmin s slot 0x0400 fun c t =>
    let e := c.entry
    let i := cmdInst c
    let n := fld e 8 7 0
    let ket := if bit e 10 0 then some (fld e 9 7 0) else none
    let w := fld e 12 8 0
    let a := fld e 14 8 0
    let stage := fld e 32 36 0
    let q := quotaOf t i
    let place := if stage = 0 then some 0 else anyPlace t stage
    let r := match instRefusalFrozen t i with
      | some r => some r
      | none => match firstRefusal [(decide (q.ctxs ≤ ctxSum t i fun _ => 1) || decide (q.wUnits < ctxSum t i (·.wUnits) + w)
            || decide (q.aUnits < ctxSum t i (·.aUnits) + a) || decide (q.poolBytes < poolUse t i + stage), stQuota, rsNone),
          ((tget t.ctxs n).isSome, stAborted, rsExists),
          (ket.any fun k => !(tget t.kettles k).any fun x => x.inst == i, stAborted, rsNoObject),
          (decide (256 < wUnitsUsed t + w) || decide (256 < aUnitsUsed t + a), stAborted, 0x0E01),
          (place.isNone, stAborted, 0x0C01)] with
        | some r => some r
        | none => blockRefusal t i e 16
    settle t slot r fun t =>
      let f := takeFresh (takeFresh t).2
      let x : Ctx :=
        { inst := i, state := .ready, prev := .ready, ring := blockRing e 16, kettle := ket, wUnits := w, aUnits := a, wMem := []
          aMem := [], aZero := [], wBad := [], aBad := [], stageBase := place.getD 0, stageBytes := stage, runs := [], inbox := [], count := []
          reduces := 0, dead := none }
      complete (enableRing { f.2 with ctxs := tput f.2.ctxs n x } .tpe n) slot)

/-- A context ceases to exist, its ring disabled with `status`. -/
def dropCtx (s : State) (n : Nat) : State := { s with ctxs := tdel s.ctxs n }

/-- TPE_CTX_DESTROY: an ENABLED ring is disabled first; the command waits for hand-backs that cannot be written yet. -/
def execTpeCtxDestroy (slot : Nat) (s : State) : Result :=
  .next (startAdmin s slot 0x0401 fun c t =>
    let i := cmdInst c
    let n := fld c.entry 8 7 0
    let r := match instRefusal t i with
      | some r => some r
      | none =>
        if !(tget t.ctxs n).any (·.inst == i) then some (stAborted, rsNoObject)
        else if instFrozen t i then some (stFrozen, rsNone) else none
    settle t slot r fun t =>
      let t1 := match tget t.ctxs n with
        | some x => if x.state == .ready then ctxError t n none stAborted else t
        | none => t
      if (tget t1.ctxs n).any fun x => !x.ring.taken.isEmpty then holdCmd t1 slot else complete (dropCtx t1 n) slot)

/-! ### Kettle commands (R322 to R324) -/

/-- The member table: QPN, CTX and the reserved bits of each entry. -/
def memberTable (n : Nat) (b : Bytes) : List (Nat × Nat × Nat) :=
  (List.range n).map fun i => (leField b (4 * i) 4 19 0, leField b (4 * i) 4 27 20, leField b (4 * i) 4 31 28)

/-- The refusals that the QPNs of a table meet, in their order. -/
def memberRefusal (s : State) (i myRank : Nat) (ms : List (Nat × Nat × Nat)) : Option (BitVec 8 × Nat) :=
  let qpns := (ms.mapIdx fun r m => (r, m.1)).filterMap fun x => if x.1 = myRank then none else some x.2
  firstRefusal [(qpns.any fun n => !(tget s.qps n).any fun q => q.inst == i, stAborted, rsNoObject),
    (decide (qpns.dedup.length < qpns.length), stAborted, 0x0E03),
    (qpns.any fun n => (tget s.qps n).any fun q => decide (16 ≤ q.kettles.length), stAborted, 0x0E04)]

/-- KETTLE_CREATE on the member table read from TABLE. -/
def execKettleCreate (slot : Nat) (table : Option Bytes) (s : State) : Result :=
  .next (startAdmin s slot 0x0410 fun c t =>
    let e := c.entry
    let i := cmdInst c
    let n := fld e 8 7 0
    let mine := fld e 12 11 0
    let r := match instRefusalFrozen t i with
      | some r => some r
      | none => firstRefusal [(decide ((quotaOf t i).kettles ≤ tcount t.kettles (·.inst == i)), stQuota, rsNone),
          ((tget t.kettles n).isSome, stAborted, rsExists)]
    settle t slot r fun t => match table with
      | none => refuse t slot stAborted rsHostRead
      | some b =>
        let ms := memberTable (fld e 10 12 0) b
        if !(ms.mapIdx fun r m => (r, m)).all fun x => x.2.2.2 == 0 && (x.1 != mine || (x.2.1 == 0 && x.2.2.1 == 0)) then
          refuse t slot stMalformed rsNone
        else settle t slot (memberRefusal t i mine ms) fun t =>
          let k : Kettle := { inst := i, members := ms.map fun m => (m.1, m.2.1), myRank := mine, epoch := fld e 14 15 0
                              tag := BitVec.ofNat 32 (fld e 16 31 0) }
          let named := (ms.mapIdx fun r m => (r, m.1)).filterMap fun x => if x.1 = mine then none else some x.2
          complete (named.foldl (fun u q => modQp u q fun x => { x with kettles := x.kettles ++ [n] })
            { t with kettles := tput t.kettles n k }) slot)

/-- The refusal of a command on an existing kettle. -/
def kettleRefusal (s : State) (i n : Nat) : Option (BitVec 8 × Nat) :=
  match instRefusal s i with
  | some r => some r
  | none =>
    if !(tget s.kettles n).any (·.inst == i) then some (stAborted, rsNoObject)
    else if instFrozen s i then some (stFrozen, rsNone) else none

/-- The new epoch of a kettle at one of its contexts: a REDUCE in progress ends, staged messages of other epochs go.
(DEDUCED in part: assumption 97) -/
def epochAtCtx (epoch : Nat) (s : State) (ctx : Nat) : State :=
  match tget s.ctxs ctx with
  | none => s
  | some c =>
    match (if c.state == .ready then reduceOf c else none) with
    | some r => finishStep s ctx c { r with fail := some (stKettleEpoch, 0) }
    | none => modCtx s ctx fun x => { x with
        inbox := (x.inbox.map fun m => { m with parts := m.parts.filter fun p => p.2.2 == epoch }).filter
          fun m => !m.parts.isEmpty || m.stop != some m.got }

/-- KETTLE_EPOCH_SET. -/
def execKettleEpochSet (slot : Nat) (s : State) : Result :=
  .next (startAdmin s slot 0x0411 fun c t =>
    let n := fld c.entry 8 7 0
    let epoch := fld c.entry 14 15 0
    settle t slot (kettleRefusal t (cmdInst c) n) fun t =>
      let t1 := { t with kettles := tmod t.kettles n fun k => { k with epoch := epoch } }
      let bound := (t1.ctxs.filter fun r => r.2.kettle == some n).map (·.1)
      complete (tpeSettle (bound.foldl (epochAtCtx epoch) t1)) slot)

/-- A kettle ceases to exist. -/
def dropKettle (s : State) (n : Nat) : State :=
  { s with kettles := tdel s.kettles n
           qps := s.qps.map fun r => (r.1, { r.2 with kettles := r.2.kettles.filter fun x => !(x == n) }) }

/-- KETTLE_DESTROY. -/
def execKettleDestroy (slot : Nat) (s : State) : Result :=
  .next (startAdmin s slot 0x0412 fun c t =>
    let n := fld c.entry 8 7 0
    let r := match kettleRefusal t (cmdInst c) n with
      | some r => some r
      | none => firstRefusal [(t.ctxs.any fun x => x.2.kettle == some n, stAborted, rsBadState)]
    settle t slot r fun t => complete (dropKettle t n) slot)

end Sys2Proof.Machine
end

