-- ==== Sys2Proof/Machine/Instances.lean ====
section
/-!
DEFINITION. Instances and their quotas (Instances, Quotas and Migration, 16.1 to 16.7): creation, quotas, reset, destroy,
freeze and thaw, the end of a zeroing, and forwarding records.
-/

namespace Sys2Proof.Machine

/-! ### Rings of an instance -/

/-- Hands back what is ready; a failed hand-back write puts the owner into its error state. -/
def settleRing (s : State) (k : RingKind) (id : Nat) : State :=
  match k with
  | .sq | .rq => drainQp s k id
  | .tpe => drainTpe s id
  | .lookaside => drainLa s id

/-- Every ring of the device: kind and number. -/
def allRings (s : State) : List (RingKind × Nat) :=
  s.qps.flatMap (fun r => [(.sq, r.1), (.rq, r.1)]) ++ s.ctxs.map (fun r => (.tpe, r.1)) ++ s.insts.map fun r => (.lookaside, r.1)

/-- The rings of an instance in which a Recall or a held RECALL_FIRST stood still go on. -/
def thawRecalls (s : State) (i : Nat) : State :=
  let mine := (allRings s).filter fun r => ringInst s r.1 r.2 == i
  let s1 := match recallTarget s i with
    | some (k, id) => settleRing (recallThaw s i) k id
    | none => modPage s i fun p => if p.waits.isSome then { p with busy := false, waits := none } else p
  mine.foldl (fun t r => settleRing (recallGo t r.1 r.2) r.1 r.2) s1

/-! ### The state of an instance (R382, R409) -/

def instCode : InstState → Nat
  | .active => 1
  | .frozen => 2
  | .resetting => 3

/-- INSTANCE_STATE (Table 16-9). (DEDUCED in part: assumption 62) -/
def postInst (s : State) (i state cause noRecord : Nat) : State :=
  post s 0x0080 (evData [(16, 2, i), (18, 1, state), (19, 1, cause), (20, 4, min (2 ^ 32 - 1) noRecord)])

/-- Moves an instance to a state and posts it. -/
def moveInst (s : State) (i : Nat) (st : InstState) (cause noRecord : Nat) : State :=
  postInst (modInst s i fun x => { x with state := st }) i (instCode st) cause noRecord

def instState (s : State) (i : Nat) : Option InstState := (tget s.insts i).map (·.state)

/-! ### The vector table (R375) -/

/-- The 64 entries of a vector table. -/
def vecEntries (b : Bytes) : List VecEntry :=
  (List.range 64).map fun n =>
    { addr := BitVec.ofNat 64 (leField b (16 * n) 8 63 0), data := BitVec.ofNat 32 (leField b (16 * n + 8) 4 31 0)
      masked := leField b (16 * n + 12) 4 0 0 == 1, pend := false }

/-- A reload: a pending vector that it unmasks sends one message. -/
def reloadVecs (s : State) (i : Nat) (new : List VecEntry) : State :=
  match tget s.insts i with
  | none => s
  | some x =>
    let pend (n : Nat) : Bool := (x.vecs[n]?).any (·.pend)
    let s1 := modInst s i fun x => { x with vecs := new.mapIdx fun n e => { e with pend := pend n && e.masked } }
    (new.mapIdx fun n e => (n, e)).foldl (fun t r =>
      if pend r.1 && !r.2.masked && !x.mute then emit t (.memWrite pfHost r.2.addr.toNat (leBytes 4 r.2.data.toNat)) else t) s1

/-! ### INSTANCE_CREATE (R374 to R378, R382) -/

/-- The refusals of CREATE and RESTORE that need no read (Table 16-3). -/
def bindRefusal (s : State) (i : Nat) (e : Entry) : Option (BitVec 8 × Nat) :=
  let slice := bit e 8 0
  let vf := fld e 10 10 0
  let pasid := fld e 12 19 0
  let ap := fld e 8 3 1
  match tget s.insts i with
  | some x => if x.state == .resetting then some (stAborted, rsBadState) else some (stAborted, rsExists)
  | none =>
    firstRefusal [((!slice && (!s.vfEnable || decide (s.numVfs < vf))) || (ap != 0 && !aportInService s (ap - 1)), stAborted, rsUnitOut),
      (s.insts.any fun r => if slice then !r.2.fn && r.2.pasid == pasid else r.2.fn && r.2.vf == vf, stAborted, 0x1001)]

def noQuota : Quota :=
  { poolBytes := 0, qps := 0, cqs := 0, messages := 0, saSlots := 0, poolSlots := 0, laSlots := 0, ctxs := 0, wUnits := 0
    aUnits := 0, kettles := 0 }

/-- The 64 KiB pages of the bus that the aperture of an A port (0 to 3) takes, the first and the one after the last; aligned to its size, in
the lower half of the address space. -/
def aperturePages (s : State) (n : Nat) : Nat × Nat :=
  let size := apertureSize s n / 65536
  let base := size * (Config.apertureBus n % (2 ^ 47 / max 1 size))
  (base, base + size)

/-- Pages of the bus that no instance page may take: the apertures, and the instance pages there are (R376). -/
def pagesTaken (s : State) : List (Nat × Nat) :=
  (List.range 4).map (aperturePages s)
    ++ (s.insts.filter fun r => r.2.apage != 0).map fun r => (r.2.apageBus.toNat / 65536, r.2.apageBus.toNat / 65536 + 1)

/-- The first page from `p` on that lies in none of the ranges. -/
def freePage : Nat → List (Nat × Nat) → Nat → Nat
  | 0, _, p => p
  | fuel + 1, l, p =>
    match l.find? fun r => decide (r.1 ≤ p) && decide (p < r.2) with
    | some r => freePage fuel l r.2
    | none => p

/-- The bus address of an instance page on an A port, which overlaps no aperture and no other page; 0 without one. (DESIGN CHOICE in part:
assumption 13) -/
def apageBusOf (s : State) (port : Nat) : BitVec 64 :=
  if port = 0 then 0
  else BitVec.ofNat 64 (65536 * freePage ((pagesTaken s).length + 1) (pagesTaken s) (Config.apageBus s.fresh % 2 ^ 46))

/-- An instance bound as an entry says, its lookaside queue `la`. -/
def bindInst (s : State) (e : Entry) (la : Ring) (vecs : List VecEntry) (st : InstState) : Inst :=
  let slice := bit e 8 0
  { la := la, laRun := none, state := st, fn := !slice, vf := fld e 10 10 0, pasid := fld e 12 19 0, apage := fld e 8 3 1
    apageBus := apageBusOf s (fld e 8 3 1), vecTable := BitVec.ofNat 64 (fld e 32 63 10 * 1024), vecs := vecs, quota := noQuota
    messages := 0, freezing := none, frozenAt := s.now, why := none, mute := false, noRecord := 0, drains := []
    mbx := Channel.reset, relayCh := 0, mbxVec := 0 }

/-- The result of CREATE and RESTORE. -/
def apageResult (s : State) (i : Nat) (e : Entry) : Entry :=
  putFld e 40 63 0 (match tget s.insts i with | some x => x.apageBus.toNat | none => 0)

/-- INSTANCE_CREATE: `vec` is what the read of a PASID slice's vector table returns. -/
def execInstanceCreate (slot : Nat) (vec : Option Bytes) (s : State) : Result :=
  .next (startAdmin s slot 0x0100 fun c t =>
    let e := c.entry
    let i := cmdInst c
    let slice := bit e 8 0
    let r := match bindRefusal t i e with
      | some r => some r
      | none => match locRefusal t (fld e 25 2 0) (fld e 16 63 12 * 4096) (64 * 2 ^ fld e 24 4 0) with
        | some r => some r
        | none => if slice && vec.isNone then some (stAborted, rsHostRead) else none
    settle t slot r fun t =>
      let x := bindInst t e (blockRing e 16) (if slice then vecEntries (vec.getD []) else []) .active
      let t1 := { (takeFresh t).2 with insts := tput t.insts i x, pages := tput t.pages i Page.reset }
      let t2 := enableRing t1 .lookaside i
      completeWith (postInst t2 i 1 0 0) slot (apageResult t2 i))

/-! ### INSTANCE_QUOTA_SET (R379, R380) -/

/-- The fields of Table 16-4. -/
def quotaOfEntry (e : Entry) : Quota :=
  { poolBytes := fld e 16 36 0, qps := fld e 24 20 0, cqs := fld e 28 18 0, messages := fld e 32 18 0, saSlots := fld e 36 14 0
    poolSlots := fld e 38 12 0, laSlots := fld e 40 14 0, ctxs := fld e 42 8 0, wUnits := fld e 44 8 0, aUnits := fld e 46 8 0
    kettles := fld e 48 8 0 }

/-- The present use of every quota. -/
def quotaUse (s : State) (i : Nat) : Quota :=
  { poolBytes := poolUse s i, qps := tcount s.qps (·.inst == i), cqs := tcount s.cqs (·.inst == i)
    messages := (match tget s.insts i with | some x => x.messages | none => 0)
    saSlots := slotUse s i 0, poolSlots := slotUse s i 1, laSlots := slotUse s i 2, ctxs := tcount s.ctxs (·.inst == i)
    wUnits := ctxSum s i (·.wUnits), aUnits := ctxSum s i (·.aUnits), kettles := tcount s.kettles (·.inst == i) }

/-- Writes the fields of Table 16-4. -/
def putQuota (q : Quota) (e : Entry) : Entry :=
  let fs : List (Nat × Nat × Nat) :=
    [(16, 36, q.poolBytes), (24, 20, q.qps), (28, 18, q.cqs), (32, 18, q.messages), (36, 14, q.saSlots), (38, 12, q.poolSlots),
      (40, 14, q.laSlots), (42, 8, q.ctxs), (44, 8, q.wUnits), (46, 8, q.aUnits), (48, 8, q.kettles)]
  fs.foldl (fun x f => putFld x f.1 f.2.1 0 f.2.2) e

/-- The key slots a quota allows. -/
def Quota.slots (q : Quota) : Nat := q.saSlots + q.poolSlots + q.laSlots

/-- The sum over all instances, instance `i` counted with `q`. -/
def slotsAllowed (s : State) (i : Nat) (q : Quota) : Nat :=
  ((s.insts.filter fun r => !(r.1 == i)).map fun r => r.2.quota.slots).sum + q.slots

/-- INSTANCE_QUOTA_SET: `vec` is what the read of the vector table returns where VEC_RELOAD asks for it. (DEDUCED in part: assumption 64) -/
def execInstanceQuotaSet (slot : Nat) (vec : Option Bytes) (s : State) : Result :=
  .next (startAdmin s slot 0x0101 fun c t =>
    let e := c.entry
    let i := cmdInst c
    settle t slot (instRefusal t i) fun t =>
      if bit e 8 0 then completeWith t slot (putQuota (quotaUse t i))
      else
        let q := quotaOfEntry e
        let reload := bit e 8 1 && (tget t.insts i).any fun x => !x.fn
        settle t slot (firstRefusal [(decide (16384 < slotsAllowed t i q), stAborted, 0x1002), (reload && vec.isNone, stAborted, rsHostRead)])
          fun t =>
            let t1 := modInst t i fun x => { x with quota := q }
            complete (if reload then reloadVecs t1 i (vecEntries (vec.getD [])) else t1) slot)

/-! ### Instance reset (R384, R385) -/

/-- The queue pair leaves for RESET with INSTANCE_RESET (Table 7-3). -/
def resetQp (s : State) (qpn : Nat) : State :=
  match tget s.qps qpn with
  | none => s
  | some q => if q.state == .reset then s else qpReset (endHandshake s qpn stAborted rsBadState) qpn stInstanceReset

/-- The context enters ERROR with its units zeroed (Table 14-2). -/
def resetCtx (s : State) (n : Nat) : State :=
  modCtx (ctxError s n none stInstanceReset) n fun c => { c with wMem := [], wBad := [], aMem := [], aZero := [], aBad := [] }

/-- The lookaside queue is disabled with INSTANCE_RESET. -/
def resetLa (s : State) (i : Nat) : State :=
  laForget (disableRing s .lookaside i stInstanceReset) i

/-- The ports that carried writes through an instance's mirror. -/
def dirtyPorts (s : State) (i : Nat) : List Nat :=
  match tget s.mirrors i with
  | some m => ((m.entries.filter fun r => m.dirty.contains r.1 && pteTarget r.2 != 5).map fun r => pteTarget r.2).dedup
  | none => []

/-- Steps 5 and 6 of R384: page requests are abandoned and what is in flight is waited for. -/
def beginInstDrain (s : State) (i : Nat) : State :=
  let s1 : State :=
    { s with
      pageReqs := (s.pageReqs.filter fun r => r.inst != i || r.issued).map fun r => if r.inst = i then { r with settled := true } else r
      waits := s.waits.filter fun w => !(w.inst == i) }
  let reads := (s1.reads.filter fun r => r.inst == i).map (·.id)
  let s2 := { s1 with reads := s1.reads.filter fun r => !(r.inst == i) }
  let f := issueFlushes s2 (dirtyPorts s2 i) i (.drain i)
  let s3 := modInst f.2 i fun x => { x with drains := reads ++ f.1 }
  { s3 with mirrors := tmod s3.mirrors i fun m => { m with dirty := [] } }

/-- Commands of the instance that have started and would wait for what the reset ends. -/
def abandonCmds (s : State) (i : Nat) (slot : Option Nat) : State :=
  let waits (c : AdminCmd) : Bool := c.phase == .running && cmdInst c == i && some c.slot != slot
    && (cmdOpcode c == 0x0104 || cmdOpcode c == 0x0200 || cmdOpcode c == 0x0201 || cmdOpcode c == 0x0501)
  (s.adm.cmds.filter waits).foldl (fun t c => refuse t c.slot stAborted rsBadState) s

/-- Steps 1 to 6 of R384. `mute`: nothing more is written to host memory for the instance (R385). -/
def resetInst (s : State) (i : Nat) (why : ResetWhy) (mute : Bool) : State :=
  let s1 := moveInst (modInst s i fun x => { x with why := some why, mute := mute, noRecord := 0, freezing := none }) i .resetting why.cause 0
  let s2 := ((s1.qps.filter fun r => r.2.inst == i).map (·.1)).foldl resetQp s1
  let s3 := ((s2.ctxs.filter fun r => r.2.inst == i).map (·.1)).foldl resetCtx s2
  let s4 := abandonCmds (beginInstDrain (resetLa s3 i) i) i why.slot
  tpeSettle s4

/-- INSTANCE_RESET. -/
def execInstanceReset (slot : Nat) (s : State) : Result :=
  .next (startAdmin s slot 0x0102 fun c t =>
    let i := cmdInst c
    if (tget t.insts i).any fun x => x.why.any fun w => w.slot == some slot then keepRunning t slot
    else settle t slot (instRefusal t i) fun t =>
      keepRunning (resetInst t i { cause := 0, destroy := false, slot := some slot, removed := false } false) slot)

/-! ### Destroy (R389, R406) -/

/-- Entries and reports that leave with the instance's rings and CQs, unwritten. -/
def leftOver (s : State) (i : Nat) : Nat :=
  let mine := s.qps.filter fun r => r.2.inst == i
  let cqs := s.cqs.filter fun r => r.2.inst == i && !locMuted s i r.2.loc
  (mine.map fun r => r.2.sq.taken.length + r.2.rq.taken.length).sum
    + ((s.ctxs.filter fun r => r.2.inst == i).map fun r => r.2.ring.taken.length).sum
    + (cqs.map fun r => r.2.held.length).sum

/-- The objects of R389, in its order; its regions begin to be zeroed. -/
def removeObjects (s : State) (i : Nat) : State :=
  let left := leftOver s i
  let qpns := (s.qps.filter fun r => r.2.inst == i).map (·.1)
  let s1 := qpns.foldl dropQp s
  let s2 := ((s1.kettles.filter fun r => r.2.inst == i).map (·.1)).foldl dropKettle s1
  let s3 := { s2 with ctxs := s2.ctxs.filter (fun r => !(r.2.inst == i)), cqs := s2.cqs.filter fun r => !(r.2.inst == i) }
  let s4 := ((s3.cipher.sas.filter fun r => r.2.inst == i).map (·.1)).foldl dropSa s3
  let s5 := modCipher s4 fun c => { c with keys := c.keys.filter fun r => !(r.2.inst == i) }
  let mine := s5.pool.regions.filter fun r => r.inst == i
  let s6 := { s5 with
    mirrors := tdel s5.mirrors i
    tcache := s5.tcache.filter fun e => !(e.inst == i)
    ats := s5.ats.filter fun e => !(e.inst == i)
    pool := { s5.pool with
      regions := s5.pool.regions.filter fun r => !(r.inst == i)
      zeroing := s5.pool.zeroing ++ mine.map fun r => { base := r.base, size := r.size, inst := i, num := none, slot := none } } }
  modInst s6 i fun x => { x with noRecord := x.noRecord + left, why := x.why.map fun w => { w with removed := true } }

/-- The host's answers to abandoned page requests are still owed, and count against the function's allocation. (DEDUCED in part: assumption 65) -/
def disownReqs (s : State) (i : Nat) : List PageReq :=
  if (tget s.insts i).any (·.fn) then s.pageReqs.filter fun r => !(r.inst == i)
  else s.pageReqs.map fun r => if r.inst = i then { r with inst := 0 } else r

/-- The instance is ABSENT, once nothing of it is left to zero. -/
def finishDestroy (s : State) (i : Nat) : State :=
  match (tget s.insts i).bind fun x => x.why.map fun w => (x, w) with
  | none => s
  | some (x, w) =>
    if !w.removed || s.pool.zeroing.any fun z => z.inst == i then s
    else
      let s1 := { s with insts := tdel s.insts i, pages := tdel s.pages i, pageReqs := disownReqs s i }
      let s2 := postInst s1 i 0 w.cause x.noRecord
      match w.slot with
      | some n => complete s2 n
      | none => s2

/-- NEW_COORD cannot take the instance over. -/
def badForward (s : State) (coord : Nat) : Bool :=
  coord == ownCoord s || !(match img s with | some i => i.planes | none => 0).getLsbD (planeOf coord)

/-- INSTANCE_DESTROY. -/
def execInstanceDestroy (slot : Nat) (s : State) : Result :=
  .next (startAdmin s slot 0x0103 fun c t =>
    let e := c.entry
    let i := cmdInst c
    let fwd := bit e 8 0
    if (tget t.insts i).any fun x => x.why.any fun w => w.slot == some slot then keepRunning t slot
    else
      let r := match instRefusal t i with
        | some r => some r
        | none => firstRefusal [(fwd && !instFrozen t i, stAborted, rsBadState), (fwd && badForward t (fld e 12 23 0), stAborted, 0x1008),
            (fwd && decide (64 ≤ t.forwards.length), stAborted, 0x1009)]
      settle t slot r fun t =>
        let f : Forward :=
          { inst := i, sas := (t.cipher.sas.filter fun r => r.2.inst == i).map (·.1), coord := fld e 12 23 0, newInst := fld e 16 10 0
            limit := t.now + fld e 20 31 0 * 1000000, relayed := 0 }
        let t1 := if fwd then { t with forwards := t.forwards ++ [f] } else t
        keepRunning (resetInst t1 i { cause := 0, destroy := true, slot := some slot, removed := false } false) slot)

/-- INSTANCE_RESET_DONE: the drain has finished; steps 7 and 8 of R384, or the removal of R389. (DEDUCED in part: assumption 63) -/
def execInstanceResetDone (inst : Nat) (s : State) : Result :=
  match (tget s.insts inst).bind fun x => x.why.map fun w => (x, w) with
  | none => .next s
  | some (x, w) =>
    if !firmware s || x.state != .resetting || !x.drains.isEmpty || w.removed then .next s
    else
      let s1 := mbxInstReset { s with limiters := s.limiters.filter fun r => !(r.1 / 8 == inst) } inst
      if w.destroy then .next (finishDestroy (removeObjects s1 inst) inst)
      else
        let n := (tget s1.insts inst).elim 0 (·.noRecord)
        let s2 := modInst { s1 with pages := tput s1.pages inst Page.reset } inst fun y => { y with state := .active, why := none, mute := false, noRecord := 0, messages := 0 }
        let s3 := postInst (enableRing s2 .lookaside inst) inst 1 w.cause n
        .next (match w.slot with | some k => complete s3 k | none => s3)

/-- POOL_ZEROING_DONE: the zeroing at `base` finishes (R282, R389). -/
def execPoolZeroingDone (base : Nat) (s : State) : Result :=
  match s.pool.zeroing.find? fun z => z.base == base with
  | none => .next s
  | some z =>
    if !firmware s then .next s
    else
      let s1 := poolZero { s with pool := { s.pool with zeroing := s.pool.zeroing.filter fun y => !(y == z) } } z.base z.size
      let s2 := match z.slot with | some n => completeWith s1 n (regionResults s1 z.base) | none => s1
      .next (finishDestroy s2 z.inst)

/-! ### Function-level resets and VF Enable (R385, R387, R388) -/

/-- A running reset of the instance is turned into another: the command it would have completed is refused, unless it
destroys the instance too. -/
def redirectReset (s : State) (i cause : Nat) (keepSlot : Bool) : State :=
  match (tget s.insts i).bind (·.why) with
  | none => s
  | some w =>
    let s1 := match w.slot with
      | some n => if keepSlot && !w.destroy then refuse s n stAborted rsBadState else s
      | none => s
    let slot := if keepSlot && w.destroy then w.slot else none
    modInst s1 i fun x => { x with mute := true, why := some { w with cause := cause, destroy := true, slot := slot } }

/-- Destroys an instance whatever its state, without forwarding and without host writes. -/
def destroyMuted (s : State) (i cause : Nat) (keepSlot : Bool) : State :=
  match instState s i with
  | none => s
  | some .resetting => redirectReset s i cause keepSlot
  | some _ => resetInst s i { cause := cause, destroy := true, slot := none, removed := false } true

/-- VF_FLR: a function-level reset of a virtual function. -/
def vfFlr (s : State) (vf : Nat) : State :=
  let hits := (s.insts.filter fun r => r.2.fn && r.2.vf == vf).map (·.1)
  let s1 := { s with
    fns := tmod s.fns vf fun _ => FnState.reset 64
    ats := s.ats.filter fun e => !hits.contains e.inst }
  hits.foldl (fun t i => match instState t i with
    | some .resetting => modInst t i fun x => { x with mute := true }
    | _ => resetInst t i { cause := 1, destroy := false, slot := none, removed := false } true) s1

def execVfFlr (vf : Nat) (s : State) : Result :=
  let s := heardTlp s
  .next (if live s && s.vfEnable && decide (1 ≤ vf) && decide (vf ≤ s.numVfs) then vfFlr s vf else s)

/-- VF Enable is cleared (R388): every virtual function and every VF instance goes. -/
def vfEnableClear (s : State) : State :=
  let hits := (s.insts.filter fun r => r.2.fn).map (·.1)
  let s1 := { s with vfEnable := false, fns := s.fns.filter fun r => r.1 == 0 }
  if !live s then s1 else
  hits.foldl (fun t i => destroyMuted t i 3 true) s1

def execVfEnableClear (s : State) : Result :=
  let s := heardTlp s
  .next (if live s && s.vfEnable then vfEnableClear s else s)

/-- A forwarding record ends (R406). -/
def endForward (s : State) (f : Forward) : State :=
  post { s with forwards := s.forwards.filter fun x => !(x == f) } 0x0081
    (evData [(16, 2, f.inst), (18, 3, f.coord), (24, 4, f.relayed)])

/-- What refers to commands of the admin ring that a PF function-level reset clears. -/
def forgetSlots (s : State) : State :=
  { s with
    drains := s.drains.filter fun d => d.slot.isNone
    pool := { s.pool with zeroing := s.pool.zeroing.map fun z => { z with slot := none } }
    start := { s.start with flash := s.start.flash.map fun f => { f with slot := none } }
    pm := { s.pm with roost := match s.pm.roost with | some (some (.admin _)) => some none | r => r }
    insts := s.insts.map fun r => (r.1, { r.2 with freezing := none, why := r.2.why.map fun w => { w with slot := none } })
    qps := s.qps.map fun r => (r.1, { r.2 with handshake := none }) }

/-- A PF function-level reset (R121, R387, R424): the admin interface, every virtual function and every instance go, with
the migration key and the forwarding records; CLK_LOST_SEEN and the TRC registers return to their Reset values (R8), the trace ring
being discarded with them. (DEDUCED in part: assumption 82) -/
def pfFlr (s : State) : State :=
  let s1 := { forgetSlots (admFlr s) with trace := Trace.reset }
  let s2 := { s1 with vfEnable := false, numVfs := 0, fns := [(0, FnState.reset 256)], readReq := 2, relaxed := true, pfBar := 0, vfBar := 0, ats := []
                      clocks := { s1.clocks with lostSeen := 0 } }
  let s3 := s2.insts.foldl (fun t r => destroyMuted t r.1 2 false) s2
  let s4 := mbxPfReset (modCipher s3 fun c => { c with migKey := none })
  s4.forwards.foldl endForward s4

/-- PF_FLR. -/
def execPfFlr (s : State) : Result :=
  let s := heardTlp s
  .next (if live s then pfFlr s else s)

/-! ### Freeze and thaw (R390 to R394) -/

/-- INSTANCE_FREEZE: it takes effect once every earlier command naming the instance has completed. -/
def execInstanceFreeze (slot : Nat) (s : State) : Result :=
  .next (startAdmin s slot 0x0104 fun c t =>
    let i := cmdInst c
    if earlierRuns t slot (fun b => cmdInst b == i) then holdCmd t slot
    else
      let r := match instRefusal t i with
        | some r => some r
        | none => if instFrozen t i then some (stAborted, rsBadState) else none
      settle t slot r fun t =>
        keepRunning (modInst t i fun x => { x with freezing := some { slot := slot, giveUp := t.now + fld c.entry 12 31 0 * 1000000 } }) slot)

/-- An entry of the ring has been started, or its outcome decided, and is not handed back. -/
def ringBusy (r : Ring) : Bool := r.taken.any fun t => t.started || t.outcome.isSome

/-- The conditions of R390. -/
def freezeDone (s : State) (i : Nat) : Bool :=
  ((s.qps.filter fun r => r.2.inst == i).all fun r =>
    !ringBusy r.2.sq && !ringBusy r.2.rq && r.2.resp.isEmpty && r.2.recs.all fun x => x.mark != .held)
  && ((s.ctxs.filter fun r => r.2.inst == i).all fun r => !ringBusy r.2.ring && r.2.runs.isEmpty)
  && ((tget s.insts i).all fun x => !ringBusy x.la && x.laRun.isNone) && s.pageReqs.all fun r => r.inst != i

/-- The ACK a queue pair owes is sent. -/
def sendOwed (s : State) (qpn : Nat) : State :=
  match tget s.qps qpn with
  | none => s
  | some q => match q.ackExpire, q.lastTrig with
    | some _, some t => askAck s qpn t
    | _, _ => s

/-- A queue pair owes an ACK, or one of its ACKs waits for a flushing read. -/
def owesAck (q : Qp) : Bool := !q.ackFlush.isEmpty || !q.unflushed.isEmpty || q.ackDue

/-- The queue pair enters FROZEN, where Table 7-3 lets it. -/
def freezeQp (s : State) (qpn : Nat) : State :=
  match tget s.qps qpn with
  | none => s
  | some q => if q.state == .reset then s else moveQp (modQp s qpn fun x => { x with frozenFrom := q.state }) qpn .frozen

/-- FREEZE_DRAINED: the drain has finished. Where an owed ACK first needs a flushing read, the freeze waits for it. -/
def execFreezeDrained (inst : Nat) (s : State) : Result :=
  match (tget s.insts inst).bind (·.freezing) with
  | none => .next s
  | some f =>
    let runs := (admCmd s f.slot).any fun c => c.phase == .running
    if !(ready s && firmware s) || !runs || !freezeDone s inst then .next s
    else
      let qpns := (s.qps.filter fun r => r.2.inst == inst).map (·.1)
      let s1 := qpns.foldl sendOwed s
      if qpns.any fun n => (tget s1.qps n).any owesAck then .next s1
      else
        let s2 := qpns.foldl freezeQp s1
        let s3 := { s2 with ctxs := s2.ctxs.map fun r => if r.2.inst = inst then (r.1, { r.2 with prev := r.2.state, state := .frozen }) else r }
        let s4 := modInst s3 inst fun x => { x with freezing := none, frozenAt := s.now }
        .next (complete (moveInst s4 inst .frozen 0 0) f.slot)

/-- FREEZE_DRAIN_TIMEOUT: DRAIN_MS has passed; the instance starts work again (R391). -/
def execFreezeDrainTimeout (inst : Nat) (s : State) : Result :=
  match (tget s.insts inst).bind (·.freezing) with
  | none => .next s
  | some f =>
    let runs := (admCmd s f.slot).any fun c => c.phase == .running
    .next (if firmware s && runs && decide (f.giveUp ≤ s.now) then
      refuse (modInst s inst fun x => { x with freezing := none }) f.slot stAborted 0x1003 else s)

/-- The refusal of SAVE and THAW: the instance is absent, or not FROZEN. -/
def frozenOnly (s : State) (i : Nat) : Option (BitVec 8 × Nat) :=
  match instRefusal s i with
  | some r => some r
  | none => if instFrozen s i then none else some (stAborted, rsBadState)

/-- INSTANCE_THAW. -/
def execInstanceThaw (slot : Nat) (s : State) : Result :=
  .next (startAdmin s slot 0x0107 fun c t =>
    let i := cmdInst c
    settle t slot (frozenOnly t i) fun t =>
      let t1 := moveInst t i .active 0 0
      let qpns := (t1.qps.filter fun r => r.2.inst == i).map (·.1)
      let thaw (u : State) (n : Nat) : State := match tget u.qps n with
        | some q => if q.state == .frozen then moveQp u n q.frozenFrom else u
        | none => u
      let t2 := qpns.foldl thaw t1
      let t3 := { t2 with ctxs := t2.ctxs.map fun r => if r.2.inst = i && r.2.state == .frozen then (r.1, { r.2 with state := r.2.prev }) else r }
      let t4 := qpns.foldl (fun u n => ringDoorbell (ringDoorbell u .sq n) .rq n) t3
      let t5 := ((t4.ctxs.filter fun r => r.2.inst == i).map (·.1)).foldl (fun u n => ringDoorbell u .tpe n) t4
      complete (tpeSettle (thawRecalls (ringDoorbell t5 .lookaside i) i)) slot)

/-! ### Forwarding records (R406) -/

/-- FORWARD_EXPIRE: FORWARD_MS has passed for a record of the destroyed instance. -/
def execForwardExpire (inst : Nat) (s : State) : Result :=
  .next (match s.forwards.find? fun f => f.inst == inst && decide (f.limit ≤ s.now) with
    | some f => if running s then endForward s f else s
    | none => s)

end Sys2Proof.Machine
end

