-- ==== Sys2Proof/Machine/Time.lean ====
section
/-!
DEFINITION. Device time, its states and trust, the PTP servo, PPS and the time registers (3.6).
-/

namespace Sys2Proof.Machine

/-- Saturates a servo offset into OFFSET_NS (Table 3-7). -/
def satOffset (o : Int) : BitVec 16 := BitVec.ofNat 16 (twos 2 (max (-32767) (min 32767 o)))

/-- STATE of Table 3-7. -/
def timeStateCode : TimeState → Nat
  | .unset => 0
  | .locked => 1
  | .freerun => 2
  | .holdover => 3

/-- Enters a time state with a trust; posts TIME_STATE where either changes, and GATE_STATE where gating follows (R74,
R75, R253). In HOLDOVER nothing slews device time (Table 3-6), so an offset not yet slewed away is dropped. -/
def setTime (s : State) (st : TimeState) (trusted : Bool) (guardEnd trustEnd : Option Nat) : State :=
  let changed := s.time.state != st || s.time.trusted != trusted
  let s1 := { s with time := { s.time with
    state := st, trusted := trusted, guardEnd := guardEnd, trustEnd := trustEnd
    goodRun := if s.time.state == st then s.time.goodRun else 0
    badRun := if s.time.state == st then s.time.badRun else 0
    syncLimit := if st == .locked then s.time.syncLimit else none
    slewLeft := if st == .holdover then 0 else s.time.slewLeft } }
  if changed then gateRefresh (post s1 0x0012 (evData [(16, 1, timeStateCode st), (17, 1, trusted.toNat)])) else s1

/-- FREERUN_GUARD_MS of the image in ns. -/
def guardNs (s : State) : Nat := (match img s with | some i => i.guardMs | none => 0) * 1000000

/-- LOCKED is left for FREERUN: time stays trusted for the guard (R75). -/
def toFreerun (s : State) : State := setTime s .freerun true (some (s.now + guardNs s)) none

/-- Device time moves by `d` ns in one step (R73). -/
def stepTime (s : State) (d : Int) : State :=
  let s1 := { s with time := { s.time with dev := s.time.dev + BitVec.ofInt 64 d, slewLeft := 0 } }
  post s1 0x0013 (evData [(16, 8, twos 8 d)])

/-- The N port the PTP clock of R72 runs on, where the image names one, it is UP, and the servo's firmware runs; none in Roost. -/
def ptpPort (s : State) : Option Nat :=
  match img s with
  | none => none
  | some i =>
    if firmware s && s.pm.state != 2 && decide (i.ptpPort < 8) && (s.ports.getD i.ptpPort Port.reset).state == .up then some i.ptpPort
    else none

/-- PTP_SYNC: the servo receives a Sync that arrived `gap` ns of device time after the master's time of its departure; less the
path delay, device time is that far ahead. The master announces `interval` ns between Syncs (R73, R74). A Sync from the master makes
the port a slave. One that the servo does not use, for want of TREF or while a control reset pauses it, leaves the run of consecutive
Syncs as it is. (PRESUMED in part: assumption 25) (DEDUCED in part: assumption 104) -/
def execPtpSync (gap : Int) (interval : Nat) (s0 : State) : Result :=
  if (ptpPort s0).isNone then .next s0
  else
  let s := { s0 with time := { s0.time with ptpMaster := false } }
  let offset := gap - s.time.pathNs
  let used := s.clocks.good.getLsbD 6 && s.time.state != .holdover
  if !used then .next s
  else
    let mag := offset.natAbs
    let s1 := { s with time := { s.time with offsetNs := satOffset offset, syncLimit := some (s.now + 16 * interval) } }
    let s2 := if 1000000 < mag then
        let t := stepTime s1 (-offset)
        { t with time := { t.time with goodRun := 0, badRun := t.time.badRun + 1 } }
      else { s1 with time := { s1.time with
        slewLeft := -offset
        goodRun := if mag ≤ 100 then s1.time.goodRun + 1 else 0
        badRun := if 1000 < mag then s1.time.badRun + 1 else 0 } }
    match s.time.state with
    | .unset | .freerun =>
      .next (if 8 ≤ s2.time.goodRun then setTime s2 .locked true none none else s2)
    | .locked => .next (if 4 ≤ s2.time.badRun then toFreerun s2 else s2)
    | .holdover => .next s2

/-- PTP_DELAY_MESSAGE (R72): in the master state a Delay_Req on the PTP port is answered with device time at its arrival; in the slave
state a Delay_Resp gives the servo the path delay. Neither is served in Roost or while the servo pauses. -/
def execPtpDelayMessage (m : PtpDelay) (s : State) : Result :=
  match ptpPort s with
  | none => .next s
  | some p =>
    match m with
    | .delayReq q => .next (if s.time.ptpMaster then emit s (.ptpDelayResp p q s.time.dev) else s)
    | .delayResp d =>
      .next (if !s.time.ptpMaster && s.clocks.good.getLsbD 6 && s.time.state != .holdover
        then { s with time := { s.time with pathNs := d } } else s)

/-- What the PTP clock does by itself at an instant (R72): its best master clock algorithm may put the port into the master state, and
as master it sends Syncs, in one-step operation with their time, in two-step operation followed by it. When it does is free: the
Announce messages of other clocks and the Sync interval are not in the manual. (DESIGN CHOICE in part: assumption 25) -/
def ptpTick (s : State) : State :=
  match ptpPort s with
  | none => s
  | some p =>
    let s1 := { s with fresh := s.fresh + 1, time := { s.time with ptpMaster := s.time.ptpMaster || Config.ptpElect s.fresh } }
    if s1.time.ptpMaster && Config.ptpSyncDue s.fresh && !s.halted then
      let q := s1.time.ptpSeq
      let one := match img s with | some i => i.oneStep | none => false
      let s2 := { s1 with time := { s1.time with ptpSeq := q + 1 } }
      if one then emit s2 (.ptpSync p q (some s.time.dev))
      else emit (emit s2 (.ptpSync p q none)) (.ptpFollowUp p q s.time.dev)
    else s1

/-- SYNC_LOSS_TIMEOUT: no valid Sync within 16 intervals (R74). The limit is one of the time base and runs out in a control reset too.
(DEDUCED in part: assumption 104) -/
def execSyncLossTimeout (s : State) : Result :=
  .next (match s.time.syncLimit with
    | some t => if running s && s.time.state == .locked && decide (t ≤ s.now) then toFreerun s else s
    | none => s)

/-- FREERUN_GUARD_EXPIRE (R75). -/
def execFreerunGuardExpire (s : State) : Result :=
  .next (match s.time.guardEnd with
    | some t => if s.power.phase == .up && !s.halted && s.time.state == .freerun && decide (t ≤ s.now)
        then setTime s .freerun false none none else s
    | none => s)

/-- HOLDOVER_TRUST_EXPIRE (R75): 1 ms of holdover has passed. -/
def execHoldoverTrustExpire (s : State) : Result :=
  .next (match s.time.trustEnd with
    | some t => if s.power.phase == .up && !s.halted && s.time.state == .holdover && decide (t ≤ s.now)
        then setTime s .holdover false none none else s
    | none => s)

/-- TREF is lost: LOCKED and FREERUN enter HOLDOVER (Table 3-6); holdover from LOCKED on a calibrated oscillator is trusted
for 1 ms (R75). -/
def timeTrefLost (s : State) : State :=
  match s.time.state with
  | .locked => if s.clocks.oscCal then setTime s .holdover true none (some (s.now + 1000000))
      else setTime s .holdover false none none
  | .freerun => setTime s .holdover false none none
  | _ => s

/-- TREF is restored: HOLDOVER becomes FREERUN, untrusted until LOCKED (R75). -/
def timeTrefBack (s : State) : State :=
  match s.time.state with
  | .holdover => setTime s .freerun false none none
  | _ => s

/-- PPS_OUT_PULSE: device time is within 5 ns of a whole second; PPS_OUT is high for 10 us (R77). A second that device time crosses
again after a step backward gives no further pulse while it is the last one pulsed. (DEDUCED in part: assumption 104) -/
def execPpsOutPulse (s : State) : Result :=
  let d := s.time.dev.toNat
  let sec := (d + 5) / 1000000000
  .next (if s.power.phase == .up && s.time.state != .unset && decide ((d + 5) % 1000000000 ≤ 10)
      && s.time.ppsLast != sec + 1
    then { s with time := { s.time with ppsUntil := s.now + 10000, ppsLast := sec + 1 } } else s)

/-- PPS_IN: a rising edge is timestamped and reported (R77). -/
def execPpsIn (s : State) : Result := .next (post s 0x0014 (evData [(16, 8, s.time.dev.toNat)]))

/-- A read of GCTL_TIME_LO captures device time (R78) and returns its low half. -/
def readTimeLo (s : State) : State := { s with time := { s.time with captured := s.time.dev } }

/-- TIME_LO_READ. -/
def execTimeLoRead (s : State) : Result :=
  let s := heardTlp s
  if s.power.phase == .up then .next (emit (readTimeLo s) (.regData (s.time.dev.truncate 32))) else .next s

/-- One nanosecond of the time base: the interval base counts unless a debug halt stops it (R482), the clock monitors count on, and
device time counts, slewed by at most 1 ns in 5,000 (R73). (DESIGN CHOICE in part: assumption 2) (DESIGN CHOICE in part: assumption 5) -/
def tickTime (s : State) : State :=
  let due := s.time.slewLeft != 0 && decide (s.time.slewNext ≤ s.now) && Config.slewNow s.fresh
  let dir : Int := if s.time.slewLeft < 0 then -1 else 1
  let t := if s.power.phase != .up then s.time
    else if due then { s.time with
      dev := s.time.dev + BitVec.ofInt 64 (1 + dir), slewLeft := s.time.slewLeft - dir, slewNext := s.now + 5000 }
    else { s.time with dev := s.time.dev + 1 }
  { s with time := t, now := if s.halted then s.now else s.now + 1
           clocks := { s.clocks with count := s.clocks.count + 1 }
           fresh := if s.time.slewLeft != 0 then s.fresh + 1 else s.fresh }

/-- One nanosecond in which no command waits. -/
def tick (s : State) : State := ptpTick (tickTime s)

end Sys2Proof.Machine
end

