-- ==== Sys2Proof/Machine/PowerStates.lean ====
section
/-!
DEFINITION. Owl, the power states and the trace ring (Owl, Power States and Trace), and how a request from the admin ring
or from a secure channel ends (R428).
-/

namespace Sys2Proof.Machine

/-! ### Requests from the admin ring and from secure channels (R428) -/

/-- The 56-byte body of a service request as an entry: OPCODE and PARAMS stand at the admin entry's offsets. -/
def secureBody (s : State) (k b : Nat) : Entry :=
  match s.secMbx[k]? with
  | some c => entryOf (memRead c.area (fld (noticeAt c.outN b).words 0 63 0) 56)
  | none => 0

/-- Writes bytes into the MESSAGE_AREA of secure channel `k`. -/
def areaWrite (s : State) (k off : Nat) (bs : Bytes) : State := modChan s (.secure k) fun c => { c with area := memWrite c.area off bs }

/-- Ends a service request: REASON, EPOCH and, with OK, the results go into its body, and the notice ends with the status. -/
def secureEnd (s : State) (k b : Nat) (status : BitVec 8) (reason : Nat) (res : Entry) : State :=
  match s.secMbx[k]? with
  | none => s
  | some c =>
    let p := fld (noticeAt c.outN b).words 0 63 0
    let s1 := areaWrite { s with secRuns := s.secRuns.filter fun r => !(r == (k, b)) } k (p + 2) (leBytes 2 reason ++ leBytes 2 s.epoch.toNat)
    let s2 := if status = stOk then areaWrite s1 k (p + 8) (slice (entryBytes res) 8 48) else s1
    endNotice s2 (.secure k) b (BitVec.ofNat 16 status.toNat) true

/-- Completes a request with OK and the results `f` writes. -/
def refDone (s : State) (r : CmdRef) (f : Entry → Entry) : State :=
  match r with
  | .admin slot => completeWith s slot f
  | .secure k b => secureEnd s k b stOk rsNone (f (secureBody s k b))

/-- Completes a request with a status and a REASON. -/
def refRefuse (s : State) (r : CmdRef) (status : BitVec 8) (reason : Nat) : State :=
  match r with
  | .admin slot => refuse s slot status reason
  | .secure k b => secureEnd s k b status reason 0

/-- Writes a request's output: to host memory, or into the MESSAGE_AREA. -/
def refWrite (s : State) (r : CmdRef) (dst : Nat) (bs : Bytes) : State :=
  match r with
  | .admin _ => writeResult s pfHost dst bs
  | .secure k _ => areaWrite s k dst bs

/-! ### The Owl log (R452, R453) -/

/-- OWL_LOG_READ from either side. RETURNED_FIRST is not stated where no record is copied. (DESIGN CHOICE in part: assumption 16) -/
def owlLogRead (s : State) (r : CmdRef) (e : Entry) (ok : Bool) : State :=
  let first : Word := BitVec.ofNat 32 (fld e 16 31 0)
  let out := (s.owl.log.filter fun x => decide (0 ≤ sdist x.seq first)).take (fld e 20 7 0)
  let bytes := out.flatMap fun x => traceBytes x.time x.seq x.type x.source x.data
  if !ok then refRefuse s r stAborted rsHostWrite
  else
    let f := takeFresh s
    let start : Word := match out with | x :: _ => x.seq | [] => Config.unstated f.1
    refDone (if out.isEmpty then f.2 else refWrite f.2 r (fld e 8 63 5 * 32) bytes) r fun e =>
      putFld (putFld (putFld e 24 31 0 start.toNat) 28 7 0 out.length) 32 31 0 s.owl.logNext.toNat

/-- OWL_LOG_READ: `ok` is false where DST cannot be written. -/
def execOwlLogRead (slot : Nat) (ok : Bool) (s : State) : Result :=
  .next (startAdmin s slot 0x0701 fun c t => owlLogRead t (.admin slot) c.entry ok)

/-! ### Power states (R437 to R446) -/

/-- Cause codes of the POWER record (Table 18-10). -/
def refCause : CmdRef → Nat
  | .admin _ => 0
  | .secure .. => 1

def causeRule : Nat := 2
def causeLoad : Nat := 3
def causeThrottle : Nat := 4

/-- The records and the event of a change of state. -/
def notePower (s : State) (old new cause : Nat) : State :=
  let d := powerData old new cause
  trace (post (owlPut s 0x0013 d) 0x0090 d) (some 3) 0x0013 0 d

/-- Moves between Flight and Glide; a load window begins (R439). -/
def movePower (s : State) (new cause : Nat) : State :=
  let s1 := notePower s s.pm.state new cause
  { s1 with pm := { s1.pm with state := new, lowSince := none, winStart := s1.now, winSeen := s1.traffic }, power := { s1.power with glideTarget := new == 1 } }

/-- The results of POWER_STATE_REQUEST. -/
def powerResults (s : State) (e : Entry) : Entry :=
  putFld e 9 3 0 (s.pm.state + 4 * s.pm.throttled.toNat + 8 * s.pm.glideReq.toNat)

/-- Every instance is FROZEN or ABSENT (R441). -/
def allFrozen (s : State) : Bool := s.insts.all fun r => r.2.state == .frozen

/-- A request for Flight (0) or Glide (1) is recorded, and takes effect where it can. -/
def askState (s : State) (target cause : Nat) : State :=
  let s1 := { s with pm := { s.pm with glideReq := target == 1, loadExit := false } }
  match s.pm.state with
  | 2 => { s1 with pm := { s1.pm with wake := some (target, cause) } }
  | 1 => if target = 0 && !s.pm.throttled then movePower s1 0 cause else s1
  | _ => if target = 1 then movePower s1 1 cause else s1

/-- POWER_STATE_REQUEST from either side. (DEDUCED in part: assumption 66) -/
def powerRequest (s : State) (r : CmdRef) (target : Nat) : State :=
  match target with
  | 2 =>
    if s.pm.state = 2 then refDone s r (powerResults s)
    else if !allFrozen s then refRefuse s r stAborted 0x1201
    else
      let s1 := { s with pm := { s.pm with roost := some (some r), roostSeq := s.adm.seqNext } }
      (match r with
      | .admin slot => keepRunning s1 slot
      | .secure k b => { s1 with secRuns := s1.secRuns ++ [(k, b)] })
  | 3 => refDone s r (powerResults s)
  | t => let s1 := askState s t (refCause r); refDone s1 r (powerResults s1)

/-- POWER_STATE_REQUEST. A second request for Roost waits for the first. -/
def execPowerStateRequest (slot : Nat) (s : State) : Result :=
  .next (startAdmin s slot 0x0700 fun c t =>
    let target := fld c.entry 8 1 0
    if target = 2 && t.pm.roost.isSome then holdCmd t slot else powerRequest t (.admin slot) target)

/-- Every admin command fetched before the request for Roost has completed (R441). -/
def roostDue (s : State) : Bool :=
  match s.pm.roost with
  | some (some (.admin slot)) => (cmdsBefore s slot).isEmpty && (admCmd s slot).isSome
  | some _ => s.adm.cmds.all fun c => decide (0 ≤ sdist (BitVec.ofNat 32 (fld c.entry 4 31 0)) s.pm.roostSeq)
  | none => false

/-- The entry sequence of R442, without the end of its request. -/
def enterRoost (s : State) (cause : Nat) : State :=
  let up := (List.range 8).filter fun n => (portOf s n).state == .up || (portOf s n).state == .training
  let s1 := up.foldl holdPort s
  let s2 := notePower s1 s.pm.state 2 cause
  let s3 := trace s2 none 0x0001 0 (evData [(16, 1, 2)])
  let s4 : State :=
    { s3 with
      trace := { s3.trace with suspended := s3.trace.running, sinceSusp := 0 }
      pm := { s3.pm with
        state := 2, glideReq := false, loadExit := false, lowSince := none, roost := none, wake := none
        heldPorts := BitVec.ofNat 8 ((up.map fun n => 2 ^ n).sum), counters := s3.counters }
      power := { s3.power with glideTarget := false } }
  if s4.time.state == .locked then toFreerun s4 else s4

/-- ROOST_ENTER: an accepted request takes effect. An instance that became ACTIVE meanwhile ends it. -/
def execRoostEnter (s : State) : Result :=
  match s.pm.roost with
  | none => .next s
  | some r =>
    if !(ready s && firmware s) || !roostDue s || s.pm.state == 2 then .next s
    else if !allFrozen s then
      let s1 := { s with pm := { s.pm with roost := none } }
      .next (match r with | some x => refRefuse s1 x stAborted 0x1201 | none => s1)
    else
      let s1 := enterRoost s (match r with | some x => refCause x | none => causeRule)
      .next (match r with | some x => refDone s1 x (powerResults s1) | none => s1)

/-- ROOST_EXIT: a wake cause has been found; the exit sequence of R444. -/
def execRoostExit (s : State) : Result :=
  match s.pm.wake with
  | none => .next s
  | some (target, cause) =>
    if !running s || s.pm.state != 2 then .next s
    else
      let new := if s.pm.throttled then 1 else target
      let held := s.pm.held
      let ports := (List.range 8).filter fun n => s.pm.heldPorts.getLsbD n
      let s1 : State :=
        { s with
          power := { s.power with coreMv := 0x0370, atCeiling := true, glideTarget := new == 1 }
          pm := { s.pm with state := new, wake := none, held := [], heldPorts := 0, counters := [] }
          trace := { s.trace with suspended := false } }
      let s2 := if s.trace.suspended then trace s1 none 0x0002 0 (evData [(16, 1, new), (20, 4, s.trace.sinceSusp)]) else s1
      let s3 := notePower s2 2 new cause
      let s4 := held.foldl (fun t e => putOrHold t e.code e.time e.data) s3
      .next (payReport (ports.foldl unholdPort (msixRaise s4 0 19)))

/-- What has been received and sent since the totals were `b`. -/
def trafficSince (a b : Traffic) : Traffic :=
  { tlps := a.tlps - b.tlps, bells := a.bells - b.bells, rxBytes := a.rxBytes - b.rxBytes, rxPkts := a.rxPkts - b.rxPkts
    txBytes := a.txBytes - b.txBytes, txPkts := a.txPkts - b.txPkts }

/-- The load of `ns` nanoseconds is above `mbps` megabits or `kpps` thousand packets a second in some direction: 8,000 bits and 1,000,000
packets a nanosecond are those units' measures. -/
def loadAbove (l : Traffic) (ns mbps kpps : Nat) : Bool :=
  decide (mbps * ns < 8000 * l.rxBytes) || decide (mbps * ns < 8000 * l.txBytes) || decide (kpps * ns < 1000000 * l.rxPkts)
    || decide (kpps * ns < 1000000 * l.txPkts)

/-- The load is above the figures of R438. -/
def loadOver (l : Traffic) (ns : Nat) : Bool := loadAbove l ns 1600000 1500000

/-- The load is at or below the figures at which Glide returns (R439). -/
def loadLow (l : Traffic) (ns : Nat) : Bool := !loadAbove l ns 1200000 1100000

/-- The next load window begins. -/
def nextWindow (s : State) : State := { s with pm := { s.pm with winStart := s.now, winSeen := s.traffic } }

/-- GLIDE_LOAD_WINDOW: a window of 2 us ends, its load the frames received and sent in it; the next begins at once. `need` is the CORE
voltage of the Flight pace in mV, which a load exit reaches in one step, and `pace` the slowest region's measured pace above the Flight
pace in percent at that voltage (Table 3-1). While a THROTTLE rule is active no window is measured. (DESIGN CHOICE in part: assumption
115) -/
def execGlideLoadWindow (need : Nat) (pace : Int) (s : State) : Result :=
  if !serving s then .next s
  else if s.pm.throttled then .next (nextWindow s)
  else if s.now < s.pm.winStart + 2000 then .next s
  else
    let l := trafficSince s.traffic s.pm.winSeen
    let ns := s.now - s.pm.winStart
    let s0 := nextWindow s
    if s.pm.state = 1 && loadOver l ns then
      let s1 := movePower { s0 with pm := { s0.pm with loadExit := true } } 0 causeLoad
      let mv := max s.power.coreMv.toNat (min 880 (max 620 need))
      .next { s1 with power := { s1.power with
        coreMv := BitVec.ofNat 16 mv, atCeiling := mv == 880, marginPct := BitVec.ofNat 8 (min 255 pace.toNat) } }
    else if s.pm.state = 0 && s.pm.loadExit then
      if !loadLow l ns then .next { s0 with pm := { s0.pm with lowSince := none } }
      else
        let since := s.pm.lowSince.getD s.pm.winStart
        if since + 1000000 ≤ s.now then .next (movePower { s0 with pm := { s0.pm with loadExit := false } } 1 causeLoad)
        else .next { s0 with pm := { s0.pm with lowSince := some since } }
    else .next s0

/-! ### Sensors and filters (R447) -/

/-- Saturates to a signed 32-bit value. -/
def sat32 (x : Int) : Int := max (-(2 ^ 31)) (min (2 ^ 31 - 1) x)

/-- One step of a filter: the output and the new history. -/
def filterStep (f : OwlFilter) (h : Option OwlHist) (x : Int) : Int × OwlHist :=
  let h := h.getD { x1 := x, x2 := x, y1 := x, y2 := x }
  let y := sat32 ((f.b0 * x + f.b1 * h.x1 + f.b2 * h.x2 - f.a1 * h.y1 - f.a2 * h.y2 + 8192) / 16384)
  (y, { x1 := x, x2 := h.x1, y1 := y, y2 := h.y1 })

/-- The samples as Owl takes them: a mapped-out unit reads 0, channels 26 to 29 are what the device has received and sent since the last
sample, a rate in Gb/s the bits over 125,000 ns, and channel 31 is the hottest of channels 0 to 7. (DESIGN CHOICE in part:
assumption 115) -/
def ownSamples (s : State) (xs : List Int) : List Int :=
  let l := trafficSince s.traffic s.owl.seen
  (List.range 32).map fun n =>
    let x := xs.getD n 0
    if 8 ≤ n && n ≤ 13 then (if s.start.stackOk.getLsbD (n - 8) then x else 0)
    else if 18 ≤ n && n ≤ 25 then (if s.start.nportOk.getLsbD ((n - 18) / 2) then x else 0)
    else if n = 26 then (l.tlps : Int)
    else if n = 27 then (l.bells : Int)
    else if n = 28 then ((8 * l.rxBytes / 125000 : Nat) : Int)
    else if n = 29 then ((8 * l.txBytes / 125000 : Nat) : Int)
    else if n = 31 then ((List.range 8).map fun k => xs.getD k 0).foldl max (xs.getD 0 0)
    else x

/-- Every channel filtered: the outputs and the histories. -/
def filterAll (i : Image) (hist : List (Option OwlHist)) (xs : List Int) : List (Int × Option OwlHist) :=
  (List.range 32).map fun n =>
    match i.filters[n]? with
    | some f => if f.enable then (let r := filterStep f (hist.getD n none) (xs.getD n 0); (r.1, some r.2)) else (0, none)
    | none => (0, none)

/-! ### Rules (R449 to R451) -/

/-- One rule at a sample: its new course, and whether it was activated or deactivated now. -/
def ruleStep (r : OwlRule) (c : OwlRun) (y : Int) : OwlRun × Option Bool :=
  if !r.valid then (c, none)
  else if c.active then
    let off := if r.below then decide (r.threshold + r.hyst < y) else decide (y < r.threshold - r.hyst)
    if off then ({ held := 0, active := false }, some false) else (c, none)
  else
    let cond := if r.below then decide (y ≤ r.threshold) else decide (r.threshold ≤ y)
    if !cond then ({ c with held := 0 }, none)
    else if r.hold ≤ c.held + 1 then ({ held := 0, active := true }, some true)
    else ({ c with held := c.held + 1 }, none)

/-- The records, the event and the alert of an activation or a deactivation (R451). -/
def noteRule (s : State) (n : Nat) (r : OwlRule) (on : Bool) (y : Int) : State :=
  let d := evData [(16, 1, n), (17, 1, on.toNat), (18, 1, r.action), (20, 4, twos 4 y)]
  let seq := s.owl.logNext
  let s1 := owlPut s 0x0014 d
  let s2 := if s1.pm.state = 2 then s1 else trace (post s1 0x0091 d) (some 3) 0x0014 0 d
  if !(on && r.alert) then s2
  else match s2.secMbx[15]? with
    | none => s2
    | some c =>
      if c.inDb.getLsbD r.alertBit then s2
      else
        let w : BitVec 128 := putFld (putFld (putFld 0 0 63 0 seq.toNat) 8 31 0 32) 13 7 7 1
        let s3 := modChan s2 (.secure 15) fun x => { x with inTaken := c.inTaken + 1 }
        deliver s3 (.secure 15) r.alertBit w (c.inTaken + 1) none

/-- A rule's step at one sample: its course is kept, its records are written, and what it did is added to the list. -/
def ruleAt (i : Image) (ys : List Int) (a : State × List (OwlRule × Bool)) (n : Nat) : State × List (OwlRule × Bool) :=
  match i.rules[n]?, a.1.owl.rules[n]? with
  | some r, some c =>
    let y := ys.getD r.channel 0
    let x := ruleStep r c y
    let s1 := { a.1 with owl := { a.1.owl with rules := lmod a.1.owl.rules n fun _ => x.1 } }
    (match x.2 with
    | some on => (noteRule s1 n r on y, a.2 ++ [(r, on)])
    | none => (s1, a.2))
  | _, _ => a

/-- Some active rule of an action holds `p`. -/
def ruleActive (s : State) (i : Image) (action : Nat) (p : OwlRule → Bool) : Bool :=
  (List.range 64).any fun n => match i.rules[n]?, s.owl.rules[n]? with
    | some r, some c => r.valid && c.active && r.action == action && p r
    | _, _ => false

/-- PORT_SHUTDOWN: the ports that active rules name are in HELD; a shutdown that ends leaves the port there. -/
def portShutdowns (s : State) (i : Image) : State :=
  (List.range 8).foldl (fun t n =>
    let down := ruleActive t i 4 fun r => r.mask.getLsbD n
    let was := (portOf t n).owlDown
    let t1 := modPort t n fun p => { p with owlDown := down }
    if down && !was then holdPort t1 n else t1) s

/-- THROTTLE follows the active rules; in Roost it takes effect at the exit. -/
def throttleRules (s : State) (i : Image) : State :=
  let on := ruleActive s i 3 fun _ => true
  let s1 := { s with pm := { s.pm with throttled := on } }
  if on && !s.pm.throttled && s.pm.state = 0 then movePower { s1 with pm := { s1.pm with loadExit := false } } 1 causeThrottle
  else if !on && s.pm.throttled && s.pm.state = 1 && !s.pm.glideReq then movePower s1 0 causeThrottle
  else s1

/-- WAKE and ROOST of the rules activated in a sample. -/
def wakeRules (s : State) (acts : List (OwlRule × Bool)) : State :=
  let wake := acts.any fun a => a.2 && a.1.action == 1
  let roost := acts.any fun a => a.2 && a.1.action == 2
  if wake then (if s.pm.state = 2 then { s with pm := { s.pm with wake := some (0, causeRule) } } else s)
  else if roost && s.pm.state != 2 && s.pm.roost.isNone && allFrozen s && serving s then
    { s with pm := { s.pm with roost := some none, roostSeq := s.adm.seqNext } }
  else s

/-- 125 us have passed since Owl's last sample. -/
def sampleDue (s : State) : Bool :=
  match s.owl.sampledAt with
  | some t => decide (t + 125000 ≤ s.clocks.count)
  | none => true

/-- Owl's histories after a sample, when it was, and the totals then. -/
def sampleTaken (s : State) (hist : List (Option OwlHist)) : State :=
  { s with owl := { s.owl with hist := hist, sampledAt := some s.clocks.count, seen := s.traffic } }

/-- OWL_SAMPLE: the samples of the 32 channels, every 125 us. A debug halt stops the rules, not the filters (R482). In Perch only
the thermal trip acts (Table 4-17). -/
def execOwlSample (samples : List Int) (s : State) : Result :=
  match img s with
  | none => .next s
  | some i =>
    if s.power.phase != .up || !sampleDue s then .next s
    else
      let f := filterAll i s.owl.hist (ownSamples s samples)
      let s1 := sampleTaken s (f.map (·.2))
      if s.halted then .next s1
      else
        let r := (List.range 64).foldl (ruleAt i (f.map (·.1))) (s1, [])
        let trip := r.2.any fun a => a.2 && a.1.action == 5
        if trip then .next (thermalTrip r.1)
        else if !live s then .next r.1
        else .next (wakeRules (throttleRules (portShutdowns r.1 i) i) r.2)

/-! ### The trace ring (R455, R456) -/

/-- TRACE_CONFIG START on a ring placed at `base`. (DEDUCED in part: assumption 68) -/
def traceStart (s : State) (e : Entry) (base : Nat) : State :=
  { s with trace :=
      { ring := some (base, fld e 9 4 0), running := true, suspended := false, halt := bit e 8 2, mask := BitVec.ofNat 4 (fld e 10 3 0)
        mark := fld e 11 6 0, writeSeq := 0, readSeq := 0, lost := 0, sinceLost := 0, lostDue := false, fullSeen := false, sinceSusp := 0 } }

/-- The record at an address: zeros in a clear block (R285); no byte of a line that cannot be read (R289).
(DESIGN CHOICE in part: assumption 107) -/
def traceRecord (s : State) (a : Nat) : Bytes :=
  if !writtenFlag s (a / 4096) then List.replicate 32 0
  else if lineFailed s (a / 64) then (List.range 32).map fun n => Config.lostBlock s.fresh (a + n)
  else memRead s.pool.mem a 32

/-- The bytes of `n` records from SEQ `first`. -/
def traceCopy (s : State) (base : Nat) (first : Word) (n : Nat) : Bytes :=
  (List.range n).flatMap fun k => traceRecord s (base + 32 * ((first + BitVec.ofNat 32 k).toNat % traceCap s))

/-- TRACE_CONFIG: `ok` is false where DST cannot be written. -/
def execTraceConfig (slot : Nat) (ok : Bool) (s : State) : Result :=
  .next (startAdmin s slot 0x0710 fun c t =>
    let e := c.entry
    match fld e 8 1 0, t.trace.ring with
    | 0, _ =>
      let t0 := { t with trace := { t.trace with ring := none } }
      let place := anyPlace t0 (2 ^ fld e 9 4 0)
      settle t slot (firstRefusal [(t.trace.running, stAborted, rsBadState), (place.isNone, stAborted, 0x0C01)]) fun t =>
        complete (traceStart (takeFresh (takeFresh t).2).2 e (place.getD 0)) slot
    | 1, none => refuse t slot stAborted rsNoObject
    | 1, some _ => complete { t with trace := { t.trace with running := false } } slot
    | 2, none => refuse t slot stAborted rsNoObject
    | 2, some (base, _) =>
      let unread := traceUnread t
      let first := t.trace.writeSeq - BitVec.ofNat 32 unread
      let n := min unread (fld e 24 16 0)
      if !ok then refuse t slot stAborted rsHostWrite
      else
        let bytes := traceCopy t base first n
        let t1 := if n = 0 then t else writeResult (takeFresh t).2 pfHost (fld e 16 63 5 * 32) bytes
        completeWith { t1 with trace := { t1.trace with readSeq := first + BitVec.ofNat 32 n } } slot fun e => putFld e 28 31 0 first.toNat
    | _, _ => completeWith t slot fun e => putFld e 28 31 0 t.trace.readSeq.toNat)

end Sys2Proof.Machine
end

