-- ==== Sys2Proof/Machine/Control.lean ====
section
/-!
DEFINITION. COUNTERS_READ (20.3), IMAGE_WRITE (4.3), the watchdog and the control reset (17.7, 17.8).
-/

namespace Sys2Proof.Machine

/-! ### COUNTERS_READ (R475, R476) -/

/-- Counters of a group (Table 20-3). -/
def groupCount : Nat → Nat
  | 0 => 28
  | 1 => 27
  | 2 => 4
  | _ => 3

/-- The counters of a group as a read sees them: in Roost, those held at entry (R443). -/
def groupValues (s : State) (group index : Nat) : List Nat :=
  (List.range (groupCount group)).map fun n =>
    (tget (if s.pm.state = 2 then s.pm.counters else s.counters) (counterKey group index n)).getD 0

/-- A table of counters with one group zeroed. -/
def clearGroup (t : Tab Nat) (group index : Nat) : Tab Nat := (List.range (groupCount group)).foldl (fun t n => tdel t (counterKey group index n)) t

/-- The refusal of COUNTERS_READ that depends on the device's state. -/
def countersRefusal (s : State) (group index : Nat) : Option (BitVec 8 × Nat) :=
  firstRefusal [(group == 1 && (portOf s index).state == .disabled, stAborted, rsUnitOut),
    (group == 2 && (saOf s index).isNone, stAborted, rsNoObject), (group == 3 && !s.start.stackOk.getLsbD index, stAborted, rsUnitOut)]

/-- COUNTERS_READ from either side. -/
def countersRead (s : State) (r : CmdRef) (e : Entry) (ok : Bool) : State :=
  let group := fld e 8 1 0
  let index := fld e 10 13 0
  match firstRefusal [((countersRefusal s group index).isSome, (countersRefusal s group index).getD (stAborted, rsNone)),
      (!ok, stAborted, rsHostWrite)] with
  | some x => refRefuse s r x.1 x.2
  | none =>
    let s1 := refWrite s r (fld e 16 63 3 * 8) ((groupValues s group index).flatMap fun v => leBytes 8 v)
    let s2 := if bit e 8 2 then
        { s1 with counters := clearGroup s1.counters group index, pm := { s1.pm with counters := clearGroup s1.pm.counters group index } }
      else s1
    refDone s2 r fun e => putFld (putFld e 24 15 0 (groupCount group)) 32 63 0 s.time.dev.toNat

/-- COUNTERS_READ: `ok` is false where DST cannot be written. -/
def execCountersRead (slot : Nat) (ok : Bool) (s : State) : Result :=
  .next (startAdmin s slot 0x0002 fun c t => countersRead t (.admin slot) c.entry ok)

/-! ### IMAGE_WRITE (R91, R92) -/

/-- The buffer passes R85 and the content checks, and its IMAGE_LEN is the command's LEN. -/
def bufferGood (c : Bytes) (len : Nat) (sigOk : Bool) : Bool :=
  imageLen c == len && imageReason (some c) sigOk == 0 && (contentBad c).isNone

/-- IMAGE_WRITE: `src` is what the read of SRC returned, `sigOk` whether the FIRMWARE record's signature verifies. -/
def execImageWrite (slot : Nat) (src : Option Bytes) (sigOk : Bool) (s : State) : Result :=
  .next (startAdmin s slot 0x0001 fun c t =>
    let e := c.entry
    let len := fld e 24 31 0
    if t.start.flash.isSome || earlierRuns t slot (fun b => cmdOpcode b == 0x0001) then holdCmd t slot
    else match src with
      | none => refuse t slot stAborted rsHostRead
      | some b =>
        let buf := slice b 0 len
        let alt := bit e 8 0
        if !bufferGood buf len sigOk then refuse t slot stMalformed rsNone
        else
          let t1 := emit (emit t (.flashErase alt)) (.flashProgram alt buf)
          keepRunning { t1 with start := { t1.start with flash := some { slot := some slot, alt := alt, bytes := buf } } } slot)

/-- FLASH_WRITE_DONE: erase, programming and read-back end; `ok` says whether the read-back agreed. -/
def execFlashWriteDone (ok : Bool) (s : State) : Result :=
  match s.start.flash with
  | none => .next s
  | some j =>
    if !firmware s then .next s
    else
      let s1 := { s with start := { s.start with flash := none } }
      .next (match j.slot with
        | some n => if ok then complete s1 n else refuse s1 n stAborted rsNone
        | none => s1)

/-! ### The watchdog (R432 to R434) -/

/-- The watchdog's clock is the internal oscillator. -/
def wdtInternal (s : State) : Bool := match img s with | some i => i.wdtClkSel | none => true

/-- CLK_GOOD (Table 17-7). -/
def wdtClkGood (s : State) : Bool := if wdtInternal s then (img s).isSome else s.clocks.good.getLsbD 6

/-- A write of GCTL_WDT_CTRL. -/
def wdtWrite (s : State) (w : Word) : State :=
  let p := fld w 0 13 0
  if s.wdt.enabled || p = 0 || 16000 < p then s
  else { s with wdt := { periodMs := BitVec.ofNat 14 p, enabled := true, since := s.now } }

/-- WDT_ENABLE. -/
def execWdtEnable (val : Word) (s : State) : Result :=
  let s := heardTlp s
  .next (if live s then wdtWrite s val else s)

/-- The command has work under way outside the firmware that a control reset does not stop: it goes on as it is. -/
def outlivesReset (s : State) (c : AdminCmd) : Bool :=
  c.phase == .running && (s.drains.any (fun d => d.slot == some c.slot) || s.pool.zeroing.any fun z => z.slot == some c.slot)

/-- A control reset begins (R435); one under way absorbs it. Commands and secure requests in execution will run again from
their start (R120). (DEDUCED in part: assumption 32) -/
def controlReset (s : State) : State :=
  if !live s || s.ctlReset then s
  else
    { s with
      epoch := s.epoch + 1, ctlReset := true, secRuns := []
      start := { s.start with
        fwRunning := false, flash := none, fwDeadline := if ready s || s.start.imageAt.isNone then none else some (s.now + 50000000) }
      adm := { s.adm with cmds := s.adm.cmds.map fun c => if outlivesReset s c then c else { c with phase := .queued } }
      qps := s.qps.map fun r => (r.1, { r.2 with handshake := none })
      pm := { s.pm with roost := match s.pm.roost with | some (some _) => none | r => r } }

/-- WATCHDOG_EXPIRE: PERIOD_MS has passed without a refresh. (DEDUCED in part: assumption 52) -/
def execWatchdogExpire (s : State) : Result :=
  let due := running s && s.wdt.enabled && !s.ctlReset && wdtClkGood s && decide (s.wdt.since + s.wdt.periodMs.toNat * 1000000 ≤ s.now)
  .next (if due then controlReset s else s)

end Sys2Proof.Machine
end

