-- ==== Sys2Proof/Machine/Clocks.lean ====
section
/-!
DEFINITION. The clock monitors, the actions of Table 3-4, and the calibration of the internal oscillator (3.5). Clocks are numbered
as in R69: 0 H, 1 to 4 A0 to A3, 5 ETH, 6 TREF.
-/

namespace Sys2Proof.Machine

def clockGood (s : State) (clk : Nat) : Bool := s.clocks.good.getLsbD clk

def clockBit (clk : Nat) : BitVec 7 := BitVec.ofNat 7 (2 ^ clk)

/-- The clock is measured against an uncalibrated oscillator: TREF before calibration, and every other clock while the time base
runs on it (Table 3-3). -/
def roughMeasure (s : State) (clk : Nat) : Bool := !s.clocks.oscCal && (clk == 6 || !clockGood s 6)

/-- An average frequency, in parts per billion from nominal, within the tolerance of R64. -/
def inTolerance (s : State) (clk : Nat) (ppb : Int) : Bool :=
  decide (ppb.natAbs ≤ if roughMeasure s clk then 15000000 else 300000)

/-- Two consecutive windows that differ by more than 50 ppm. The test is applied as soon as the present window is measured on an
accurate base, whatever the one before was measured on. (DEDUCED in part: assumption 104) -/
def rateChanged (s : State) (clk : Nat) (ppb : Int) : Bool :=
  !roughMeasure s clk && match tget s.clocks.lastWindow clk with | some p => decide (50000 < (ppb - p).natAbs) | none => false

/-- The watchdog's clock monitor: a lost TREF that clocks an enabled watchdog trips it (R434). (DEDUCED in part: assumption 24) -/
def wdtTrip (s : State) : State := if s.wdt.enabled && !wdtInternal s then controlReset s else s

/-- The event and the actions of a loss (R67, R68, Table 3-4). -/
def clockLost (s : State) (clk : Nat) : State :=
  let s1 := post s 0x0010 (evData [(16, 1, clk)])
  match clk with
  | 0 =>
    let s2 := { s1 with power := { s1.power with hLinkUp := false, hTraining := false } }
    if live s2 then
      let s3 := pfFlr s2
      { s3 with clocks := { s3.clocks with lostSeen := s3.clocks.lostSeen ||| clockBit 0 } }
    else s2
  | 5 => let s2 := portsLoseClock s1; { s2 with pins := { s2.pins with nTxEnable := 0 } }
  | 6 => wdtTrip (timeTrefLost s1)
  | n => setAport s1 (n - 1) fun a => { a with linkUp := false }

/-- Ports whose transmitters are enabled once ETH_REFCLK is back. -/
def trainingPorts (s : State) : BitVec 8 :=
  (List.range 8).foldl (fun (b : BitVec 8) n => if (portOf s n).state == .training then b ||| BitVec.ofNat 8 (2 ^ n) else b) 0

/-- The event and the actions of a restoration. -/
def clockRestored (s : State) (clk : Nat) : State :=
  let s1 := post s 0x0011 (evData [(16, 1, clk)])
  match clk with
  | 0 => { s1 with power := { s1.power with hTraining := !s1.power.hLinkUp } }
  | 5 => if live s1 then { s1 with pins := { s1.pins with nTxEnable := s1.pins.nTxEnable ||| trainingPorts s1 } } else s1
  | 6 => let s2 := timeTrefBack s1; { s2 with wdt := if wdtInternal s2 then s2.wdt else { s2.wdt with since := s2.now } }
  | _ => s1

/-- A clock is lost: GCTL_CLK_STATUS at once; a debug halt holds the rest back until RESUME (R482). (DEDUCED in part: assumption 23) -/
def loseClock (s : State) (clk : Nat) : State :=
  let s1 : State :=
    { s with clocks := { s.clocks with
        good := s.clocks.good &&& ~~~clockBit clk, lostSeen := s.clocks.lostSeen ||| clockBit clk
        lastWindow := tdel s.clocks.lastWindow clk, goodSince := tdel s.clocks.goodSince clk
        winStart := tput s.clocks.winStart clk s.clocks.count } }
  if s.halted then { s1 with dbg := { s1.dbg with owed := s1.dbg.owed ++ [(clk, true)] } } else clockLost s1 clk

/-- A clock is restored at the end of a window (R66). -/
def restoreClock (s : State) (clk : Nat) (ppb : Int) : State :=
  let s1 : State :=
    { s with clocks := { s.clocks with
        good := s.clocks.good ||| clockBit clk, everGood := s.clocks.everGood ||| clockBit clk
        lastWindow := tput s.clocks.lastWindow clk ppb, goodSince := tput s.clocks.goodSince clk s.now
        winStart := tput s.clocks.winStart clk s.clocks.count } }
  if s.halted then { s1 with dbg := { s1.dbg with owed := s1.dbg.owed ++ [(clk, false)] } } else clockRestored s1 clk

/-- A new measurement window of a clock begins (R66). -/
def newWindow (s : State) (clk : Nat) : State :=
  { s with clocks := { s.clocks with winStart := tput s.clocks.winStart clk s.clocks.count } }

/-- The present window of a clock has lasted its 1 ms (R64). -/
def windowOver (s : State) (clk : Nat) : Bool :=
  match tget s.clocks.winStart clk with | some t => decide (t + 1000000 ≤ s.clocks.count) | none => false

/-- CLOCK_LOSS_DETECT: a gap or a short period. On a lost clock it ends the window, and a new one begins (R66).
(DEDUCED in part: assumption 22) -/
def execClockLossDetect (clk : Nat) (_kind : ClockFault) (s : State) : Result :=
  if s.power.phase != .up || 7 ≤ clk then .next s
  else .next (if clockGood s clk then loseClock s clk else newWindow s clk)

/-- CLOCK_WINDOW_END: a 1 ms window without gap or short period ends, its average `ppb` parts per billion from nominal; before its
1 ms has passed nothing ends. -/
def execClockWindowEnd (clk : Nat) (ppb : Int) (s : State) : Result :=
  if s.power.phase != .up || 7 ≤ clk || !windowOver s clk then .next s
  else
    let ok := inTolerance s clk ppb
    if clockGood s clk then
      if !ok || rateChanged s clk ppb then .next (loseClock s clk)
      else
        let s1 := newWindow s clk
        .next { s1 with clocks := { s1.clocks with lastWindow := tput s.clocks.lastWindow clk ppb } }
    else .next (if ok then restoreClock s clk ppb else newWindow s clk)

/-- OSC_CALIBRATE: 10 s of unbroken good TREF. -/
def execOscCalibrate (s : State) : Result :=
  let due := match tget s.clocks.goodSince 6 with | some t => decide (t + 10000000000 ≤ s.now) | none => false
  .next (if s.power.phase == .up && clockGood s 6 && due then { s with clocks := { s.clocks with oscCal := true } } else s)

end Sys2Proof.Machine
end

