-- ==== Sys2Proof/Machine/Fetch.lean ====
section
/-!
DEFINITION. The reads of ring slots as they complete, RECALL_FIRST, PT_UPDATE, and everything that waits for a translation, for data or for
a flushing read (6.2 to 6.6, 11.4 to 11.7, 19.1).
-/

namespace Sys2Proof.Machine

/-! ### Rings whose owners can fail (R143, R144, R360) -/

/-- The entry in a slot is malformed (R143). -/
def failSlot (s : State) (k : RingKind) (id slot : Nat) : State :=
  let bad : Outcome := { status := stMalformed, sub := 0, bytes := 0, notify := 0 }
  match k with
  | .sq | .rq => endEntry s k id slot stMalformed 0 0
  | .tpe => ctxError (endSlot s .tpe id slot bad) id none stAborted
  | .lookaside => laForget (disableRing (endSlot s .lookaside id slot bad) .lookaside id stAborted) id

/-- Runs of reads that stood still go on. -/
def kickRings (s : State) : State := (allRings s).foldl (fun t r => fetchRing t r.1 r.2) s

/-! ### RING_SLOT_READ (R132, R138, R144) -/

/-- An entry as it is taken. -/
def takeEntry (slot : Nat) (e : Entry) : Taken := { slot := slot, entry := e, started := false, outcome := none, gate := [] }

/-- A failed read of a slot: a malformed entry in that slot, whose bytes nobody knows. (DESIGN CHOICE in part: assumption 6) -/
def slotFailed (s : State) (k : RingKind) (id slot : Nat) (r : Ring) : State :=
  let f := takeFresh s
  failSlot (setRing f.2 k id { r with taken := r.taken ++ [takeEntry slot (Config.lostEntry f.1)], reading := none }) k id slot

/-- The read a Recall waits for: of slot `i`, or of the slot `h` at HEAD that was outstanding when the Recall began; the entry of
that one is not taken, and is read again. -/
def recallRead (s : State) (k : RingKind) (id : Nat) (r : Ring) (h i n : Nat) (x : SlotRead) : State :=
  let first := (pageOf s (ringInst s k id)).firstRecalled.toNat
  match x with
  | .data e =>
    let r1 := { r with reading := none, run := r.run && bit e 63 7 }
    if h != i then settleRing (recallGo (setRing s k id r1) k id) k id
    else if bit e 63 7 then
      let s1 := recallOne (setRing s k id r1) k id (takeEntry i e)
      settleRing (recallLoop (r.size + 1) s1 k id first ((i + 1) % r.size) (n + 1)) k id
    else settleRing (recallEnd (setRing s k id r1) k id first n) k id
  | .failed =>
    let s1 := recallStop (setRing s k id { r with doorbell := false, reading := none }) k id first n
    match getRing s1 k id with
    | some r1 => slotFailed s1 k id h r1
    | none => s1

/-- The read of the slot at HEAD: the entry is taken, or the run of reads ends, unless a doorbell came while the read was outstanding. -/
def headRead (s : State) (k : RingKind) (id : Nat) (r : Ring) (h : Nat) (x : SlotRead) : State :=
  match x with
  | .data e =>
    let r1 := { r with reading := none, doorbell := false }
    if bit e 63 7 then fetchRing (setRing s k id { r1 with taken := r.taken ++ [takeEntry h e], head := (h + 1) % r.size }) k id
    else fetchRing (setRing s k id { r1 with run := r.doorbell }) k id
  | .failed => slotFailed s k id h { r with head := (h + 1) % r.size }

/-- RING_SLOT_READ: the outstanding slot read of a ring completes. `intact` is false where the next write of the ring's memory cannot be
issued intact (R144). A read that a freeze overtook is not taken (R147). (DEDUCED in part: assumption 35) (DEDUCED in part: assumption 36) -/
def execRingSlotRead (k : RingKind) (id : Nat) (x : SlotRead) (intact : Bool) (s : State) : Result :=
  match getRing s k id with
  | none => .next s
  | some r0 =>
    let r := if intact then r0 else { r0 with strike := true }
    match r.reading with
    | none => .next s
    | some h =>
      if !live s || !locUp s r.loc then .next s
      else
        let s1 := setRing (heardAt s r.loc) k id r
        if instFrozen s (ringInst s k id) then .next (setRing s1 k id { r with reading := none })
        else match r.recallAt, r.state with
        | some (i, n), .recalling => .next (tpeSettle (recallRead s1 k id r h i n x))
        | none, .enabled => .next (tpeSettle (headRead s1 k id r h x))
        | _, _ => .next s1

/-! ### RECALL_FIRST (R138) -/

/-- A write to RECALL_FIRST, and what a failed hand-back makes of its ring's owner. (DEDUCED in part: assumption 37) -/
def recallWrite (s : State) (inst first : Nat) : State :=
  match recallTarget s inst with
  | some (k, id) => tpeSettle (settleRing (recallFirst s inst first) k id)
  | none => recallFirst s inst first

/-- RECALL_FIRST. -/
def execRecallFirst (inst first : Nat) (s : State) : Result :=
  let s := heardBell s
  .next (if live s then recallWrite s inst first else s)

/-! ### Translations that end (R262, R263, R269, R271) -/

/-- One access whose translation has ended. -/
def resumeOne (s : State) (r : Waiting × Xlat) : State :=
  match r.1.owner with
  | .sqRead qpn slot => sqSource s qpn slot r.2
  | .rxPkt qpn psn =>
    let op := ((tget s.qps qpn).bind fun q => (recOf q psn).bind (·.pkt)).elim 0 (·.op)
    if op = 4 then placeResp s qpn psn r.2 false else placeWrite s qpn psn r.2 false
  | .respRead qpn tag => placeReq s qpn tag r.2 false
  | .tpe ctx slot part => tpeAdvance (tpeAccess s ctx slot part r.2) ctx slot
  | .lookaside inst part => laAccess s inst part r.2

/-- An inbound access that waits on a miss is handled by its queue pair's MISS_MODE (R272). -/
def noteMiss (s : State) (w : Waiting) : State :=
  match w.owner with
  | .rxPkt qpn psn =>
    let op := ((tget s.qps qpn).bind fun q => (recOf q psn).bind (·.pkt)).elim 0 (·.op)
    if op = 4 then s else rxMiss s qpn psn w.owner
  | .respRead qpn tag => match (tget s.qps qpn).bind fun q => respOf q tag with
    | some r => rxMiss s qpn r.psn w.owner
    | none => s
  | _ => s

/-- Accesses whose translation has ended go on, and those that now wait on a page are noted. -/
def resume (r : State × Settled) : State :=
  let s1 := r.2.foldl resumeOne r.1
  tpeSettle ((s1.waits.filter fun w => !w.missed.isEmpty).foldl noteMiss s1)

/-- MIRROR_WALK_DONE: the walk of a waiting access completes. -/
def execMirrorWalkDone (id : Nat) (m : Meets) (s : State) : Result :=
  .next (if live s then underMeets m s fun t => resume (walkDone t id) else s)

/-- ATS_COMPLETION: the ATS answer to a waiting access arrives. -/
def execAtsCompletion (id : Nat) (res : AtsResult) (m : Meets) (s : State) : Result :=
  let s := heardTlp s
  .next (if live s then underMeets m s fun t => resume (atsDone t id res) else s)

/-- PRG_RESPONSE. A control reset holds it back (R435). -/
def execPrgResponse (fn index : Nat) (code : PrgCode) (m : Meets) (s : State) : Result :=
  let s := heardTlp s
  if !live s then .next s
  else if s.ctlReset then .next { s with prgHeld := s.prgHeld ++ [(fn, index, code)] }
  else .next (underMeets m s fun t => resume (prgResponse t fn index code))

/-- PAGE_TIMEOUT_EXPIRE. -/
def execPageTimeoutExpire (inst page : Nat) (s : State) : Result :=
  .next (if running s then resume (pageTimeout s inst page) else s)

/-- PT_UPDATE: `buf` is what the read of SRC returned. -/
def execPtUpdate (slot : Nat) (buf : Option Bytes) (s : State) : Result :=
  .next (startAdmin s slot 0x0301 fun c t => resume (ptUpdate c buf t))

/-! ### DATA_READ_COMPLETE and FLUSH_READ_COMPLETE (R459, R460) -/

/-- A data read or a flushing read has ended: the drains and resets that wait for it go on. -/
def waitEnded (s : State) (id : Nat) : State :=
  drainStep { s with insts := s.insts.map fun r => (r.1, { r.2 with drains := r.2.drains.filter fun x => !(x == id) }) } id

/-- The bytes of a data read for their owner. -/
def handData (s : State) (r : DataRead) (b : Option Bytes) : State :=
  match r.owner with
  | .sqRead qpn slot => sqData s qpn slot r.pieces b
  | .rxPkt _ _ => s
  | .respRead qpn tag => respData s qpn tag r.pieces b false
  | .tpe ctx slot part => tpeAdvance (tpeData s ctx slot part r.pieces b) ctx slot
  | .lookaside inst part => laData s inst part r.pieces b

/-- A data read that the loss of a link cut off waits, and translates again before it is issued again (R67, R273). -/
def readAgain (s : State) (r : DataRead) : State :=
  let need : Need := match r.owner with | .respRead _ _ => .remoteRead | _ => .localRead
  let f := takeFresh { s with reads := s.reads.filter fun x => !(x.id == r.id) }
  addWait f.2
    { id := f.1, inst := r.inst, owner := r.owner, need := need, va := (r.pieces.head?).elim 0 (·.va), len := (r.pieces.map (·.len)).sum
      arose := s.now, walked := false, missed := [], again := [], fresh := [], got := [] }

/-- DATA_READ_COMPLETE: the completions of a data read arrive, pool pieces read with them; `none` where one failed. While the link of an A port
it reads from is down, it neither ends nor fails: it is made again (R67). -/
def execDataReadComplete (id : Nat) (bytes : Option Bytes) (m : Meets) (s : State) : Result :=
  if !live s then .next s
  else match s.reads.find? fun r => r.id == id with
    | none => .next (waitEnded s id)
    | some r =>
      let down (p : Piece) : Bool := p.port != 0 && p.port != 5 && !aLinkUp s (p.port - 1)
      if r.pieces.any down then .next (if bytes.isNone then waitEnded (readAgain s r) id else s)
      else
      let s0 := if r.pieces.any fun p => p.port == 0 then heardTlp s else s
      let s1 := { s0 with reads := s.reads.filter fun x => !(x.id == id) }
      .next (underMeets m s1 fun t => tpeSettle (waitEnded (handData t r (bytes.bind (gather t r.inst r.pieces))) id))

/-- What a flushing read was issued for goes on. -/
def flushEnded (s : State) (f : Flush) : State :=
  match f.why with
  | .ack qpn => ackFlushed s qpn f.id
  | .handBack k id slot => match getRing s k id with
    | none => s
    | some r =>
      let s1 := setRing s k id { r with
        taken := r.taken.map fun t => if t.slot = slot then { t with gate := t.gate.filter fun x => !(x == f.id) } else t }
      fetchRing (settleRing s1 k id) k id
  | .cq n => match tget s.cqs n with
    | some c => raiseVector s c.inst c.vector
    | none => s
  | .tpe ctx slot => modRun s ctx slot fun r => { r with flushes := r.flushes.filter fun x => !(x == f.id) }
  | .invalidate => s
  | .drain _ => s
  | .lookaside inst =>
    let s1 := modLa s inst fun r => { r with flushes := r.flushes.filter fun x => !(x == f.id) }
    match laRunOf s1 inst with
    | some r => if r.made && r.outs.isEmpty && r.flushes.isEmpty then laEnd s1 inst r.status 0 else s1
    | none => s1

/-- The flushing read of a drain (R273, R384): one that times out counts as complete. -/
def drainsOnly (f : Flush) : Bool := match f.why with | .invalidate | .drain _ => true | _ => false

/-- FLUSH_READ_COMPLETE: a flushing read completes, or times out. A drain counts one that timed out as complete (R273); what R153, R459 and
R460 make wait goes on only when one has completed, so the read is issued again. While its A port's link is down none completes.
(DEDUCED in part: assumption 76) -/
def execFlushReadComplete (id : Nat) (timedOut : Bool) (s : State) : Result :=
  if !live s then .next s
  else match s.flushes.find? fun f => f.id == id with
    | none => .next (waitEnded s id)
    | some f =>
      let down := f.port != 0 && !aLinkUp s (f.port - 1)
      if timedOut && !drainsOnly f then .next (tpeSettle (waitEnded (if down then s else emit s (.flushRead f.port id)) id))
      else if down && !timedOut then .next s
      else
        let s1 := { heardAt s f.port with flushes := s.flushes.filter fun x => !(x.id == id) }
        .next (tpeSettle (waitEnded (flushEnded s1 f) id))

/-! ### A link that comes back (R96, R144, Table 3-4) -/

/-- Reports held for a CQ are written as far as they can be. -/
def releaseReports : Nat → State → Nat → State
  | 0, s, _ => s
  | fuel + 1, s, n => releaseReports fuel (releaseReport s n) n

/-- Rings and CQs behind A port `n` go on. -/
def resumePort (s : State) (n : Nat) : State :=
  let here (t : State) (r : RingKind × Nat) : Bool := (getRing t r.1 r.2).any fun x => x.loc == n + 1
  let s0 := releasePort s n
  let s1 := (allRings s0).foldl (fun t r => if here t r then settleRing (recallGo (settleRing t r.1 r.2) r.1 r.2) r.1 r.2 else t) s0
  let s2 := (s1.cqs.filter fun r => r.2.loc == n + 1).foldl (fun t r => releaseReports r.2.held.length t r.1) s1
  tpeSettle (kickRings s2)

/-- APORT_LINK_UP: the link reaches L0. The first time, enumeration begins (R96 step 3). -/
def execAportLinkUp (n : Nat) (s : State) : Result :=
  if !live s || 4 ≤ n || !s.clocks.good.getLsbD (n + 1) || aLinkUp s n then .next s
  else match (aport s n).phase with
    | .training => .next (setAport s n fun a => { a with phase := .enumerating, since := s.now, linkUp := true })
    | .enumerating => .next (setAport s n fun a => { a with linkUp := true })
    | .inService => .next (resumePort (setAport s n fun a => { a with linkUp := true }) n)
    | _ => .next s

/-! ### The end of a control reset (R435) -/

/-- Page responses held back are served in the order they came. -/
def payResponses (s : State) : State :=
  s.prgHeld.foldl (fun t p => resume (prgResponse t p.1 p.2.1 p.2.2)) { s with prgHeld := [] }

/-- CONTROL_RESET_DONE: the firmware runs again. -/
def execControlResetDone (s : State) : Result :=
  if !running s || !s.ctlReset then .next s
  else
    let s1 := { s with
      ctlReset := false
      start := { s.start with fwRunning := s.start.imageAt.isSome, fwDeadline := none }
      wdt := { s.wdt with since := s.now } }
    .next (checkReady (payReport (endDrains (payResponses (relaysAgain s1)))))

end Sys2Proof.Machine
end

