-- ==== Sys2Proof/Machine/Registers.lean ====
section
/-!
DEFINITION. The register windows (5.2, 5.3): where an access goes, what a read returns, what a write does, and configuration requests on
the H port (R80).
-/

namespace Sys2Proof.Machine

/-! ### Halt and resume, as the HALT and RESUME bits see them (R481, R482) -/

/-- A write of 1 to HALT. (DEDUCED in part: assumption 33) -/
def dbgHalt (s : State) : State := { s with halted := true, dbg := { s.dbg with everHalted := true } }

/-- The action of a clock loss (true) or restoration that a halt held back. -/
def payClock (s : State) (o : Nat × Bool) : State := if o.2 then clockLost s o.1 else clockRestored s o.1

/-- A write of 1 to RESUME: requests held back leave, and what the clock monitors found follows. A halt by boundary scan ends only
with a full reset (R478). A hold whose condition is gone starts again. -/
def dbgResume (s : State) : State :=
  if !s.halted || s.dbg.scanHalt then s
  else
    let s1 := s.heldOut.foldl sendOut { s with halted := false, heldOut := [], dbg := { s.dbg with owed := [] } }
    kickRings (admFetch (s.dbg.owed.foldl payClock s1))

/-! ### Where an access goes (Tables 5-2 and 5-3, R108 to R111) -/

/-- The page of the instance for which `p` holds. -/
def pageBy (s : State) (p : Inst → Bool) (off : Nat) : Option RegPlace :=
  (s.insts.find? fun r => p r.2).map fun r => .page r.1 off

/-- A place in PF BAR0. -/
def pfPlace (s : State) (secure : Bool) (pasid : Option Nat) (off : Nat) : Option RegPlace :=
  if off < 0x100000 then some (.gctl off)
  else if off < 0x200000 then some (.adm (off - 0x100000))
  else if off < 0x300000 then (if secure then some (.secure ((off - 0x200000) / 0x10000) (off % 0x10000)) else none)
  else if off < 0x400000 then some (.pfMbx ((off - 0x300000) / 0x10000) (off % 0x10000))
  else if off < 0x500000 then some (.trc (off - 0x400000))
  else if 0x800000 ≤ off && off < 0xC00000 then (if secure then some (.dbg (off - 0x800000)) else none)
  else if 0xF00000 ≤ off && off < 0xF10000 then
    match pasid with
    | some p => pageBy s (fun x => !x.fn && x.pasid == p) (off - 0xF00000)
    | none => none
  else none

/-- The PF BAR0 reads that Table 4-17 keeps in Perch. -/
def perchReads : List Nat := [0x100, 0x104, 0x108, 0x10C, 0x110, 0x114, 0x118, 0x200, 0x204, 0x208, 0x210]

/-- The place of one 32-bit access; none where it is outside permission. (DEDUCED in part: assumption 75) -/
def regPlace (s : State) (src : AccessSrc) (write : Bool) (off : Nat) : Option RegPlace :=
  let perch := s.start.stage == 0xF
  match src with
  | .dap => pfPlace s true none off
  | .smbus => if perch || !(0x200000 ≤ off && off < 0x300000) then none else pfPlace s true none off
  | .hPf pasid => if perch && (write || !perchReads.contains off) then none else pfPlace s false pasid off
  | .hVf vf => if perch || 0x10000 ≤ off then none else pageBy s (fun x => x.fn && x.vf == vf) off
  | .aPort port inst =>
    if perch || s.pm.state = 2 || 0x10000 ≤ off then none
    else if (tget s.insts inst).any fun x => x.apage == port + 1 then some (.page inst off) else none

/-! ### Reads -/

/-- GCTL_CLK_STATUS (Table 3-5). -/
def clkStatus (s : State) : Word :=
  BitVec.ofNat 32 (s.clocks.good.toNat + s.clocks.lostSeen.toNat * 2 ^ 16 + s.clocks.oscCal.toNat * 2 ^ 23)

/-- GCTL_PACE_STATUS (Table 3-1). -/
def paceStatus (s : State) : Word :=
  BitVec.ofNat 32 (s.power.coreMv.toNat + s.power.marginPct.toNat * 2 ^ 16 + s.power.atCeiling.toNat * 2 ^ 24
    + s.power.glideTarget.toNat * 2 ^ 25)

/-- GCTL_POWER_STATUS (Table 18-4). -/
def powerStatus (s : State) : Word :=
  BitVec.ofNat 32 ((if s.start.stage == 0xF then 3 else s.pm.state) + s.pm.throttled.toNat * 4 + s.pm.glideReq.toNat * 8
    + s.pm.loadExit.toNat * 16)

/-- The low or the high half of a 64-bit value. -/
def half (v : BitVec 64) (high : Bool) : Word := if high then v.extractLsb' 32 32 else v.extractLsb' 0 32

/-- GCTL (Tables 3-1, 3-5, 3-7, 4-2, 4-15, 5-4, 17-7, 18-4, R103). -/
def gctlRead (s : State) (off : Nat) : Word :=
  match off with
  | 0x000 => Config.ident s.a1
  | 0x100 => startStatus s
  | 0x104 => unitMap s
  | 0x108 => s.start.perchCause.zeroExtend 32
  | 0x10C => s.start.perchInfo
  | 0x110 => half (match img s with | some i => i.buildId | none => 0) false
  | 0x114 => half (match img s with | some i => i.buildId | none => 0) true
  | 0x118 => match img s with | some i => i.digest | none => 0
  | 0x120 => s.epoch.zeroExtend 32
  | 0x200 => half s.time.dev false
  | 0x204 => half s.time.captured true
  | 0x208 => BitVec.ofNat 32 (timeStateCode s.time.state + s.time.trusted.toNat * 4 + s.time.offsetNs.toNat * 2 ^ 16)
  | 0x210 => clkStatus s
  | 0x218 => paceStatus s
  | 0x220 => powerStatus s
  | 0x300 => s.wdt.periodMs.zeroExtend 32
  | 0x304 => BitVec.ofNat 32 (s.wdt.enabled.toNat + (wdtInternal s).toNat * 2 + (wdtClkGood s).toNat * 4)
  | _ => 0

/-- ADM (Table 5-5). -/
def admRead (s : State) (off : Nat) : Word :=
  let a := s.adm
  match off with
  | 0x00 => half a.ringBase false
  | 0x04 => half a.ringBase true
  | 0x08 => half a.evtBase false
  | 0x0C => half a.evtBase true
  | 0x10 => BitVec.ofNat 32 (a.ringLog2.toNat + a.evtLog2.toNat * 16 + a.enable.toNat * 256)
  | 0x14 => a.seqBase
  | 0x20 => BitVec.ofNat 32 (a.enabled.toNat + a.evtOverflow.toNat * 2 + a.head.toNat * 16 + a.cmds.length * 2 ^ 16)
  | 0x24 => a.seqNext
  | 0x28 => a.evtSeq
  | _ => 0

/-- TRC (Table 18-12). -/
def trcRead (s : State) (off : Nat) : Word :=
  match off with
  | 0x0 => BitVec.ofNat 32 (s.trace.running.toNat + s.trace.suspended.toNat * 2)
  | 0x4 => s.trace.writeSeq
  | 0x8 => s.trace.readSeq
  | 0xC => BitVec.ofNat 32 s.trace.lost
  | _ => 0

/-- DBG (Table 20-7). -/
def dbgRead (s : State) (off : Nat) : Word :=
  match off with
  | 0x0 => BitVec.ofNat 32 s.halted.toNat
  | 0x4 => BitVec.ofNat 32 (s.halted.toNat + s.dbg.everHalted.toNat * 2)
  | _ => 0

/-- An instance page (Tables 5-3, 6-4 and 6-7). (DEDUCED in part: assumption 86) -/
def pageRead (s : State) (i off : Nat) : Word :=
  let p := pageOf s i
  if (tget s.insts i).isNone then 0
  else if 0x8000 ≤ off && off < 0xC000 then
    match tget s.insts i with
    | some x => chanRead x.mbx false (off - 0x8000)
    | none => 0
  else match off with
    | 0x7F00 => p.recallRing
    | 0x7F08 => BitVec.ofNat 32 (p.busy.toNat + p.refused.toNat * 2 + p.collided.toNat * 4)
    | 0x7F0C => p.firstRecalled.zeroExtend 32
    | 0x7F10 => p.recallCount.zeroExtend 32
    | 0xC000 => half p.vecPending false
    | 0xC004 => half p.vecPending true
    | 0xC010 => BitVec.ofNat 32 (p.stallCqn.toNat + p.stallValid.toNat * 2 ^ 31)
    | 0xC014 => BitVec.ofNat 32 (p.errorCqn.toNat + p.errorValid.toNat * 2 ^ 31)
    | _ => 0

/-- The word at a place, and what reading it does: GCTL_TIME_LO captures device time (R78). -/
def placeRead (s : State) : RegPlace → Word × State
  | .gctl off => (gctlRead s off, if off = 0x200 then readTimeLo s else s)
  | .adm off => (admRead s off, s)
  | .secure k off => (match s.secMbx[k]? with | some c => chanRead c true off | none => 0, s)
  | .pfMbx k off => (match s.pfMbx[k]? with | some c => chanRead c false off | none => 0, s)
  | .trc off => (trcRead s off, s)
  | .dbg off => (dbgRead s off, s)
  | .page i off => (pageRead s i off, s)

/-- One aligned 32-bit read; outside permission it returns zero. -/
def regRead (s : State) (src : AccessSrc) (off : Nat) : Word × State :=
  match regPlace s src false off with
  | some p => placeRead s p
  | none => (0, s)

/-- A read of `size` bytes at an offset of a window (R109): 4 aligned bytes, or 8 aligned bytes as two reads, the lower address first;
any other size or alignment is outside permission and returns zero. -/
def mmioRead (s : State) (src : AccessSrc) (off size : Nat) : BitVec 64 × State :=
  if size = 4 && off % 4 == 0 then
    let r := regRead s src off
    (r.1.zeroExtend 64, r.2)
  else if size = 8 && off % 8 == 0 then
    let lo := regRead s src off
    let hi := regRead lo.2 src (off + 4)
    (hi.1 ++ lo.1, hi.2)
  else (0, s)

/-! ### Writes -/

/-- GCTL: CLK_LOST_SEEN is cleared by ones, and the watchdog's register is written once. -/
def gctlWrite (s : State) (off : Nat) (w : Word) : State :=
  match off with
  | 0x210 => { s with clocks := { s.clocks with lostSeen := s.clocks.lostSeen &&& ~~~w.extractLsb' 16 7 } }
  | 0x300 => wdtWrite s w
  | _ => s

/-- ADM (Table 5-5, R115, R116). -/
def admWrite (s : State) (off : Nat) (w : Word) : State :=
  match off with
  | 0x00 => admConfig s fun a => { a with ringBase := a.ringBase.extractLsb' 32 32 ++ (w &&& 0xFFFFF000) }
  | 0x04 => admConfig s fun a => { a with ringBase := w ++ a.ringBase.extractLsb' 0 32 }
  | 0x08 => admConfig s fun a => { a with evtBase := a.evtBase.extractLsb' 32 32 ++ (w &&& 0xFFFFF000) }
  | 0x0C => admConfig s fun a => { a with evtBase := w ++ a.evtBase.extractLsb' 0 32 }
  | 0x10 => admCtrlWrite s w
  | 0x14 => admConfig s fun a => { a with seqBase := w }
  | 0x18 => admDoorbell s
  | 0x1C => evtReturn s (fld w 0 15 0)
  | 0x20 => if w.getLsbD 1 then { s with adm := { s.adm with evtOverflow := false } } else s
  | _ => s

/-- DBG: HALT and RESUME. -/
def dbgWrite (s : State) (off : Nat) (w : Word) : State :=
  if off != 0 then s
  else
    let s1 := if w.getLsbD 0 then dbgHalt s else s
    if w.getLsbD 1 then dbgResume s1 else s1

/-- The doorbells of Table 6-4, for rings that the writing instance owns (R130). -/
def sqDoorbell (s : State) (inst qpn : Nat) : State :=
  if pageOpen s inst && (tget s.qps qpn).any (·.inst == inst) then ringDoorbell s .sq qpn else s

def rqDoorbell (s : State) (inst qpn : Nat) : State :=
  if pageOpen s inst && (tget s.qps qpn).any (·.inst == inst) then ringDoorbell s .rq qpn else s

def tpeDoorbell (s : State) (inst ctx : Nat) : State :=
  if pageOpen s inst && (tget s.ctxs ctx).any (·.inst == inst) then ringDoorbell s .tpe ctx else s

/-- An instance page. -/
def pageWrite (s : State) (i off : Nat) (w : Word) : State :=
  if !pageOpen s i then s
  else if 0x8000 ≤ off && off < 0xC000 then chanWrite s (.inst i) (off - 0x8000) w
  else match off with
    | 0x0000 => sqDoorbell s i (fld w 0 19 0)
    | 0x0008 => rqDoorbell s i (fld w 0 19 0)
    | 0x0010 => tpeDoorbell s i (fld w 0 7 0)
    | 0x0018 => cqReturn s i (fld w 0 17 0) (fld w 0 31 18)
    | 0x0020 => cqArm s i (fld w 0 17 0)
    | 0x7F00 => if (ringNamed s i w).isNone then s else modPage s i fun p => { p with recallRing := w &&& 0x003FFFFF }
    | 0x7F04 => recallWrite s i (fld w 0 15 0)
    | 0x7F08 => modPage s i fun p => { p with collided := p.collided && !w.getLsbD 2 }
    | 0xC000 => modPage s i fun p => { p with vecPending := p.vecPending &&& ~~~((0 : Word) ++ w) }
    | 0xC004 => modPage s i fun p => { p with vecPending := p.vecPending &&& ~~~(w ++ (0 : Word)) }
    | 0xC010 => modPage s i fun p => { p with stallValid := p.stallValid && !w.getLsbD 31 }
    | 0xC014 => modPage s i fun p => { p with errorValid := p.errorValid && !w.getLsbD 31 }
    | _ => s

/-- What a write does at a place. -/
def regPlaceWrite (s : State) (w : Word) : RegPlace → State
  | .gctl off => gctlWrite s off w
  | .adm off => admWrite s off w
  | .secure k off => chanWrite s (.secure k) off w
  | .pfMbx k off => chanWrite s (.pf k) off w
  | .trc _ => s
  | .dbg off => dbgWrite s off w
  | .page i off => pageWrite s i off w

/-- One aligned 32-bit write; outside permission it does nothing. -/
def regWrite (s : State) (src : AccessSrc) (off : Nat) (w : Word) : State :=
  match regPlace s src true off with
  | some p => regPlaceWrite s w p
  | none => s

/-- The offset is a doorbell's or a mailbox channel's, in an instance page (Table 5-3). -/
def bellInPage (off : Nat) : Bool := decide (off < 0x7F00) || (decide (0x8000 ≤ off) && decide (off < 0xC000))

/-- Doorbell and mailbox writes that a write of an A port or the H port makes: one a 32-bit word (R447). -/
def bellAt (src : AccessSrc) (off : Nat) : Bool :=
  match src with
  | .hPf _ => off == 0x100018 || (decide (0x300000 ≤ off) && decide (off < 0x400000)) || (decide (0xF00000 ≤ off) && bellInPage (off - 0xF00000))
  | .hVf _ | .aPort _ _ => bellInPage off
  | .smbus | .dap => false

/-- The access has been received. -/
def heardAccess (s : State) (src : AccessSrc) (off : Nat) : State :=
  let s1 := match src with
    | .hPf _ | .hVf _ => heardTlp s
    | _ => s
  if bellAt src off then heardBells s1 1 else s1

/-- REGISTER_WRITE: `size` bytes at an offset of the window; a 64-bit write acts as two, the lower address first (R109). -/
def execRegisterWrite (src : AccessSrc) (off size : Nat) (value : BitVec 64) (s : State) : Result :=
  let s := heardAccess s src off
  if s.power.phase != .up || off % 4 != 0 then .next s
  else if size = 4 then .next (regWrite s src off (half value false))
  else if size = 8 && off % 8 == 0 then .next (regWrite (regWrite s src off (half value false)) src (off + 4) (half value true))
  else .next s

/-- SQ_DOORBELL, RQ_DOORBELL and TPE_DOORBELL (R132). (DESIGN CHOICE in part: assumption 79) -/
def execSqDoorbell (inst qpn : Nat) (s : State) : Result :=
  let s := heardBell s
  .next (if live s then sqDoorbell s inst qpn else s)

def execRqDoorbell (inst qpn : Nat) (s : State) : Result :=
  let s := heardBell s
  .next (if live s then rqDoorbell s inst qpn else s)

def execTpeDoorbell (inst ctx : Nat) (s : State) : Result :=
  let s := heardBell s
  .next (if live s then tpeDoorbell s inst ctx else s)

/-- DBG_HALT and DBG_RESUME: writes of 1 to HALT and RESUME, over the debug access port. -/
def execDbgHalt (s : State) : Result := .next (if s.power.phase == .up then dbgHalt s else s)

def execDbgResume (s : State) : Result := .next (if s.power.phase == .up then dbgResume s else s)

/-! ### Configuration requests (R80, Table 5-1) -/

def fnNumber : Fn → Nat
  | .pf => 0
  | .vf n => n

/-- TotalVFs: MAX_VFS of the accepted image. -/
def totalVfs (s : State) : Nat := match img s with | some i => i.maxVfs | none => 0

/-- Sends the pending messages of a function that are no longer masked; in Perch none is sent (R104). -/
def msixFlush (s : State) (n : Nat) : State :=
  let m := (fnOf s n).msix
  if !m.enabled || m.maskAll || s.start.stage == 0xF then s
  else
    let go := m.pending.filter fun v => !m.masked.contains v
    let s1 := modFn s n fun f => { f with msix := { f.msix with pending := f.msix.pending.filter fun v => m.masked.contains v } }
    go.foldl (fun t v => emit t (.msix n v)) s1

/-- The base address registers (R107): PF BAR0 of 16 MiB, VF BAR0 of 64 KiB for each VF, 64-bit and non-prefetchable; no other BAR. The
bits below the size are fixed. -/
def writeBar (s : State) (vf : Bool) (n : Nat) (w : Word) : State :=
  match vf, n with
  | false, 0 => { s with pfBar := s.pfBar.extractLsb' 32 32 ++ (w &&& 0xFF000000) }
  | false, 1 => { s with pfBar := w ++ s.pfBar.extractLsb' 0 32 }
  | true, 0 => { s with vfBar := s.vfBar.extractLsb' 32 32 ++ (w &&& 0xFFFF0000) }
  | true, 1 => { s with vfBar := w ++ s.vfBar.extractLsb' 0 32 }
  | _, _ => s

/-- What a read of a base address register returns: bits [2:1] read 0b10 for 64 bits, bit [3] reads 0 for non-prefetchable. -/
def readBar (s : State) (vf : Bool) (n : Nat) : Word :=
  match n with
  | 0 => half (if vf then s.vfBar else s.pfBar) false ||| 4
  | 1 => half (if vf then s.vfBar else s.pfBar) true
  | _ => 0

/-- The effect of a configuration request. (PRESUMED in part: assumption 27) -/
def configure (s : State) : ConfigReq → State
  | .setVfs enable n =>
    if s.vfEnable then (if enable then s else { vfEnableClear s with numVfs := n })
    else if totalVfs s < n then s
    else
      let s1 := { s with numVfs := n, vfEnable := enable }
      if enable then { s1 with fns := s1.fns.filter (·.1 == 0) ++ (List.range n).map fun k => (k + 1, FnState.reset 64) } else s1
  | .msixControl fn enable maskAll =>
    let n := fnNumber fn
    msixFlush (modFn s n fun f => { f with msix := { f.msix with enabled := enable, maskAll := maskAll } }) n
  | .msixMask fn v masked =>
    let n := fnNumber fn
    let put (l : List Nat) : List Nat := if masked then (if l.contains v then l else l ++ [v]) else l.filter fun x => !(x == v)
    msixFlush (modFn s n fun f => { f with msix := { f.msix with masked := put f.msix.masked } }) n
  | .ats fn enable =>
    let n := fnNumber fn
    let s1 := modFn s n fun f => { f with ats := enable }
    if enable then s1 else { s1 with ats := s1.ats.filter fun e => instFn s1 e.inst != n }
  | .pri fn enable reset alloc =>
    let n := fnNumber fn
    let clears := reset && !enable
    let s1 := modFn s n fun f => { f with pri := enable, alloc := alloc, stopped := f.stopped && !clears }
    if clears then
      { s1 with pageReqs := (s1.pageReqs.filter fun r => !(r.settled && instFn s1 r.inst == n)).map fun r =>
          if instFn s1 r.inst == n then { r with issued := false, waited := true } else r }
    else s1
  | .pasid fn enable => modFn s (fnNumber fn) fun f => { f with pasid := enable }
  | .deviceControl payload readReq relaxed => { s with payload := payload, readReq := readReq, relaxed := relaxed }
  | .aspmL1 enable => { s with aspmL1 := enable }
  | .writeBar vf n w => writeBar s vf n w
  | .readTotalVfs | .readPriCapacity _ | .readBar _ _ | .other => s

/-- The value a configuration read returns: TotalVFs, the 512 outstanding page requests each function can have (R268), a base address
register; 0 stands for a request whose value no rule names. -/
def configValue (s : State) : ConfigReq → Nat
  | .readTotalVfs => totalVfs s
  | .readPriCapacity _ => 512
  | .readBar vf n => (readBar s vf n).toNat
  | _ => 0

/-- CONFIG_REQUEST: Request Retry Status until t_i, then success (R80). Perch serves configuration space too (Table 4-17). -/
def execConfigRequest (r : ConfigReq) (s : State) : Result :=
  let s := heardTlp s
  if !s.power.hLinkUp then .next s
  else if (img s).isNone && s.start.stage != 0xF then .next (emit s (.config true 0))
  else
    .next (emit (configure s r) (.config false (configValue s r)))

end Sys2Proof.Machine
end

