-- ==== Sys2Proof/Machine/Debug.lean ====
section
/-!
DEFINITION. Boundary scan and the debug access port (20.4, 20.5).
-/

namespace Sys2Proof.Machine

def ackOk : BitVec 3 := 1
def ackWait : BitVec 3 := 2
def ackFault : BitVec 3 := 4

/-- The word of a little-endian byte memory at an address. -/
def memWord (m : List (Nat × Byte)) (a : Nat) : Word := BitVec.ofNat 32 (leNat (memRead m a 4))

/-! ### Pool memory, as stored (R480) -/

/-- The answer that keeps a transfer from reaching the stack: WAIT during the scrub and while a stack leaves self-refresh, FAULT where it
stopped responding. -/
def poolAck (s : State) (a : Nat) : BitVec 3 :=
  if !s.start.scrubDone then ackWait
  else if (stackOf s a).any fun n => s.pool.stackOut.getLsbD n then ackFault
  else if s.pm.state = 2 && s.dbg.wakeTill.isNone then ackWait
  else ackOk

/-- A debug write: its bytes with valid ECC; a clear block of the allocatable pool is zeroed around them and its flag set. -/
def poolPoke (s : State) (a : Nat) (w : Word) : State :=
  let blk := a / 4096
  let clear := decide (a < reserveBase s) && !writtenFlag s blk
  let mem := if clear then memZero s.pool.mem (4096 * blk) 4096 else s.pool.mem
  { s with pool := { s.pool with
      mem := memWrite mem a (leBytes 4 w.toNat)
      written := if clear then blk :: s.pool.written else s.pool.written
      failed := s.pool.failed.filter fun l => if clear then l / 64 != blk else l != a / 64 } }

/-- A transfer of SPACE 1. Before the training of the stacks ends there is no memory behind an address: OK, zero, nothing written.
(DEDUCED in part: assumption 73) -/
def dapPool (s : State) (r : DapReq) : State :=
  if !s.start.trained || stackOf s r.addr = none then emit s (.dap ackOk 0)
  else
    let ack := poolAck s r.addr
    if ack = ackWait && s.start.scrubDone then emit { s with dbg := { s.dbg with wakeTill := some s.now } } (.dap ack 0)
    else if ack != ackOk then emit s (.dap ack 0)
    else
      let s1 := { s with dbg := { s.dbg with wakeTill := none } }
      if r.write then emit (poolPoke s1 r.addr r.data) (.dap ack 0) else emit s1 (.dap ack (memWord s1.pool.mem r.addr))

/-! ### Keys and die SRAM (Table 20-6) -/

/-- Four bytes of a list at an offset; beyond its end zeros. -/
def wordIn (bs : Bytes) (off : Nat) : Word := BitVec.ofNat 32 (leNat (slice bs off 4))

/-- A list with the bytes of a word put in at an offset; what lies beyond its end is dropped. -/
def pokeWord (bs : Bytes) (off : Nat) (w : Word) : Bytes := (bs.take off ++ leBytes 4 w.toNat ++ bs.drop (off + 4)).take bs.length

/-- The word at an address of SPACE 2. (DESIGN CHOICE in part: assumption 15) -/
def storePeek (s : State) (a : Nat) : Word :=
  if a < 0x100000 then
    match tget s.cipher.keys (a / 64) with
    | some k => if a % 64 < k.key.length then wordIn k.key (a % 64) else memWord s.dbg.keyMem a
    | none => memWord s.dbg.keyMem a
  else if a < 0x100020 then
    match s.cipher.ctxKey with
    | some k => wordIn (leBytes 32 k.toNat) (a - 0x100000)
    | none => memWord s.dbg.keyMem a
  else if a < 0x100040 then
    match s.cipher.migKey with
    | some k => wordIn (leBytes 32 k.1.toNat) (a - 0x100020)
    | none => memWord s.dbg.keyMem a
  else if 0x1000000 ≤ a && a < 0x11000000 then
    BitVec.ofNat 32 (leNat ((List.range 4).map fun i => (tget s.dbg.sram (a + i)).getD (Config.sramByte (a + i))))
  else 0

/-- A key with a word of it replaced. -/
def pokeKey (k : BitVec 256) (off : Nat) (w : Word) : BitVec 256 := BitVec.ofNat 256 (leNat (pokeWord (leBytes 32 k.toNat) off w))

/-- A debug write into bytes of the key store that hold no key: they are kept as written. -/
def keyMemPoke (s : State) (a : Nat) (w : Word) : State :=
  { s with dbg := { s.dbg with keyMem := memWrite s.dbg.keyMem a (leBytes 4 w.toNat) } }

/-- A write of SPACE 2 reaches every byte (R480). A key the device does not hold is not made by it: its bytes are kept apart.
(DESIGN CHOICE in part: assumption 61) -/
def storePoke (s : State) (a : Nat) (w : Word) : State :=
  if a < 0x100000 then
    match tget s.cipher.keys (a / 64) with
    | some k =>
      if a % 64 < k.key.length then modCipher s fun c => { c with keys := tput c.keys (a / 64) { k with key := pokeWord k.key (a % 64) w } }
      else keyMemPoke s a w
    | none => keyMemPoke s a w
  else if a < 0x100020 then
    match s.cipher.ctxKey with
    | some _ => modCipher s fun c => { c with ctxKey := c.ctxKey.map fun k => pokeKey k (a - 0x100000) w }
    | none => keyMemPoke s a w
  else if a < 0x100040 then
    match s.cipher.migKey with
    | some _ => modCipher s fun c => { c with migKey := c.migKey.map fun k => (pokeKey k.1 (a - 0x100020) w, k.2) }
    | none => keyMemPoke s a w
  else if 0x1000000 ≤ a && a < 0x11000000 then
    { s with dbg := { s.dbg with sram := (List.range 4).foldl (fun t i => tput t (a + i) ((leBytes 4 w.toNat).getD i 0)) s.dbg.sram } }
  else s

/-! ### DAP_TRANSFER (R479, Table 20-5) -/

/-- A transfer whose parity holds. A read outside its space returns zero, and a write there does nothing. -/
def dapRun (s : State) (r : DapReq) : State :=
  if r.addr % 4 != 0 then emit s (.dap ackOk 0)
  else match r.space.toNat with
    | 0 =>
      if 0x1000000 ≤ r.addr then emit s (.dap ackOk 0)
      else if r.write then emit (regWrite s .dap r.addr r.data) (.dap ackOk 0)
      else let x := mmioRead s .dap r.addr 4; emit x.2 (.dap ackOk (half x.1 false))
    | 1 => dapPool s r
    | 2 => if r.write then emit (storePoke s r.addr r.data) (.dap ackOk 0) else emit s (.dap ackOk (storePeek s r.addr))
    | _ => emit s (.dap ackOk 0)

/-- DAP_TRANSFER. -/
def execDapTransfer (r : DapReq) (parityOk : Bool) (s : State) : Result :=
  if s.power.phase != .up then .next s
  else if !parityOk then .next (emit s (.dap ackFault 0))
  else .next (dapRun s r)

/-! ### TAP_INSTRUCTION (R477, R478) -/

/-- The place of an instruction in R477's list. -/
def tapCode : TapInstr → Nat
  | .bypass => 0
  | .idcode => 1
  | .sample => 2
  | .preload => 3
  | .extest => 4
  | .clamp => 5
  | .highz => 6
  | .other => 7

/-- The IDCODE of stepping A1 (Table 20-8) or B0 (R478). (DEDUCED in part: assumption 74) -/
def idcode (a1 : Bool) : Word := if a1 then 0x14800A4F else 0x24800A4F

/-- TAP_INSTRUCTION: the TAP's balls are of the main domain, so nothing is loaded while its rails are down (R27). IDCODE shifts the code out; EXTEST, CLAMP and HIGHZ take the balls away and halt the device until a full reset. -/
def execTapInstruction (code : TapInstr) (s : State) : Result :=
  if !mainUp s then .next s
  else
    let s1 := { s with dbg := { s.dbg with irLoaded := tapCode code } }
    match code with
    | .idcode => .next (emit s1 (.tapData (idcode s.a1)))
    | .extest | .clamp | .highz => let s2 := dbgHalt s1; .next { s2 with dbg := { s2.dbg with scanHalt := true } }
    | _ => .next s1

end Sys2Proof.Machine
end

