-- ==== Sys2Proof/Machine/Faults.lean ====
section
/-!
DEFINITION. Faults of pool memory (R288 to R291), faults in the state reserve (Table 20-2), and errors that AER reports.
-/

namespace Sys2Proof.Machine

/-! ### Faults in the state reserve (R474) -/

/-- A queue pair that a fault strikes enters ERROR with ABORTED, whatever its state. -/
def strikeQp (s : State) (qpn index : Nat) : State :=
  match tget s.qps qpn with
  | none => s
  | some q =>
    let s1 := if q.state == .frozen then modQp s qpn fun x => { x with state := q.frozenFrom } else s
    match (tget s1.qps qpn).elim QpState.error (·.state) with
    | .error => moveQp s1 qpn .error
    | .reset => modQp (moveQp s1 qpn .error) qpn fun x => { x with errStatus := stAborted, errIndex := BitVec.ofNat 16 index, errSet := true }
    | _ => qpError s1 qpn stAborted index

/-- A context that a fault strikes enters ERROR; its oldest open step reports STORE_ECC. -/
def strikeCtx (s : State) (n : Nat) : State :=
  match tget s.ctxs n with
  | none => s
  | some c =>
    let s1 := match c.ring.taken.find? fun t => t.outcome.isNone with
      | some t => endSlot s .tpe n t.slot { status := stAborted, sub := subStoreEcc, bytes := 0, notify := 0 }
      | none => s
    ctxError s1 n none stAborted

/-- The owner of a ring whose context is lost enters its error state. -/
def strikeRing (s : State) (k : RingKind) (id : Nat) : State :=
  match k with
  | .sq | .rq => qpError s id stAborted ((getRing s k id).elim 0 (·.head))
  | .tpe => ctxError s id none stAborted
  | .lookaside => laForget (disableRing s .lookaside id stAborted) id

/-- The consequence for the structure that a failed line holds (Table 20-2). (DEDUCED in part: assumption 71) -/
def strike (s : State) : Reserve → State
  | .qp n => strikeQp s n ((tget s.qps n).elim 0 (·.sq.head))
  | .cq n => cqFail s n
  | .ring k id => strikeRing s k id
  | .dest c =>
    let freed (t : TxPkt) : TxPkt := { t with charge := 0 }
    { s with dests := tdel s.dests c
             qps := s.qps.map fun r => if r.2.remoteCoord = c then (r.1, { r.2 with tx := r.2.tx.map freed }) else r }
  | .ctx n => strikeCtx s n
  | .kettle n => ((s.ctxs.filter fun r => r.2.kettle == some n).map (·.1)).foldl strikeCtx s
  | .sa id =>
    let f := takeFresh s
    let bound := (f.2.qps.filter fun r => r.2.saId == id && r.2.state != .reset).map (·.1)
    bound.foldl (fun t n => strikeQp t n ((Config.unstated f.1).toNat % 65536)) (modSa f.2 id fun a => { a with dead := true })
  | .control => controlReset s
  | .other => s

/-! ### PATROL_SCRUB (R288 to R290) -/

/-- A line found uncorrectable: in the state reserve, the structure it holds is struck. -/
def uncorrectable (s : State) (line stack : Nat) (holds : Reserve) : State :=
  if s.pool.failed.contains line then s
  else
    let s1 := lineLost s line stack
    if reserveBase s ≤ 64 * line then strike (count s1 0 0 27 1) holds else s1

/-- A line of a stack that stopped responding is read: in the state reserve, the structure it holds is struck (R291 has the access fail as in
R289). (DESIGN CHOICE in part: assumption 107) -/
def outOfStack (s : State) (line : Nat) (holds : Reserve) : State :=
  if reserveBase s ≤ 64 * line then
    strike (count { s with pool := { s.pool with failed := line :: s.pool.failed } } 0 0 27 1) holds
  else s

/-- PATROL_SCRUB: pool line `line` is read; `holds` is what it holds where it lies in the state reserve. A pass over a stack ends with
its last line. (PRESUMED in part: assumption 53) (DEDUCED in part: assumption 72) -/
def execPatrolScrub (line : Nat) (fault : LineFault) (holds : Reserve) (s : State) : Result :=
  match stackOf s (64 * line) with
  | none => .next s
  | some stack =>
    if !running s || !s.start.scrubDone || s.pm.state = 2 then .next s
    else if s.pool.stackOut.getLsbD stack then
      .next (if s.pool.failed.contains line then s else outOfStack s line holds)
    else
      let s1 := match fault with
        | .clean => if reserveBase s ≤ 64 * line then { s with pool := { s.pool with failed := s.pool.failed.filter (· != line) } } else s
        | .corrected => corrected s stack
        | .uncorrectable => uncorrectable s line stack holds
      .next (if (line + 1) % 2 ^ 28 = 0 then count s1 3 stack 2 1 else s1)

/-- POOL_STACK_FAULT: a stack stops responding after READY (R291). -/
def execPoolStackFault (n : Nat) (s : State) : Result :=
  if !running s || !ready s || 6 ≤ n || !s.start.stackOk.getLsbD n || s.pool.stackOut.getLsbD n then .next s
  else .next (post { s with pool := { s.pool with stackOut := s.pool.stackOut ||| BitVec.ofNat 6 (2 ^ n) } } 0x0061 (evData [(16, 1, n)]))

/-- AER_ERROR_REPORTED: port 0 is the H port, 1 to 4 are A0 to A3 (Table 20-3). -/
def execAerErrorReported (port : Nat) (kind : AerKind) (s : State) : Result :=
  let bad := match kind with | .correctable => false | _ => true
  let n := if port = 0 then (if bad then 18 else 17) else (if bad then 22 else 18) + port
  .next (if live s && decide (port ≤ 4) then count s 0 0 n 1 else s)

end Sys2Proof.Machine
end

