-- ==== Sys2Proof/Machine/Migration.lean ====
section
/-!
DEFINITION. The migration image (Instances, Quotas and Migration, 16.8): the migration key, save and restore.
-/

namespace Sys2Proof.Machine

/-! ### MIGRATION_KEY_SET (R395) -/

/-- MIGRATION_KEY_SET: `buf` is what the read of KEY_SRC returns. -/
def execMigrationKeySet (slot : Nat) (buf : Option Bytes) (s : State) : Result :=
  .next (startAdmin s slot 0x0108 fun c t =>
    let e := c.entry
    if bit e 8 0 then
      if t.cipher.migKey.isNone then refuse t slot stAborted rsNoObject
      else complete (modCipher t fun k => { k with migKey := none }) slot
    else match buf with
      | none => refuse t slot stAborted rsHostRead
      | some b =>
        let key : BitVec 256 := BitVec.ofNat 256 (leNat (slice b 0 32))
        complete (purgeKeyMem (modCipher t fun k => { k with migKey := some (key, BitVec.ofNat 32 (fld e 24 31 0)) }) 0x100020 32) slot)

/-! ### The records (R397, R398, Table 16-8) -/

/-- A ring as an image carries it: HEAD at the first entry that has not started, nothing under way. -/
def ringSaved (r : Ring) : Ring :=
  { r with
    head := match r.taken.find? fun t => !t.started && t.outcome.isNone with | some t => t.slot | none => r.head
    state := if r.state == .disabled then .disabled else .enabled
    taken := [], reading := none, run := false, doorbell := false, recallAt := none, strike := false }

/-- A CQ with its times as ages. -/
def cqSaved (now : Nat) (c : Cq) : Cq :=
  { c with pending := c.pending.map fun t => now - t, held := c.held.map (fun h => (h.1, now - h.2)), strike := false }

/-- A queue pair: attributes, binding, rings and PSN state, its redirections as ages. -/
def qpSaved (now : Nat) (q : Qp) : Qp :=
  { q with
    sq := ringSaved q.sq, rq := ringSaved q.rq, handshake := none, work := [], tx := [], resendAt := none
    recs := q.recs.map (fun r => { r with arrived := 0, pkt := none }), unflushed := [], flushing := [], ackFlush := []
    ackTrig := none, ackDue := false, ackCount := 0, ackExpire := none, lastTrig := none, resp := []
    spent := [], nextTag := 0, missed := []
    moves := q.moves.map fun t => now - t }

/-- An association, the time its old phase has left in place of the moment it retires. -/
def saSaved (now : Nat) (a : Sa) : Sa := { a with
    retiring := a.retiring.map fun t => t - now, fails := 0, failAt := none, exhausted := decide (sealLimit ≤ a.sealSeq) }

/-- A context: its definition, list ring and state. -/
def ctxSaved (c : Ctx) : Ctx :=
  { c with
    ring := ringSaved c.ring, wMem := [], aMem := [], aZero := [], wBad := [], aBad := [], stageBase := 0, runs := [], inbox := [], count := []
    reduces := 0, dead := none }

/-- The KSEL under which a mirror maps the pool address `a`; 0 where it does not. -/
def kselAt (entries : Tab (BitVec 128)) (a : Nat) : Nat :=
  match entries.find? fun r => pteTarget r.2 == 5 && decide (pteAddr r.2 ≤ a) && decide (a < pteAddr r.2 + pteSize r.2) with
  | some r => pteKsel r.2
  | none => 0

/-- The plaintext of block `blk` for the image. (DESIGN CHOICE in part: assumption 14) -/
def blockSaved (s : State) (i : Nat) (entries : Tab (BitVec 128)) (blk : Nat) : Bytes :=
  match poolRead s i (kselAt entries (4096 * blk)) (4096 * blk) 4096 with
  | some b => b
  | none => (List.range 4096).map fun n => Config.lostBlock s.fresh (4096 * blk + n)

def regionSaved (s : State) (i : Nat) (entries : Tab (BitVec 128)) (r : Region) : MigRegion :=
  let first := r.base / 4096
  { num := r.num, size := r.size, big := r.big, stack := r.stack, base := r.base
    blocks := ((List.range (r.size / 4096)).filter fun k => writtenFlag s (first + k)).map fun k => (k, blockSaved s i entries (first + k)) }

/-- The rows of an instance. -/
def ownRows {α : Type} (t : Tab α) (p : α → Bool) (f : α → α) : Tab α := (t.filter fun r => p r.2).map fun r => (r.1, f r.2)

/-- Everything an image of instance `i` carries. (DEDUCED in part: assumption 67) -/
def bodySaved (s : State) (i : Nat) (x : Inst) : MigBody :=
  let entries := match tget s.mirrors i with | some m => m.entries | none => []
  { quota := x.quota
    limits := (List.range 8).map fun c => (c, (limiterOf s i c).rate, (limiterOf s i c).burst)
    la := ringSaved x.la
    mirror := (tget s.mirrors i).map fun m => (m.maxEntries, m.timeoutMs)
    cqs := ownRows s.cqs (·.inst == i) (cqSaved s.now)
    qps := ownRows s.qps (·.inst == i) (qpSaved s.now)
    sas := ownRows s.cipher.sas (·.inst == i) (saSaved s.now)
    keys := ownRows s.cipher.keys (·.inst == i) id
    regions := (s.pool.regions.filter fun r => r.inst == i).map (regionSaved s i entries)
    entries := entries
    ctxs := ownRows s.ctxs (·.inst == i) ctxSaved
    kettles := ownRows s.kettles (·.inst == i) id }

/-- Runs of recorded PSNs beyond CUM_PSN. -/
def psnRuns (q : Qp) : Nat :=
  let offs := (q.recs.filter fun r => decide (0 ≤ sdist r.psn q.cumPsn)).map fun r => (r.psn - q.cumPsn).toNat
  (runsOf (offs.foldl (fun l n => insNat n l) [])).length

/-- The plaintext bytes of Table 16-8. -/
def bodyLen (b : MigBody) : Nat :=
  256 + 64 * b.cqs.length + (b.qps.map fun r => 512 + 8 * psnRuns r.2).sum + 128 * b.sas.length + 96 * b.keys.length
    + (b.regions.map fun r => 64 + r.size / 32768 + 4096 * r.blocks.length).sum + 32 * b.entries.length + 128 * b.ctxs.length
    + (b.kettles.map fun r => 64 + 4 * r.2.members.length).sum

def chunkCount (n : Nat) : Nat := (n + 1048575) / 1048576

/-- IMAGE_LEN (Table 16-7). -/
def imageBytes (b : MigBody) : Nat := 64 + bodyLen b + 16 * chunkCount (bodyLen b)

/-- STEPPING of GCTL_IDENT (R402, Table 20-8). -/
def stepping (a1 : Bool) : Nat := fld (Config.ident a1) 2 3 0

/-- The counts of header bytes 40 to 63. -/
def countBytes (b : MigBody) : Bytes :=
  leBytes 4 b.qps.length ++ leBytes 4 b.cqs.length ++ leBytes 2 b.sas.length ++ leBytes 2 b.keys.length ++ leBytes 1 b.regions.length ++ [0]
    ++ leBytes 2 b.ctxs.length ++ leBytes 2 b.kettles.length ++ [0, 0] ++ leBytes 4 b.entries.length

/-- The header of Table 16-7. -/
def imageHeader (a1 : Bool) (coord i : Nat) (slice : Bool) (keyId : Word) (nonce : Nat) (b : MigBody) : Bytes :=
  leBytes 4 0x47494D58 ++ leBytes 2 1 ++ leBytes 2 64 ++ leBytes 8 (imageBytes b) ++ leBytes 4 coord ++ leBytes 2 i ++ leBytes 1 (stepping a1)
    ++ leBytes 1 slice.toNat ++ leBytes 4 keyId.toNat ++ leBytes 4 (chunkCount (bodyLen b)) ++ leBytes 8 nonce ++ countBytes b

/-! ### The bytes of an image (R396, R397) -/

/-- The bytes of a record whose layout is private. (DESIGN CHOICE in part: assumption 112) -/
def recordBytes (x : MigRecord) (n : Nat) : Bytes := (List.range n).map (Config.imageByte x)

/-- The written flags of a region, one bit for each 4 KiB. -/
def flagBytes (r : MigRegion) : Bytes :=
  (List.range (r.size / 32768)).map fun i =>
    BitVec.ofNat 8 (((List.range 8).map fun k => if r.blocks.any fun b => b.1 == 8 * i + k then 2 ^ k else 0).sum)

/-- A region record: its head, the written flags, the plaintext of each written block. -/
def regionBytes (r : MigRegion) : Bytes :=
  recordBytes (.region r.num r.size r.big r.stack r.base) 64 ++ flagBytes r ++ r.blocks.flatMap fun b => slice b.2 0 4096

/-- A mirror entry as Table 11-6 lays it out. -/
def mirrorRecord (r : Nat × BitVec 128) : Bytes := leBytes 8 r.1 ++ leBytes 16 r.2.toNat ++ leBytes 8 0

/-- The plaintext: the records in the order of Table 16-8. -/
def bodyBytes (b : MigBody) : Bytes :=
  recordBytes (.inst b.quota b.limits b.la b.mirror) 256
    ++ (b.cqs.flatMap fun r => recordBytes (.cq r.1 r.2) 64)
    ++ (b.qps.flatMap fun r => recordBytes (.qp r.1 r.2) (512 + 8 * psnRuns r.2))
    ++ (b.sas.flatMap fun r => recordBytes (.sa r.1 r.2) 128)
    ++ (b.keys.flatMap fun r => recordBytes (.key r.1 r.2) 96)
    ++ b.regions.flatMap regionBytes
    ++ b.entries.flatMap mirrorRecord
    ++ (b.ctxs.flatMap fun r => recordBytes (.ctx r.1 r.2) 128)
    ++ b.kettles.flatMap fun r => recordBytes (.kettle r.1 r.2) (64 + 4 * r.2.members.length)

/-- The bytes of a migration key. -/
def migKeyBytes (key : BitVec 256) : Bytes := leBytes 32 key.toNat

/-- The IV of chunk `n` under a header. -/
def chunkIv (header : Bytes) (n : Nat) : Bytes := beBytes 4 n ++ slice header 32 8

/-- The sealed chunks of a plaintext, each followed by its tag. -/
def sealChunks (key : BitVec 256) (header pt : Bytes) : Bytes :=
  ((chunks 1048576 (pt.length / 1048576 + 1) pt).mapIdx fun n c =>
    let r := gcmSeal (migKeyBytes key) (chunkIv header n) header c
    r.1 ++ r.2).flatten

/-- The plaintext of `count` sealed chunks from the `n`-th on, where every tag verifies and nothing is left over. -/
def openChunks (key : BitVec 256) (header : Bytes) : Nat → Nat → Bytes → Option Bytes
  | 0, _, ct => if ct.isEmpty then some [] else none
  | count + 1, n, ct =>
    let c := ct.take (1048576 + 16)
    match gcmOpen (migKeyBytes key) (chunkIv header n) header (c.take (c.length - 16)) (c.drop (c.length - 16)) with
    | none => none
    | some p => (openChunks key header count (n + 1) (ct.drop (1048576 + 16))).map fun r => p ++ r

/-- The image: header and sealed chunks. -/
def imageOf (key : BitVec 256) (header : Bytes) (b : MigBody) : MigImage :=
  { bytes := header ++ sealChunks key header (bodyBytes b), body := b }

/-! ### INSTANCE_SAVE (R399 to R401) -/

/-- From the save on, at most 2^32 - 1 further datagrams are sealed under a transmit key (R401). -/
def boundSeal (a : Sa) : Sa := { a with limit := min a.limit (a.sealSeq + 2 ^ 32 - 1) }

/-- INSTANCE_SAVE: `ok` is false where a write of the buffer fails. -/
def execInstanceSave (slot : Nat) (ok : Bool) (s : State) : Result :=
  .next (startAdmin s slot 0x0105 fun c t =>
    let e := c.entry
    let i := cmdInst c
    match frozenOnly t i, tget t.insts i, t.cipher.migKey with
    | some r, _, _ => refuse t slot r.1 r.2
    | none, some x, some (key, keyId) =>
      let b := bodySaved t i x
      let len := imageBytes b
      if fld e 24 39 0 < len then completeEntry t slot (putFld e 32 63 0 len) stAborted 0x1005
      else if !seedReady t then refuse t slot stNotSeeded rsNone
      else
        let r := drawRandom t
        let m := imageOf key (imageHeader t.a1 (ownCoord t) i (!x.fn) keyId (r.1.extractLsb' 0 64).toNat b) b
        if !ok then refuse t slot stAborted rsHostWrite
        else
          let u := modCipher (takeFresh r.2).2 fun k => { k with sas := k.sas.map fun a => if a.2.inst = i then (a.1, boundSeal a.2) else a }
          completeWith (emit u (.memWrite pfHost (fld e 16 63 12 * 4096) m.bytes)) slot fun e => putFld e 32 63 0 len
    | none, _, _ => refuse t slot stAborted 0x1004)

/-! ### INSTANCE_RESTORE (R402 to R404) -/

/-- The checks of R402; `buf` is IMAGE_BUF. The records an image is read as are those its opened chunks spell. -/
def imageGood (a1 : Bool) (m : MigImage) (buf : Nat) (key : BitVec 256) (keyId : Word) : Bool :=
  let h := slice m.bytes 0 64
  let n := bodyLen m.body
  leField h 0 4 31 0 == 0x47494D58 && leField h 4 2 15 0 == 1 && leField h 6 2 15 0 == 64 && leField h 22 1 7 0 == stepping a1
    && leField h 8 8 63 0 == imageBytes m.body && buf == imageBytes m.body && m.bytes.length == buf && leField h 24 4 31 0 == keyId.toNat
    && leField h 28 4 31 0 == chunkCount n && slice h 40 24 == countBytes m.body
    && openChunks key h (chunkCount n) 0 (m.bytes.drop 64) == some (bodyBytes m.body)

/-- An identifier of the image is in use (R378); an SA_ID that a forwarding record holds is (R406). -/
def idTaken (s : State) (b : MigBody) : Bool :=
  b.qps.any (fun r => (tget s.qps r.1).isSome) || b.cqs.any (fun r => (tget s.cqs r.1).isSome)
    || b.sas.any (fun r => (saOf s r.1).isSome || s.forwards.any fun f => f.sas.contains r.1)
    || b.keys.any (fun r => (tget s.cipher.keys r.1).isSome) || b.ctxs.any (fun r => (tget s.ctxs r.1).isSome)
    || b.kettles.any fun r => (tget s.kettles r.1).isSome

/-- What the device cannot supply (R380): numbers beyond Table 4-14, store units, key slots, table rows. -/
def beyondDevice (s : State) (i : Nat) (b : MigBody) : Option (BitVec 8 × Nat) :=
  firstRefusal [(b.qps.any (fun r => decide ((limits s).1 ≤ r.1)) || b.cqs.any (fun r => decide ((limits s).2.1 ≤ r.1)), stAborted, rsUnitOut),
    (decide (16384 < slotsAllowed s i b.quota), stAborted, 0x1002),
    (decide (256 < wUnitsUsed s + (b.ctxs.map fun r => r.2.wUnits).sum) || decide (256 < aUnitsUsed s + (b.ctxs.map fun r => r.2.aUnits).sum),
      stAborted, 0x0E01),
    (decide (4096 < s.pool.regions.length + b.regions.length), stAborted, 0x0C03)]

/-- Places one region under R280 with its saved STACK, or anywhere where that stack is not in service. -/
def placeRegion (i : Nat) (s : Option State) (r : MigRegion) : Option State :=
  s.bind fun t =>
    let fixed := r.stack != 15 && t.start.stackOk.getLsbD r.stack
    let k := (liveStacks t).idxOf r.stack
    let lo := if fixed then k * 2 ^ 34 else 0
    let hi := if fixed then min (reserveBase t) ((k + 1) * 2 ^ 34) else reserveBase t
    (lowestFree t r.size (if r.big then 2 ^ 30 else 2 ^ 21) lo hi).map fun base =>
      let g : Region := { inst := i, num := r.num, base := base, size := r.size, big := r.big, stack := if fixed then r.stack else 15 }
      { t with pool := { t.pool with regions := t.pool.regions ++ [g] } }

/-- Places the mirror. -/
def placeMirror (i : Nat) (b : MigBody) (s : Option State) : Option State :=
  s.bind fun t => match b.mirror with
    | none => some t
    | some (n, ms) => (anyPlace t (32 * n)).map fun base =>
        let u := (takeFresh (takeFresh t).2).2
        let m : Mirror := { maxEntries := n, timeoutMs := ms, base := base, entries := [], dirty := [] }
        { u with mirrors := tput u.mirrors i m }

/-- Places a context with its staging area, empty, and its units zeroed. -/
def placeCtx (i : Nat) (s : Option State) (r : Nat × Ctx) : Option State :=
  s.bind fun t =>
    let place := if r.2.stageBytes = 0 then some 0 else anyPlace t r.2.stageBytes
    place.map fun base =>
      let u := (takeFresh (takeFresh t).2).2
      { u with ctxs := tput u.ctxs r.1 { r.2 with inst := i, stageBase := base } }

/-- A mirror entry on its new region (R403). -/
def rebase (s : State) (i : Nat) (b : MigBody) (p : BitVec 128) : BitVec 128 :=
  if pteTarget p != 5 then p
  else match b.regions.find? fun r => decide (r.base ≤ pteAddr p) && decide (pteAddr p < r.base + r.size) with
    | none => p
    | some r => match regionOf s i r.num with
      | some g => putFld p 8 63 0 (g.base + (pteAddr p - r.base))
      | none => p

/-- Writes the blocks of a region under their KSEL; their written flags come with them. -/
def fillRegion (i : Nat) (entries : Tab (BitVec 128)) (s : State) (r : MigRegion) : State :=
  match regionOf s i r.num with
  | none => s
  | some g => r.blocks.foldl (fun t k =>
      let a := g.base + 4096 * k.1
      poolStore t i (kselAt entries a) a (slice k.2 0 4096)) s

/-- The rows of an image under the new instance. -/
def putRows {α : Type} (t rows : Tab α) (f : α → α) : Tab α := rows.foldl (fun t r => tput t r.1 (f r.2)) t

/-- The events of R357 that the step of SEAL_SEQ at a restore passes (R404). -/
def jumpEvents (s : State) (r : Nat × Sa) : State :=
  let passes (n : Nat) : Bool := decide (r.2.sealSeq < n) && decide (n ≤ r.2.sealSeq + 2 ^ 32)
  let s1 := if passes (2 ^ 43) then post s 0x0070 (evData [(16, 2, r.1)]) else s
  if passes sealLimit then post s1 0x0071 (evData [(16, 2, r.1)]) else s1

/-- Builds everything but the regions, the mirror and the contexts, which have been placed. -/
def buildRest (s : State) (i src : Nat) (b : MigBody) : State :=
  let back (age : Nat) : Nat := s.now - age
  let mkCq (c : Cq) : Cq := { c with inst := i, pending := c.pending.map back, held := c.held.map fun h => (h.1, back h.2) }
  let mkQp (q : Qp) : Qp := { q with inst := i, oldCoord := some src, moves := q.moves.map back }
  let mkSa (a : Sa) : Sa :=
    { a with inst := i, sealSeq := a.sealSeq + 2 ^ 32, limit := sealLimit, retiring := a.retiring.map fun t => s.now + t
             exhausted := decide (sealLimit ≤ a.sealSeq + 2 ^ 32) }
  let entries := b.entries.map fun r => (r.1, rebase s i b r.2)
  let s1 := b.keys.foldl (fun t r => purgeKeyMem t (64 * r.1) 64) (modCipher s fun k => { k with
    keys := putRows k.keys b.keys fun x => { x with inst := i }
    sas := putRows k.sas b.sas mkSa })
  let s2 := { s1 with
    cqs := putRows s1.cqs b.cqs mkCq
    qps := putRows s1.qps b.qps mkQp
    kettles := putRows s1.kettles b.kettles fun x => { x with inst := i }
    mirrors := tmod s1.mirrors i fun m => { m with entries := entries }
    limiters := b.limits.foldl (fun t r => if r.2.1 = 0 then t
      else tput t (limiterKey i r.1) { limiterOf s i r.1 with rate := r.2.1, burst := r.2.2 }) s1.limiters }
  b.regions.foldl (fillRegion i entries) s2

/-- INSTANCE_RESTORE: `buf` is the image read from the buffer, `vec` the vector table. -/
def execInstanceRestore (slot : Nat) (buf : Option MigImage) (vec : Option Bytes) (s : State) : Result :=
  .next (startAdmin s slot 0x0106 fun c t =>
    let e := c.entry
    let i := cmdInst c
    let slice := bit e 8 0
    match bindRefusal t i e, t.cipher.migKey, buf with
    | some r, _, _ => refuse t slot r.1 r.2
    | none, none, _ => refuse t slot stAborted 0x1004
    | none, some _, none => refuse t slot stAborted rsHostRead
    | none, some (key, keyId), some m =>
      if slice && vec.isNone then refuse t slot stAborted rsHostRead
      else if !imageGood t.a1 m (fld e 24 39 0) key keyId then refuse t slot stMalformed 0x1006
      else if idTaken t m.body then refuse t slot stAborted 0x1007
      else settle t slot (beyondDevice t i m.body) fun t =>
        let x := bindInst t e m.body.la (if slice then vecEntries (vec.getD []) else []) .frozen
        let t1 := { (takeFresh t).2 with insts := tput t.insts i { x with quota := m.body.quota }, pages := tput t.pages i Page.reset }
        match m.body.ctxs.foldl (placeCtx i) (placeMirror i m.body (m.body.regions.foldl (placeRegion i) (some t1))) with
        | none => refuse t slot stAborted 0x0C01
        | some t2 =>
          let t3 := m.body.sas.foldl jumpEvents (buildRest t2 i (leField m.bytes 16 4 23 0) m.body)
          completeWith (postInst t3 i 2 0 0) slot (apageResult t3 i))

end Sys2Proof.Machine
end

