-- ==== Sys2Proof/Machine/Secure.lean ====
section
/-!
DEFINITION. Service requests on secure channels, and the management bus (17.5, R49).
-/

namespace Sys2Proof.Machine

/-! ### Service requests (R428) -/

/-- The opcode may be asked for over a secure channel. -/
def servicePermitted (e : Entry) : Bool :=
  match fld e 0 15 0 with
  | 0x0000 | 0x0002 | 0x0700 | 0x0701 => true
  | 0x0003 => fld e 9 1 0 == 0
  | _ => false

/-- The request's output stays within the MESSAGE_AREA (R453, R476). -/
def serviceFits (e : Entry) : Bool :=
  match fld e 0 15 0 with
  | 0x0002 => decide (fld e 16 63 3 * 8 + 8 * groupCount (fld e 8 1 0) ≤ 4096)
  | 0x0701 => decide (fld e 20 7 0 * 32 + fld e 8 63 5 * 32 ≤ 4096)
  | _ => true

/-- The notice and its body are well formed. (DEDUCED in part: assumption 69) -/
def serviceLegal (w : BitVec 128) (e : Entry) : Bool :=
  fld w 8 31 0 == 56 && !noticeEmpty w && servicePermitted e && serviceFits e &&
    match adminForm e (fld e 0 15 0) with
    | some (_, fs) => formLegal e fs
    | none => false

/-- Runs a well-formed request. -/
def service (s : State) (k b : Nat) (e : Entry) : State :=
  let r : CmdRef := .secure k b
  match fld e 0 15 0 with
  | 0x0002 => countersRead s r e true
  | 0x0003 =>
    let n := fld e 8 2 0
    if (portOf s n).state == .disabled then refRefuse s r stAborted rsUnitOut else refDone s r (portResults s n)
  | 0x0700 => powerRequest s r (fld e 8 1 0)
  | 0x0701 => owlLogRead s r e true
  | _ => refDone s r id

/-- The notice waits for service; a second request for Roost waits for the first. -/
def serviceWaits (s : State) (k b : Nat) : Bool :=
  let e := secureBody s k b
  !s.secRuns.contains (k, b) && !(s.pm.roost.isSome && fld e 0 15 0 == 0x0700 && fld e 8 1 0 == 2)

/-- The request served next: channels in turn, the lowest bit of a channel first. -/
def nextService (s : State) : Option (Nat × Nat) :=
  (List.range 16).findSome? fun i =>
    let k := (s.secLast + 1 + i) % 16
    match s.secMbx[k]? with
    | some c => ((bitsOf c.outDb).find? fun b => serviceWaits s k b).map fun b => (k, b)
    | none => none

/-- SECURE_SERVICE_REQUEST: the firmware serves the next request. -/
def execSecureServiceRequest (s : State) : Result :=
  if !firmware s then .next s
  else match nextService s with
    | none => .next s
    | some (k, b) =>
      let s1 := { s with secLast := k }
      let e := secureBody s k b
      let w := (noticeAt ((s.secMbx[k]?.getD Channel.reset).outN) b).words
      .next (if serviceLegal w e then service s1 k b e else endNotice s1 (.secure k) b 3 true)

/-! ### MCTP over SMBus (R49)

PRESUMED from DSP0237: an MCTP packet is an SMBus block write with command code 0x0F and a packet error code. (assumption 70) -/

/-- The device's address byte on the management bus, for a write (Table 2-5). -/
def smbusAddr (s : State) : Byte := BitVec.ofNat 8 (2 * (0x64 + s.pins.smba.toNat))

/-- One bit of the packet error code: the polynomial x^8 + x^2 + x + 1. -/
def pecShift (c : Byte) : Byte := if c.getLsbD 7 then (c <<< 1) ^^^ 0x07 else c <<< 1

def pecByte (c b : Byte) : Byte := (List.range 8).foldl (fun x _ => pecShift x) (c ^^^ b)

/-- The packet error code of SMBus over bytes. -/
def pecOf (bs : Bytes) : Byte := bs.foldl pecByte 0

/-- An MCTP packet as its receiver sees it: the sender's address byte, its endpoint ID, the message tag, the message. -/
structure MctpPacket where
  src : Byte
  eid : Byte
  tag : Byte
  msg : Bytes
  deriving DecidableEq, Repr

/-- Opens a packet for this device: its address, its endpoint ID or the null one, a whole message of one packet whose sender owns the tag,
and a right packet error code. (PRESUMED in part: assumption 70) -/
def mctpOpen (s : State) (p : Bytes) : Option MctpPacket :=
  let b (n : Nat) : Byte := p.getD n 0
  if p.length < 10 || b 0 != smbusAddr s || b 1 != 0x0F || (b 2).toNat + 4 != p.length || !(b 3).getLsbD 0 || b 4 &&& 0x0F != 1
      || !(b 5 == 0 || b 5 == s.eid) || b 7 &&& 0xC8 != 0xC8 || pecOf p.dropLast != b (p.length - 1) then none
  else some { src := b 3, eid := b 6, tag := b 7 &&& 7, msg := (p.drop 8).dropLast }

/-- The packet that answers another with a message. -/
def mctpReply (s : State) (r : MctpPacket) (msg : Bytes) : Bytes :=
  let p := [r.src &&& 0xFE, 0x0F, BitVec.ofNat 8 (msg.length + 5), smbusAddr s ||| 1, 0x01, r.eid, s.eid, 0xC0 ||| r.tag] ++ msg
  p ++ [pecOf p]

/-! ### The vendor-defined message (R425, R426) -/

/-- Message type 0x7F with IC 0, and Grentur's enterprise number. -/
def vendorHead : Bytes := [0x7F, 0x00, 0xFF, 0xA7, 0xC1]

/-- The request names a legal operation, channel, COUNT and length. -/
def vendorLegal (m : Bytes) : Bool :=
  let op := leField m 5 1 7 0
  let count := leField m 9 1 7 0
  decide (10 ≤ m.length) && (op == 1 || op == 2) && leField m 6 1 7 4 == 0 && decide (4 ≤ count) && decide (count ≤ 32) && count % 4 == 0
    && m.length == (if op = 1 then 10 else 10 + count)

/-- The offsets of the 32-bit accesses of a request, ascending. -/
def vendorOffs (m : Bytes) : List Nat := (List.range (leField m 9 1 7 0 / 4)).map fun i => leField m 7 2 15 0 + 4 * i

/-- A read of one word of a secure channel; an offset that is no multiple of 4 reads zero (R109, R111). -/
def vendorRead (s : State) (k off : Nat) : Bytes :=
  let w : Word := if off % 4 != 0 then 0 else match s.secMbx[k]? with | some c => chanRead c true off | none => 0
  leBytes 4 w.toNat

/-- A vendor-defined request, from its type byte on: what it does, and its answer. -/
def vendorRun (s : State) (m : Bytes) : State × Bytes :=
  let op := leField m 5 1 7 0
  let head := vendorHead ++ [BitVec.ofNat 8 (op % 128 + 128)]
  let k := leField m 6 1 3 0
  if !vendorLegal m then (s, head ++ [0x01])
  else if op = 1 then (s, head ++ [0x00] ++ (vendorOffs m).flatMap fun o => vendorRead s k o)
  else
    let put (t : State) (i : Nat × Nat) : State :=
      if i.2 % 4 != 0 then t else chanWrite t (.secure k) i.2 (BitVec.ofNat 32 (leField m (10 + 4 * i.1) 4 31 0))
    ((List.zip (List.range (vendorOffs m).length) (vendorOffs m)).foldl put s, head ++ [0x00])

/-- MCTP_VENDOR_REQUEST: `p` is the packet on the management bus, from its address byte to its packet error code. -/
def execMctpVendorRequest (p : Bytes) (s : State) : Result :=
  match mctpOpen s p with
  | none => .next s
  | some r =>
    if !live s || r.msg.take 5 != vendorHead || r.msg.length < 6 then .next s
    else
      let v := vendorRun s r.msg
      .next (emit v.1 (.smbus (mctpReply s r v.2)))

/-! ### MCTP control messages (R49) -/

/-- Completion codes of DSP0236. -/
def mctpInvalidData : Bytes := [0x02]
def mctpInvalidLength : Bytes := [0x03]
def mctpUnsupported : Bytes := [0x05]

/-- The answer to a control command with its data, and the endpoint ID after it (PRESUMED from DSP0236: a simple endpoint with a
dynamic EID; its mandatory commands). (PRESUMED in part: assumption 70) -/
def mctpAnswer (s : State) (cmd : Nat) (d : Bytes) : Bytes × BitVec 8 :=
  match cmd with
  | 1 =>
    if d.length != 2 then (mctpInvalidLength, s.eid)
    else
      let op := leField d 0 1 1 0
      let id := d.getD 1 0
      if 2 ≤ op || id = 0 || id = 0xFF then (mctpInvalidData, s.eid) else ([0x00, 0x00, id, 0x00], id)
  | 2 => if d.length != 0 then (mctpInvalidLength, s.eid) else ([0x00, s.eid, 0x00, 0x00], s.eid)
  | 4 =>
    if d.length != 1 then (mctpInvalidLength, s.eid)
    else
      let t := d.getD 0 0
      if t = 0xFF || t = 0x00 || t = 0x7F then ([0x00, 0x01] ++ leBytes 4 (Config.unstated s.fresh).toNat, s.eid) else ([0x80], s.eid)
  | 5 => if d.length != 0 then (mctpInvalidLength, s.eid) else ([0x00, 0x01, 0x7F], s.eid)
  | _ => (mctpUnsupported, s.eid)

/-- MCTP_CONTROL_MESSAGE: `p` is the packet on the management bus. Only a request that is no datagram is answered. -/
def execMctpControlMessage (p : Bytes) (s : State) : Result :=
  match mctpOpen s p with
  | none => .next s
  | some r =>
    let m := r.msg
    let flags := leField m 1 1 7 0
    if s.power.phase != .up || m.length < 3 || m.getD 0 0 != 0 || flags / 128 != 1 || flags / 64 % 2 != 0 then .next s
    else
      let a := mctpAnswer s (leField m 2 1 7 0) (m.drop 3)
      .next (emit { s with eid := a.2, fresh := s.fresh + 1 } (.smbus (mctpReply s r ([0x00, BitVec.ofNat 8 (flags % 32), m.getD 2 0] ++ a.1))))

/-- SMBUS_ALERT_RESPONSE: the controller reads the Alert Response Address; an asserted SMB_ALERT_N is answered with the address of
Table 2-5 (R427). -/
def execSmbusAlertResponse (s : State) : Result :=
  .next (if s.pins.smbAlert then emit s (.smbus [smbusAddr s]) else s)

end Sys2Proof.Machine
end

