-- ==== Sys2Proof/Machine/Dispatch.lean ====
section
/-!
DEFINITION. The dispatch of a command to its meaning: one arm per constructor of Instr, each one direct call.
-/

namespace Sys2Proof.Machine

def exec (i : Instr) (s : State) : Host.Outcome State Fault Refusal :=
  match i with
  | .vinRise mv => Sys2Proof.Machine.execVinRise mv s
  | .owlSelftestDone ok => Sys2Proof.Machine.execOwlSelftestDone ok s
  | .pwrOkRise straps => Sys2Proof.Machine.execPwrOkRise straps s
  | .fullResetAssert pin lowNs => Sys2Proof.Machine.execFullResetAssert pin lowNs s
  | .fullResetRelease pin straps => Sys2Proof.Machine.execFullResetRelease pin straps s
  | .railsGood => Sys2Proof.Machine.execRailsGood s
  | .pwrOkFall => Sys2Proof.Machine.execPwrOkFall s
  | .powerDownComplete straps => Sys2Proof.Machine.execPowerDownComplete straps s
  | .vinUvloFall => Sys2Proof.Machine.execVinUvloFall s
  | .thermalBackstop => Sys2Proof.Machine.execThermalBackstop s
  | .governorEval need pace region => Sys2Proof.Machine.execGovernorEval need pace region s
  | .clockLossDetect clk kind => Sys2Proof.Machine.execClockLossDetect clk kind s
  | .clockWindowEnd clk ppb => Sys2Proof.Machine.execClockWindowEnd clk ppb s
  | .oscCalibrate => Sys2Proof.Machine.execOscCalibrate s
  | .ptpSync gap interval => Sys2Proof.Machine.execPtpSync gap interval s
  | .syncLossTimeout => Sys2Proof.Machine.execSyncLossTimeout s
  | .freerunGuardExpire => Sys2Proof.Machine.execFreerunGuardExpire s
  | .holdoverTrustExpire => Sys2Proof.Machine.execHoldoverTrustExpire s
  | .ppsOutPulse => Sys2Proof.Machine.execPpsOutPulse s
  | .ppsIn => Sys2Proof.Machine.execPpsIn s
  | .timeLoRead => Sys2Proof.Machine.execTimeLoRead s
  | .coreSelftestDone cores nports => Sys2Proof.Machine.execCoreSelftestDone cores nports s
  | .entropyTestRun pass => Sys2Proof.Machine.execEntropyTestRun pass s
  | .poolTrainingDone good => Sys2Proof.Machine.execPoolTrainingDone good s
  | .scrubDone bad => Sys2Proof.Machine.execScrubDone bad s
  | .imageCopyChecked alt read sigOk => Sys2Proof.Machine.execImageCopyChecked alt read sigOk s
  | .firmwareRunning => Sys2Proof.Machine.execFirmwareRunning s
  | .firmwareStartTimeout => Sys2Proof.Machine.execFirmwareStartTimeout s
  | .configRequest r => Sys2Proof.Machine.execConfigRequest r s
  | .aportRelease n => Sys2Proof.Machine.execAportRelease n s
  | .aportLinkUp n => Sys2Proof.Machine.execAportLinkUp n s
  | .aportTrainTimeout n => Sys2Proof.Machine.execAportTrainTimeout n s
  | .aportEnumDone n bar => Sys2Proof.Machine.execAportEnumDone n bar s
  | .aportRrsTimeout n => Sys2Proof.Machine.execAportRrsTimeout n s
  | .registerWrite src off size value => Sys2Proof.Machine.execRegisterWrite src off size value s
  | .admEnable ctrl => Sys2Proof.Machine.execAdmEnable ctrl s
  | .admDisable ctrl => Sys2Proof.Machine.execAdmDisable ctrl s
  | .admDoorbell => Sys2Proof.Machine.execAdmDoorbell s
  | .adminEntryFetched r => Sys2Proof.Machine.execAdminEntryFetched r s
  | .evtReturn count => Sys2Proof.Machine.execEvtReturn count s
  | .pfFlr => Sys2Proof.Machine.execPfFlr s
  | .vfFlr vf => Sys2Proof.Machine.execVfFlr vf s
  | .vfEnableClear => Sys2Proof.Machine.execVfEnableClear s
  | .nop slot => Sys2Proof.Machine.execAdmNop slot s
  | .imageWrite slot src sigOk => Sys2Proof.Machine.execImageWrite slot src sigOk s
  | .countersRead slot ok => Sys2Proof.Machine.execCountersRead slot ok s
  | .portControl slot => Sys2Proof.Machine.execPortControl slot s
  | .instanceCreate slot vec => Sys2Proof.Machine.execInstanceCreate slot vec s
  | .instanceQuotaSet slot vec => Sys2Proof.Machine.execInstanceQuotaSet slot vec s
  | .instanceReset slot => Sys2Proof.Machine.execInstanceReset slot s
  | .instanceDestroy slot => Sys2Proof.Machine.execInstanceDestroy slot s
  | .instanceFreeze slot => Sys2Proof.Machine.execInstanceFreeze slot s
  | .instanceSave slot ok => Sys2Proof.Machine.execInstanceSave slot ok s
  | .instanceRestore slot buf vec => Sys2Proof.Machine.execInstanceRestore slot buf vec s
  | .instanceThaw slot => Sys2Proof.Machine.execInstanceThaw slot s
  | .migrationKeySet slot buf => Sys2Proof.Machine.execMigrationKeySet slot buf s
  | .qpCreate slot => Sys2Proof.Machine.execQpCreate slot s
  | .qpModify slot => Sys2Proof.Machine.execQpModify slot s
  | .qpQuery slot => Sys2Proof.Machine.execQpQuery slot s
  | .qpDestroy slot => Sys2Proof.Machine.execQpDestroy slot s
  | .cqCreate slot => Sys2Proof.Machine.execCqCreate slot s
  | .cqModify slot => Sys2Proof.Machine.execCqModify slot s
  | .cqDestroy slot => Sys2Proof.Machine.execCqDestroy slot s
  | .ptMirrorSet slot => Sys2Proof.Machine.execPtMirrorSet slot s
  | .ptUpdate slot buf => Sys2Proof.Machine.execPtUpdate slot buf s
  | .ptInvalidate slot => Sys2Proof.Machine.execPtInvalidate slot s
  | .poolRegionCreate slot => Sys2Proof.Machine.execPoolRegionCreate slot s
  | .poolRegionDestroy slot => Sys2Proof.Machine.execPoolRegionDestroy slot s
  | .tpeCtxCreate slot => Sys2Proof.Machine.execTpeCtxCreate slot s
  | .tpeCtxDestroy slot => Sys2Proof.Machine.execTpeCtxDestroy slot s
  | .kettleCreate slot table => Sys2Proof.Machine.execKettleCreate slot table s
  | .kettleEpochSet slot => Sys2Proof.Machine.execKettleEpochSet slot s
  | .kettleDestroy slot => Sys2Proof.Machine.execKettleDestroy slot s
  | .keySlotWrite slot buf => Sys2Proof.Machine.execKeySlotWrite slot buf s
  | .keySlotGenerate slot => Sys2Proof.Machine.execKeySlotGenerate slot s
  | .keySlotClear slot => Sys2Proof.Machine.execKeySlotClear slot s
  | .saCreate slot => Sys2Proof.Machine.execSaCreate slot s
  | .saRekey slot => Sys2Proof.Machine.execSaRekey slot s
  | .saDestroy slot => Sys2Proof.Machine.execSaDestroy slot s
  | .destPathsSet slot => Sys2Proof.Machine.execDestPathsSet slot s
  | .congParamsSet slot => Sys2Proof.Machine.execCongParamsSet slot s
  | .rateLimitSet slot => Sys2Proof.Machine.execRateLimitSet slot s
  | .tcConfigSet slot => Sys2Proof.Machine.execTcConfigSet slot s
  | .gateListInstall slot buf => Sys2Proof.Machine.execGateListInstall slot buf s
  | .gateListQuery slot => Sys2Proof.Machine.execGateListQuery slot s
  | .gateListCancel slot => Sys2Proof.Machine.execGateListCancel slot s
  | .powerStateRequest slot => Sys2Proof.Machine.execPowerStateRequest slot s
  | .owlLogRead slot ok => Sys2Proof.Machine.execOwlLogRead slot ok s
  | .traceConfig slot ok => Sys2Proof.Machine.execTraceConfig slot ok s
  | .mbxChannelConfig slot => Sys2Proof.Machine.execMbxChannelConfig slot s
  | .sqDoorbell inst qpn => Sys2Proof.Machine.execSqDoorbell inst qpn s
  | .rqDoorbell inst qpn => Sys2Proof.Machine.execRqDoorbell inst qpn s
  | .tpeDoorbell inst ctx => Sys2Proof.Machine.execTpeDoorbell inst ctx s
  | .ringSlotRead k id x intact => Sys2Proof.Machine.execRingSlotRead k id x intact s
  | .sqEntryStart qpn m => Sys2Proof.Machine.execSqEntryStart qpn m s
  | .dataReadComplete id bytes m => Sys2Proof.Machine.execDataReadComplete id bytes m s
  | .recallFirst inst first => Sys2Proof.Machine.execRecallFirst inst first s
  | .cqReturn inst cqn count => Sys2Proof.Machine.execCqReturn inst cqn count s
  | .cqReportRelease cqn intact => Sys2Proof.Machine.execCqReportRelease cqn intact s
  | .cqArm inst cqn => Sys2Proof.Machine.execCqArm inst cqn s
  | .cqModTimer cqn => Sys2Proof.Machine.execCqModTimer cqn s
  | .cqStallTimer cqn => Sys2Proof.Machine.execCqStallTimer cqn s
  | .handshakeRetry qpn => Sys2Proof.Machine.execHandshakeRetry qpn s
  | .handshakeTimeout qpn => Sys2Proof.Machine.execHandshakeTimeout qpn s
  | .connectReq => Sys2Proof.Machine.execConnectReq s
  | .connectAccept => Sys2Proof.Machine.execConnectAccept s
  | .connectRefuse => Sys2Proof.Machine.execConnectRefuse s
  | .frameReceived port bytes fcsOk disagree => Sys2Proof.Machine.execFrameReceived port bytes fcsOk disagree s
  | .trainReceived m => Sys2Proof.Machine.execTrainReceived m s
  | .kiteReceived m => Sys2Proof.Machine.execKiteReceived m s
  | .ackReceived => Sys2Proof.Machine.execAckReceived s
  | .movedReceived => Sys2Proof.Machine.execMovedReceived s
  | .arpRequest port bytes => Sys2Proof.Machine.execArpRequest port bytes s
  | .neighborSolicitation port bytes => Sys2Proof.Machine.execNeighborSolicitation port bytes s
  | .pfcFrameReceived port bytes fcsOk => Sys2Proof.Machine.execPfcFrameReceived port bytes fcsOk s
  | .pauseExpire port tc => Sys2Proof.Machine.execPauseExpire port tc s
  | .pfcRepeatTimer port tc => Sys2Proof.Machine.execPfcRepeatTimer port tc s
  | .pauseStuckTimer port tc => Sys2Proof.Machine.execPauseStuckTimer port tc s
  | .flushReadComplete id timedOut => Sys2Proof.Machine.execFlushReadComplete id timedOut s
  | .ackDelayExpire qpn => Sys2Proof.Machine.execAckDelayExpire qpn s
  | .holdTimeout qpn psn => Sys2Proof.Machine.execHoldTimeout qpn psn s
  | .notifyDeliver qpn => Sys2Proof.Machine.execNotifyDeliver qpn s
  | .notifyWaitTimeout qpn => Sys2Proof.Machine.execNotifyWaitTimeout qpn s
  | .retransmitTimeout qpn id => Sys2Proof.Machine.execRetransmitTimeout qpn id s
  | .readReqTimeout qpn slot => Sys2Proof.Machine.execReadReqTimeout qpn slot s
  | .resendWaitExpire qpn => Sys2Proof.Machine.execResendWaitExpire qpn s
  | .pathHoldExpire coord path => Sys2Proof.Machine.execPathHoldExpire coord path s
  | .wheelSlot inst tc => Sys2Proof.Machine.execWheelSlot inst tc s
  | .trainCloseTimer coord saId tc => Sys2Proof.Machine.execTrainCloseTimer coord saId tc s
  | .datagramSend id disagree => Sys2Proof.Machine.execDatagramSend id disagree s
  | .frameTransmitStart port => Sys2Proof.Machine.execFrameTransmitStart port s
  | .gateTakeover port => Sys2Proof.Machine.execGateTakeover port s
  | .portLockHeld port => Sys2Proof.Machine.execPortLockHeld port s
  | .portFaultHeld port => Sys2Proof.Machine.execPortFaultHeld port s
  | .mirrorWalkDone id m => Sys2Proof.Machine.execMirrorWalkDone id m s
  | .atsCompletion id res m => Sys2Proof.Machine.execAtsCompletion id res m s
  | .pageRequestIssue fn => Sys2Proof.Machine.execPageRequestIssue fn s
  | .prgResponse fn index code m => Sys2Proof.Machine.execPrgResponse fn index code m s
  | .pageTimeoutExpire inst page => Sys2Proof.Machine.execPageTimeoutExpire inst page s
  | .atsInvalidate fn pasid va size tag => Sys2Proof.Machine.execAtsInvalidate fn pasid va size tag s
  | .patrolScrub line fault holds => Sys2Proof.Machine.execPatrolScrub line fault holds s
  | .poolStackFault n => Sys2Proof.Machine.execPoolStackFault n s
  | .tpeStepStart ctx words m => Sys2Proof.Machine.execTpeStepStart ctx words m s
  | .tileLoadDone ctx => Sys2Proof.Machine.execTileLoadDone ctx s
  | .arrayStep a => Sys2Proof.Machine.execArrayStep a s
  | .tpeStepComplete ctx slot m => Sys2Proof.Machine.execTpeStepComplete ctx slot m s
  | .reduceWaitExpire ctx => Sys2Proof.Machine.execReduceWaitExpire ctx s
  | .lookasideDoorbell inst => Sys2Proof.Machine.execLookasideDoorbell inst s
  | .lookasideStart inst disagree m => Sys2Proof.Machine.execLookasideStart inst disagree m s
  | .rxPhaseRetire sa => Sys2Proof.Machine.execRxPhaseRetire sa s
  | .drbgReseed => Sys2Proof.Machine.execDrbgReseed s
  | .entropyHealthFail => Sys2Proof.Machine.execEntropyHealthFail s
  | .freezeDrained inst => Sys2Proof.Machine.execFreezeDrained inst s
  | .freezeDrainTimeout inst => Sys2Proof.Machine.execFreezeDrainTimeout inst s
  | .instanceResetDone inst => Sys2Proof.Machine.execInstanceResetDone inst s
  | .forwardExpire inst => Sys2Proof.Machine.execForwardExpire inst s
  | .mbxOutDoorbell r w => Sys2Proof.Machine.execMbxOutDoorbell r w s
  | .mbxInDoorbellClear r w => Sys2Proof.Machine.execMbxInDoorbellClear r w s
  | .mbxInAck r n code => Sys2Proof.Machine.execMbxInAck r n code s
  | .mbxMaskWrite r off w => Sys2Proof.Machine.execMbxMaskWrite r off w s
  | .mbxRelayDeliver to_ done => Sys2Proof.Machine.execMbxRelayDeliver to_ done s
  | .secureServiceRequest => Sys2Proof.Machine.execSecureServiceRequest s
  | .mctpVendorRequest m => Sys2Proof.Machine.execMctpVendorRequest m s
  | .mctpControlMessage m => Sys2Proof.Machine.execMctpControlMessage m s
  | .smbusAlertResponse => Sys2Proof.Machine.execSmbusAlertResponse s
  | .wdtEnable val => Sys2Proof.Machine.execWdtEnable val s
  | .watchdogExpire => Sys2Proof.Machine.execWatchdogExpire s
  | .controlResetDone => Sys2Proof.Machine.execControlResetDone s
  | .owlSample samples => Sys2Proof.Machine.execOwlSample samples s
  | .glideLoadWindow need pace => Sys2Proof.Machine.execGlideLoadWindow need pace s
  | .roostEnter => Sys2Proof.Machine.execRoostEnter s
  | .roostExit => Sys2Proof.Machine.execRoostExit s
  | .dapTransfer r parityOk => Sys2Proof.Machine.execDapTransfer r parityOk s
  | .dbgHalt => Sys2Proof.Machine.execDbgHalt s
  | .dbgResume => Sys2Proof.Machine.execDbgResume s
  | .tapInstruction code => Sys2Proof.Machine.execTapInstruction code s
  | .seedWaitTimeout w => Sys2Proof.Machine.execSeedWaitTimeout w s
  | .hPortDlActive => Sys2Proof.Machine.execHPortDlActive s
  | .alignmentLockChange port locked faulted corr uncorr => Sys2Proof.Machine.execAlignmentLockChange port locked faulted corr uncorr s
  | .aportLinkDown n => Sys2Proof.Machine.execAportLinkDown n s
  | .aerErrorReported port kind => Sys2Proof.Machine.execAerErrorReported port kind s
  | .flashWriteDone ok => Sys2Proof.Machine.execFlashWriteDone ok s
  | .poolZeroingDone base => Sys2Proof.Machine.execPoolZeroingDone base s
  | .ptpDelayMessage m => Sys2Proof.Machine.execPtpDelayMessage m s

end Sys2Proof.Machine
end

