-- ==== Sys2Proof/Machine/Step.lean ====
section
/-!
DEFINITION. One step of the block: the command at the front of the queue acts on the state with the queue's rest. On an empty queue
the block idles to its next instant (Time.lean: `tick`).
-/

namespace Sys2Proof.Machine

/-- One step. (DESIGN CHOICE in part: assumption 1) -/
def step (s : State) : Host.Outcome State Fault Refusal :=
  match s.pending with
  | [] => .next (tick s)
  | c :: rest => exec c { s with pending := rest }

/-- The host's probe of a table word: the table spells no command by bits, so no word changes the queue. -/
def State.withFetchWord (s : State) (nbits w : Nat) : State :=
  match decodeTableWord nbits w with
  | some c => { s with pending := c :: s.pending }
  | none => s

end Sys2Proof.Machine
end

