-- ==== Sys2Proof/Safety.lean ====
section
/-!
DEFINITION. The terms the statements use: that a command completes, that a run is safe, what a report leaves behind, and what it is for
two states to differ by reports alone.
-/

namespace Sys2Proof.Machine

/-- Running the block for `n` steps from `s` meets no fault and no refusal. -/
def SafeFor (s : State) : Nat → Prop
  | 0 => True
  | n + 1 => match step s with
    | .next t => SafeFor t n
    | .fault _ => False
    | .refused _ => False

/-! ### Reports: outputs, interrupts, events and trace records -/

/-- The state without what reports leave: the outputs, pending MSI-X bits, the event ring's numbers, events held for later, the
trace ring's counts, and the pool's bytes, written flags and failed lines (compared apart in `OnlyReports`). -/
def quiet (s : State) : State :=
  { s with
    out := [], heldOut := [], portHeld := []
    fns := s.fns.map fun r => (r.1, { r.2 with msix := { r.2.msix with pending := [] } })
    adm := { s.adm with evtSeq := 0, evtOverflow := false, evtFree := 0, evtNext := 0, held := [], heldLost := 0 }
    pm := { s.pm with held := [] }
    trace := { s.trace with writeSeq := 0, lost := 0, sinceLost := 0, lostDue := false, fullSeen := false, sinceSusp := 0 }
    pool := { s.pool with mem := [], written := [], failed := [] } }

/-- Pool address `a` lies in a 4 KiB block that the trace ring reaches: a first write into a clear block writes all of it (R285). -/
def inTrace (s : State) (a : Nat) : Bool :=
  match s.trace.ring with
  | none => false
  | some (base, l) => decide (base / 4096 ≤ a / 4096) && decide (a / 4096 ≤ (base + 2 ^ l - 1) / 4096)

/-- Every output, those that wait included. -/
def outputs (s : State) : List Output := s.out ++ s.heldOut ++ s.portHeld

/-- `t` is `s` but for reports: every register, queue and table is the same; every pool byte, written flag and failed line outside the
blocks of the trace ring; and no output is taken back. -/
structure OnlyReports (s t : State) : Prop where
  same    : quiet t = quiet s
  mem     : ∀ a, inTrace s a = false → memByte t.pool.mem a = memByte s.pool.mem a
  written : ∀ b, inTrace s (4096 * b) = false → writtenFlag t b = writtenFlag s b
  failed  : ∀ l, inTrace s (64 * l) = false → t.pool.failed.contains l = s.pool.failed.contains l
  outs    : ∀ o ∈ outputs s, o ∈ outputs t

/-- The command completes in a state that is `t` but for reports. -/
def Gives (i : Instr) (s t : State) : Prop := ∃ u, exec i s = .next u ∧ OnlyReports t u

/-! ### What holds in every state -/

/-- The registers hold values the manual gives them: CORE within its range (R57), the watchdog off or with a legal period (R432), the stage
one of Table 5-4. -/
structure Legal (s : State) : Prop where
  core  : 620 ≤ s.power.coreMv.toNat ∧ s.power.coreMv.toNat ≤ 880
  wdt   : s.wdt.enabled = true → 1 ≤ s.wdt.periodMs.toNat ∧ s.wdt.periodMs.toNat ≤ 16000
  stage : s.start.stage = 0 ∨ s.start.stage = 1 ∨ s.start.stage = 0xF

/-- PERCH_N is low while STAGE reads Perch (R43); before the rails are good STAGE does not. -/
structure PerchPin (s : State) : Prop where
  low   : s.start.stage = 0xF → s.pins.perchN = .low
  early : s.power.phase = .off ∨ s.power.phase = .waiting ∨ s.power.phase = .ramping → s.start.stage ≠ 0xF

/-! ### Admin commands -/

/-- The command `c` of the admin ring may start now (R118), its opcode the row's, and no earlier command that names its
instance holds it (R383). -/
def CanStart (s : State) (slot opcode : Nat) (c : AdminCmd) : Prop :=
  mayStart s slot opcode = some c ∧ instAhead s c = false

/-- `s` less the command in `slot`, a disable that waited for it ended (R116). -/
def admDone (s : State) (slot : Nat) : State :=
  admSettle { s with adm := { s.adm with cmds := s.adm.cmds.filter fun c => !(c.slot == slot) } }

/-- The completion of the entry `res` in `slot` is written or, in a debug halt, held for writing (R117). -/
def EntryWritten (s t : State) (slot : Nat) (res : Entry) (status : BitVec 8) (reason : Nat) : Prop :=
  .memWrite pfHost (s.adm.ringBase.toNat + 64 * slot) (entryBytes (completedEntry res s.epoch status reason)).dropLast
    ∈ outputs t

/-- The admin command in `slot` completes with `res`, `status` and `reason`, and its whole effect besides is that of `t`. -/
def Completes (i : Instr) (s : State) (slot : Nat) (res : Entry) (status : BitVec 8) (reason : Nat) (t : State) : Prop :=
  ∃ u, exec i s = .next u ∧ OnlyReports (admDone t slot) u ∧ EntryWritten s u slot res status reason

end Sys2Proof.Machine
end

