-- ==== Sys2Proof/Certificates/Slice0/Obligations.lean ====
section
/-!
DEFINITION. The statements for the provers. The rule numbers are those of spec/; a value that is free in the model is free in every
statement. `Completes`, `Gives`, `CanStart` and the invariants are in Safety.lean.
-/

open Sys2Proof Sys2Proof.Machine

/-! ### The block: its queue, its reset, its reports -/

/-- One step is the command at the front of the queue, run on the state with the rest of the queue; on an empty queue the block idles to
its next instant (the model's choice, assumption 2).

No command is refused, and none stops but one: VIN beyond the supply's absolute maximum of 2,200 mV, where the manual gives the
device no behaviour (R51, Table 2-7, assumption 21). -/
def Obligations.StepRunsFrontCommand : Prop :=
  (∀ (c : Instr) (s : State), step { s with pending := c :: s.pending } = exec c s) ∧
  (∀ s : State, s.pending = [] → step s = .next (tick s)) ∧
  (∀ (c : Instr) (s : State), (∀ mv, c = .vinRise mv → mv ≤ 2200) → ∃ t, exec c s = .next t) ∧
  ∀ (mv : Nat) (s : State), 2200 < mv → exec (.vinRise mv) s = .fault .vinBeyondMaximum

/-- Without power, with nothing waiting, every register at the Reset value its table gives (R8): the start-up status, the admin
interface, the watchdog, the power status and the pace status, a mailbox channel, and the defaults of Tables 9-3 and 10-4 and R206.

Where the spec is open, clauses here are the model's choice: assumption 18 (reset values the manual does not give). -/
def Obligations.ResetValues : Prop :=
  let s := State.reset
  s.power.phase = .off ∧ s.pending = [] ∧ s.start.stage = 0 ∧ s.start.perchCause = 0 ∧ s.start.perchInfo = 0 ∧
  s.start.fwRunning = false ∧ s.start.seeded = false ∧ s.adm.enable = false ∧ s.adm.enabled = false ∧ s.adm.ringBase = 0 ∧
  s.adm.ringLog2 = 0 ∧ s.epoch = 0 ∧ s.wdt.enabled = false ∧ s.pm.state = 0 ∧ s.power.coreMv = 880 ∧ s.clocks.good = 0 ∧
  s.counters = [] ∧ s.pathDef = { count := 256, exclude := 0 } ∧
  s.pfMbx = List.replicate 16 Channel.reset ∧ s.secMbx = List.replicate 16 Channel.reset ∧
  Channel.reset.outMask = 0xFFFFFFFF ∧ Channel.reset.emptyMask = true ∧ Channel.reset.inMask = 0xFFFFFFFF ∧
  s.cong.rtoMinUs = 8 ∧ s.cong.targetRttNs = 6000 ∧ s.cong.initWndB = 1048576 ∧
  ∀ tc < 8, s.classes[tc]? = some { dscp := 8 * tc, strict := false, pfc := false, weight := 1, reserve := 512, xoff := 0, xon := 0, quanta := 0 }

/-- An event, a trace record and an interrupt change nothing but what reports leave: no register, queue or table, and no pool byte
outside the trace ring.

An event posted outside Perch and Roost with the ring enabled and an entry returned takes the next event SEQ, and its 32 bytes
go to the slot that is next: all but the last byte, then the last byte (R14, R123).

Where the spec is open, clauses here are the model's choice: assumption 34 (events and full rings). -/
def Obligations.Reports : Prop :=
  ((∀ s code data, OnlyReports s (post s code data)) ∧
   (∀ s cls type source data, OnlyReports s (trace s cls type source data)) ∧
   ∀ s fn v, OnlyReports s (msixRaise s fn v)) ∧
  (∀ (s : State) (code : BitVec 16) (data : BitVec 96), live s = true → s.pm.state ≠ 2 → s.ctlReset = false → s.halted = false →
     s.adm.enabled = true → s.adm.reportOwed = false → 0 < s.adm.evtFree →
     let bs := entryBytes (eventEntry s.adm.evtSeq code s.epoch s.time.dev data)
     let a := s.adm.evtBase.toNat + 32 * s.adm.evtNext
     ∃ rest, (post s code data).out = s.out ++ .memWrite pfHost a bs.dropLast :: .memWrite pfHost (a + 31) (bs.drop 31) :: rest)

/-! ### Supply, resets and clocks -/

/-- VIN through the lockout powers the always-on domain and nothing else: the thermal and Perch outputs float, Owl is untested, and step
4 of Table 2-4 waits (R32). Above 2,200 mV the command stops (R51, Table 2-7).

With all three reset inputs high the straps are sampled and the rails ramp (R34, R41, Table 2-5); before that the input alone changes.

The rails become good: device time starts at 0, the clock monitors begin their windows and the H link trains (R35, R64, R70); a TEST strap
or a failed Owl self-test is Perch with CAUSE 1 or 2, the lowest first (R42, R103). Owl's self-test drives its outputs inactive; DL_Active
ends training. Nothing else changes.

Where the spec is open, clauses here are the model's choice: assumptions 20 (PERCH_N in a power-down), 21 (the supply's absolute
maximum), 26 (the PCIe state at reset) and 101 (the numbers that commands carry). -/
def Obligations.PowerUp : Prop :=
  (∀ (mv : Nat) (s : State),
     (1660 ≤ mv → mv ≤ 2200 → s.power.phase = .off →
       exec (.vinRise mv) s = .next { s with
         pins := { s.pins with thermtripN := .hiZ, perchN := .hiZ }, power := { Power.reset with phase := .waiting } }) ∧
     (mv < 1660 → exec (.vinRise mv) s = .next s) ∧
     (mv ≤ 2200 → s.power.phase ≠ .off → exec (.vinRise mv) s = .next s) ∧
     (2200 < mv → exec (.vinRise mv) s = .fault .vinBeyondMaximum)) ∧
  (∀ (straps : BitVec 5) (s : State),
     let sampled : Pins := { s.pins with smba := straps.extractLsb' 0 2, imgsel := straps.extractLsb' 2 1, test := straps.extractLsb' 3 2 }
     let ramp : Power := { s.power with phase := .ramping }
     (s.power.phase = .waiting → s.pins.brdRstN = true → s.pins.hPerstN = true →
       exec (.pwrOkRise straps) s = .next { s with pins := { sampled with pwrOk := true }, power := ramp }) ∧
     (s.power.phase ≠ .waiting ∨ s.pins.brdRstN = false ∨ s.pins.hPerstN = false →
       exec (.pwrOkRise straps) s = .next { s with pins := { s.pins with pwrOk := true } }) ∧
     (s.power.phase = .waiting → s.pins.pwrOk = true → s.pins.hPerstN = true →
       exec (.fullResetRelease .brdRst straps) s = .next { s with pins := { sampled with brdRstN := true }, power := ramp }) ∧
     (s.power.phase ≠ .waiting ∨ s.pins.pwrOk = false ∨ s.pins.hPerstN = false →
       exec (.fullResetRelease .brdRst straps) s = .next { s with pins := { s.pins with brdRstN := true } }) ∧
     (s.power.phase = .waiting → s.pins.pwrOk = true → s.pins.brdRstN = true →
       exec (.fullResetRelease .hPerst straps) s = .next { s with pins := { sampled with hPerstN := true }, power := ramp }) ∧
     (s.power.phase ≠ .waiting ∨ s.pins.pwrOk = false ∨ s.pins.brdRstN = false →
       exec (.fullResetRelease .hPerst straps) s = .next { s with pins := { s.pins with hPerstN := true } })) ∧
  (∀ s : State,
     let good : State := { s with
       power := { s.power with phase := .up, railsUp := true, hTraining := true }
       clocks := { s.clocks with winStart := (List.range 7).map fun clk => (clk, s.clocks.count) }
       time := { s.time with dev := 0 }, start := { s.start with railsAt := some s.now } }
     (s.power.phase = .ramping → s.pins.test = 0 → s.power.owlTest ≠ some false → exec .railsGood s = .next good) ∧
     (s.power.phase = .ramping → s.pins.test ≠ 0 → exec .railsGood s = .next (enterPerch good 0x01 0)) ∧
     (s.power.phase = .ramping → s.pins.test = 0 → s.power.owlTest = some false → exec .railsGood s = .next (enterPerch good 0x02 0)) ∧
     (s.power.phase ≠ .ramping → exec .railsGood s = .next s) ∧
     (s.power.phase ≠ .off → s.power.owlTest = none → s.pins.thermtripN ≠ .low → s.start.stage ≠ 0xF →
       let tested (ok : Bool) : State := { s with
         pins := { s.pins with thermtripN := .inactive, perchN := .inactive }, power := { s.power with owlTest := some ok } }
       exec (.owlSelftestDone true) s = .next (tested true) ∧
       (s.power.phase ≠ .up → exec (.owlSelftestDone false) s = .next (tested false)) ∧
       (s.power.phase = .up → exec (.owlSelftestDone false) s = .next (enterPerch (tested false) 0x02 0))) ∧
     (s.power.phase = .up → s.power.hTraining = true →
       exec .hPortDlActive s = .next { s with power := { s.power with hLinkUp := true, hTraining := false } }) ∧
     (s.power.phase ≠ .up ∨ s.power.hTraining = false → exec .hPortDlActive s = .next s))

/-- A low pulse on a reset input shorter than 200 ns is ignored; one of 1 us or more is a full reset, the input low and every register but
the supply's at its Reset value; the lengths between are open (Config.shortPulse, assumption 4).

The orderly power-down (R36, R37, R44 to R46) and the thermal trip (R53): the links stop at once; its end loses pool memory and
device time and restarts where the inputs are high again, but never while THERMTRIP_N is low, where PERCH_N and SMB_ALERT_N stand until
VIN falls; VIN below 1.60 V unpowers everything.

Where the spec is open, clauses here are the model's choice: assumptions 4 (reset pulses between 200 ns and 1 us), 20 (PERCH_N
in a power-down) and 103 (a rail ramp that a full reset cuts short). -/
def Obligations.ResetsAndPowerDown : Prop :=
  (∀ (pin : ResetPin) (ns : Nat) (s : State),
     (ns < 200 → exec (.fullResetAssert pin ns) s = .next { s with fresh := s.fresh + 1 }) ∧
     (1000 ≤ ns → (s.power.phase = .waiting ∨ s.power.phase = .ramping ∨ s.power.phase = .up) →
       ∃ t, exec (.fullResetAssert pin ns) s = .next t ∧ t.power.phase = .waiting ∧ t.power.railsUp = s.power.railsUp ∧
         t.power.owlTest = s.power.owlTest ∧ t.power.coreMv = 880 ∧ t.pins.aPerstN = 0 ∧ t.pins.nTxEnable = 0 ∧ t.pins.perchN ≠ .low ∧
         t.pins.smbAlert = false ∧ t.pins.thermtripN = s.pins.thermtripN ∧ t.start = Start.reset ∧ t.adm = Adm.reset ∧ t.qps = [] ∧
         t.insts = [] ∧ t.counters = [] ∧ t.wdt.enabled = false ∧ t.epoch = 0 ∧ t.fns = State.reset.fns ∧ t.ports = State.reset.ports ∧
         t.pfMbx = State.reset.pfMbx ∧ t.secMbx = State.reset.secMbx ∧ t.cong = State.reset.cong ∧ t.mirrors = [] ∧ t.ctxs = [] ∧
         t.pending = s.pending ∧ t.now = s.now ∧ (s.power.railsUp = true → t.pool.mem = s.pool.mem) ∧
         (pin = .brdRst → t.pins.brdRstN = false ∧ t.pins.hPerstN = s.pins.hPerstN) ∧
         (pin = .hPerst → t.pins.hPerstN = false ∧ t.pins.brdRstN = s.pins.brdRstN)) ∧
     (1000 ≤ ns → (s.power.phase = .off ∨ s.power.phase = .poweringDown ∨ s.power.phase = .tripped) →
       exec (.fullResetAssert pin ns) s = .next { s with
         pins := match pin with | .brdRst => { s.pins with brdRstN := false } | .hPerst => { s.pins with hPerstN := false }
         fresh := s.fresh + 1 })) ∧
  (∀ (straps : BitVec 5) (s : State),
     let stopped (pwrOk : Bool) (phase : Phase) : State := { s with
       pins := { s.pins with pwrOk := pwrOk, aPerstN := 0, nTxEnable := 0 }
       power := { s.power with phase := phase, hLinkUp := false, hTraining := false } }
     ((s.power.phase = .up ∨ s.power.phase = .ramping ∨ (s.power.phase = .waiting ∧ s.power.railsUp = true)) →
       exec .pwrOkFall s = .next (stopped false .poweringDown)) ∧
     ((s.power.phase = .off ∨ s.power.phase = .poweringDown ∨ s.power.phase = .tripped ∨
         (s.power.phase = .waiting ∧ s.power.railsUp = false)) →
       exec .pwrOkFall s = .next { s with pins := { s.pins with pwrOk := false } }) ∧
     (s.power.phase = .poweringDown →
       ∃ t, exec (.powerDownComplete straps) s = .next t ∧ t.pool.mem = [] ∧ t.time.dev = 0 ∧ t.start = Start.reset ∧
         t.qps = [] ∧ t.insts = [] ∧ t.power.railsUp = false ∧ t.pins.pwrOk = s.pins.pwrOk ∧ t.pending = s.pending ∧
         t.power.phase = (if s.pins.pwrOk && s.pins.brdRstN && s.pins.hPerstN then .ramping else .waiting)) ∧
     (s.power.phase = .tripped →
       ∃ t, exec (.powerDownComplete straps) s = .next t ∧ t.power.phase = .tripped ∧ t.pins.thermtripN = s.pins.thermtripN ∧
         t.pins.perchN = s.pins.perchN ∧ t.pins.smbAlert = s.pins.smbAlert ∧ t.pins.smba = s.pins.smba ∧
         t.pool.mem = [] ∧ t.time.dev = 0 ∧ t.start = Start.reset ∧ t.power.railsUp = false) ∧
     (s.power.phase ≠ .poweringDown → s.power.phase ≠ .tripped → exec (.powerDownComplete straps) s = .next s) ∧
     (s.power.phase ≠ .off → s.power.phase ≠ .tripped →
       exec .thermalBackstop s = .next { stopped s.pins.pwrOk .tripped with
         pins := { (stopped s.pins.pwrOk .tripped).pins with thermtripN := .low } }) ∧
     (s.power.phase = .off ∨ s.power.phase = .tripped → exec .thermalBackstop s = .next s) ∧
     (s.power.phase ≠ .off →
       ∃ t, exec .vinUvloFall s = .next t ∧ t.power = Power.reset ∧ t.pins.thermtripN = .hiZ ∧ t.pins.perchN = .hiZ ∧
         t.pins.smbAlert = false ∧ t.pins.pwrOk = s.pins.pwrOk ∧ t.pool.mem = [] ∧ t.start = Start.reset ∧ t.pending = s.pending) ∧
     (s.power.phase = .off → exec .vinUvloFall s = .next s))

/-- The governor moves CORE toward the voltage the slowest region needs, at most 5 mV at an evaluation and within 620 to 880 mV (R57, R58),
notes whether it stands at the ceiling and the margin; PACE_LIMIT is posted where 880 mV does not suffice (R59). In Roost, in Perch and
without power it makes no move.

Where the spec is open, clauses here are the model's choice: assumptions 51 (pace limits) and 101 (the numbers that commands
carry). -/
def Obligations.GovernorEval : Prop :=
  ∀ (need : Nat) (pace : Int) (region : Nat) (s : State),
    let cur := s.power.coreMv.toNat
    let want := max 620 (min 880 need)
    let mv := max (cur - 5) (min (cur + 5) want)
    let moved : State := { s with power := { s.power with
      coreMv := BitVec.ofNat 16 mv, atCeiling := mv == 880, marginPct := BitVec.ofNat 8 (min 255 pace.toNat) } }
    (live s = true → s.pm.state ≠ 2 → (mv ≠ 880 ∨ 0 ≤ pace) → exec (.governorEval need pace region) s = .next moved) ∧
    (live s = true → s.pm.state ≠ 2 → mv = 880 → pace < 0 →
      exec (.governorEval need pace region) s = .next (post moved 0x0015 (evData [(16, 2, 880), (18, 1, region)]))) ∧
    (live s = false ∨ s.pm.state = 2 → exec (.governorEval need pace region) s = .next s) ∧
    (620 ≤ cur → cur ≤ 880 → 620 ≤ mv ∧ mv ≤ 880 ∧ mv ≤ cur + 5 ∧ cur ≤ mv + 5)

/-- A good clock that is lost is marked lost, its window dropped, and the actions of Table 3-4 follow CLOCK_LOST, unless a debug halt
owes them (R64, R67, R68, R482); on a lost clock a gap or a short period ends the window and a new one begins (R66). A window ends only
once it has lasted 1 ms: in tolerance it restores a lost clock and keeps a good one; a change of rate of more than 50 ppm, or an average
out of tolerance, loses it (R64, R66). 10 s of good TREF calibrate the oscillator.

The actions of Table 3-4 on the loss of each clock: the H link falls and the PF is reset; an A link falls; the Ethernet ports stop;
TREF moves device time to holdover and may trip the watchdog (R434). Each follows the CLOCK_LOST event.

Where the spec is open, clauses here are the model's choice: assumptions 22 (every kind of clock loss acts alike), 23 (losing
H_REFCLK), 24 (the watchdog's clock) and 104 (windows on different bases). -/
def Obligations.ClockActions : Prop :=
  (∀ (clk : Nat) (kind : ClockFault) (ppb : Int) (s : State), s.power.phase = .up → clk < 7 →
     let begun : Tab Nat := tput s.clocks.winStart clk s.clocks.count
     let lost : State := { s with clocks := { s.clocks with
       good := s.clocks.good &&& ~~~clockBit clk, lostSeen := s.clocks.lostSeen ||| clockBit clk
       lastWindow := tdel s.clocks.lastWindow clk, goodSince := tdel s.clocks.goodSince clk, winStart := begun } }
     let back : State := { s with clocks := { s.clocks with
       good := s.clocks.good ||| clockBit clk, everGood := s.clocks.everGood ||| clockBit clk
       lastWindow := tput s.clocks.lastWindow clk ppb, goodSince := tput s.clocks.goodSince clk s.now, winStart := begun } }
     let lose : State := if s.halted then { lost with dbg := { s.dbg with owed := s.dbg.owed ++ [(clk, true)] } } else clockLost lost clk
     let restore : State :=
       if s.halted then { back with dbg := { s.dbg with owed := s.dbg.owed ++ [(clk, false)] } } else clockRestored back clk
     (s.clocks.good.getLsbD clk = true → exec (.clockLossDetect clk kind) s = .next lose) ∧
     (s.clocks.good.getLsbD clk = false →
       exec (.clockLossDetect clk kind) s = .next { s with clocks := { s.clocks with winStart := begun } }) ∧
     (∀ since, tget s.clocks.winStart clk = some since → since + 1000000 ≤ s.clocks.count →
       (s.clocks.good.getLsbD clk = true → inTolerance s clk ppb = true → rateChanged s clk ppb = false →
         exec (.clockWindowEnd clk ppb) s = .next { s with clocks := { s.clocks with
           winStart := begun, lastWindow := tput s.clocks.lastWindow clk ppb } }) ∧
       (s.clocks.good.getLsbD clk = true → inTolerance s clk ppb = false ∨ rateChanged s clk ppb = true →
         exec (.clockWindowEnd clk ppb) s = .next lose) ∧
       (s.clocks.good.getLsbD clk = false → inTolerance s clk ppb = true → exec (.clockWindowEnd clk ppb) s = .next restore) ∧
       (s.clocks.good.getLsbD clk = false → inTolerance s clk ppb = false →
         exec (.clockWindowEnd clk ppb) s = .next { s with clocks := { s.clocks with winStart := begun } })) ∧
     (∀ since, tget s.clocks.winStart clk = some since → s.clocks.count < since + 1000000 →
       exec (.clockWindowEnd clk ppb) s = .next s)) ∧
  (∀ (clk : Nat) (kind : ClockFault) (ppb : Int) (s : State), s.power.phase ≠ .up →
     exec (.clockLossDetect clk kind) s = .next s ∧ exec (.clockWindowEnd clk ppb) s = .next s ∧ exec .oscCalibrate s = .next s) ∧
  (∀ (s : State) (clk : Nat) (ppb : Int),
     (s.clocks.oscCal = true → (inTolerance s clk ppb = true ↔ ppb.natAbs ≤ 300000) ∧
       ∀ p, tget s.clocks.lastWindow clk = some p → (rateChanged s clk ppb = true ↔ 50000 < (ppb - p).natAbs)) ∧
     (s.clocks.oscCal = false → clk = 6 → (inTolerance s clk ppb = true ↔ ppb.natAbs ≤ 15000000) ∧ rateChanged s clk ppb = false) ∧
     (s.clocks.oscCal = false → clk ≠ 6 →
       (inTolerance s clk ppb = true ↔ ppb.natAbs ≤ if s.clocks.good.getLsbD 6 then 300000 else 15000000))) ∧
  (∀ (s : State) (since : Nat), s.power.phase = .up → tget s.clocks.goodSince 6 = some since →
     (s.clocks.good.getLsbD 6 = true → since + 10000000000 ≤ s.now →
       exec .oscCalibrate s = .next { s with clocks := { s.clocks with oscCal := true } }) ∧
     (s.clocks.good.getLsbD 6 = false ∨ s.now < since + 10000000000 → exec .oscCalibrate s = .next s)) ∧
  (∀ s : State,
     let p (clk : Nat) : State := post s 0x0010 (evData [(16, 1, clk)])
     let hDown : State := { p 0 with power := { (p 0).power with hLinkUp := false, hTraining := false } }
     (live s = false → clockLost s 0 = hDown) ∧
     (live s = true → clockLost s 0 = { pfFlr hDown with
       clocks := { (pfFlr hDown).clocks with lostSeen := (pfFlr hDown).clocks.lostSeen ||| clockBit 0 } }) ∧
     (∀ n < 4, clockLost s (n + 1) = setAport (p (n + 1)) n fun a => { a with linkUp := false }) ∧
     (clockLost s 5 = { portsLoseClock (p 5) with pins := { (portsLoseClock (p 5)).pins with nTxEnable := 0 } }) ∧
     (clockLost s 6 = let t := timeTrefLost (p 6)
       if t.wdt.enabled && !wdtInternal t then controlReset t else t) ∧
     (s.time.state = .locked → s.clocks.oscCal = true → (timeTrefLost s).time.state = .holdover ∧
       (timeTrefLost s).time.trusted = true ∧ (timeTrefLost s).time.trustEnd = some (s.now + 1000000)) ∧
     (s.time.state = .locked → s.clocks.oscCal = false → (timeTrefLost s).time.state = .holdover ∧ (timeTrefLost s).time.trusted = false) ∧
     (s.time.state = .freerun → (timeTrefLost s).time.state = .holdover ∧ (timeTrefLost s).time.trusted = false) ∧
     (s.time.state = .unset → timeTrefLost s = s))

/-! ### Device time and start-up -/

/-- A Sync that the servo uses gives the offset and renews the sync limit of 16 intervals. Up to 1 ms the offset is slewed, and one within
100 ns counts toward lock; more than 1 ms is one step of device time, with TIME_STEP. The eighth in a row within 100 ns locks and device
time is trusted; the fourth in a row beyond 1 us ends lock (R73, R74, Table 3-6, R75). Other Syncs are not used; each makes the port a
slave (R72).

The ends of the time states: 16 intervals without a Sync leave LOCKED for FREERUN, trusted for FREERUN_GUARD_MS; the guard and the
millisecond of holdover end the trust (R74, R75, Table 3-6). The moments before change nothing.

PPS and the time registers: a pulse of 10 us at each whole second while device time is not UNSET, once a second; an edge on PPS_IN is
reported with its time and nothing else (R77); a read of GCTL_TIME_LO captures all of device time (R78). In the master state a PTP
Delay_Req is answered with device time, in the slave state a Delay_Resp gives the path delay (R72).

Where the spec is open, clauses here are the model's choice: assumptions 25 (PTP arithmetic), 104 (Syncs not used, a second crossed again)
and 115 (traffic). -/
def Obligations.DeviceTime : Prop :=
  (∀ (gap : Int) (interval : Nat) (s : State),
     let off := gap - s.time.pathNs
     let slave : State := { s with time := { s.time with ptpMaster := false } }
     let heard : State := { slave with time := { slave.time with
       offsetNs := satOffset off, syncLimit := some (s.now + 16 * interval) } }
     let slewed : State := { heard with time := { heard.time with
       slewLeft := -off
       goodRun := if off.natAbs ≤ 100 then s.time.goodRun + 1 else 0
       badRun := if off.natAbs ≤ 1000 then 0 else s.time.badRun + 1 } }
     let moved : State := post { heard with time := { heard.time with dev := s.time.dev + BitVec.ofInt 64 (-off), slewLeft := 0 } }
       0x0013 (evData [(16, 8, twos 8 (-off))])
     let stepped : State := { moved with time := { moved.time with goodRun := 0, badRun := s.time.badRun + 1 } }
     (∀ p, ptpPort s = some p → s.clocks.good.getLsbD 6 = true → off.natAbs ≤ 1000000 →
       (s.time.state = .unset ∨ s.time.state = .freerun → exec (.ptpSync gap interval) s = .next
         (if 8 ≤ slewed.time.goodRun then setTime slewed .locked true none none else slewed)) ∧
       (s.time.state = .locked → exec (.ptpSync gap interval) s = .next
         (if 4 ≤ slewed.time.badRun then setTime slewed .freerun true (some (s.now + guardNs s)) none else slewed))) ∧
     (∀ p, ptpPort s = some p → s.clocks.good.getLsbD 6 = true → 1000000 < off.natAbs →
       (s.time.state = .unset ∨ s.time.state = .freerun → exec (.ptpSync gap interval) s = .next stepped) ∧
       (s.time.state = .locked → exec (.ptpSync gap interval) s = .next
         (if 4 ≤ s.time.badRun + 1 then setTime stepped .freerun true (some (s.now + guardNs s)) none else stepped))) ∧
     (∀ p, ptpPort s = some p → s.clocks.good.getLsbD 6 = false ∨ s.time.state = .holdover →
       exec (.ptpSync gap interval) s = .next slave) ∧
     (ptpPort s = none → exec (.ptpSync gap interval) s = .next s) ∧
     ∀ p, ptpPort s = some p ↔ firmware s = true ∧ s.pm.state ≠ 2 ∧
       ∃ i, img s = some i ∧ i.ptpPort = p ∧ p < 8 ∧ (s.ports.getD p Port.reset).state = .up) ∧
  (∀ (s : State) (limit : Nat),
     (s.time.syncLimit = some limit → running s = true → s.time.state = .locked → limit ≤ s.now →
       exec .syncLossTimeout s = .next (setTime s .freerun true (some (s.now + guardNs s)) none)) ∧
     (s.time.syncLimit = some limit → s.now < limit → exec .syncLossTimeout s = .next s) ∧
     (s.time.guardEnd = some limit → s.power.phase = .up → s.halted = false → s.time.state = .freerun → limit ≤ s.now →
       exec .freerunGuardExpire s = .next (setTime s .freerun false none none)) ∧
     (s.time.guardEnd = some limit → s.now < limit → exec .freerunGuardExpire s = .next s) ∧
     (s.time.trustEnd = some limit → s.power.phase = .up → s.halted = false → s.time.state = .holdover → limit ≤ s.now →
       exec .holdoverTrustExpire s = .next (setTime s .holdover false none none)) ∧
     (s.time.trustEnd = some limit → s.now < limit → exec .holdoverTrustExpire s = .next s) ∧
     ∀ st trusted guardEnd trustEnd, let t := setTime s st trusted guardEnd trustEnd
       t.time.state = st ∧ t.time.trusted = trusted ∧ t.time.guardEnd = guardEnd ∧ t.time.trustEnd = trustEnd ∧ t.time.dev = s.time.dev ∧
         (st = .holdover → t.time.slewLeft = 0)) ∧
  (∀ s : State,
     let sec := (s.time.dev.toNat + 5) / 1000000000
     (s.power.phase = .up → s.time.state ≠ .unset → (s.time.dev.toNat + 5) % 1000000000 ≤ 10 → s.time.ppsLast ≠ sec + 1 →
       exec .ppsOutPulse s = .next { s with time := { s.time with ppsUntil := s.now + 10000, ppsLast := sec + 1 } }) ∧
     (s.time.state = .unset ∨ 10 < (s.time.dev.toNat + 5) % 1000000000 ∨ s.time.ppsLast = sec + 1 →
       exec .ppsOutPulse s = .next s) ∧
     exec .ppsIn s = .next (post s 0x0014 (evData [(16, 8, s.time.dev.toNat)])) ∧
     (s.power.phase = .up → let t := heardTlp s
       exec .timeLoRead s = .next { t with
         time := { s.time with captured := s.time.dev }, out := s.out ++ [.regData (s.time.dev.truncate 32)] }) ∧
     ∀ (p : Nat) (q : BitVec 16) (d : Int), ptpPort s = some p →
       (s.time.ptpMaster = true →
         exec (.ptpDelayMessage (.delayReq q)) s = .next { s with out := s.out ++ [.ptpDelayResp p q s.time.dev] } ∧
         exec (.ptpDelayMessage (.delayResp d)) s = .next s) ∧
       (s.time.ptpMaster = false → exec (.ptpDelayMessage (.delayReq q)) s = .next s ∧
         (s.clocks.good.getLsbD 6 = true → s.time.state ≠ .holdover →
           exec (.ptpDelayMessage (.delayResp d)) s = .next { s with time := { s.time with pathNs := d } })))

/-- Entry into Perch (R43, R102 to R104): the change of power state is recorded, the first cause stands, PERCH_N is low, SMB_ALERT_N is
asserted, the N transmitters are off, LOCKED device time runs free for its guard, and vector 0 is sent where it may be; nothing that the
transport, the rings or the memory hold is touched. In Perch, and without power, no cause is taken, no event is posted and no interrupt
is sent.

Where the spec is open, clauses here are the model's choice: assumptions 20 (PERCH_N in a power-down) and 114 (the POWER record of
the change to Perch). -/
def Obligations.PerchEntry : Prop :=
  ∀ (s : State) (cause : BitVec 8) (info : Word),
    let noted : State := owlPut { s with fresh := s.fresh + 1 } 0x0013
      (evData [(16, 1, s.pm.state), (17, 1, 3), (18, 1, (Config.unstated s.fresh).toNat % 256)])
    let perch : State := { noted with
      start := { s.start with stage := 0xF, perchCause := cause, perchInfo := info, flash := none }
      pins := { s.pins with perchN := .low, smbAlert := true, nTxEnable := 0 } }
    (live s = true → s.time.state ≠ .locked → OnlyReports perch (enterPerch s cause info)) ∧
    (live s = true → s.time.state = .locked → OnlyReports { perch with time := { s.time with
        state := .freerun, syncLimit := none, guardEnd := some (s.now + guardNs s) } } (enterPerch s cause info)) ∧
    (∀ f, live s = true → tget (notePerch s).fns 0 = some f → f.msix.enabled = true → f.msix.maskAll = false → 0 ∉ f.msix.masked →
      .msix 0 0 ∈ outputs (enterPerch s cause info)) ∧
    (live s = false → enterPerch s cause info = s) ∧
    (s.start.stage = 0xF → ∀ code data fn v, post s code data = s ∧ msixRaise s fn v = s)

/-- The self-tests, the training and the scrub (R93, R94, R98): what passed is in service, what failed is mapped out, and the device goes
on with the rest; nothing left is Perch with CAUSE 3.

The flash is read first for its SFDP table, single-line at 25 MHz, then for the copy in the fastest mode the table gives, at most 100 MHz
(R48). A copy that fails an integrity check leaves the other copy to be read (R85), and with both failed, or no flash, it is Perch with
CAUSE 4 and both reasons; a sound copy with a content fault is Perch with CAUSE 5 and the offset (R88); a sound copy is accepted: t_i (R90).

The firmware runs, and with the scrub done the device is READY (R84, Table 4-1); 50 ms without it is Perch with CAUSE 7 (R102). The
configuration space answers Request Retry Status until t_i, then takes effect and answers success, TotalVFs with MAX_VFS of the image (R80).

Where the spec is open, clauses here are the model's choice: assumptions 27 (configuration requests), 52 (the watchdog's refresh), 83 (offsets of content
failures), 84 (MIN_SET), 105 (the flash's mode) and 115 (traffic). -/
def Obligations.StartUp : Prop :=
  (∀ (cores : BitVec 16) (nports : BitVec 4) (good : BitVec 6) (s : State), live s = true →
     (s.start.coreTested = false →
       let t : State := { s with start := { s.start with coreTested := true, coreOk := cores, nportSelf := nports } }
       exec (.coreSelftestDone cores nports) s = .next (if cores = 0 then enterPerch t 0x03 1 else t)) ∧
     (s.start.coreTested = true → exec (.coreSelftestDone cores nports) s = .next s) ∧
     (s.start.trained = false →
       let t : State := { s with start := { s.start with trained := true, stackOk := good } }
       exec (.poolTrainingDone good) s = .next (if good = 0 then enterPerch t 0x03 2 else t)) ∧
     (s.start.trained = true → exec (.poolTrainingDone good) s = .next s) ∧
     (s.start.trained = true → s.start.scrubDone = false →
       let ok := s.start.stackOk &&& ~~~good
       let t : State := { s with
         start := { s.start with stackOk := ok, scrubDone := true }, pool := { s.pool with mem := [], written := [], failed := [] } }
       exec (.scrubDone good) s = .next (if ok = 0 then enterPerch { s with start := { s.start with stackOk := 0 } } 0x03 2
         else if s.start.stage = 0 ∧ s.start.fwRunning = true then { t with start := { t.start with stage := 1 } } else t)) ∧
     (s.start.trained = false ∨ s.start.scrubDone = true → exec (.scrubDone good) s = .next s)) ∧
  (∀ (alt : Bool) (t : Sfdp) (m : FlashMode) (s : State),
     (s.start.flashMode = none →
       let chosen : FlashMode := { lines := if t.quad then 4 else if t.dual then 2 else 1, mhz := min 100 t.maxMhz }
       readFlash s alt (some t) = { s with
         start := { s.start with flashMode := some chosen }
         out := s.out ++ [.flashSfdp 1 25, .flashRead alt chosen.lines chosen.mhz] } ∧
       readFlash s alt none = { s with out := s.out ++ [.flashSfdp 1 25] }) ∧
     (s.start.flashMode = some m → ∀ x, readFlash s alt x = { s with out := s.out ++ [.flashRead alt m.lines m.mhz] })) ∧
  (∀ (alt : Bool) (x : Option Sfdp) (c : Bytes) (sigOk : Bool) (s : State),
     live s = true → s.start.stage = 0 → s.start.image = none → s.start.coreTested = true → nextCopy s = some alt →
     let read := readFlash s alt x
     let reason := imageReason (some c) sigOk
     let noted : State := { read with start := if alt then { read.start with reasonAlt := some reason }
       else { read.start with reasonPri := some reason } }
     let back : State := { noted with start := { noted.start with fallback := true } }
     let unread : State := { read with start := if alt then { read.start with reasonAlt := some 6, fallback := true }
       else { read.start with reasonPri := some 6, fallback := true } }
     (read.start.flashMode ≠ none → reason = 0 → contentBad c = none →
       exec (.imageCopyChecked alt { sfdp := x, copy := some c } sigOk) s = .next (acceptImage noted alt c) ∧
       (acceptImage noted alt c).start.image = some (parseImage c) ∧ (acceptImage noted alt c).start.copyAlt = alt ∧
       (acceptImage noted alt c).start.imageAt = some s.now) ∧
     (∀ off, read.start.flashMode ≠ none → reason = 0 → contentBad c = some off →
       exec (.imageCopyChecked alt { sfdp := x, copy := some c } sigOk) s =
         .next (enterPerch noted 0x05 (BitVec.ofNat 32 (off % 2 ^ 31 + if alt then 2 ^ 31 else 0)))) ∧
     (read.start.flashMode ≠ none → reason ≠ 0 → (if alt then s.start.reasonPri else s.start.reasonAlt) = none →
       exec (.imageCopyChecked alt { sfdp := x, copy := some c } sigOk) s = .next back) ∧
     (∀ other, read.start.flashMode ≠ none → reason ≠ 0 → (if alt then s.start.reasonPri else s.start.reasonAlt) = some other →
       exec (.imageCopyChecked alt { sfdp := x, copy := some c } sigOk) s = .next (enterPerch back 0x04
         (BitVec.ofNat 32 (if alt then other.toNat + 256 * reason.toNat else reason.toNat + 256 * other.toNat)))) ∧
     (read.start.flashMode = none →
       exec (.imageCopyChecked alt { sfdp := x, copy := some c } sigOk) s = .next (enterPerch unread 0x04 0x0606)) ∧
     exec (.imageCopyChecked alt { sfdp := x, copy := none } sigOk) s = .next (enterPerch unread 0x04 0x0606)) ∧
  (∀ s : State,
     (live s = true → s.start.image.isSome = true → s.start.fwRunning = false → s.ctlReset = false →
       let t : State := { s with start := { s.start with fwRunning := true, fwDeadline := none } }
       exec .firmwareRunning s = .next (if s.start.stage = 0 ∧ s.start.scrubDone = true
         then { t with start := { t.start with stage := 1 } } else t)) ∧
     (s.start.image = none ∨ s.start.fwRunning = true ∨ s.ctlReset = true → exec .firmwareRunning s = .next s) ∧
     (∀ limit, s.start.fwDeadline = some limit → running s = true → s.start.fwRunning = false → limit ≤ s.now →
       exec .firmwareStartTimeout s = .next (enterPerch s 0x07 0)) ∧
     (∀ limit, s.start.fwDeadline = some limit → s.now < limit → exec .firmwareStartTimeout s = .next s) ∧
     let heard : State := { s with traffic := { s.traffic with tlps := s.traffic.tlps + 1 } }
     (s.power.hLinkUp = true → s.start.image = none → s.start.stage ≠ 0xF →
       ∀ r, exec (.configRequest r) s = .next { heard with out := s.out ++ [.config true 0] }) ∧
     (s.power.hLinkUp = true → s.start.image ≠ none ∨ s.start.stage = 0xF →
       (∀ r, exec (.configRequest r) s = .next { configure heard r with
         out := (configure heard r).out ++ [.config false (configValue heard r)] }) ∧
       (∀ i, s.start.image = some i → exec (.configRequest .readTotalVfs) s = .next { heard with out := s.out ++ [.config false i.maxVfs] }) ∧
       (s.start.image = none → exec (.configRequest .readTotalVfs) s = .next { heard with out := s.out ++ [.config false 0] }) ∧
       (∀ payload readReq relaxed, exec (.configRequest (.deviceControl payload readReq relaxed)) s = .next { heard with
         payload := payload, readReq := readReq, relaxed := relaxed, out := s.out ++ [.config false 0] }) ∧
       ∀ w : Word, exec (.configRequest (.writeBar false 0 w)) s = .next { heard with
         pfBar := s.pfBar.extractLsb' 32 32 ++ (w &&& 0xFF000000), out := s.out ++ [.config false 0] }) ∧
     (s.power.hLinkUp = false → ∀ r, exec (.configRequest r) s = .next s))

/-- An A port's start-up (R96): its reset is released 100 us after its clock came back, the link trains within 100 ms, the accelerator
answers within 1 s, and its BAR must hold the aperture; each failure is reported with its step. A link that falls takes nothing else with
it (R144).

APORT_LINK_UP (R96, R144): the first time a present A port's link comes up, enumeration begins; in service, the rings and CQs behind it go on;
without its clock, and where the link is up already, nothing happens. A request to an A port whose link is down waits for it, and those
that waited leave in their order (R67). -/
def Obligations.AccelPorts : Prop :=
  (∀ (n : Nat) (s : State), n < 4 →
     let a := aport s n
     let size := match s.start.image with | some i => (i.accel.getD n { present := false, bar := 0, size := 0 }).size | none => 0
     let report (t : State) (ok step : Nat) : State := post t 0x0002 (evData [(16, 1, n), (17, 1, ok), (18, 1, step)])
     let failed := setAport s n fun x => { x with phase := .failed }
     (∀ since, running s = true → a.phase = .waitClock → s.clocks.good.getLsbD (n + 1) = true →
       tget s.clocks.goodSince (n + 1) = some since →
       (since + 100000 ≤ s.now →
         exec (.aportRelease n) s = .next { setAport s n (fun x => { x with phase := .training, since := s.now }) with
           pins := { s.pins with aPerstN := s.pins.aPerstN ||| BitVec.ofNat 4 (2 ^ n) } }) ∧
       (s.now < since + 100000 → exec (.aportRelease n) s = .next s)) ∧
     (running s = true → a.phase = .training →
       (a.since + 100000000 ≤ s.now → exec (.aportTrainTimeout n) s = .next (report failed 0 2)) ∧
       (s.now < a.since + 100000000 → exec (.aportTrainTimeout n) s = .next s)) ∧
     (∀ bar : AccelBar, running s = true → a.phase = .enumerating → a.linkUp = true →
       (bar.isMemory = true → size ≤ bar.size →
         exec (.aportEnumDone n bar) s = .next (report { s with start := { s.start with
           aports := s.start.aports.modify n fun x => { x with phase := .inService, payload := min 2 bar.payload }
           aportOk := s.start.aportOk ||| BitVec.ofNat 4 (2 ^ n) } } 1 0)) ∧
       (bar.isMemory = false ∨ bar.size < size → exec (.aportEnumDone n bar) s = .next (report failed 0 4))) ∧
     (running s = true → a.phase = .enumerating →
       (a.since + 1000000000 ≤ s.now → exec (.aportRrsTimeout n) s = .next (report failed 0 3)) ∧
       (s.now < a.since + 1000000000 → exec (.aportRrsTimeout n) s = .next s)) ∧
     (s.power.phase = .up → exec (.aportLinkDown n) s = .next (setAport s n fun x => { x with linkUp := false }))) ∧
  (∀ (n : Nat) (s : State), live s = true → n < 4 →
     (s.clocks.good.getLsbD (n + 1) = true → aLinkUp s n = false →
       ((aport s n).phase = .training → exec (.aportLinkUp n) s =
         .next (setAport s n fun a => { a with phase := .enumerating, since := s.now, linkUp := true })) ∧
       ((aport s n).phase = .enumerating → exec (.aportLinkUp n) s = .next (setAport s n fun a => { a with linkUp := true })) ∧
       ((aport s n).phase = .inService → exec (.aportLinkUp n) s = .next (resumePort (setAport s n fun a => { a with linkUp := true }) n))) ∧
     (s.clocks.good.getLsbD (n + 1) = false ∨ aLinkUp s n = true → exec (.aportLinkUp n) s = .next s)) ∧
  (∀ (s : State) (o : Output) (n : Nat), tlpPort o = some n → s.halted = false →
     (aLinkUp s n = false → emit s o = { s with portHeld := s.portHeld ++ [o] }) ∧
     (aLinkUp s n = true → emit s o = { s with out := s.out ++ [o] } ∧
       releasePort s n = { s with
         portHeld := s.portHeld.filter fun x => !(tlpPort x == some n), out := s.out ++ s.portHeld.filter fun x => tlpPort x == some n }))

/-! ### The admin interface and the register windows -/

/-- ENABLE (R115): written 1 in READY with legal sizes while ENABLED is 0, it clears the ring's state, takes SEQ_BASE, returns every
event entry, and owes START_REPORT, which is posted at once where the firmware runs; otherwise the write of 1 is ignored, but for the
sizes. Written 0, it stops fetching, and ENABLED follows once nothing is in execution (R116).

Fetching (R118, R122): DOORBELL opens the run of slot reads, one read at a time and none with 256 commands in execution; a legal owned
entry with the expected SEQ joins the ring's commands and the next slot is read; one software owns ends the run, unless a DOORBELL came
during the read; one that fails a check, or a read that fails, is Perch with CAUSE 6 and the expected SEQ. EVT_RETURN gives back no more
entries than the ring has (R123).

Where the spec is open, clauses here are the model's choice: assumptions 29 (commands that wait for one another), 106 (the event ring's
first slot) and 115 (traffic). -/
def Obligations.AdminRing : Prop :=
  (∀ (w : Word) (s : State), live s = true →
     let h := heardTlp s
     let ring := w.extractLsb' 0 4
     let evt := w.extractLsb' 4 4
     let sized : State := { h with adm := { s.adm with ringLog2 := ring, evtLog2 := evt } }
     let on : State := { h with adm := { s.adm with
       ringLog2 := ring, evtLog2 := evt, enable := true, enabled := true, head := 0, seqNext := s.adm.seqBase, fetching := false
       reading := false, bell := false, cmds := [], evtNext := 0, evtFree := 2 ^ evt.toNat, reportOwed := true } }
     let off (enabled : Bool) : State := { h with adm := { s.adm with
       enable := false, enabled := enabled, fetching := false, reading := false, bell := false } }
     (w.getLsbD 8 = true → ready s = true → s.adm.enable = false → s.adm.enabled = false →
       6 ≤ ring.toNat → ring.toNat ≤ 12 → 6 ≤ evt.toNat → evt.toNat ≤ 12 →
       (s.ctlReset = true ∨ s.pm.state = 2 → exec (.admEnable w) s = .next on) ∧
       (firmware s = true → s.pm.state ≠ 2 → ∃ t, exec (.admEnable w) s = .next t ∧
         OnlyReports { on with adm := { on.adm with held := [], heldLost := 0, reportOwed := false } } t ∧
         .memWrite pfHost s.adm.evtBase.toNat (entryBytes (eventEntry s.adm.evtSeq 0x0001 s.epoch s.time.dev
           (evData [(16, 4, (startStatus s).toNat), (20, 4, (unitMap s).toNat), (24, 2, s.adm.heldLost.toNat)]))).dropLast ∈ outputs t)) ∧
     (w.getLsbD 8 = true → s.adm.enable = false → s.adm.enabled = false →
       (ready s = false ∨ ring.toNat < 6 ∨ 12 < ring.toNat ∨ evt.toNat < 6 ∨ 12 < evt.toNat) →
       exec (.admEnable w) s = .next sized) ∧
     (w.getLsbD 8 = true → s.adm.enabled = true → exec (.admEnable w) s = .next h) ∧
     (w.getLsbD 8 = false → s.adm.enabled = true → s.adm.cmds ≠ [] → exec (.admDisable w) s = .next (off true)) ∧
     (w.getLsbD 8 = false → s.adm.enabled = true → s.adm.cmds = [] → exec (.admDisable w) s = .next (off false))) ∧
  (∀ s : State,
     let b := heardBell s
     let h := heardTlp s
     let read (t : State) : Output := .slotRead pfHost (t.adm.ringBase.toNat + 64 * t.adm.head.toNat)
     (serving s = true → s.adm.enable = true → s.adm.enabled = true → s.adm.reading = false → s.adm.cmds.length < 256 →
       exec .admDoorbell s = .next { b with
         adm := { s.adm with fetching := true, bell := false, reading := true }, out := s.out ++ [read s] }) ∧
     (live s = true → s.adm.enable = true → s.adm.enabled = true → s.adm.reading = true →
       exec .admDoorbell s = .next { b with adm := { s.adm with fetching := true, bell := true } }) ∧
     (live s = true → s.adm.enable = true → s.adm.enabled = true → s.adm.reading = false → 256 ≤ s.adm.cmds.length →
       exec .admDoorbell s = .next { b with adm := { s.adm with fetching := true, bell := false } }) ∧
     (s.adm.enable = false ∨ s.adm.enabled = false → exec .admDoorbell s = .next b) ∧
     (admReadOpen s = true →
       let ended : State := { h with adm := { s.adm with reading := false, bell := false } }
       (∀ e : Entry, s.adm.fetching = true → bit e 63 7 = true → fld e 4 31 0 = s.adm.seqNext.toNat → adminLegal e = true →
         let t : State := { ended with adm := { ended.adm with
           cmds := s.adm.cmds ++ [{ slot := s.adm.head.toNat, entry := e, phase := .queued, since := s.now }]
           head := BitVec.ofNat 12 ((s.adm.head.toNat + 1) % 2 ^ s.adm.ringLog2.toNat), seqNext := s.adm.seqNext + 1 } }
         exec (.adminEntryFetched (.data e)) s = .next
           (if s.adm.cmds.length + 1 < 256 then { t with adm := { t.adm with reading := true }, out := s.out ++ [read t] } else t)) ∧
       (∀ e : Entry, bit e 63 7 = false → s.adm.bell = false →
         exec (.adminEntryFetched (.data e)) s = .next { ended with adm := { ended.adm with fetching := false } }) ∧
       (∀ e : Entry, bit e 63 7 = false → s.adm.bell = true → s.adm.cmds.length < 256 →
         exec (.adminEntryFetched (.data e)) s = .next { ended with
           adm := { ended.adm with fetching := true, reading := true }, out := s.out ++ [read s] }) ∧
       (∀ e : Entry, bit e 63 7 = true → (fld e 4 31 0 ≠ s.adm.seqNext.toNat ∨ adminLegal e = false) →
         exec (.adminEntryFetched (.data e)) s = .next (enterPerch ended 0x06 s.adm.seqNext)) ∧
       exec (.adminEntryFetched .failed) s = .next (enterPerch ended 0x06 s.adm.seqNext)) ∧
     (admReadOpen s = false → ∀ r, exec (.adminEntryFetched r) s = .next h) ∧
     ∀ n, (live s = true → s.adm.enabled = true → exec (.evtReturn n) s = .next { h with
         adm := { s.adm with evtFree := min (2 ^ s.adm.evtLog2.toNat) (s.adm.evtFree + n % 65536) } }) ∧
       (live s = false ∨ s.adm.enabled = false → exec (.evtReturn n) s = .next h))

/-- An admin command is carried out only once it may start (R118): the firmware runs, the entry carries the row's opcode, every earlier
command has started, and a FENCE waits for the earlier ones to complete. Until then it changes nothing, whichever command it is. One that
may start, but whose instance has an earlier command that is not complete, has started and waits (R383).

Where the spec is open, clauses here are the model's choice: assumption 29 (commands that wait for one another). -/
def Obligations.AdminCommandWaits : Prop :=
  ∀ (s : State) (slot : Nat) (b1 : Bool) (bs v : Option Bytes) (m : Option MigImage),
    let commands : List (Nat × Instr) :=
      [(0x0000, Instr.nop slot), (0x0001, .imageWrite slot bs b1), (0x0002, .countersRead slot b1), (0x0003, .portControl slot),
       (0x0100, .instanceCreate slot v), (0x0101, .instanceQuotaSet slot v), (0x0102, .instanceReset slot),
       (0x0103, .instanceDestroy slot), (0x0104, .instanceFreeze slot), (0x0105, .instanceSave slot b1),
       (0x0106, .instanceRestore slot m v), (0x0107, .instanceThaw slot), (0x0108, .migrationKeySet slot bs), (0x0200, .qpCreate slot),
       (0x0201, .qpModify slot), (0x0202, .qpQuery slot), (0x0203, .qpDestroy slot), (0x0210, .cqCreate slot),
       (0x0211, .cqModify slot), (0x0212, .cqDestroy slot), (0x0300, .ptMirrorSet slot), (0x0301, .ptUpdate slot bs),
       (0x0302, .ptInvalidate slot), (0x0310, .poolRegionCreate slot), (0x0311, .poolRegionDestroy slot), (0x0400, .tpeCtxCreate slot),
       (0x0401, .tpeCtxDestroy slot), (0x0410, .kettleCreate slot bs), (0x0411, .kettleEpochSet slot), (0x0412, .kettleDestroy slot),
       (0x0500, .keySlotWrite slot bs), (0x0501, .keySlotGenerate slot), (0x0502, .keySlotClear slot), (0x0503, .saCreate slot),
       (0x0504, .saRekey slot), (0x0505, .saDestroy slot), (0x0600, .destPathsSet slot), (0x0601, .congParamsSet slot),
       (0x0610, .rateLimitSet slot), (0x0611, .tcConfigSet slot), (0x0612, .gateListInstall slot bs), (0x0613, .gateListQuery slot),
       (0x0614, .gateListCancel slot), (0x0700, .powerStateRequest slot), (0x0701, .owlLogRead slot b1),
       (0x0710, .traceConfig slot b1), (0x0720, .mbxChannelConfig slot)]
    ((firmware s = false ∨ admCmd s slot = none ∨
      (∃ c, admCmd s slot = some c ∧ c.phase = .queued ∧ s.pm.state ≠ 2 ∧ (cmdsBefore s slot).any (fun b => b.phase == .queued) = true) ∨
      (∃ c, admCmd s slot = some c ∧ c.phase = .queued ∧ cmdFence c = true ∧ cmdsBefore s slot ≠ [])) →
      ∀ p ∈ commands, exec p.2 s = .next s) ∧
    (∀ p ∈ commands, ∀ c, admCmd s slot = some c → cmdOpcode c ≠ p.1 → exec p.2 s = .next s) ∧
    (∀ p ∈ commands, ∀ c, mayStart s slot p.1 = some c → instAhead s c = true → exec p.2 s = .next (holdCmd s slot))

/-- Where a register access goes (R108 to R111, R115, R116, R432, Table 17-7): a write over the H port reaches GCTL, ADM, the PF channels and
the page of the instance with its PASID; never a secure channel, TRC, or the DBG mirror; a VF's write reaches the page of its instance, one
from an A port the page bound to that port, one over SMBus the secure channels. Ring addresses change only while ENABLE and ENABLED are 0;
CLK_LOST_SEEN is cleared by ones (R69). 4 aligned bytes are one access, 8 aligned bytes two, the lower address first; any other size or
alignment is ignored, and so is every write in Perch (R104). A read of all of GCTL_TIME is one instant (R78, R109).

Where the spec is open, clauses here are the model's choice: assumptions 75 (accesses outside a window's width) and 115 (traffic). -/
def Obligations.RegisterWrite : Prop :=
  (∀ (src : AccessSrc) (off size : Nat) (v : BitVec 64) (s : State),
     let h := heardAccess s src off
     (s.power.phase ≠ .up ∨ off % 4 ≠ 0 ∨ (size ≠ 4 ∧ size ≠ 8) ∨ (size = 8 ∧ off % 8 ≠ 0) →
       exec (.registerWrite src off size v) s = .next h) ∧
     (s.power.phase = .up → off % 4 = 0 → exec (.registerWrite src off 4 v) s = .next (regWrite h src off (v.extractLsb' 0 32))) ∧
     (s.power.phase = .up → off % 8 = 0 → exec (.registerWrite src off 8 v) s =
       .next (regWrite (regWrite h src off (v.extractLsb' 0 32)) src (off + 4) (v.extractLsb' 32 32)))) ∧
  (∀ (off : Nat) (v : BitVec 64) (pasid : Option Nat) (s : State), s.power.phase = .up →
     let h (o : Nat) := heardAccess s (.hPf pasid) o
     let w : Word := v.extractLsb' 0 32
     (s.start.stage ≠ 0xF → s.adm.enable = false → s.adm.enabled = false →
       exec (.registerWrite (.hPf pasid) 0x100014 4 v) s = .next { h 0x100014 with adm := { s.adm with seqBase := w } } ∧
       exec (.registerWrite (.hPf pasid) 0x100000 8 v) s = .next { h 0x100000 with adm := { s.adm with
         ringBase := v.extractLsb' 32 32 ++ (w &&& 0xFFFFF000) } } ∧
       exec (.registerWrite (.hPf pasid) 0x100008 8 v) s = .next { h 0x100008 with adm := { s.adm with
         evtBase := v.extractLsb' 32 32 ++ (w &&& 0xFFFFF000) } }) ∧
     (s.start.stage ≠ 0xF → s.adm.enable = true ∨ s.adm.enabled = true →
       ∀ o ∈ [0x100000, 0x100004, 0x100008, 0x10000C, 0x100014], exec (.registerWrite (.hPf pasid) o 4 v) s = .next (h o)) ∧
     (s.start.stage ≠ 0xF → exec (.registerWrite (.hPf pasid) 0x210 4 v) s = .next { h 0x210 with
       clocks := { s.clocks with lostSeen := s.clocks.lostSeen &&& ~~~w.extractLsb' 16 7 } }) ∧
     (off < 0x100000 → off ≠ 0x210 → off ≠ 0x300 → exec (.registerWrite (.hPf pasid) off 4 v) s = .next (h off)) ∧
     (0x200000 ≤ off → off < 0x300000 → exec (.registerWrite (.hPf pasid) off 4 v) s = .next (h off)) ∧
     (0x400000 ≤ off → off < 0xF00000 → exec (.registerWrite (.hPf pasid) off 4 v) s = .next (h off)) ∧
     (s.start.stage = 0xF → exec (.registerWrite (.hPf pasid) off 4 v) s = .next (h off)) ∧
     (∀ p i x, pasid = some p → s.start.stage ≠ 0xF → off < 0x10000 → off % 4 = 0 →
       s.insts.find? (fun r => !r.2.fn && r.2.pasid == p) = some (i, x) →
       exec (.registerWrite (.hPf pasid) (0xF00000 + off) 4 v) s = .next (pageWrite (h (0xF00000 + off)) i off w))) ∧
  (∀ (off k : Nat) (v : BitVec 64) (s : State), s.power.phase = .up → s.start.stage ≠ 0xF → off < 0x10000 → off % 4 = 0 →
     let w : Word := v.extractLsb' 0 32
     (∀ vf i x, s.insts.find? (fun r => r.2.fn && r.2.vf == vf) = some (i, x) →
       exec (.registerWrite (.hVf vf) off 4 v) s = .next (pageWrite (heardAccess s (.hVf vf) off) i off w)) ∧
     (∀ port i x, tget s.insts i = some x → s.pm.state ≠ 2 →
       exec (.registerWrite (.aPort port i) off 4 v) s = .next (if x.apage = port + 1
         then pageWrite (heardAccess s (.aPort port i) off) i off w else heardAccess s (.aPort port i) off)) ∧
     (k < 16 → exec (.registerWrite .smbus (0x200000 + 0x10000 * k + off) 4 v) s = .next (chanWrite s (.secure k) off w))) ∧
  (∀ (s : State) (pasid : Option Nat),
     mmioRead s (.hPf pasid) 0x200 8 = (s.time.dev, { s with time := { s.time with captured := s.time.dev } }))

/-! ### Instances -/

/-- INSTANCE_CREATE (R374 to R378, R382): an instance that does not exist, with a binding nobody has, is ACTIVE with quotas of 0, its page
at Reset values, and its lookaside ring ENABLED; every row of Table 16-3 that applies, a ring out of place and a vector table that cannot
be read refuse it, and nothing is changed.

INSTANCE_QUOTA_SET (R379, R380): SET writes the eleven quotas, whatever the present use, and reloads the vector table of a PASID slice where
VEC_RELOAD asks for it; QUERY answers the use and changes nothing. A sum of key slots above 16,384 is refused.

Where the spec is open, clauses here are the model's choice: assumptions 13 (instance pages on an A port's bus), 30 (the order
of refusals), 62 (INSTANCE_STATE) and 64 (VEC_RELOAD). -/
def Obligations.InstanceCreation : Prop :=
  (∀ (slot : Nat) (vec : Option Bytes) (s : State) (c : AdminCmd), CanStart s slot 0x0100 c →
     let e := c.entry
     let i := cmdInst c
     let ring := locRefusal s (fld e 25 2 0) (fld e 16 63 12 * 4096) (64 * 2 ^ fld e 24 4 0)
     let x := bindInst s e (blockRing e 16) (if bit e 8 0 then vecEntries (vec.getD []) else []) .active
     let t := enableRing { s with fresh := s.fresh + 1, insts := tput s.insts i x, pages := tput s.pages i Page.reset } .lookaside i
     (bindRefusal s i e = none → ring = none → (bit e 8 0 = true → vec.isSome = true) →
       x.state = .active ∧ x.quota = noQuota ∧
       Completes (.instanceCreate slot vec) s slot (apageResult t i e) stOk rsNone t) ∧
     (∀ r, bindRefusal s i e = some r → Completes (.instanceCreate slot vec) s slot e r.1 r.2 s) ∧
     (∀ r, bindRefusal s i e = none → ring = some r → Completes (.instanceCreate slot vec) s slot e r.1 r.2 s) ∧
     (bindRefusal s i e = none → ring = none → bit e 8 0 = true →
       Completes (.instanceCreate slot none) s slot e stAborted rsHostRead s)) ∧
  (∀ (s : State) (i : Nat) (e : Entry),
     (∀ y, tget s.insts i = some y → bindRefusal s i e = some (stAborted, if y.state = .resetting then rsBadState else rsExists)) ∧
     (tget s.insts i = none → bit e 8 0 = false → (s.vfEnable = false ∨ s.numVfs < fld e 10 10 0) →
       bindRefusal s i e = some (stAborted, rsUnitOut)) ∧
     (tget s.insts i = none → fld e 8 3 1 ≠ 0 → aportInService s (fld e 8 3 1 - 1) = false →
       bindRefusal s i e = some (stAborted, rsUnitOut)) ∧
     (∀ r ∈ s.insts, tget s.insts i = none → bit e 8 0 = true → fld e 8 3 1 = 0 → r.2.fn = false → r.2.pasid = fld e 12 19 0 →
       bindRefusal s i e = some (stAborted, 0x1001))) ∧
  (∀ (slot : Nat) (vec : Option Bytes) (s : State) (c : AdminCmd), CanStart s slot 0x0101 c →
     let e := c.entry
     let i := cmdInst c
     let set : State := modInst s i fun x => { x with quota := quotaOfEntry e }
     let reload : Bool := bit e 8 1 && (tget s.insts i).any fun x => !x.fn
     (∀ r, instRefusal s i = some r → Completes (.instanceQuotaSet slot vec) s slot e r.1 r.2 s) ∧
     (instRefusal s i = none →
       (bit e 8 0 = true → Completes (.instanceQuotaSet slot vec) s slot (putQuota (quotaUse s i) e) stOk rsNone s) ∧
       (bit e 8 0 = false → 16384 < slotsAllowed s i (quotaOfEntry e) →
         Completes (.instanceQuotaSet slot vec) s slot e stAborted 0x1002 s) ∧
       (bit e 8 0 = false → slotsAllowed s i (quotaOfEntry e) ≤ 16384 →
         (reload = false → Completes (.instanceQuotaSet slot vec) s slot e stOk rsNone set) ∧
         (reload = true → ∀ b, Completes (.instanceQuotaSet slot (some b)) s slot e stOk rsNone (reloadVecs set i (vecEntries b))) ∧
         (reload = true → Completes (.instanceQuotaSet slot none) s slot e stAborted rsHostRead s))))

/-- INSTANCE_RESET and INSTANCE_DESTROY (R384, R389): the steps of R384 are taken at once and the command goes on until its drain has
finished. An absent instance, and one that is RESETTING, is refused (R378, R383). A destroy with FORWARD makes a forwarding record, of a
frozen instance only, to another adapter that can be reached, and at most 64 of them (R406).

The end of a reset's drain (R384 steps 7 and 8): the channel and the limiters are reset, the page is at its Reset values, and the instance
is ACTIVE, its lookaside ring ENABLED; INSTANCE_STATE is posted and the command completes. The end of a destroy's drain removes every object
of the instance (R389), and with nothing left to zero the instance is gone. Before the drain's end nothing is changed.

Where the spec is open, clauses here are the model's choice: assumptions 31 (what the firmware does, it does when it runs), 62
(INSTANCE_STATE), 63 (resetting an instance) and 65 (page requests of a destroyed instance). -/
def Obligations.InstanceResets : Prop :=
  (∀ (slot : Nat) (s : State) (c : AdminCmd),
     let i := cmdInst c
     let e := c.entry
     let begin_ (t : State) (destroy : Bool) : State :=
       keepRunning (resetInst t i { cause := 0, destroy := destroy, slot := some slot, removed := false } false) slot
     (∀ x, CanStart s slot 0x0102 c → tget s.insts i = some x → x.state ≠ .resetting → x.why = none →
       exec (.instanceReset slot) s = .next (begin_ s false)) ∧
     (∀ x, CanStart s slot 0x0103 c → tget s.insts i = some x → x.state ≠ .resetting → x.why = none →
       (bit e 8 0 = false → exec (.instanceDestroy slot) s = .next (begin_ s true)) ∧
       (bit e 8 0 = true → x.state = .frozen →
         (badForward s (fld e 12 23 0) = true → Completes (.instanceDestroy slot) s slot e stAborted 0x1008 s) ∧
         (badForward s (fld e 12 23 0) = false → 64 ≤ s.forwards.length → Completes (.instanceDestroy slot) s slot e stAborted 0x1009 s) ∧
         (badForward s (fld e 12 23 0) = false → s.forwards.length < 64 →
           exec (.instanceDestroy slot) s = .next (begin_ { s with forwards := s.forwards ++ [
             { inst := i, sas := (s.cipher.sas.filter fun r => r.2.inst == i).map (·.1), coord := fld e 12 23 0, newInst := fld e 16 10 0
               limit := s.now + fld e 20 31 0 * 1000000, relayed := 0 }] } true))) ∧
       (bit e 8 0 = true → x.state = .active → Completes (.instanceDestroy slot) s slot e stAborted rsBadState s)) ∧
     (tget s.insts i = none →
       (CanStart s slot 0x0102 c → Completes (.instanceReset slot) s slot e stAborted rsNoObject s) ∧
       (CanStart s slot 0x0103 c → Completes (.instanceDestroy slot) s slot e stAborted rsNoObject s)) ∧
     (∀ x, tget s.insts i = some x → x.state = .resetting → (∀ w, x.why = some w → w.slot ≠ some slot) →
       (CanStart s slot 0x0102 c → Completes (.instanceReset slot) s slot e stAborted rsBadState s) ∧
       (CanStart s slot 0x0103 c → Completes (.instanceDestroy slot) s slot e stAborted rsBadState s))) ∧
  (∀ (inst : Nat) (s : State) (x : Inst) (w : ResetWhy),
     tget s.insts inst = some x → x.why = some w → x.state = .resetting →
     let s1 := mbxInstReset { s with limiters := s.limiters.filter fun r => !(r.1 / 8 == inst) } inst
     let back := enableRing (modInst { s1 with pages := tput s1.pages inst Page.reset } inst fun y =>
       { y with state := .active, why := none, mute := false, noRecord := 0, messages := 0 }) .lookaside inst
     let done := postInst back inst 1 w.cause ((tget s1.insts inst).elim 0 (·.noRecord))
     (firmware s = true → x.drains = [] → w.removed = false → w.destroy = false →
       (w.slot = none → exec (.instanceResetDone inst) s = .next done) ∧
       (∀ k, w.slot = some k → exec (.instanceResetDone inst) s = .next (complete done k))) ∧
     (firmware s = true → x.drains = [] → w.removed = false → w.destroy = true →
       exec (.instanceResetDone inst) s = .next (finishDestroy (removeObjects s1 inst) inst)) ∧
     (firmware s = false ∨ x.drains ≠ [] ∨ w.removed = true → exec (.instanceResetDone inst) s = .next s) ∧
     (w.removed = true → (∀ z ∈ s.pool.zeroing, z.inst ≠ inst) →
       finishDestroy s inst =
         let t := postInst { s with insts := tdel s.insts inst, pages := tdel s.pages inst, pageReqs := disownReqs s inst } inst 0 w.cause x.noRecord
         match w.slot with
         | some n => complete t n
         | none => t) ∧
     (∀ z ∈ s.pool.zeroing, z.inst = inst → finishDestroy s inst = s))

/-- INSTANCE_FREEZE and INSTANCE_THAW (R390, R394): a freeze waits for earlier commands on the instance and then drains, with DRAIN_MS to do
it in; a thaw is refused unless the instance is FROZEN, and otherwise it is ACTIVE, its queue pairs and contexts are back in the states
they were frozen in, its rings are read on, and a Recall that waited goes on.

The ends of a freeze (R390, R391): with the drain finished the ACKs owed are sent, and once none is owed every queue pair of the instance but
one in RESET and every context is FROZEN, and the command completes; at DRAIN_MS it is refused with 0x1003 and the instance starts work
again.

Where the spec is open, clauses here are the model's choice: assumptions 29 (commands that wait for one another), 31 (what the
firmware does, it does when it runs) and 62 (INSTANCE_STATE). -/
def Obligations.FreezeAndThaw : Prop :=
  (∀ (slot : Nat) (s : State) (c : AdminCmd),
     let i := cmdInst c
     (CanStart s slot 0x0104 c →
       (earlierRuns s slot (fun b => cmdInst b == i) = true → exec (.instanceFreeze slot) s = .next (holdCmd s slot)) ∧
       (earlierRuns s slot (fun b => cmdInst b == i) = false → instRefusal s i = none → instFrozen s i = false →
         exec (.instanceFreeze slot) s = .next (keepRunning (modInst s i fun x =>
           { x with freezing := some { slot := slot, giveUp := s.now + fld c.entry 12 31 0 * 1000000 } }) slot)) ∧
       (earlierRuns s slot (fun b => cmdInst b == i) = false → instRefusal s i = none → instFrozen s i = true →
         Completes (.instanceFreeze slot) s slot c.entry stAborted rsBadState s)) ∧
     (CanStart s slot 0x0107 c → instRefusal s i = none → instFrozen s i = false →
       Completes (.instanceThaw slot) s slot c.entry stAborted rsBadState s) ∧
     (CanStart s slot 0x0107 c → instRefusal s i = none → instFrozen s i = true →
       let t1 := moveInst s i .active 0 0
       let qpns := (t1.qps.filter fun r => r.2.inst == i).map (·.1)
       let t2 := qpns.foldl (fun u n => match tget u.qps n with
         | some q => if q.state == .frozen then moveQp u n q.frozenFrom else u
         | none => u) t1
       let t3 := { t2 with ctxs := t2.ctxs.map fun r => if r.2.inst = i && r.2.state == .frozen then (r.1, { r.2 with state := r.2.prev }) else r }
       let t4 := qpns.foldl (fun u n => ringDoorbell (ringDoorbell u .sq n) .rq n) t3
       let t5 := ((t4.ctxs.filter fun r => r.2.inst == i).map (·.1)).foldl (fun u n => ringDoorbell u .tpe n) t4
       Completes (.instanceThaw slot) s slot c.entry stOk rsNone (tpeSettle (thawRecalls (ringDoorbell t5 .lookaside i) i)))) ∧
  (∀ (inst : Nat) (s : State) (x : Inst) (f : Freezing) (c : AdminCmd),
     tget s.insts inst = some x → x.freezing = some f → firmware s = true → admCmd s f.slot = some c → c.phase = .running →
     let qpns := (s.qps.filter fun r => r.2.inst == inst).map (·.1)
     let s1 := qpns.foldl sendOwed s
     let s2 := qpns.foldl freezeQp s1
     (ready s = true → freezeDone s inst = true →
       (qpns.any (fun n => (tget s1.qps n).any owesAck) = true → exec (.freezeDrained inst) s = .next s1) ∧
       (qpns.any (fun n => (tget s1.qps n).any owesAck) = false →
         exec (.freezeDrained inst) s = .next (complete (moveInst (modInst
           { s2 with ctxs := s2.ctxs.map fun r => if r.2.inst = inst then (r.1, { r.2 with prev := r.2.state, state := .frozen }) else r }
           inst fun y => { y with freezing := none, frozenAt := s.now }) inst .frozen 0 0) f.slot))) ∧
     (freezeDone s inst = false → exec (.freezeDrained inst) s = .next s) ∧
     (f.giveUp ≤ s.now →
       Completes (.freezeDrainTimeout inst) s f.slot c.entry stAborted 0x1003 (modInst s inst fun y => { y with freezing := none })) ∧
     (s.now < f.giveUp → exec (.freezeDrainTimeout inst) s = .next s)) ∧
  (∀ (s : State) (n : Nat) (q : Qp), tget s.qps n = some q →
     (q.state = .reset → freezeQp s n = s) ∧
     (q.state ≠ .reset → freezeQp s n = moveQp (modQp s n fun x => { x with frozenFrom := q.state }) n .frozen))

/-- INSTANCE_SAVE, INSTANCE_RESTORE and MIGRATION_KEY_SET (R395, R399 to R403): the key is loaded or removed; a buffer too small is
refused with the size needed; a save writes the image once, its chunks sealed under the key after a header of Table 16-7, and bounds what
its SAs may still seal; one that is refused changes nothing. A restore without a key, of an image that fails a check, or of identifiers in
use, changes nothing.

INSTANCE_RESTORE of a sound image (R402 to R404): the instance is FROZEN with the image's quotas, its regions, mirror and contexts are
placed, and the rest is built on them.

Where the spec is open, clauses here are the model's choice: assumptions 14 (pool blocks that cannot be saved), 30 (the order of
refusals), 60 (waiting for the seed), 67 (the migration image) and 112 (the private records of an image). -/
def Obligations.Migration : Prop :=
  (∀ (slot : Nat) (s : State) (c : AdminCmd), CanStart s slot 0x0108 c →
     let e := c.entry
     (∀ b, bit e 8 0 = false → Completes (.migrationKeySet slot (some b)) s slot e stOk rsNone
       (purgeKeyMem (modCipher s fun k => { k with
         migKey := some (BitVec.ofNat 256 (leNat (slice b 0 32)), BitVec.ofNat 32 (fld e 24 31 0)) }) 0x100020 32)) ∧
     (bit e 8 0 = false → Completes (.migrationKeySet slot none) s slot e stAborted rsHostRead s) ∧
     (∀ b, bit e 8 0 = true → s.cipher.migKey.isSome = true →
       Completes (.migrationKeySet slot b) s slot e stOk rsNone (modCipher s fun k => { k with migKey := none })) ∧
     (∀ b, bit e 8 0 = true → s.cipher.migKey = none → Completes (.migrationKeySet slot b) s slot e stAborted rsNoObject s)) ∧
  (∀ (slot : Nat) (ok : Bool) (s : State) (c : AdminCmd), CanStart s slot 0x0105 c →
     let e := c.entry
     let i := cmdInst c
     (∀ r, frozenOnly s i = some r → Completes (.instanceSave slot ok) s slot e r.1 r.2 s) ∧
     (frozenOnly s i = none → s.cipher.migKey = none → Completes (.instanceSave slot ok) s slot e stAborted 0x1004 s) ∧
     (∀ x key id, frozenOnly s i = none → tget s.insts i = some x → s.cipher.migKey = some (key, id) →
       let b := bodySaved s i x
       let sized := putFld e 32 63 0 (imageBytes b)
       (fld e 24 39 0 < imageBytes b → Completes (.instanceSave slot ok) s slot sized stAborted 0x1005 s) ∧
       (imageBytes b ≤ fld e 24 39 0 → seedReady s = false → Completes (.instanceSave slot ok) s slot e stNotSeeded rsNone s) ∧
       (imageBytes b ≤ fld e 24 39 0 → seedReady s = true →
         Completes (.instanceSave slot false) s slot e stAborted rsHostWrite s ∧
         let nonce := ((drawRandom s).1.extractLsb' 0 64).toNat
         let header := imageHeader s.a1 (ownCoord s) i (!x.fn) id nonce b
         Completes (.instanceSave slot true) s slot sized stOk rsNone
           (emit (modCipher (takeFresh (drawRandom s).2).2 fun k =>
               { k with sas := k.sas.map fun a => if a.2.inst = i then (a.1, boundSeal a.2) else a })
             (.memWrite pfHost (fld e 16 63 12 * 4096) (header ++ sealChunks key header (bodyBytes b))))))) ∧
  (∀ (slot : Nat) (vec : Option Bytes) (s : State) (c : AdminCmd), CanStart s slot 0x0106 c →
     let e := c.entry
     let i := cmdInst c
     (∀ buf r, bindRefusal s i e = some r → Completes (.instanceRestore slot buf vec) s slot e r.1 r.2 s) ∧
     (∀ buf, bindRefusal s i e = none → s.cipher.migKey = none → Completes (.instanceRestore slot buf vec) s slot e stAborted 0x1004 s) ∧
     (∀ key id, bindRefusal s i e = none → s.cipher.migKey = some (key, id) →
       Completes (.instanceRestore slot none vec) s slot e stAborted rsHostRead s ∧
       ∀ m : MigImage,
         (bit e 8 0 = true → Completes (.instanceRestore slot (some m) none) s slot e stAborted rsHostRead s) ∧
         ((bit e 8 0 = true → vec.isSome = true) →
           let x := { bindInst s e m.body.la (if bit e 8 0 then vecEntries (vec.getD []) else []) .frozen with quota := m.body.quota }
           let t1 : State := { s with fresh := s.fresh + 1, insts := tput s.insts i x, pages := tput s.pages i Page.reset }
           let placed := m.body.ctxs.foldl (placeCtx i) (placeMirror i m.body (m.body.regions.foldl (placeRegion i) (some t1)))
           let good := imageGood s.a1 m (fld e 24 39 0) key id
           (good = false → Completes (.instanceRestore slot (some m) vec) s slot e stMalformed 0x1006 s) ∧
           (good = true → idTaken s m.body = true → Completes (.instanceRestore slot (some m) vec) s slot e stAborted 0x1007 s) ∧
           (∀ r, good = true → idTaken s m.body = false → beyondDevice s i m.body = some r →
             Completes (.instanceRestore slot (some m) vec) s slot e r.1 r.2 s) ∧
           (good = true → idTaken s m.body = false → beyondDevice s i m.body = none → placed = none →
             Completes (.instanceRestore slot (some m) vec) s slot e stAborted 0x0C01 s) ∧
           (∀ t2, good = true → idTaken s m.body = false → beyondDevice s i m.body = none → placed = some t2 →
             let t3 := m.body.sas.foldl jumpEvents (buildRest t2 i (leField m.bytes 16 4 23 0) m.body)
             x.state = .frozen ∧ x.quota = m.body.quota ∧
             Completes (.instanceRestore slot (some m) vec) s slot (apageResult t3 i e) stOk rsNone t3))))

/-- Function-level resets (R121, R385, R387, R388, R424): of a VF, it resets the VF's instance and no other; of the PF, it puts the admin
interface and the trace at their Reset values, removes the migration key, the forwarding records and every VF, and destroys every
instance. Clearing VF Enable destroys the VF instances.

Where the spec is open, clauses here are the model's choice: assumptions 26 (the PCIe state at reset), 82 (GCTL over resets
that are not full) and 115 (traffic). -/
def Obligations.FunctionResets : Prop :=
  (∀ s : State, live s = true →
     let h := heardTlp s
     (let cleared : State := { forgetSlots (admFlr h) with
        trace := Trace.reset, vfEnable := false, numVfs := 0, fns := [(0, FnState.reset 256)], readReq := 2, relaxed := true, pfBar := 0
        vfBar := 0, ats := [], clocks := { s.clocks with lostSeen := 0 } }
      let gone := cleared.insts.foldl (fun t r => destroyMuted t r.1 2 false) cleared
      let t := mbxPfReset (modCipher gone fun c => { c with migKey := none })
      exec .pfFlr s = .next (t.forwards.foldl endForward t) ∧
      (forgetSlots (admFlr h)).adm = { Adm.reset with
        heldLost := BitVec.ofNat 16 (s.adm.heldLost.toNat + s.adm.held.length + s.pm.held.length) }) ∧
     (s.insts = [] → s.forwards = [] → s.pm.roost = none →
       ∃ t, exec .pfFlr s = .next t ∧ t.adm.enable = false ∧ t.adm.enabled = false ∧ t.adm.cmds = [] ∧ t.adm.ringBase = 0 ∧
         t.cipher.migKey = none ∧ t.vfEnable = false ∧ t.numVfs = 0 ∧ t.fns = [(0, FnState.reset 256)] ∧ t.insts = [] ∧
         t.trace = Trace.reset ∧ t.secMbx = s.secMbx ∧ t.counters = s.counters ∧ t.cipher.keys = s.cipher.keys ∧ t.time = s.time) ∧
     (∀ vf, s.vfEnable = true → 1 ≤ vf → vf ≤ s.numVfs →
       let reset : State := { h with fns := tmod s.fns vf fun _ => FnState.reset 64 }
       let why : ResetWhy := { cause := 1, destroy := false, slot := none, removed := false }
       ((∀ r ∈ s.insts, r.2.fn = false ∨ r.2.vf ≠ vf) → exec (.vfFlr vf) s = .next reset) ∧
       (∀ i x, tget s.insts i = some x → (s.insts.filter fun r => r.2.fn && r.2.vf == vf) = [(i, x)] →
         let t : State := { reset with ats := s.ats.filter fun e => !(e.inst == i) }
         (x.state ≠ .resetting → exec (.vfFlr vf) s = .next (resetInst t i why true)) ∧
         (x.state = .resetting → exec (.vfFlr vf) s = .next (modInst t i fun y => { y with mute := true })))) ∧
     (s.vfEnable = true →
       let off : State := { h with vfEnable := false, fns := s.fns.filter fun r => r.1 == 0 }
       exec .vfEnableClear s = .next (((s.insts.filter fun r => r.2.fn).map (·.1)).foldl (fun t i => destroyMuted t i 3 true) off)) ∧
     (∀ vf, s.vfEnable = false ∨ vf = 0 ∨ s.numVfs < vf → exec (.vfFlr vf) s = .next h) ∧
     (s.vfEnable = false → exec .vfEnableClear s = .next h)) ∧
  (∀ (s : State) (i cause : Nat) (keep : Bool) (x : Inst), tget s.insts i = some x →
     (x.state ≠ .resetting →
       destroyMuted s i cause keep = resetInst s i { cause := cause, destroy := true, slot := none, removed := false } true) ∧
     (∀ w, x.state = .resetting → x.why = some w → w.slot = none →
       destroyMuted s i cause keep = modInst s i fun y => { y with
         mute := true, why := some { w with cause := cause, destroy := true, slot := none } })) ∧
  (∀ s : State, live s = false → exec .pfFlr s = .next (heardTlp s) ∧ exec .vfEnableClear s = .next (heardTlp s) ∧
     ∀ vf, exec (.vfFlr vf) s = .next (heardTlp s))

/-! ### Device commands and logical ports -/

/-- NOP, COUNTERS_READ, IMAGE_WRITE and FLASH_WRITE_DONE (Table 5-9, R91, R92, R476): NOP completes and does nothing; a counter group is
copied and, with CLEAR, zeroed; a buffer that passes is programmed into the copy it names, one at a time, and the command completes with
the read-back; one that fails changes no flash.

OWL_LOG_READ and TRACE_CONFIG (R453, R455, R456): the log's records from FIRST on go to the buffer, at most COUNT of them; a trace ring starts empty
at a free place, stops, and hands its unread records over; a second START is refused, and so is STOP or READ without a ring.

Where the spec is open, clauses here are the model's choice: assumptions 16 (results the manual does not state), 28 (commands in
Roost), 30 (the order of refusals), 31 (what the firmware does, it does when it runs), 68 (trace START) and 107 (trace records of
lines that cannot be read). -/
def Obligations.DeviceCommands : Prop :=
  (∀ (slot : Nat) (s : State) (c : AdminCmd),
     let e := c.entry
     (CanStart s slot 0x0000 c → Completes (.nop slot) s slot e stOk rsNone s) ∧
     (CanStart s slot 0x0002 c →
       let g := fld e 8 1 0
       let i := fld e 10 13 0
       let copied := writeResult s pfHost (fld e 16 63 3 * 8) ((groupValues s g i).flatMap fun v => leBytes 8 v)
       (countersRefusal s g i = none →
         Completes (.countersRead slot true) s slot (putFld (putFld e 24 15 0 (groupCount g)) 32 63 0 s.time.dev.toNat) stOk rsNone
           (if bit e 8 2 then { copied with
             counters := clearGroup s.counters g i, pm := { s.pm with counters := clearGroup s.pm.counters g i } } else copied) ∧
         Completes (.countersRead slot false) s slot e stAborted rsHostWrite s) ∧
       (∀ r ok, countersRefusal s g i = some r → Completes (.countersRead slot ok) s slot e r.1 r.2 s)) ∧
     (CanStart s slot 0x0001 c →
       let busy := s.start.flash.isSome || earlierRuns s slot (fun b => cmdOpcode b == 0x0001)
       let len := fld e 24 31 0
       let alt := bit e 8 0
       (busy = true → ∀ b sigOk, exec (.imageWrite slot b sigOk) s = .next (holdCmd s slot)) ∧
       (busy = false → ∀ sigOk, Completes (.imageWrite slot none sigOk) s slot e stAborted rsHostRead s) ∧
       (∀ b sigOk, busy = false → bufferGood (slice b 0 len) len sigOk = true →
         exec (.imageWrite slot (some b) sigOk) s = .next (keepRunning { s with
           start := { s.start with flash := some { slot := some slot, alt := alt, bytes := slice b 0 len } }
           out := s.out ++ [.flashErase alt, .flashProgram alt (slice b 0 len)] } slot)) ∧
       (∀ b sigOk, busy = false → bufferGood (slice b 0 len) len sigOk = false →
         Completes (.imageWrite slot (some b) sigOk) s slot e stMalformed rsNone s)) ∧
     (∀ alt bytes, s.start.flash = some { slot := some slot, alt := alt, bytes := bytes } → firmware s = true → admCmd s slot = some c →
       Completes (.flashWriteDone true) s slot e stOk rsNone { s with start := { s.start with flash := none } } ∧
       Completes (.flashWriteDone false) s slot e stAborted rsNone { s with start := { s.start with flash := none } }) ∧
     (∀ alt bytes ok, s.start.flash = some { slot := none, alt := alt, bytes := bytes } → firmware s = true →
       exec (.flashWriteDone ok) s = .next { s with start := { s.start with flash := none } }) ∧
     (s.start.flash = none → ∀ ok, exec (.flashWriteDone ok) s = .next s)) ∧
  (∀ (slot : Nat) (s : State) (c : AdminCmd),
     let e := c.entry
     let out := (s.owl.log.filter fun x => decide (0 ≤ sdist x.seq (BitVec.ofNat 32 (fld e 16 31 0)))).take (fld e 20 7 0)
     (CanStart s slot 0x0701 c →
       (∀ x rest, out = x :: rest → Completes (.owlLogRead slot true) s slot
         (putFld (putFld (putFld e 24 31 0 x.seq.toNat) 28 7 0 out.length) 32 31 0 s.owl.logNext.toNat) stOk rsNone
         (writeResult { s with fresh := s.fresh + 1 } pfHost (fld e 8 63 5 * 32)
           (out.flatMap fun x => traceBytes x.time x.seq x.type x.source x.data))) ∧
       (out = [] → Completes (.owlLogRead slot true) s slot
         (putFld (putFld (putFld e 24 31 0 (Config.unstated s.fresh).toNat) 28 7 0 0) 32 31 0 s.owl.logNext.toNat) stOk rsNone
         { s with fresh := s.fresh + 1 }) ∧
       Completes (.owlLogRead slot false) s slot e stAborted rsHostWrite s) ∧
     (CanStart s slot 0x0710 c →
       (fld e 8 1 0 = 0 →
         let place := anyPlace { s with trace := { s.trace with ring := none } } (2 ^ fld e 9 4 0)
         (∀ ok, s.trace.running = true → Completes (.traceConfig slot ok) s slot e stAborted rsBadState s) ∧
         (∀ ok, s.trace.running = false → place = none → Completes (.traceConfig slot ok) s slot e stAborted 0x0C01 s) ∧
         (∀ p ok, s.trace.running = false → place = some p →
           Completes (.traceConfig slot ok) s slot e stOk rsNone { s with fresh := s.fresh + 2, trace :=
             { ring := some (p, fld e 9 4 0), running := true, suspended := false, halt := bit e 8 2, mask := BitVec.ofNat 4 (fld e 10 3 0)
               mark := fld e 11 6 0, writeSeq := 0, readSeq := 0, lost := 0, sinceLost := 0, lostDue := false, fullSeen := false
               sinceSusp := 0 } })) ∧
       (fld e 8 1 0 = 1 → s.trace.ring.isSome = true → ∀ ok,
         Completes (.traceConfig slot ok) s slot e stOk rsNone { s with trace := { s.trace with running := false } }) ∧
       (fld e 8 1 0 = 1 ∨ fld e 8 1 0 = 2 → s.trace.ring = none → ∀ ok,
         Completes (.traceConfig slot ok) s slot e stAborted rsNoObject s) ∧
       (∀ p, fld e 8 1 0 = 2 → s.trace.ring = some p →
         let first := s.trace.writeSeq - BitVec.ofNat 32 (traceUnread s)
         let n := min (traceUnread s) (fld e 24 16 0)
         let s1 := if n = 0 then s
           else writeResult { s with fresh := s.fresh + 1 } pfHost (fld e 16 63 5 * 32) (traceCopy s p.1 first n)
         Completes (.traceConfig slot true) s slot (putFld e 28 31 0 first.toNat) stOk rsNone
           { s1 with trace := { s1.trace with readSeq := first + BitVec.ofNat 32 n } } ∧
         Completes (.traceConfig slot false) s slot e stAborted rsHostWrite s) ∧
       (fld e 8 1 0 = 3 → ∀ ok,
         Completes (.traceConfig slot ok) s slot (putFld e 28 31 0 s.trace.readSeq.toNat) stOk rsNone s)))

/-- PORT_CONTROL (R183, R184): DOWN holds a port that is UP or TRAINING with its transmitter off, UP lets it train again unless Owl keeps it
down, SET_NEXT_HOP takes the address of the PARAMS, QUERY changes nothing; a DISABLED port is refused.

A port's lock and fault (R182, Table 8-2): a change starts the hold anew and counts FEC codewords; 1 ms of lock without fault brings a
TRAINING port UP, lock lost or 10 us of fault brings an UP port back to TRAINING, each with PORT_STATE. A hold not yet over changes
nothing.

Where the spec is open, clauses here are the model's choice: assumption 85 (lost lock). -/
def Obligations.Ports : Prop :=
  (∀ (slot : Nat) (s : State) (c : AdminCmd), CanStart s slot 0x0003 c →
     let n := fld c.entry 8 2 0
     let a := fld c.entry 9 1 0
     let st := (portOf s n).state
     let ends (t : State) : Prop := Completes (.portControl slot) s slot (portResults t n c.entry) stOk rsNone t
     (st = .disabled → Completes (.portControl slot) s slot c.entry stAborted rsUnitOut s) ∧
     (st ≠ .disabled → a = 0 → ends s) ∧
     (st = .up ∨ st = .training → a = 1 → ends
       { s with
         pins := { s.pins with nTxEnable := s.pins.nTxEnable &&& ~~~BitVec.ofNat 8 (2 ^ n) }
         ports := lmod s.ports n fun p => { p with state := .held } }) ∧
     (st = .held → a = 1 → ends s) ∧
     (st = .held → (portOf s n).owlDown = false → a = 2 → ends
       { s with
         pins := { s.pins with nTxEnable := s.pins.nTxEnable ||| BitVec.ofNat 8 (2 ^ n) }
         ports := lmod s.ports n fun p => { p with state := .training } }) ∧
     (st = .up ∨ st = .training → (portOf s n).owlDown = false → a = 2 → ends s) ∧
     (st ≠ .disabled → (portOf s n).owlDown = true → a = 2 →
       Completes (.portControl slot) s slot c.entry stAborted rsBadState s) ∧
     (st ≠ .disabled → a = 3 → ends
       (modPort s n fun q => { q with nextHop := some ((entryBytes c.entry).drop 10 |>.take 6) }))) ∧
  (∀ (port : Nat) (s : State), running s = true →
     let p := portOf s port
     let moved (f : Port → Port) (code : Nat) : State := post (modPort s port f) 0x0020 (evData [(16, 1, port), (17, 1, code)])
     (∀ locked faulted corr uncorr,
       (p.state ≠ .disabled → exec (.alignmentLockChange port locked faulted corr uncorr) s = .next (modPort s port fun q =>
         { q with locked := locked, faulted := faulted, since := holdStart s q locked faulted
                  fecCorr := (q.fecCorr + corr) % 2 ^ 64, fecUncorr := (q.fecUncorr + uncorr) % 2 ^ 64 })) ∧
       (p.state = .disabled → exec (.alignmentLockChange port locked faulted corr uncorr) s = .next s)) ∧
     (∀ since, p.state = .training → p.locked = true → p.faulted = false → p.since = some since →
       (s.clocks.good.getLsbD 5 = true → since + 1000000 ≤ s.now →
         exec (.portLockHeld port) s = .next (moved (fun q => { q with state := .up, upSince := s.time.dev }) 3)) ∧
       (s.clocks.good.getLsbD 5 = false ∨ s.now < since + 1000000 → exec (.portLockHeld port) s = .next s)) ∧
     (p.state = .up → p.locked = false →
       exec (.portFaultHeld port) s = .next (moved (fun q => { q with state := .training }) 2)) ∧
     (∀ since, p.state = .up → p.locked = true → p.faulted = true → p.since = some since →
       (since + 10000 ≤ s.now → exec (.portFaultHeld port) s = .next (moved (fun q => { q with state := .training }) 2)) ∧
       (s.now < since + 10000 → exec (.portFaultHeld port) s = .next s)) ∧
     (p.state = .up → p.locked = true → p.faulted = false →
       exec (.portFaultHeld port) s = .next s ∧ exec (.portLockHeld port) s = .next s))

/-- Priority flow control (R243 to R247): a pause frame pauses each class with PFC it names; a time of 0 ends the pause; other MAC control
frames are counted and discarded. A pause runs out at its time, and 100 ms without a break post PAUSE_STUCK. While a class stands between
XON and XOFF its pause is sent again.

ARP and Neighbor Discovery (R186): a request for the adapter's own address on a port that is up is answered by one frame in front of
that port, and nothing else changes; a request for another address changes nothing.

Where the spec is open, clauses here are the model's choice: assumptions 49 (pauses and PFC_EN), 50 (Neighbor Discovery) and 115
(traffic). -/
def Obligations.PortFrames : Prop :=
  (∀ (port tc : Nat) (bytes : Bytes) (s : State),
     let h := heardOn s port bytes 1
     (serving s = true → portUp s port = true → beField bytes 12 2 15 0 = 0x8808 →
       (isPfc bytes = true → exec (.pfcFrameReceived port bytes true) s = .next ((List.range 8).foldl (fun t c =>
         if beField bytes 16 2 15 0 / 2 ^ c % 2 = 1 ∧ (confOf t c).pfc = true
         then pauseClass t port c (beField bytes (18 + 2 * c) 2 15 0) else t) h)) ∧
       (isPfc bytes = false → exec (.pfcFrameReceived port bytes true) s = .next (count h 1 port 26 1)) ∧
       exec (.pfcFrameReceived port bytes false) s = .next (count h 1 port 26 1)) ∧
     (serving s = false ∨ portUp s port = false → ∀ ok, exec (.pfcFrameReceived port bytes ok) s = .next h) ∧
     (∀ till, running s = true → (classOf s port tc).pausedTill = some till →
       (till ≤ s.now → exec (.pauseExpire port tc) s = .next (modClass s port tc fun k => { k with pausedTill := none, stuck := false }) ∧
         exec (.pauseStuckTimer port tc) s = .next s) ∧
       (s.now < till → exec (.pauseExpire port tc) s = .next s ∧
         ((classOf s port tc).stuck = false → (classOf s port tc).pausedAt + 100000000 ≤ s.now →
           exec (.pauseStuckTimer port tc) s = .next (post (modClass s port tc fun k => { k with stuck := true }) 0x0043
             (evData [(16, 1, port), (17, 1, tc)]))))) ∧
     (running s = true → (classOf s port tc).xoff = true → (confOf s tc).xon * 1024 ≤ (classOf s port tc).rxCount →
       ((classOf s port tc).nextRepeat ≤ s.now →
         exec (.pfcRepeatTimer port tc) s = .next (modClass (sendPause s port tc (confOf s tc).quanta) port tc fun x =>
           { x with nextRepeat := s.now + quantaNs s port (confOf s tc).quanta / 2 })) ∧
       (s.now < (classOf s port tc).nextRepeat → exec (.pfcRepeatTimer port tc) s = .next s)) ∧
     ∀ q, q ≠ 0 → paused s port tc = false → port < 8 → s.ports.length = 8 → (portOf s port).classes.length = 8 → tc < 8 →
       (classOf (pauseClass s port tc q) port tc).pausedTill = some (s.now + quantaNs s port q) ∧
       (classOf (pauseClass s port tc 0) port tc).pausedTill = none ∧
       counter (pauseClass s port tc q) 1 port (10 + tc) = min (2 ^ 64 - 1) (counter s 1 port (10 + tc) + 1)) ∧
  (∀ (port : Nat) (bytes : Bytes) (s : State) (i : Image), s.start.image = some i →
     let h := heardOn s port bytes 1
     let a := ethBody bytes
     let own := ipOf i i.coord.toNat
     let answer (frame : Bytes) : State := modPort h port fun p => { p with ctl := p.ctl ++ [frame] }
     (serving s = true → portUp s port = true → i.ipv4 = true → outerOf i port true bytes = .arp →
       beField a 0 8 63 0 = 0x0001080006040001 → slice a 24 4 = own →
       exec (.arpRequest port bytes) s = .next (answer (portFrame s i port (slice a 8 6) 0x0806
         (beBytes 8 0x0001080006040002 ++ portMac i.coord.toNat port ++ own ++ slice a 8 6 ++ slice a 14 4)))) ∧
     (slice a 24 4 ≠ own ∨ i.ipv4 = false ∨ portUp s port = false → exec (.arpRequest port bytes) s = .next h) ∧
     (i.ipv4 = true ∨ portUp s port = false → exec (.neighborSolicitation port bytes) s = .next h) ∧
     let src := slice a 8 16
     let icmp := slice a 40 (beField a 4 2 15 0)
     let sum (x y z : Bytes) := inetChecksum (x ++ y ++ beBytes 4 z.length ++ [0, 0, 0, 58] ++ z)
     (slice icmp 8 16 ≠ own → exec (.neighborSolicitation port bytes) s = .next h) ∧
     (serving s = true → portUp s port = true → i.ipv4 = false → outerOf i port true bytes = .neighbor → beField a 7 1 7 0 = 255 →
       24 ≤ beField a 4 2 15 0 → sum src (slice a 24 16) icmp = 0 → slice icmp 8 16 = own →
       let dad := src.all (· == 0)
       let dst := if dad then beBytes 16 (0xFF02 * 2 ^ 112 + 1) else src
       let mac := if dad then beBytes 6 0x333300000001 else slice bytes 6 6
       let advert (check : Nat) : Bytes := [136, 0] ++ beBytes 2 check ++ [if dad then 0x20 else 0x60, 0, 0, 0] ++ own ++ [2, 1]
         ++ portMac i.coord.toNat port
       exec (.neighborSolicitation port bytes) s = .next (answer (portFrame s i port mac 0x86DD
         (beBytes 4 (6 * 2 ^ 28) ++ beBytes 2 32 ++ [58, 255] ++ own ++ dst ++ advert (sum own dst (advert 0)))))))

/-! ### Completion queues and queue pairs -/

/-- CQ_CREATE, CQ_MODIFY and CQ_DESTROY (R150, R156, R157): a CQ is made empty with every entry returned and its interrupt unarmed; MODIFY
changes only what it names; a CQ to which a ring is bound, or that holds reports, is not destroyed. A quota reached, a number beyond the
device's, one in use and a ring out of place are refused in that order, and nothing is changed.

Where the spec is open, clauses here are the model's choice: assumption 30 (the order of refusals). -/
def Obligations.CqCommands : Prop :=
  ∀ (slot : Nat) (s : State) (c : AdminCmd),
    let e := c.entry
    let i := cmdInst c
    let n := fld e 8 17 0
    (CanStart s slot 0x0210 c →
      let full := (quotaOf s i).cqs ≤ tcount s.cqs (·.inst == i)
      let ring := locRefusal s (fld e 13 2 0) (fld e 16 63 12 * 4096) (32 * 2 ^ fld e 12 4 0)
      let q : Cq :=
        { inst := i, base := BitVec.ofNat 64 (fld e 16 63 12 * 4096), log2 := fld e 12 4 0, loc := fld e 13 2 0, vector := fld e 14 5 0
          intEn := bit e 15 0, modCount := fld e 24 15 0, modTime := fld e 26 9 0, next := 0, free := 2 ^ fld e 12 4 0, pending := []
          armed := false, held := [], stall := false, error := false, strike := false }
      (instRefusal s i = none → ¬full → n < (limits s).2.1 → tget s.cqs n = none → ring = none →
        Completes (.cqCreate slot) s slot e stOk rsNone { s with cqs := tput s.cqs n q }) ∧
      (∀ r, instRefusal s i = some r → Completes (.cqCreate slot) s slot e r.1 r.2 s) ∧
      (instRefusal s i = none → full → Completes (.cqCreate slot) s slot e stQuota rsNone s) ∧
      (instRefusal s i = none → ¬full → (limits s).2.1 ≤ n → Completes (.cqCreate slot) s slot e stAborted rsUnitOut s) ∧
      (∀ x, instRefusal s i = none → ¬full → n < (limits s).2.1 → tget s.cqs n = some x →
        Completes (.cqCreate slot) s slot e stAborted rsExists s) ∧
      (∀ r, instRefusal s i = none → ¬full → n < (limits s).2.1 → tget s.cqs n = none → ring = some r →
        Completes (.cqCreate slot) s slot e r.1 r.2 s)) ∧
    (CanStart s slot 0x0211 c →
      (cqRefusal s i n = none → Completes (.cqModify slot) s slot e stOk rsNone (modCq s n fun q =>
        { q with vector := if bit e 12 0 then fld e 14 5 0 else q.vector
                 modCount := if bit e 12 1 then fld e 24 15 0 else q.modCount
                 modTime := if bit e 12 1 then fld e 26 9 0 else q.modTime
                 intEn := if bit e 12 2 then bit e 15 0 else q.intEn })) ∧
      (∀ r, cqRefusal s i n = some r → Completes (.cqModify slot) s slot e r.1 r.2 s)) ∧
    (CanStart s slot 0x0212 c →
      (∀ q, cqRefusal s i n = none → tget s.cqs n = some q →
        (cqBound s n = false → q.held = [] → Completes (.cqDestroy slot) s slot e stOk rsNone { s with cqs := tdel s.cqs n }) ∧
        (cqBound s n = true ∨ q.held ≠ [] → Completes (.cqDestroy slot) s slot e stAborted rsBadState s)) ∧
      (∀ r, cqRefusal s i n = some r → Completes (.cqDestroy slot) s slot e r.1 r.2 s))

/-- QP_CREATE, QP_QUERY and QP_DESTROY (R159 to R161, R163): a queue pair is made in RESET with a first PSN drawn from the DRBG, once it
is seeded; QUERY answers its state and changes nothing; a queue pair in neither RESET nor ERROR is not destroyed, and one whose entries are
not all handed back is destroyed once they are. A command on a queue pair waits for the earlier ones on it.

QP_MODIFY (R160 to R165, Table 7-3): RESET to INIT binds the queue pair and enables its RQ; INIT to READY sends a CONNECT_REQ and goes on
until the handshake ends; READY to DRAINING and back; anything but RESET returns to RESET; every other transition is refused.

Where the spec is open, clauses here are the model's choice: assumptions 9 (the generator's output), 30 (the order of refusals),
41 (handshake bodies) and 60 (waiting for the seed). -/
def Obligations.QpCommands : Prop :=
  (∀ (slot : Nat) (s : State) (c : AdminCmd),
     let e := c.entry
     let i := cmdInst c
     let n := fld e 8 19 0
     (earlierRuns s slot (sameQpn n) = true →
       (CanStart s slot 0x0200 c → exec (.qpCreate slot) s = .next (holdCmd s slot)) ∧
       (CanStart s slot 0x0201 c → exec (.qpModify slot) s = .next (holdCmd s slot)) ∧
       (CanStart s slot 0x0202 c → exec (.qpQuery slot) s = .next (holdCmd s slot)) ∧
       (CanStart s slot 0x0203 c → exec (.qpDestroy slot) s = .next (holdCmd s slot))) ∧
     (earlierRuns s slot (sameQpn n) = false →
       (CanStart s slot 0x0200 c →
         (∀ r, qpCreateRefusal s i n e = some r → Completes (.qpCreate slot) s slot e r.1 r.2 s) ∧
         (qpCreateRefusal s i n e = none → seedReady s = true →
           let psn : Word := (drawRandom s).1.extractLsb' 0 32
           Completes (.qpCreate slot) s slot (putFld e 48 31 0 psn.toNat) stOk rsNone
             { (drawRandom s).2 with qps := tput s.qps n (Qp.create i (blockRing e 16) (blockRing e 32) psn) }) ∧
         (qpCreateRefusal s i n e = none → seedReady s = false →
           (s.start.entropyFailed = true → Completes (.qpCreate slot) s slot e stNotSeeded rsNone s) ∧
           (s.start.entropyFailed = false → exec (.qpCreate slot) s = .next (keepRunning s slot)))) ∧
       (CanStart s slot 0x0202 c →
         (∀ r, qpRefusal s i n = some r → Completes (.qpQuery slot) s slot e r.1 r.2 s) ∧
         (∀ q, qpRefusal s i n = none → tget s.qps n = some q → Completes (.qpQuery slot) s slot (qpResults q e) stOk rsNone s)) ∧
       (CanStart s slot 0x0203 c →
         (∀ q, qpRefusal s i n = none → tget s.qps n = some q →
           (q.state = .reset ∨ q.state = .error → q.sq.taken = [] → q.rq.taken = [] →
             Completes (.qpDestroy slot) s slot e stOk rsNone (dropQp s n) ∧ tget (dropQp s n).qps n = none) ∧
           (q.state = .reset ∨ q.state = .error → q.sq.taken ≠ [] ∨ q.rq.taken ≠ [] →
             exec (.qpDestroy slot) s = .next (holdCmd s slot)) ∧
           (q.state = .init ∨ q.state = .ready ∨ q.state = .draining →
             Completes (.qpDestroy slot) s slot e stAborted rsBadState s)) ∧
         (∀ r, qpRefusal s i n = some r → Completes (.qpDestroy slot) s slot e r.1 r.2 s)))) ∧
  (∀ (slot : Nat) (s : State) (c : AdminCmd), CanStart s slot 0x0201 c →
     let e := c.entry
     let n := fld e 8 19 0
     let target := fld e 12 2 0
     earlierRuns s slot (sameQpn n) = false →
     (∀ r, qpRefusal s (cmdInst c) n = some r → Completes (.qpModify slot) s slot e r.1 r.2 s) ∧
     (∀ q, qpRefusal s (cmdInst c) n = none → tget s.qps n = some q →
       (target = 1 → q.state = .reset →
         let bound := (saOf s (fld e 22 13 0)).any (·.inst == q.inst)
         let planes : BitVec 4 := match s.start.image with | some i => i.planes | none => 0
         let init (t : State) (psn : Word) : State := enableRing (modQp (moveQp t n .init) n fun x =>
           { x with tc := fld e 13 2 0, missMode := bit e 13 3, remoteCoord := fld e 16 23 0, remoteInst := fld e 20 10 0
                    saId := fld e 22 13 0, remoteQpn := fld e 24 19 0, initPsn := psn, sendPsn := psn, returned := false }) .rq n
         (bound = false → Completes (.qpModify slot) s slot e stAborted rsNoObject s) ∧
         (bound = true → planes.getLsbD (planeOf (fld e 16 23 0)) = false → Completes (.qpModify slot) s slot e stAborted 0x0901 s) ∧
         (bound = true → planes.getLsbD (planeOf (fld e 16 23 0)) = true →
           (q.returned = false → Completes (.qpModify slot) s slot e stOk rsNone (init s q.initPsn)) ∧
           (q.returned = true → seedReady s = true →
             Completes (.qpModify slot) s slot e stOk rsNone (init (drawRandom s).2 ((drawRandom s).1.extractLsb' 0 32))))) ∧
       (target = 2 → q.state = .init →
         exec (.qpModify slot) s = .next (sendConn (keepRunning (modQp s n fun x =>
           { x with handshake := some { slot := slot, retryAt := s.now + 1000000, giveUp := s.now + fld e 14 15 0 * 1000000 } }) slot)
           n q .connReq 0)) ∧
       (target = 2 → q.state = .draining → Completes (.qpModify slot) s slot e stOk rsNone (qpReady s n)) ∧
       (target = 3 → q.state = .ready → Completes (.qpModify slot) s slot e stOk rsNone (moveQp s n .draining)) ∧
       (target = 0 → q.state = .init ∨ q.state = .ready ∨ q.state = .draining ∨ q.state = .error →
         Completes (.qpModify slot) s slot e stOk rsNone (qpReset s n stAborted)) ∧
       ((target = 0 ∧ q.state = .reset) ∨ (target = 1 ∧ q.state ≠ .reset) ∨ (target = 2 ∧ q.state ≠ .init ∧ q.state ≠ .draining) ∨
           (target = 3 ∧ q.state ≠ .ready) ∨ 4 ≤ target →
         q.state ≠ .frozen → Completes (.qpModify slot) s slot e stAborted rsBadState s)))

/-- The timers of the handshake (R162): each millisecond without acceptance repeats the CONNECT_REQ; HANDSHAKE_MS ends the command with
RETRY_EXCEEDED and 0x0201, the queue pair staying INIT.

Handshake bodies from the peer a queue pair is bound to (R199 to R201, Table 8-15): a request whose record agrees is answered with
CONNECT_ACCEPT and its initial PSN is taken; an acceptance brings the queue pair to READY and completes its command; a refusal ends the
command with PEER_INCOMPATIBLE and the peer's reason; a record that disagrees is refused with the first reason of Table 8-15. A body from
another peer, or for a queue pair that waits for none, changes nothing but that it is taken.

Where the spec is open, clauses here are the model's choice: assumption 41 (handshake bodies). -/
def Obligations.ConnectionHandshake : Prop :=
  (∀ (qpn : Nat) (s : State) (q : Qp) (h : Handshake) (c : AdminCmd), tget s.qps qpn = some q → q.handshake = some h →
     (handshakes s = true → q.state = .init → h.retryAt ≤ s.now → s.now < h.giveUp →
       exec (.handshakeRetry qpn) s = .next (sendConn (modQp s qpn fun x =>
         { x with handshake := some { h with retryAt := s.now + 1000000 } }) qpn q .connReq 0)) ∧
     (s.now < h.retryAt ∨ h.giveUp ≤ s.now ∨ handshakes s = false → exec (.handshakeRetry qpn) s = .next s) ∧
     (firmware s = true → h.giveUp ≤ s.now → admCmd s h.slot = some c →
       Completes (.handshakeTimeout qpn) s h.slot c.entry stRetryExceeded 0x0201 (modQp s qpn fun x => { x with handshake := none })) ∧
     (s.now < h.giveUp ∨ firmware s = false → exec (.handshakeTimeout qpn) s = .next s)) ∧
  (∀ (s t : State) (d : RxDgram) (qpn : Nat) (b : ConnBody), takeRx s true = some (d, t) → handshakes s = true →
     (∀ q, tget t.qps qpn = some q →
       let ours := q.state = .init ∨ (q.state = .ready ∧ q.peerPsn = some b.initPsn)
       (d.body = .control qpn (.connReq b) →
         (b.srcCoord = d.src → ours → fromPeer d q b = true → recordReason t q b = none →
           exec .connectReq s = .next (sendConn (takeRecord t qpn b) qpn q .connAccept 0)) ∧
         (∀ r, b.srcCoord = d.src → ours → fromPeer d q b = true → recordReason t q b = some r →
           exec .connectReq s = .next (refusePeer t qpn q r)) ∧
         (b.srcCoord ≠ d.src ∨ ¬ours ∨ fromPeer d q b = false → exec .connectReq s = .next t)) ∧
       (d.body = .control qpn (.connAccept b) →
         (q.handshake.isSome = true → fromPeer d q b = true → recordReason t q b = none →
           exec .connectAccept s = .next (endHandshake (qpReady (takeRecord t qpn b) qpn) qpn stOk 0)) ∧
         (∀ r, q.handshake.isSome = true → fromPeer d q b = true → recordReason t q b = some r →
           exec .connectAccept s = .next (refusePeer t qpn q r)) ∧
         (q.handshake = none ∨ fromPeer d q b = false → exec .connectAccept s = .next t)) ∧
       (d.body = .control qpn (.connRefuse b) →
         (q.handshake.isSome = true → fromPeer d q b = true →
           exec .connectRefuse s = .next (endHandshake (peerRefused t qpn q b.reason true) qpn stPeerIncompatible b.reason.toNat)) ∧
         (q.handshake = none ∨ fromPeer d q b = false → exec .connectRefuse s = .next t))) ∧
     (tget t.qps qpn = none →
       (d.body = .control qpn (.connReq b) → exec .connectReq s = .next t) ∧
       (d.body = .control qpn (.connAccept b) → exec .connectAccept s = .next t) ∧
       (d.body = .control qpn (.connRefuse b) → exec .connectRefuse s = .next t))) ∧
  (∀ s : State, takeRx s true = none ∨ handshakes s = false →
     exec .connectReq s = .next s ∧ exec .connectAccept s = .next s ∧ exec .connectRefuse s = .next s) ∧
  (∀ (s : State) (q : Qp) (b : ConnBody),
     (b.major ≠ 1 → recordReason s q b = some 0x0801) ∧
     (b.major = 1 → b.features.extractLsb' 0 16 ≠ 0x000F → recordReason s q b = some 0x0802) ∧
     (b.major = 1 → b.features.extractLsb' 0 16 = 0x000F → b.digest ≠ ownDigest s → recordReason s q b = some 0x0803))

/-! ### Address translation and pool memory -/

/-- PT_MIRROR_SET (R264, R265): QUERY answers the entries in use and the page requests outstanding and changes nothing; SET takes the new
size and timeout and keeps every entry, in its place where the new size fits there, else in a place the device chooses; the pool limit, a
size below the entries in use and a pool without such a place refuse it, in this order.

PT_UPDATE (R266, R267, R269): the records are checked before any takes effect; each record's entry replaces every entry that its page
overlaps, and no other entry changes; then the accesses that the new pages resolve go on, and the command drains what it removed.

PT_INVALIDATE (R273): every mirror entry that overlaps the range goes, with every cache entry and every ATS result that holds such a page,
and the command answers how many went; it completes at once where nothing is under way through them, else when its drain ends.

Where the spec is open, clauses here are the model's choice: assumptions 8 (places the device chooses), 29 (commands that wait for
one another), 30 (the order of refusals) and 92 (mirrors in pool memory). -/
def Obligations.MirrorCommands : Prop :=
  (∀ (slot : Nat) (s : State) (c : AdminCmd), CanStart s slot 0x0300 c →
     let e := c.entry
     let i := cmdInst c
     let n := fld e 12 24 0
     let old := tget s.mirrors i
     let used := old.elim 0 (·.entries.length)
     let res := putFld (putFld e 24 31 0 used) 28 31 0 (reqsPending s i)
     let less : State := { s with mirrors := tdel s.mirrors i }
     let stays (m : Mirror) : Prop := n ≤ m.maxEntries ∨ (freeAt less m.base (32 * n) = true ∧ m.base + 32 * n ≤ reserveBase s)
     let place (b : Nat) : Prop := (∃ m, old = some m ∧ stays m ∧ b = m.base) ∨
       ((∀ m, old = some m → ¬stays m) ∧ anyPlace less (32 * n) = some b)
     let beyond := (quotaOf s i).poolBytes < poolUse s i - old.elim 0 mirrorBytes + 32 * n
     (∀ r, instRefusal s i = some r → Completes (.ptMirrorSet slot) s slot e r.1 r.2 s) ∧
     (instRefusal s i = none → bit e 8 0 = true →
       (old = none → Completes (.ptMirrorSet slot) s slot e stAborted rsNoObject s) ∧
       (old ≠ none → Completes (.ptMirrorSet slot) s slot res stOk rsNone s)) ∧
     (instRefusal s i = none → bit e 8 0 = false →
       (beyond → Completes (.ptMirrorSet slot) s slot e stQuota rsNone s) ∧
       (¬beyond → n < used → Completes (.ptMirrorSet slot) s slot e stAborted rsBadState s) ∧
       (¬beyond → used ≤ n → (∀ m, old = some m → ¬stays m) → anyPlace less (32 * n) = none →
         Completes (.ptMirrorSet slot) s slot e stAborted 0x0C01 s) ∧
       (∀ b, ¬beyond → used ≤ n → place b →
         let m : Mirror :=
           { maxEntries := n, timeoutMs := fld e 16 15 0, base := b, entries := old.elim [] (·.entries), dirty := old.elim [] (·.dirty) }
         Completes (.ptMirrorSet slot) s slot res stOk rsNone { s with fresh := s.fresh + 2, mirrors := tput s.mirrors i m }))) ∧
  (∀ (slot : Nat) (buf : Option Bytes) (s : State) (c : AdminCmd), CanStart s slot 0x0301 c →
     let i := cmdInst c
     exec (.ptUpdate slot buf) s = .next (resume (ptUpdate c buf s)) ∧
     (∀ r, instRefusal s i = some r → ptUpdate c buf s = (refuse s slot r.1 r.2, [])) ∧
     (instRefusal s i = none → tget s.mirrors i = none → ptUpdate c buf s = (refuse s slot stAborted rsNoObject, [])) ∧
     (∀ m, instRefusal s i = none → tget s.mirrors i = some m →
       (buf = none → ptUpdate c buf s = (refuse s slot stAborted rsHostRead, [])) ∧
       (∀ b, buf = some b →
         let rs := updateRecords (slice b 0 (32 * fld c.entry 16 12 0))
         (rs.all recordLegal = false → ptUpdate c buf s = (refuse s slot stMalformed rsNone, [])) ∧
         (∀ r, rs.all recordLegal = true → rs.findSome? (recordRefusal s i) = some r → ptUpdate c buf s = (refuse s slot r.1 r.2, [])) ∧
         (rs.all recordLegal = true → rs.findSome? (recordRefusal s i) = none → m.maxEntries < mirrorAfter s i rs →
           ptUpdate c buf s = (refuse s slot stAborted 0x0B01, [])) ∧
         (rs.all recordLegal = true → rs.findSome? (recordRefusal s i) = none → mirrorAfter s i rs ≤ m.maxEntries →
           let a := applyRecords s i rs
           let r := resolveReqs a.1 i rs
           ptUpdate c buf s = (beginDrain r.1 slot a.2.count a.2.reads.dedup a.2.ports i fun u => completeWith u slot (drainResult a.2.count),
             r.2))))) ∧
  (∀ (s : State) (i : Nat) (g : Removed) (m : Mirror) (r : BitVec 256), tget s.mirrors i = some m →
     let t := (applyRecord i (s, g) r).1
     let va := (recordRange r).1
     let size := (recordRange r).2
     let p : BitVec 128 := r.extractLsb' 64 128
     ∃ m', tget t.mirrors i = some m' ∧ (pteValid p = true → tget m'.entries va = some p) ∧ (pteValid p = false → tget m'.entries va = none) ∧
       (∀ x ∈ m.entries, overlaps x.1 (pteSize x.2) va size = true → x.1 ≠ va → x ∉ m'.entries) ∧
       (∀ x ∈ m.entries, overlaps x.1 (pteSize x.2) va size = false → x ∈ m'.entries)) ∧
  (∀ (slot : Nat) (s : State) (c : AdminCmd), CanStart s slot 0x0302 c →
     let i := cmdInst c
     (earlierRuns s slot (mapOrdered i) = true → exec (.ptInvalidate slot) s = .next (holdCmd s slot)) ∧
     (earlierRuns s slot (mapOrdered i) = false →
       (∀ r, instRefusal s i = some r → Completes (.ptInvalidate slot) s slot c.entry r.1 r.2 s) ∧
       (instRefusal s i = none → tget s.mirrors i = none → Completes (.ptInvalidate slot) s slot c.entry stAborted rsNoObject s) ∧
       (∀ m, instRefusal s i = none → tget s.mirrors i = some m →
         let va := if bit c.entry 24 0 then 0 else fld c.entry 8 56 12 * 4096
         let size := if bit c.entry 24 0 then 2 ^ 57 else fld c.entry 16 45 0 * 4096
         let d := removeRange s i va size
         let n := (overlapping m va size).length
         (d.2.reads = [] → d.2.ports = [] →
           Completes (.ptInvalidate slot) s slot (putFld c.entry 32 31 0 n) stOk rsNone d.1) ∧
         (d.2.reads ≠ [] ∨ d.2.ports ≠ [] →
           let f := issueFlushes d.1 d.2.ports i .invalidate
           exec (.ptInvalidate slot) s = .next (keepRunning { f.2 with
             drains := f.2.drains ++ [{ slot := some slot, tag := 0, removed := n, reads := d.2.reads.dedup, flushes := f.1 }] } slot))))) ∧
  (∀ (s : State) (i va size : Nat) (m : Mirror), tget s.mirrors i = some m →
     let gone := overlapping m va size
     let hit (a n : Nat) : Bool := gone.any fun r => overlaps a n r.1 (pteSize r.2)
     let t := (removeRange s i va size).1
     t = { s with mirrors := t.mirrors, tcache := t.tcache, ats := t.ats, waits := t.waits } ∧
     (∃ m', tget t.mirrors i = some m' ∧ m'.entries = m.entries.filter fun r => !overlaps r.1 (pteSize r.2) va size) ∧
     t.tcache = (s.tcache.filter fun e => !(e.inst == i && hit e.va e.size)) ∧
     (∀ e, e ∈ t.ats ↔ e ∈ s.ats ∧ (e.inst = i → hit e.va e.size = false)))

/-- Page requests (R268, R269): the oldest waiting miss of a function takes a free request, within the function's allocation and 512, and is
sent; until one is free it waits. The response removes the request: after success the accesses on the page translate again, after
Invalid Request they end NOT_MAPPED, after Response Failure they do and the function's requests stop. A control reset holds the response
back (R435).

The waits for a translation (R256, R257, R262, R263, R268, R271): a walk fills the translation cache and the access is tried again; an ATS
answer is kept with the access and cached for the instance that asked; a page request that has waited its limit ends every access on the
page with PAGE_TIMEOUT. An access whose pages are all present goes on at their addresses, one without the permission faults, and what
names no waiting access changes nothing.

An ATS Invalidate Request (R275): translations of the function and PASID in the range leave the ATS cache, those of others stay, and it is
answered once what is in flight through them has ended: at once where nothing is.

Where the spec is open, clauses here are the model's choice: assumptions 32 (a control reset's sweep), 81 (cache eviction), 91
(misses that share a page request), 107 (errors that a command's accesses meet) and 115 (what the Owl counts as a TLP). -/
def Obligations.Translation : Prop :=
  (∀ (fn : Nat) (s : State),
     (∀ r, s.pageReqs.find? (fun x => !x.issued && instFn s x.inst == fn) = some r →
       let may := serving s = true ∧ s.pm.state ≠ 2 ∧ (fnOf s fn).pri = true ∧ (fnOf s fn).stopped = false ∧
         reqsOut s fn < min (fnOf s fn).alloc 512
       (may → exec (.pageRequestIssue fn) s = .next (emit { s with
         fresh := s.fresh + 1
         pageReqs := s.pageReqs.map fun x =>
           if !x.issued && x.inst == r.inst && x.page == r.page then
             { x with issued := true, index := s.fresh, sentAt := if x.waited then x.sentAt else s.now, limit := pageLimit s x.inst }
           else x } (.pageRequest fn (instPasid s r.inst) s.fresh r.page r.write))) ∧
       (¬may → exec (.pageRequestIssue fn) s = .next s)) ∧
     (s.pageReqs.find? (fun x => !x.issued && instFn s x.inst == fn) = none → exec (.pageRequestIssue fn) s = .next s)) ∧
  (∀ (fn index : Nat) (code : PrgCode) (m : Meets) (s : State),
     (live s = true → s.ctlReset = true →
       exec (.prgResponse fn index code m) s = .next { heardTlp s with prgHeld := s.prgHeld ++ [(fn, index, code)] }) ∧
     (live s = true → s.ctlReset = false →
       exec (.prgResponse fn index code m) s = .next (underMeets m (heardTlp s) fun t => resume (prgResponse t fn index code))) ∧
     (live s = false → exec (.prgResponse fn index code m) s = .next (heardTlp s))) ∧
  (∀ (fn index : Nat) (s : State),
     (∀ r, s.pageReqs.find? (fun x => x.issued && x.index == index && instFn s x.inst == fn) = some r →
       let u : State := { markMissed s r.inst r.page 2 with pageReqs := s.pageReqs.filter fun x => !(x.issued && x.index == index) }
       (r.settled = false →
         prgResponse s fn index .success = retryAll (dropAts u r.inst r.page 4096)
           ((waitersOn (dropAts u r.inst r.page 4096) r.inst r.page).map fun w => { w with again := w.again ++ [r.page] }) ∧
         prgResponse s fn index .invalid = endAll u (waitersOn u r.inst r.page) .notMapped ∧
         (∀ w ∈ waitersOn u r.inst r.page, (w, Xlat.notMapped) ∈ (prgResponse s fn index .failure).2) ∧
         (∀ f, tget s.fns fn = some f → ∃ g, tget (prgResponse s fn index .failure).1.fns fn = some g ∧ g.stopped = true)) ∧
       (r.settled = true → prgResponse s fn index .success =
         ({ s with pageReqs := s.pageReqs.filter fun x => !(x.issued && x.index == index) }, []))) ∧
     (∀ code, s.pageReqs.find? (fun x => x.issued && x.index == index && instFn s x.inst == fn) = none →
       prgResponse s fn index code = (s, []))) ∧
  (∀ (s : State) (id : Nat) (m : Meets) (res : AtsResult),
     (live s = true → exec (.mirrorWalkDone id m) s = .next (underMeets m s fun t => resume (walkDone t id)) ∧
       exec (.atsCompletion id res m) s = .next (underMeets m (heardTlp s) fun t => resume (atsDone t id res))) ∧
     (live s = false → exec (.mirrorWalkDone id m) s = .next s ∧ exec (.atsCompletion id res m) s = .next (heardTlp s))) ∧
  (∀ (s : State) (id : Nat),
     (∀ w, s.waits.find? (fun w => w.id == id && !w.walked) = some w → walkDone s id = retry (fillCache s w) { w with walked := true }) ∧
     (s.waits.find? (fun w => w.id == id && !w.walked) = none → walkDone s id = (s, [])) ∧
     (∀ w p ps, s.waits.find? (fun w => w.id == id && w.walked && w.missed.isEmpty) = some w →
       atsPages ((spansOf s w.inst w.va w.len).map (spanFind s w.got w.inst w.need)) = p :: ps →
       (∀ bus log2 rd wr, ∃ e : AtsEntry, ∃ kept,
         e = { inst := w.inst, va := p / 2 ^ max 12 log2 * 2 ^ max 12 log2, size := 2 ^ max 12 log2
               bus := bus / 2 ^ max 12 log2 * 2 ^ max 12 log2, read := rd, write := wr } ∧
         kept <:+ s.ats ∧ (s.ats.length < 131072 → kept = s.ats) ∧
         atsDone s id (.page bus log2 rd wr) = retry { s with ats := kept ++ [e] } { w with got := w.got ++ [e] }) ∧
       (∀ res, (∀ bus log2 rd wr, res ≠ .page bus log2 rd wr) →
         (p ∈ w.again ∨ (fnOf s (instFn s w.inst)).stopped = true → atsDone s id res = (dropWait s id, [(w, .notMapped)])) ∧
         (p ∉ w.again → (fnOf s (instFn s w.inst)).stopped = false →
           atsDone s id res = (addWait (raiseReq w.inst w.need w.fresh (dropWait s id) p) { w with walked := true, missed := [p] }, [])))) ∧
     (∀ res, s.waits.find? (fun w => w.id == id && w.walked && w.missed.isEmpty) = none → atsDone s id res = (s, []))) ∧
  (∀ (s : State) (w : Waiting),
     let finds := (spansOf s w.inst w.va w.len).map (spanFind s w.got w.inst w.need)
     (finds = [] → w.len ≠ 0 → tryAccess s w = (s, .notMapped)) ∧
     (.denied ∈ finds → tryAccess s w = (s, .permission)) ∧
     (∀ ps : List Piece, finds = ps.map .ok → ps ≠ [] ∨ w.len = 0 → tryAccess s w = (s, .done ps)) ∧
     (∀ page, .denied ∉ finds → atsPages finds = [] → .absent page ∈ finds →
       (page ∈ w.again → tryAccess s w = (s, .notMapped)) ∧
       ((∀ x, .absent x ∈ finds → x ∉ w.again) → (fnOf s (instFn s w.inst)).stopped = false → (tryAccess s w).2 = .waits))) ∧
  (∀ (s : State) (got : List AtsEntry) (inst : Nat) (need : Need) (x : PageSpan) (b : Nat) (p : BitVec 128), x.entry = some (b, p) →
     (pteAllows p need = false → spanFind s got inst need x = .denied) ∧
     (pteAllows p need = true → pteTarget p ≠ 0 → spanFind s got inst need x =
       .ok { port := pteTarget p, addr := pteAddr p + (x.va - b), len := x.len, ksel := pteKsel p, va := x.va, translated := false }) ∧
     (pteAllows p need = true → pteTarget p = 0 → (fnOf s (instFn s inst)).ats = false → spanFind s got inst need x =
       .ok { port := 0, addr := x.va, len := x.len, ksel := pteKsel p, va := x.va, translated := false })) ∧
  (∀ (s : State) (inst page : Nat),
     (∀ r, running s = true → reqFor s inst page = some r →
       let limit := (if r.issued then r.limit else pageLimit s inst) * 1000000
       let rest := { s with pageReqs := (s.pageReqs.map fun x =>
         if x.inst == inst && x.page == page && !x.settled then { x with settled := true } else x).filter fun x => x.issued || !x.settled }
       ((r.issued = true ∨ r.waited = true) → r.sentAt + limit ≤ s.now →
         exec (.pageTimeoutExpire inst page) s =
           .next (resume (endAll (markMissed rest inst page 1) (waitersOn s inst page) .timeout))) ∧
       ((r.issued = false ∧ r.waited = false) ∨ s.now < r.sentAt + limit →
         exec (.pageTimeoutExpire inst page) s = .next (resume (s, [])))) ∧
     (running s = true → reqFor s inst page = none → exec (.pageTimeoutExpire inst page) s = .next (resume (s, []))) ∧
     (running s = false → exec (.pageTimeoutExpire inst page) s = .next s)) ∧
  (∀ (fn : Nat) (pasid : Option Nat) (va size tag : Nat) (s : State),
     let is_ := instOfFn s fn pasid
     let keep (e : AtsEntry) : Bool := !(is_.contains e.inst && overlaps e.va e.size va size)
     let u : State := { heardTlp s with ats := s.ats.filter keep, waits := s.waits.map fun w => { w with got := w.got.filter keep } }
     let reads := (s.reads.filter fun r => is_.contains r.inst && r.pieces.any fun p => p.translated && overlaps p.va p.len va size).map (·.id)
     let flushing := (s.flushes.filter fun f => f.port == 0 && is_.contains f.inst && f.why == .invalidate).map (·.id)
     let wrote := s.mirrors.any fun r => is_.contains r.1 && r.2.entries.any fun e =>
       pteTarget e.2 == 0 && r.2.dirty.contains e.1 && overlaps e.1 (pteSize e.2) va size
     (live s = true → s.drains = [] → reads = [] → flushing = [] → wrote = false →
       exec (.atsInvalidate fn pasid va size tag) s = .next (emit u (.atsInvalidated tag))) ∧
     (live s = true → s.drains = [] → reads ≠ [] ∨ flushing ≠ [] → wrote = false →
       exec (.atsInvalidate fn pasid va size tag) s = .next { u with
         drains := [{ slot := none, tag := tag, removed := 0, reads := reads, flushes := flushing }] }) ∧
     (live s = true → s.drains = [] → wrote = true →
       let f := issueFlush u 0 0 .invalidate
       exec (.atsInvalidate fn pasid va size tag) s = .next { f.2 with
         drains := [{ slot := none, tag := tag, removed := 0, reads := reads, flushes := f.1 :: flushing }] }) ∧
     (live s = false → exec (.atsInvalidate fn pasid va size tag) s = .next (heardTlp s)))

/-- POOL_REGION_CREATE and POOL_REGION_DESTROY (R278 to R282): a region lies at the lowest aligned address that is free, in the stack it
names where it names one; the pool limit, a region that exists or is being zeroed, a stack out of service, a pool without room and the
4,096 regions refuse it, in this order; DESTROY removes it and begins its zeroing, unless the mirror still maps into it.

Zeroing ends (R282): the region's bytes read zero with no failed line and no written flag, its pool is free, and its command completes.

Faults of pool memory (R288 to R291): a corrected error is counted on its stack, with POOL_CORRECTED_RATE beyond 1,000 in an hour; an
uncorrectable line is failed, reported and counted, once, and in the state reserve it strikes what it holds; a stack that stops
responding is out of service until the next full reset; the errors AER reports are counted by port.

A forwarding record whose time has passed is removed with its event, and one whose time has not stays (R406).

Where the spec is open, clauses here are the model's choice: assumptions 29 (commands that wait for one another), 30 (the order of
refusals), 31 (what the firmware does, it does when it runs), 53 (the lines of a patrol pass), 71 (errors of the state reserve),
72 (patrol scrub) and 107 (stacks that stopped responding). -/
def Obligations.PoolMemory : Prop :=
  (∀ (slot : Nat) (s : State) (c : AdminCmd), CanStart s slot 0x0310 c →
     let e := c.entry
     let i := cmdInst c
     let num := fld e 8 5 0
     let size := fld e 16 36 0
     let unit := if bit e 9 0 then 2 ^ 30 else 2 ^ 21
     let stack := fld e 10 3 0
     let k := (liveStacks s).idxOf stack
     let lo := if stack = 15 then 0 else k * 2 ^ 34
     let hi := if stack = 15 then reserveBase s else min (reserveBase s) ((k + 1) * 2 ^ 34)
     let taken := (regionOf s i num).isSome = true ∨ ∃ z ∈ s.pool.zeroing, z.inst = i ∧ z.num = some num
     let out := stack ≠ 15 ∧ s.start.stackOk.getLsbD stack = false
     let beyond := (quotaOf s i).poolBytes < poolUse s i + size
     (∀ r, instRefusal s i = some r → Completes (.poolRegionCreate slot) s slot e r.1 r.2 s) ∧
     (instRefusal s i = none → beyond → Completes (.poolRegionCreate slot) s slot e stQuota rsNone s) ∧
     (instRefusal s i = none → ¬beyond → taken → Completes (.poolRegionCreate slot) s slot e stAborted rsExists s) ∧
     (instRefusal s i = none → ¬beyond → ¬taken → out → Completes (.poolRegionCreate slot) s slot e stAborted rsUnitOut s) ∧
     (instRefusal s i = none → ¬beyond → ¬taken → ¬out → lowestFree s size unit lo hi = none →
       Completes (.poolRegionCreate slot) s slot e stAborted 0x0C01 s) ∧
     (∀ base, instRefusal s i = none → ¬beyond → ¬taken → ¬out → lowestFree s size unit lo hi = some base →
       let t : State := { s with pool := { s.pool with regions :=
         s.pool.regions ++ [{ inst := i, num := num, base := base, size := size, big := bit e 9 0, stack := stack }] } }
       (4096 ≤ s.pool.regions.length → Completes (.poolRegionCreate slot) s slot e stAborted 0x0C03 s) ∧
       (s.pool.regions.length < 4096 → Completes (.poolRegionCreate slot) s slot (regionResults t base e) stOk rsNone t) ∧
       base % unit = 0 ∧ lo ≤ base ∧ base + size ≤ hi ∧ (∀ x ∈ allocs s, overlaps base size x.1 x.2 = false) ∧
       ∀ b, b % unit = 0 → lo ≤ b → b + size ≤ hi → freeAt s b size = true → base ≤ b)) ∧
  (∀ (slot : Nat) (s : State) (c : AdminCmd), CanStart s slot 0x0311 c →
     let e := c.entry
     let i := cmdInst c
     let num := fld e 8 5 0
     (∀ r, instRefusal s i = some r → Completes (.poolRegionDestroy slot) s slot e r.1 r.2 s) ∧
     (instRefusal s i = none → regionOf s i num = none → Completes (.poolRegionDestroy slot) s slot e stAborted rsNoObject s) ∧
     (∀ g, instRefusal s i = none → regionOf s i num = some g →
       ((∀ m, tget s.mirrors i = some m → mappedInto m g.base g.size = false) →
         exec (.poolRegionDestroy slot) s = .next (keepRunning { s with pool := { s.pool with
           regions := s.pool.regions.filter fun x => !(x.inst == i && x.num == num)
           zeroing := s.pool.zeroing ++ [{ base := g.base, size := g.size, inst := i, num := some num, slot := some slot }] } } slot)) ∧
       (∀ m, tget s.mirrors i = some m → mappedInto m g.base g.size = true →
         Completes (.poolRegionDestroy slot) s slot e stAborted 0x0C02 s))) ∧
  (∀ (base : Nat) (s : State),
     (∀ z, s.pool.zeroing.find? (fun z => z.base == base) = some z → firmware s = true →
       let t := poolZero { s with pool := { s.pool with zeroing := s.pool.zeroing.filter fun y => !(y == z) } } z.base z.size
       (z.slot = none → exec (.poolZeroingDone base) s = .next (finishDestroy t z.inst)) ∧
       (∀ n c, z.slot = some n → admCmd s n = some c → (∀ x, tget s.insts z.inst = some x → x.why = none) →
         Completes (.poolZeroingDone base) s n (regionResults t z.base c.entry) stOk rsNone t) ∧
       (∀ a, z.base ≤ a → a < z.base + z.size → memByte t.pool.mem a = 0) ∧
       (∀ a, a < z.base ∨ z.base + z.size ≤ a → memByte t.pool.mem a = memByte s.pool.mem a) ∧
       (∀ b, z.base ≤ 4096 * b → 4096 * b + 4096 ≤ z.base + z.size → b ∉ t.pool.written) ∧
       (∀ l, z.base ≤ 64 * l → 64 * l + 64 ≤ z.base + z.size → l ∉ t.pool.failed)) ∧
     (firmware s = false ∨ s.pool.zeroing.find? (fun z => z.base == base) = none → exec (.poolZeroingDone base) s = .next s)) ∧
  (∀ (line stack : Nat) (fault : LineFault) (holds : Reserve) (s : State),
     let fails : State := { s with pool := { s.pool with failed := line :: s.pool.failed } }
     let last (u : State) : State := if (line + 1) % 2 ^ 28 = 0 then count u 3 stack 2 1 else u
     (stackOf s (64 * line) = some stack → running s = true → s.start.scrubDone = true → s.pm.state ≠ 2 →
       (s.pool.stackOut.getLsbD stack = false →
         (64 * line < reserveBase s → exec (.patrolScrub line .clean holds) s = .next (last s)) ∧
         (reserveBase s ≤ 64 * line → exec (.patrolScrub line .clean holds) s =
           .next (last { s with pool := { s.pool with failed := s.pool.failed.filter (· != line) } })) ∧
         exec (.patrolScrub line .corrected holds) s = .next (last (corrected s stack)) ∧
         (s.pool.failed.contains line = true → exec (.patrolScrub line .uncorrectable holds) s = .next (last s)) ∧
         (s.pool.failed.contains line = false → ∃ u, OnlyReports (count fails 3 stack 1 1) u ∧
           (64 * line < reserveBase s → exec (.patrolScrub line .uncorrectable holds) s = .next (last u)) ∧
           (reserveBase s ≤ 64 * line → exec (.patrolScrub line .uncorrectable holds) s =
             .next (last (strike (count u 0 0 27 1) holds))))) ∧
       (s.pool.stackOut.getLsbD stack = true →
         (64 * line < reserveBase s ∨ s.pool.failed.contains line = true → exec (.patrolScrub line fault holds) s = .next s) ∧
         (reserveBase s ≤ 64 * line → s.pool.failed.contains line = false →
           exec (.patrolScrub line fault holds) s = .next (strike (count fails 0 0 27 1) holds)))) ∧
     (stackOf s (64 * line) = none ∨ running s = false ∨ s.start.scrubDone = false ∨ s.pm.state = 2 →
       exec (.patrolScrub line fault holds) s = .next s)) ∧
  (∀ (stack : Nat) (s : State),
     let recent := (s.pool.corrected.filter fun c => decide (s.now < c.2 + 3600000000000)) ++ [(stack, s.now)]
     let counted := count { s with pool := { s.pool with corrected := recent } } 3 stack 0 1
     let tooMany := 1000 < (recent.filter fun c => c.1 == stack).length ∧
       ∀ at_, tget s.pool.rateAt stack = some at_ → at_ + 3600000000000 ≤ s.now
     (tooMany → OnlyReports { counted with pool := { counted.pool with rateAt := tput s.pool.rateAt stack s.now } } (corrected s stack)) ∧
     (¬tooMany → corrected s stack = counted)) ∧
  (∀ (s : State) (n : Nat),
     (∀ q, tget s.qps n = some q → qpActive q = true → strike s (.qp n) = qpError s n stAborted q.sq.head) ∧
     strike s (.cq n) = cqFail s n ∧ strike s .control = controlReset s ∧ strike s .other = s ∧ tget (strike s (.dest n)).dests n = none ∧
     (∀ a, tget s.cipher.sas n = some a → ∃ b, tget (strike s (.sa n)).cipher.sas n = some b ∧ b.dead = true)) ∧
  (∀ (stack : Nat) (s : State),
     let may := running s = true ∧ ready s = true ∧ stack < 6 ∧ s.start.stackOk.getLsbD stack = true ∧ s.pool.stackOut.getLsbD stack = false
     (may → Gives (.poolStackFault stack) s { s with pool := { s.pool with stackOut := s.pool.stackOut ||| BitVec.ofNat 6 (2 ^ stack) } }) ∧
     (¬may → exec (.poolStackFault stack) s = .next s)) ∧
  (∀ (port : Nat) (kind : AerKind) (s : State),
     (live s = true → kind = .correctable → exec (.aerErrorReported 0 kind) s = .next (count s 0 0 17 1)) ∧
     (live s = true → kind ≠ .correctable → exec (.aerErrorReported 0 kind) s = .next (count s 0 0 18 1)) ∧
     (live s = true → 1 ≤ port → port ≤ 4 → kind = .correctable → exec (.aerErrorReported port kind) s = .next (count s 0 0 (18 + port) 1)) ∧
     (live s = true → 1 ≤ port → port ≤ 4 → kind ≠ .correctable → exec (.aerErrorReported port kind) s = .next (count s 0 0 (22 + port) 1)) ∧
     (live s = false ∨ 4 < port → exec (.aerErrorReported port kind) s = .next s)) ∧
  (∀ (inst : Nat) (s : State),
     (∀ f, s.forwards.find? (fun f => f.inst == inst && decide (f.limit ≤ s.now)) = some f → running s = true →
       exec (.forwardExpire inst) s = .next (post { s with forwards := s.forwards.filter fun x => !(x == f) } 0x0081
         (evData [(16, 2, f.inst), (18, 3, f.coord), (24, 4, f.relayed)]))) ∧
     (running s = false ∨ s.forwards.find? (fun f => f.inst == inst && decide (f.limit ≤ s.now)) = none →
       exec (.forwardExpire inst) s = .next s))

/-! ### The Tensor Path Engine -/

/-- TPE_CTX_CREATE and TPE_CTX_DESTROY (R316, R317): a context is made READY with its ring ENABLED from slot 0, its share of the stores zero
and its place in the staging reserve; the quotas, a context that exists, a kettle that is not the instance's, the store units and a
pool without room refuse it, in this order. One that is destroyed enters ERROR first where it is READY, and ceases to exist once no
entry waits to be handed back.

KETTLE_CREATE, KETTLE_EPOCH_SET and KETTLE_DESTROY (R322 to R324): the member table gives a queue pair and a context for every rank but
the creator's own; the new epoch is the kettle's, and in every context bound to it a REDUCE in progress ends with KETTLE_EPOCH and
staged bytes that carry another epoch go; a kettle that a context is bound to is not destroyed.

Where the spec is open, clauses here are the model's choice: assumptions 8 (places the device chooses), 29 (commands that wait for
one another), 30 (the order of refusals) and 97 (staged messages that are discarded). -/
def Obligations.TpeObjects : Prop :=
  (∀ (slot : Nat) (s : State) (c : AdminCmd), CanStart s slot 0x0400 c →
     let e := c.entry
     let i := cmdInst c
     let n := fld e 8 7 0
     let w := fld e 12 8 0
     let a := fld e 14 8 0
     let stage := fld e 32 36 0
     let q := quotaOf s i
     let ket := if bit e 10 0 then some (fld e 9 7 0) else none
     let fits := ctxSum s i (fun _ => 1) < q.ctxs ∧ ctxSum s i (·.wUnits) + w ≤ q.wUnits ∧ ctxSum s i (·.aUnits) + a ≤ q.aUnits ∧
       poolUse s i + stage ≤ q.poolBytes
     let known := ∀ k, ket = some k → ∃ x, tget s.kettles k = some x ∧ x.inst = i
     let units := wUnitsUsed s + w ≤ 256 ∧ aUnitsUsed s + a ≤ 256
     let place := if stage = 0 then some 0 else anyPlace s stage
     (∀ r, instRefusalFrozen s i = some r → Completes (.tpeCtxCreate slot) s slot e r.1 r.2 s) ∧
     (instRefusalFrozen s i = none → ¬fits → Completes (.tpeCtxCreate slot) s slot e stQuota rsNone s) ∧
     (∀ x, instRefusalFrozen s i = none → fits → tget s.ctxs n = some x → Completes (.tpeCtxCreate slot) s slot e stAborted rsExists s) ∧
     (instRefusalFrozen s i = none → fits → tget s.ctxs n = none → ¬known →
       Completes (.tpeCtxCreate slot) s slot e stAborted rsNoObject s) ∧
     (instRefusalFrozen s i = none → fits → tget s.ctxs n = none → known → ¬units →
       Completes (.tpeCtxCreate slot) s slot e stAborted 0x0E01 s) ∧
     (instRefusalFrozen s i = none → fits → tget s.ctxs n = none → known → units → place = none →
       Completes (.tpeCtxCreate slot) s slot e stAborted 0x0C01 s) ∧
     (∀ p, instRefusalFrozen s i = none → fits → tget s.ctxs n = none → known → units → place = some p →
       (∀ r, blockRefusal s i e 16 = some r → Completes (.tpeCtxCreate slot) s slot e r.1 r.2 s) ∧
       (blockRefusal s i e 16 = none →
         let x : Ctx :=
           { inst := i, state := .ready, prev := .ready, ring := blockRing e 16, kettle := ket, wUnits := w, aUnits := a, wMem := []
             aMem := [], aZero := [], wBad := [], aBad := [], stageBase := p, stageBytes := stage, runs := [], inbox := [], count := []
             reduces := 0, dead := none }
         Completes (.tpeCtxCreate slot) s slot e stOk rsNone
           (enableRing { s with fresh := s.fresh + 2, ctxs := tput s.ctxs n x } .tpe n)))) ∧
  (∀ (slot : Nat) (s : State) (c : AdminCmd), CanStart s slot 0x0401 c →
     let e := c.entry
     let i := cmdInst c
     let n := fld e 8 7 0
     (∀ r, instRefusal s i = some r → Completes (.tpeCtxDestroy slot) s slot e r.1 r.2 s) ∧
     (instRefusal s i = none → (∀ x, tget s.ctxs n = some x → x.inst ≠ i) →
       Completes (.tpeCtxDestroy slot) s slot e stAborted rsNoObject s) ∧
     (∀ x, instRefusal s i = none → tget s.ctxs n = some x → x.inst = i →
       let t := if x.state = .ready then ctxError s n none stAborted else s
       (instFrozen s i = true → Completes (.tpeCtxDestroy slot) s slot e stFrozen rsNone s) ∧
       (instFrozen s i = false → (∀ y, tget t.ctxs n = some y → y.ring.taken = []) →
         Completes (.tpeCtxDestroy slot) s slot e stOk rsNone { t with ctxs := tdel t.ctxs n }) ∧
       (∀ y, instFrozen s i = false → tget t.ctxs n = some y → y.ring.taken ≠ [] →
         exec (.tpeCtxDestroy slot) s = .next (holdCmd t slot)))) ∧
  (∀ (slot : Nat) (s : State) (c : AdminCmd), CanStart s slot 0x0410 c →
     let e := c.entry
     let i := cmdInst c
     let n := fld e 8 7 0
     let free := tcount s.kettles (·.inst == i) < (quotaOf s i).kettles
     (∀ r table, instRefusalFrozen s i = some r → Completes (.kettleCreate slot table) s slot e r.1 r.2 s) ∧
     (∀ table, instRefusalFrozen s i = none → ¬free → Completes (.kettleCreate slot table) s slot e stQuota rsNone s) ∧
     (∀ table x, instRefusalFrozen s i = none → free → tget s.kettles n = some x →
       Completes (.kettleCreate slot table) s slot e stAborted rsExists s) ∧
     (instRefusalFrozen s i = none → free → tget s.kettles n = none → Completes (.kettleCreate slot none) s slot e stAborted rsHostRead s) ∧
     (∀ b, instRefusalFrozen s i = none → free → tget s.kettles n = none →
       let mine := fld e 12 11 0
       let ms := memberTable (fld e 10 12 0) b
       let named := (ms.mapIdx fun r m => (r, m.1)).filterMap fun x => if x.1 = mine then none else some x.2
       let formed := (ms.mapIdx fun r m => (r, m)).all fun x => x.2.2.2 == 0 && (x.1 != mine || (x.2.1 == 0 && x.2.2.1 == 0))
       (formed = false → Completes (.kettleCreate slot (some b)) s slot e stMalformed rsNone s) ∧
       (∀ r, formed = true → memberRefusal s i mine ms = some r → Completes (.kettleCreate slot (some b)) s slot e r.1 r.2 s) ∧
       (formed = true → memberRefusal s i mine ms = none →
         let k : Kettle := { inst := i, members := ms.map fun m => (m.1, m.2.1), myRank := mine, epoch := fld e 14 15 0
                             tag := BitVec.ofNat 32 (fld e 16 31 0) }
         Completes (.kettleCreate slot (some b)) s slot e stOk rsNone
           (named.foldl (fun u q => modQp u q fun x => { x with kettles := x.kettles ++ [n] })
             { s with kettles := tput s.kettles n k })))) ∧
  (∀ (slot : Nat) (s : State) (c : AdminCmd),
     let e := c.entry
     let n := fld e 8 7 0
     (CanStart s slot 0x0411 c →
       (∀ r, kettleRefusal s (cmdInst c) n = some r → Completes (.kettleEpochSet slot) s slot e r.1 r.2 s) ∧
       (kettleRefusal s (cmdInst c) n = none → Completes (.kettleEpochSet slot) s slot e stOk rsNone (tpeSettle
         (((s.ctxs.filter fun r => r.2.kettle == some n).map (·.1)).foldl (epochAtCtx (fld e 14 15 0))
           { s with kettles := tmod s.kettles n fun k => { k with epoch := fld e 14 15 0 } })))) ∧
     (CanStart s slot 0x0412 c →
       (∀ r, kettleRefusal s (cmdInst c) n = some r → Completes (.kettleDestroy slot) s slot e r.1 r.2 s) ∧
       (kettleRefusal s (cmdInst c) n = none →
         (s.ctxs.any (fun x => x.2.kettle == some n) = true → Completes (.kettleDestroy slot) s slot e stAborted rsBadState s) ∧
         (s.ctxs.any (fun x => x.2.kettle == some n) = false → Completes (.kettleDestroy slot) s slot e stOk rsNone
           { s with kettles := tdel s.kettles n
                    qps := s.qps.map fun r => (r.1, { r.2 with kettles := r.2.kettles.filter fun x => !(x == n) }) })))) ∧
  (∀ (s : State) (ctx epoch : Nat) (x : Ctx), tget s.ctxs ctx = some x →
     (∀ r, x.state = .ready → reduceOf x = some r →
       epochAtCtx epoch s ctx = finishStep s ctx x { r with fail := some (stKettleEpoch, 0) }) ∧
     (x.state ≠ .ready ∨ reduceOf x = none → ∃ y, tget (epochAtCtx epoch s ctx).ctxs ctx = some y ∧
       (∀ k ∈ y.inbox, ∀ p ∈ k.parts, p.2.2 = epoch) ∧
       ∀ k ∈ x.inbox, (∀ p ∈ k.parts, p.2.2 = epoch) → k.parts ≠ [] → k ∈ y.inbox))

/-- The course of a list step (R296, R297, R319 to R321, R330, R334, R336, R340 to R342): steps start in ring order; a malformed one ends
with MALFORMED and its context in ERROR; one whose operands lie beyond its spaces, whose ranks its kettle lacks or whose queue pairs are not
READY starts and fails; the others zero-flag the buffer they start from and begin their accesses. A step with nothing left completes with
what its unit computes, OK, or ARITH_FLAG where its TRAP selects a flag; a REDUCE whose wait runs out ends.

The array (R294, R296, R297): a tile is loaded at most one ahead, the contexts in turn; the array stays with the tile in use until a
boundary, and one step carries its rows through the tile.

Where the spec is open, clauses here are the model's choice: assumptions 54 (tile loads and steps of the array), 55 (BYTES of list
steps), 95 (the last lanes of a reduction), 96 (ranks and maps beyond the kettle), 107 (errors that a command's accesses meet) and 113
(the array's turns). -/
def Obligations.TpeSteps : Prop :=
  (∀ (ctx : Nat) (words : List StoreWord) (m : Meets) (s : State),
     (∀ c t, tget s.ctxs ctx = some c → nextStart c.ring = some t →
       let e := t.entry
       let r := newRun s c t
       let begun (u : State) : State := modCtx (markStarted u .tpe ctx t.slot) ctx fun x =>
         { x with runs := x.runs ++ [r], reduces := if opOf e = 0x05 then x.reduces + 1 else x.reduces }
       (tpeMayStart s c t = false → exec (.tpeStepStart ctx words m) s = .next s) ∧
       (tpeMayStart s c t = true → stepLegal s.a1 e = false → exec (.tpeStepStart ctx words m) s =
         .next (ctxError (endSlot s .tpe ctx t.slot { status := stMalformed, sub := 0, bytes := 0, notify := 0 }) ctx none stAborted)) ∧
       (tpeMayStart s c t = true → stepLegal s.a1 e = true → startFailure s c e ≠ none →
         exec (.tpeStepStart ctx words m) s = .next (tpeSettle (underMeets m s begun))) ∧
       (tpeMayStart s c t = true → stepLegal s.a1 e = true → startFailure s c e = none →
         exec (.tpeStepStart ctx words m) s = .next (tpeSettle (underMeets m s fun u =>
           tpeAdvance (stepBegin (words.foldl foundWord (modCtx (begun u) ctx (startZero e))) ctx r) ctx t.slot))) ∧
       (∀ x ∈ stepSpans e (kettleOf s c), x.1 = 0 → spaceA c < x.2.1 + x.2.2.1 → startFailure s c e = some (stAborted, subSpaceRange)) ∧
       (∀ x ∈ stepSpans e (kettleOf s c), x.1 = 1 → spaceW c < x.2.1 + x.2.2.1 → startFailure s c e = some (stAborted, subSpaceRange)) ∧
       ((stepSpans e (kettleOf s c)).any (beyondSpace c) = false → needsKettle e = true → kettleOf s c = none →
         startFailure s c e = some (stAborted, subBadMap)) ∧
       (opOf e = 0x03 → isAlt e = false → (∀ q, tget s.qps (fld e 4 19 0) = some q → q.inst = c.inst → q.state ≠ .ready) →
         startFailure s c e = some (stAborted, subQpError))) ∧
     ((∀ c, tget s.ctxs ctx = some c → nextStart c.ring = none) → exec (.tpeStepStart ctx words m) s = .next s)) ∧
  (∀ (ctx : Nat) (s : State),
     (∀ slot tile, nextTile s ctx = some (slot, tile) → serving s = true → s.array.shadow = none → loadTurn s = some ctx →
       exec (.tileLoadDone ctx) s = .next { s with array := { s.array with shadow := some (ctx, slot, tile), last := ctx } }) ∧
     (nextTile s ctx = none ∨ serving s = false ∨ s.array.shadow ≠ none ∨ loadTurn s ≠ some ctx →
       exec (.tileLoadDone ctx) s = .next s) ∧
     (∀ m, serving s = true → arrayTurn s = some ctx →
       exec (.arrayStep { ctx := ctx, meets := m }) s = .next (underMeets m s fun u => stepArray u ctx)) ∧
     (∀ m, serving s = false ∨ arrayTurn s ≠ some ctx → exec (.arrayStep { ctx := ctx, meets := m }) s = .next s) ∧
     (∀ c r, arrayWork s ctx = some (c, r) →
       let a := arrayStep c r
       let v := modCtx (takeTile s ctx r.slot) ctx fun _ => putRun a.1 a.2
       (a.2.row = 0 ∨ a.2.fail ≠ none → stepArray s ctx = { v with array := { v.array with current := none } }) ∧
       (a.2.row ≠ 0 → a.2.fail = none → stepArray s ctx = v)) ∧
     (∀ slot r, s.array.current = some (ctx, slot) → runOf s ctx slot = some r → atBoundary r = false → arrayTurn s = some ctx) ∧
     (∀ slot r other x, s.array.current = some (ctx, slot) → runOf s ctx slot = some r → atBoundary r = true →
       s.array.shadow = some (other, x) → other ≠ ctx → arrayTurn s = some other)) ∧
  (∀ (c : Ctx) (r : TpeRun),
     let e := r.entry
     let size := tileBytes (fmtB e)
     let n := min (rowsPerStep e) (fld e 16 15 0 - r.row)
     (wtRead c (fld e 12 31 0 + r.tile * size) size = none → arrayStep c r = (c, r.failWith stAborted subStoreEcc)) ∧
     (∀ t, wtRead c (fld e 12 31 0 + r.tile * size) size = some t →
       (r.row + n < fld e 16 15 0 → (arrayStep c r).2.row = r.row + n ∧ (arrayStep c r).2.tile = r.tile) ∧
       (fld e 16 15 0 ≤ r.row + n → (arrayStep c r).2.row = 0 ∧ (arrayStep c r).2.tile = r.tile + 1))) ∧
  (∀ (ctx slot : Nat) (m : Meets) (s : State) (c : Ctx), tget s.ctxs ctx = some c →
     (serving s = true → c.state = .ready →
       let v := underMeets m s fun u => pumpCtx (tpeAdvance (pumpCtx u ctx) ctx slot) ctx
       (∀ x r, tget v.ctxs ctx = some x → runOf v ctx slot = some r →
         (r.fail ≠ none → exec (.tpeStepComplete ctx slot m) s = .next (tpeSettle (finishStep v ctx x r))) ∧
         (r.fail = none → stepDone v x r = false → exec (.tpeStepComplete ctx slot m) s = .next (tpeSettle v)) ∧
         (r.fail = none → stepDone v x r = true →
           let a := stepCompute x r
           exec (.tpeStepComplete ctx slot m) s = .next (tpeSettle (finishStep
             (modCtx v ctx fun _ => putRun a.1 a.2) ctx (putRun a.1 a.2) a.2)))) ∧
       (runOf v ctx slot = none → exec (.tpeStepComplete ctx slot m) s = .next v)) ∧
     (serving s = false ∨ c.state ≠ .ready → exec (.tpeStepComplete ctx slot m) s = .next s)) ∧
  (∀ (ctx slot : Nat) (m : Meets) (s : State), tget s.ctxs ctx = none → exec (.tpeStepComplete ctx slot m) s = .next s) ∧
  (∀ (ctx : Nat) (s : State) (c : Ctx) (r : TpeRun),
     let trap := BitVec.ofNat 8 (fld r.entry 3 4 0)
     let ends (o : Outcome) : State := fetchRing (drainTpe (endRun (endSlot s .tpe ctx r.slot o) ctx c r) ctx) .tpe ctx
     (r.fail = none → r.flags &&& trap = 0 → finishStep s ctx c r =
       ends { status := stOk, sub := r.flags.toNat, bytes := stepBytes s ctx c r, notify := 0 }) ∧
     (r.fail = none → r.flags &&& trap ≠ 0 → finishStep s ctx c r =
       ends { status := stArithFlag, sub := r.flags.toNat, bytes := stepBytes s ctx c r, notify := 0 }) ∧
     (∀ st sub, r.fail = some (st, sub) → opOf r.entry ≠ 0x05 → finishStep s ctx c r =
       ctxError (endRun (endSlot s .tpe ctx r.slot { status := st, sub := sub, bytes := runBytes s ctx r, notify := 0 }) ctx c r)
         ctx none stAborted)) ∧
  (∀ (ctx : Nat) (s : State),
     (∀ c r, tget s.ctxs ctx = some c → reduceOf c = some r →
       let due := serving s = true ∧ c.state = .ready ∧ r.started + fld r.entry 20 15 0 * 1000000 ≤ s.now ∧ stepDone s c r = false
       (due → exec (.reduceWaitExpire ctx) s = .next (tpeSettle (finishStep s ctx c (r.failWith stAborted subWaitExpired)))) ∧
       (¬due → exec (.reduceWaitExpire ctx) s = .next s)) ∧
     ((∀ c, tget s.ctxs ctx = some c → reduceOf c = none) → exec (.reduceWaitExpire ctx) s = .next s))

/-! ### The cipher engine -/

/-- KEY_SLOT_WRITE, KEY_SLOT_GENERATE and KEY_SLOT_CLEAR (R343 to R347): an empty slot is loaded with the key written, or with one drawn from
the DRBG, once it is seeded; an XTS key whose halves are equal is refused; the quota, a loaded slot and a KSEL in use refuse both, in this
order. A slot that serves an association or a mapped KSEL is not cleared, and one that a started lookaside request names is cleared when
that request ends. Loading and clearing write the whole place of the slot's key.

Where the spec is open, clauses here are the model's choice: assumptions 9 (the generator's output), 30 (the order of refusals), 60
(waiting for the seed) and 61 (the debug port at the key store). -/
def Obligations.KeySlots : Prop :=
  ∀ (slot : Nat) (s : State) (c : AdminCmd),
    let e := c.entry
    let i := cmdInst c
    let n := fld e 8 13 0
    let purged (u : State) : State :=
      { u with dbg := { u.dbg with keyMem := u.dbg.keyMem.filter fun x => decide (x.1 < 64 * n) || decide (64 * n + 64 ≤ x.1) } }
    let loaded (u : State) (key : Bytes) : State :=
      let k : KeySlot := { type := fld e 10 1 0, keyLen := fld e 10 3 2, ksel := fld e 12 11 0, inst := i, key := key }
      purged { u with cipher := { u.cipher with keys := tput u.cipher.keys n k } }
    (instRefusalFrozen s i = none →
      let kind := fld e 10 1 0
      let used := kind = 1 ∧ ∃ k ∈ s.cipher.keys, k.2.type = 1 ∧ k.2.inst = i ∧ k.2.ksel = fld e 12 11 0
      (slotQuota s i kind ≤ slotUse s i kind → keyLoadRefusal s i e = some (stQuota, rsNone)) ∧
      (slotUse s i kind < slotQuota s i kind → ∀ k, tget s.cipher.keys n = some k → keyLoadRefusal s i e = some (stAborted, rsExists)) ∧
      (slotUse s i kind < slotQuota s i kind → tget s.cipher.keys n = none → used → keyLoadRefusal s i e = some (stAborted, 0x0F01)) ∧
      (slotUse s i kind < slotQuota s i kind → tget s.cipher.keys n = none → ¬used → keyLoadRefusal s i e = none)) ∧
    (∀ r, instRefusalFrozen s i = some r → keyLoadRefusal s i e = some r) ∧
    (CanStart s slot 0x0500 c →
      (∀ r buf, keyLoadRefusal s i e = some r → Completes (.keySlotWrite slot buf) s slot e r.1 r.2 s) ∧
      (keyLoadRefusal s i e = none → Completes (.keySlotWrite slot none) s slot e stAborted rsHostRead s) ∧
      (∀ b, keyLoadRefusal s i e = none →
        let key := slice b 0 (keyBytes (fld e 10 3 2))
        (fld e 10 3 2 ≠ 2 ∨ key.take 32 ≠ key.drop 32 → Completes (.keySlotWrite slot (some b)) s slot e stOk rsNone (loaded s key)) ∧
        (fld e 10 3 2 = 2 → key.take 32 = key.drop 32 → Completes (.keySlotWrite slot (some b)) s slot e stMalformed rsNone s))) ∧
    (CanStart s slot 0x0501 c →
      (∀ r, keyLoadRefusal s i e = some r → Completes (.keySlotGenerate slot) s slot e r.1 r.2 s) ∧
      (keyLoadRefusal s i e = none → seedReady s = true → Completes (.keySlotGenerate slot) s slot e stOk rsNone
        (loaded (drawRandom s).2 (leBytes (keyBytes (fld e 10 3 2)) (drawRandom s).1.toNat))) ∧
      (keyLoadRefusal s i e = none → seedReady s = false →
        (s.start.entropyFailed = true → Completes (.keySlotGenerate slot) s slot e stNotSeeded rsNone s) ∧
        (s.start.entropyFailed = false → exec (.keySlotGenerate slot) s = .next (keepRunning s slot)))) ∧
    (CanStart s slot 0x0502 c →
      (∀ r, instRefusalFrozen s i = some r → Completes (.keySlotClear slot) s slot e r.1 r.2 s) ∧
      (instRefusalFrozen s i = none → (∀ k, tget s.cipher.keys n = some k → k.inst ≠ i) →
        Completes (.keySlotClear slot) s slot e stAborted rsNoObject s) ∧
      (∀ k, instRefusalFrozen s i = none → tget s.cipher.keys n = some k → k.inst = i →
        (slotServes s n = true ∨ kselMapped s k = true → Completes (.keySlotClear slot) s slot e stAborted 0x0F02 s) ∧
        (slotServes s n = false → kselMapped s k = false → laUses s n = true → exec (.keySlotClear slot) s = .next (holdCmd s slot)) ∧
        (slotServes s n = false → kselMapped s k = false → laUses s n = false → Completes (.keySlotClear slot) s slot e stOk rsNone
          (purged { s with cipher := { s.cipher with keys := tdel s.cipher.keys n } }))))

/-- SA_CREATE, SA_REKEY, SA_DESTROY and RX_PHASE_RETIRE (R348 to R357, R406): an association starts in phase 0 both ways with SEAL_SEQ 1 and an
empty replay window; a rekey installs the other phase's key and, on transmit, starts SEAL_SEQ at 1 again; an association a queue pair is
bound to is not destroyed; 100 ms after the switch the old phase's key is dropped. An association that exists, one of another instance, a
slot that is not a free SA slot of the instance and a rekey still under way are refused.

Where the spec is open, clauses here are the model's choice: assumption 30 (the order of refusals). -/
def Obligations.Associations : Prop :=
  (∀ (slot : Nat) (s : State) (c : AdminCmd),
    let e := c.entry
    let i := cmdInst c
    let id := fld e 8 13 0
    let tx := fld e 14 13 0
    let rx := fld e 16 13 0
    (CanStart s slot 0x0503 c →
      let held := (∃ a, saOf s id = some a) ∨ ∃ f ∈ s.forwards, id ∈ f.sas
      (∀ r, instRefusalFrozen s i = some r → Completes (.saCreate slot) s slot e r.1 r.2 s) ∧
      (instRefusalFrozen s i = none → held → Completes (.saCreate slot) s slot e stAborted rsExists s) ∧
      (instRefusalFrozen s i = none → ¬held → saSlotFree s i tx = false ∨ saSlotFree s i rx = false ∨ tx = rx →
        Completes (.saCreate slot) s slot e stAborted 0x0F03 s) ∧
      (instRefusalFrozen s i = none → ¬held → saSlotFree s i tx = true → saSlotFree s i rx = true → tx ≠ rx →
        let a : Sa :=
          { inst := i, peer := fld e 12 13 0, txSlot := tx, txPhase := false, sealSeq := 1, limit := 2 ^ 44
            rx0 := some { slot := rx, high := 0, seen := [] }, rx1 := none, rxPhase := false, pending := false, retiring := none
            fails := 0, failAt := none, exhausted := false, dead := false }
        Completes (.saCreate slot) s slot e stOk rsNone { s with cipher := { s.cipher with sas := tput s.cipher.sas id a } })) ∧
    (CanStart s slot 0x0504 c →
      (∀ r, saRefusal s i id = some r → Completes (.saRekey slot) s slot e r.1 r.2 s) ∧
      (∀ a, saRefusal s i id = none → saOf s id = some a →
        (bit e 10 0 = true →
          let b : Sa := { a with txSlot := tx, txPhase := !a.txPhase, sealSeq := 1, limit := 2 ^ 44, exhausted := false }
          (saSlotFree s i tx = false → Completes (.saRekey slot) s slot e stAborted 0x0F03 s) ∧
          (saSlotFree s i tx = true → Completes (.saRekey slot) s slot (rekeyResults b e) stOk rsNone (modSa s id fun _ => b))) ∧
        (bit e 10 0 = false →
          let p : RxPhase := { slot := rx, high := 0, seen := [] }
          let b : Sa := { a with rx0 := if a.rxPhase then some p else a.rx0, rx1 := if a.rxPhase then a.rx1 else some p, pending := true }
          (saSlotFree s i rx = false → Completes (.saRekey slot) s slot e stAborted 0x0F03 s) ∧
          (saSlotFree s i rx = true → a.pending = true ∨ a.retiring ≠ none → Completes (.saRekey slot) s slot e stAborted 0x0F05 s) ∧
          (saSlotFree s i rx = true → a.pending = false → a.retiring = none →
            Completes (.saRekey slot) s slot (rekeyResults b e) stOk rsNone (modSa s id fun _ => b))))) ∧
    (CanStart s slot 0x0505 c →
      (∀ r, saRefusal s i id = some r → Completes (.saDestroy slot) s slot e r.1 r.2 s) ∧
      (saRefusal s i id = none →
        (saBound s id = true → Completes (.saDestroy slot) s slot e stAborted 0x0F04 s) ∧
        (saBound s id = false → Completes (.saDestroy slot) s slot e stOk rsNone
          { s with cipher := { s.cipher with sas := tdel s.cipher.sas id }
                   counters := s.counters.filter fun r => !(r.1 / 64 == 2 * 65536 + id)
                   txq := s.txq.filter fun d => !(d.saId == id) }))) ∧
    (∀ r, instRefusalFrozen s i = some r → saRefusal s i id = some r) ∧
    (∀ a, instRefusalFrozen s i = none → saOf s id = some a → a.inst = i → saRefusal s i id = none) ∧
    (instRefusalFrozen s i = none → (∀ a, saOf s id = some a → a.inst ≠ i) → saRefusal s i id = some (stAborted, rsNoObject))) ∧
  (∀ (n : Nat) (s : State),
    (∀ a t, saOf s n = some a → a.retiring = some t →
      (running s = true → t ≤ s.now → Gives (.rxPhaseRetire n) s (modSa s n fun x =>
        { (if a.rxPhase then { x with rx0 := none } else { x with rx1 := none }) with retiring := none })) ∧
      (running s = false ∨ s.now < t → exec (.rxPhaseRetire n) s = .next s)) ∧
    ((∀ a, saOf s n = some a → a.retiring = none) → exec (.rxPhaseRetire n) s = .next s))

/-- Seeding and its loss (R100, R101, R363, R370, R371): the first run of the start-up tests that passes seeds the DRBG with the
personalization string and draws the context key, and what waited goes on; the third that fails sets ENTROPY_FAILED; a health failure makes
the tests run again; 2^20 requests or 60 s reseed with new entropy; a command or request that has waited 10 ms for the seed ends with
NOT_SEEDED.

The lookaside queue (R359 to R363, R368): a doorbell makes it read its ring; its requests start one at a time in ring order; a malformed
entry ends MALFORMED and disables the queue; a length beyond Table 15-9 is LENGTH_LIMIT; a key slot that does not serve the request is
ABORTED with SUB 1; a wrapped state without the context key, and RANDOM without a DRBG, is NOT_SEEDED; where the two computations
disagree the request ends CIPHER_COMPARE and nothing of either is written.

Where the spec is open, clauses here are the model's choice: assumptions 9 (the generator's output and the personalization), 57 (lookaside
checks), 60 (waiting for the seed), 107 (errors that a command's accesses meet) and 115 (what the Owl counts). -/
def Obligations.SeedingAndLookaside : Prop :=
  (∀ s : State,
     let due := running s = true ∧ s.start.entropyFailed = false ∧ (s.start.seeded = false ∨ s.cipher.testing = true)
     let seeded : State := { s with
       cipher := { s.cipher with
         testing := false, generated := 0, seededAt := s.now, seeding := s.cipher.seeding + 1
         personal := if s.start.seeded then s.cipher.personal else (img s).elim 0 (·.coord) ++ s.time.dev }
       start := { s.start with seeded := true, entropyRuns := 0 } }
     let drawn := (drawRandom seeded).2
     (due → s.cipher.ctxKey = none → exec (.entropyTestRun true) s = .next (seedCome { drawn with
       cipher := { drawn.cipher with ctxKey := some ((drawRandom seeded).1.extractLsb' 0 256) }
       dbg := { drawn.dbg with keyMem := drawn.dbg.keyMem.filter fun x => decide (x.1 < 0x100000) || decide (0x100020 ≤ x.1) } })) ∧
     (due → s.cipher.ctxKey ≠ none → exec (.entropyTestRun true) s = .next (seedCome seeded)) ∧
     (due → s.start.entropyRuns < 2 →
       exec (.entropyTestRun false) s = .next { s with start := { s.start with entropyRuns := s.start.entropyRuns + 1 } }) ∧
     (due → 2 ≤ s.start.entropyRuns → ∃ u,
       OnlyReports { s with cipher := { s.cipher with testing := false }
                            start := { s.start with entropyFailed := true, entropyRuns := s.start.entropyRuns + 1 } } u ∧
         exec (.entropyTestRun false) s = .next (seedCome u)) ∧
     (¬due → ∀ pass, exec (.entropyTestRun pass) s = .next s) ∧
     (running s = true → seedReady s = true →
       exec .entropyHealthFail s = .next { s with cipher := { s.cipher with testing := true }, start := { s.start with entropyRuns := 0 } }) ∧
     (running s = false ∨ seedReady s = false → exec .entropyHealthFail s = .next s) ∧
     (let old := running s = true ∧ seedReady s = true ∧ (2 ^ 20 ≤ s.cipher.generated ∨ s.cipher.seededAt + 60000000000 ≤ s.now)
      (old → exec .drbgReseed s =
        .next { s with cipher := { s.cipher with generated := 0, seededAt := s.now, seeding := s.cipher.seeding + 1 } }) ∧
      (¬old → exec .drbgReseed s = .next s)) ∧
     (∀ slot c, admCmd s slot = some c →
       let waits := c.phase = .running ∧
         (cmdOpcode c = 0x0200 ∨ (cmdOpcode c = 0x0201 ∧ fld c.entry 12 2 0 = 1) ∨ cmdOpcode c = 0x0501)
       let late := seedReady s = false ∧ firmware s = true ∧ waits ∧ c.since + 10000000 ≤ s.now
       (late → Completes (.seedWaitTimeout (.admin slot)) s slot c.entry stNotSeeded rsNone s) ∧
       (¬late → exec (.seedWaitTimeout (.admin slot)) s = .next s)) ∧
     (∀ slot, admCmd s slot = none → exec (.seedWaitTimeout (.admin slot)) s = .next s) ∧
     (∀ inst r, laRunOf s inst = some r →
       let late := running s = true ∧ seedReady s = false ∧ r.seed = true ∧ r.since + 10000000 ≤ s.now
       (late → exec (.seedWaitTimeout (.lookaside inst)) s = .next (laEnd s inst stNotSeeded 0)) ∧
       (¬late → exec (.seedWaitTimeout (.lookaside inst)) s = .next s)) ∧
     (∀ inst, laRunOf s inst = none → exec (.seedWaitTimeout (.lookaside inst)) s = .next s)) ∧
  (∀ (inst : Nat) (s : State),
     (live s = true → pageOpen s inst = true →
       exec (.lookasideDoorbell inst) s = .next (ringDoorbell (heardBell s) .lookaside inst)) ∧
     (live s = false ∨ pageOpen s inst = false → exec (.lookasideDoorbell inst) s = .next (heardBell s))) ∧
  (∀ (inst : Nat) (s : State) (disagree : Bool) (m : Meets),
     (laNext s inst = none → exec (.lookasideStart inst disagree m) s = .next s) ∧
     (∀ t, laNext s inst = some t →
       (laLegal t.entry = false → exec (.lookasideStart inst disagree m) s =
         .next (disableRing (endSlot s .lookaside inst t.slot { status := stMalformed, sub := 0, bytes := 0, notify := 0 })
           .lookaside inst stAborted)) ∧
       (laLegal t.entry = true → exec (.lookasideStart inst disagree m) s =
         .next (underMeets m (markStarted s .lookaside inst t.slot) fun u => laBegin u inst t.slot t.entry disagree)))) ∧
  (∀ (u : State) (inst slot : Nat) (e : Entry) (disagree : Bool),
     let r : LaRun :=
       { slot := slot, entry := e, since := u.now, seed := laOp e == 3, bad := disagree, todo := (laReads e).map (·.1), bufs := []
         made := false, outs := [], status := stOk, ports := [], flushes := [] }
     let v := modInst u inst fun x => { x with laRun := some r }
     (laOver e = true → laBegin u inst slot e disagree = laEnd v inst stLengthLimit 0) ∧
     (laOver e = false → laOp e = 3 →
       (seedReady u = true → laBegin u inst slot e disagree = laDraw v inst r) ∧
       (seedReady u = false → u.start.entropyFailed = true → laBegin u inst slot e disagree = laEnd v inst stNotSeeded 0) ∧
       (seedReady u = false → u.start.entropyFailed = false → laBegin u inst slot e disagree = v)) ∧
     (laOver e = false → laOp e ≠ 3 →
       (laKeyOk u inst e = false → laBegin u inst slot e disagree = laEnd v inst stAborted 1) ∧
       (laKeyOk u inst e = true → laWraps e = true → u.cipher.ctxKey = none →
         laBegin u inst slot e disagree = laEnd v inst stNotSeeded 0) ∧
       (laKeyOk u inst e = true → laWraps e = false ∨ u.cipher.ctxKey ≠ none →
         laBegin u inst slot e disagree = (laReads e).foldl (laRead inst slot) v))) ∧
  (∀ (u : State) (inst : Nat) (r : LaRun),
     let d := laDone u inst r.entry r
     let v : State := { u with cipher := { u.cipher with wrapSeq := u.cipher.wrapSeq + BitVec.ofNat 64 d.wraps } }
     (r.bad = true → laCompute u inst r = laEnd (cipherMismatch v 3) inst stCipherCompare 0) ∧
     (r.bad = false → d.outs = [] → laCompute u inst r = laEnd v inst d.status d.sub) ∧
     (r.bad = false → d.outs ≠ [] → laCompute u inst r =
       laCommit (modLa v inst fun x => { x with made := true, outs := d.outs, status := d.status }) inst))

/-! ### Paths, pacing and gates -/

/-- DEST_PATHS_SET, CONG_PARAMS_SET and RATE_LIMIT_SET (R206 to R208, R211, R226, R239): a configuration is the default's or the destination's
own; the paths it no longer has lose their health, and a destination left without a HEALTHY path probes its DOWN paths on UP ports and is
reported once. A plane the adapter lacks, its own coordinate and a 65,537th configuration are refused, in this order. New parameters clamp
every window between MIN_WND_B and MAX_WND_B; a limiter takes its rate and burst, and its packets are paced under them. Each QUERY changes
nothing.

TC_CONFIG_SET (R241, R245): the class has the row of the PARAMS, the other classes keep theirs, pauses end where PFC_EN goes to 0, and a sum
of reservations beyond the buffer is refused.

Where the spec is open, clauses here are the model's choice: assumptions 30 (the order of refusals) and 49 (pauses that end with PFC_EN). -/
def Obligations.PathsAndRates : Prop :=
  (∀ (slot : Nat) (s : State) (c : AdminCmd), CanStart s slot 0x0600 c →
     let e := c.entry
     let coord := fld e 8 23 0
     let dflt := bit e 12 2
     let act := fld e 12 1 0
     let conf : PathConf := { count := fld e 14 8 0, exclude := BitVec.ofNat 256 (fld e 16 255 0) }
     let plane := ((img s).elim 0 (·.planes)).getLsbD (planeOf coord)
     let full := act = 0 ∧ tget s.pathConf coord = none ∧ 65536 ≤ s.pathConf.length
     (dflt = false → plane = false → Completes (.destPathsSet slot) s slot e stAborted 0x0901 s) ∧
     (dflt = false → plane = true → coord = ownCoord s → Completes (.destPathsSet slot) s slot e stAborted 0x0902 s) ∧
     (dflt = false → plane = true → coord ≠ ownCoord s → full → Completes (.destPathsSet slot) s slot e stAborted 0x0903 s) ∧
     (dflt = true ∨ (plane = true ∧ coord ≠ ownCoord s ∧ ¬full) →
       (act = 0 → dflt = true → Completes (.destPathsSet slot) s slot e stOk rsNone (pathsChanged { s with pathDef := conf })) ∧
       (act = 0 → dflt = false →
         Completes (.destPathsSet slot) s slot e stOk rsNone (pathsChanged { s with pathConf := tput s.pathConf coord conf })) ∧
       (act = 1 → Completes (.destPathsSet slot) s slot e stOk rsNone (pathsChanged { s with pathConf := tdel s.pathConf coord })) ∧
       (2 ≤ act → Completes (.destPathsSet slot) s slot (pathsQuery s coord dflt e) stOk rsNone s))) ∧
  (∀ s : State,
     let kept := s.dests.map fun r => (r.1, { r.2 with paths := r.2.paths.filter fun p => configured (pathConfOf s r.1) p.1 })
     pathsChanged s = kept.foldl (fun t r => exhaustCheck t r.1) { s with dests := kept }) ∧
  (∀ (s : State) (coord : Nat) (d : Dest), tget s.dests coord = some d →
     let all := (List.range 256).filter (configured (pathConfOf s coord))
     let probing := all.foldl (fun t p =>
       if (pathOf s d p).health == .down && onUpPort s p then modPath t coord p fun x => { x with health := .probing, probe := none } else t) s
     ((∃ p ∈ all, (pathOf s d p).health = .healthy) → d.exhausted = false → exhaustCheck s coord = s) ∧
     ((∃ p ∈ all, (pathOf s d p).health = .healthy) → d.exhausted = true →
       exhaustCheck s coord = modDest s coord fun x => { x with exhausted := false }) ∧
     ((∀ p ∈ all, (pathOf s d p).health ≠ .healthy) → d.exhausted = true → exhaustCheck s coord = probing) ∧
     ((∀ p ∈ all, (pathOf s d p).health ≠ .healthy) → d.exhausted = false →
       OnlyReports (modDest probing coord fun x => { x with exhausted := true }) (exhaustCheck s coord))) ∧
  (∀ (slot : Nat) (s : State) (c : AdminCmd),
     let e := c.entry
     let i := cmdInst c
     let tc := fld e 8 2 0
     let l := limiterOf s i tc
     (CanStart s slot 0x0601 c →
       let p := congParams e
       Completes (.congParamsSet slot) s slot e stOk rsNone
         { s with cong := p, dests := s.dests.map fun r => (r.1, { r.2 with cwnd := max p.minWndB (min p.maxWndB r.2.cwnd) }) }) ∧
     (CanStart s slot 0x0610 c →
       (∀ r, instRefusalFrozen s i = some r → Completes (.rateLimitSet slot) s slot e r.1 r.2 s) ∧
       (instRefusalFrozen s i = none → bit e 8 3 = true →
         Completes (.rateLimitSet slot) s slot (putFld (putFld e 12 31 0 l.rate) 16 12 0 l.burst) stOk rsNone s) ∧
       (instRefusalFrozen s i = none → bit e 8 3 = false → Completes (.rateLimitSet slot) s slot e stOk rsNone (paceClass
         { s with limiters := tput s.limiters (limiterKey i tc) { l with rate := fld e 12 31 0, burst := fld e 16 12 0 } } i tc)))) ∧
  (∀ (slot : Nat) (s : State) (cmd : AdminCmd), CanStart s slot 0x0611 cmd →
     let e := cmd.entry
     let c := fld e 8 2 0
     let conf : ClassConf :=
       { dscp := fld e 9 5 0, strict := bit e 10 0, pfc := bit e 10 1, weight := fld e 11 7 0, reserve := fld e 12 15 0
         xoff := fld e 14 15 0, xon := fld e 16 15 0, quanta := fld e 18 15 0 }
     let nports := (s.ports.filter fun p => p.state != .disabled).length
     let total := ((s.classes.set c conf).map (·.reserve)).sum * nports
     let u : State := { s with classes := s.classes.set c conf }
     let v := if (confOf s c).pfc && !conf.pfc then endPauses u c else u
     let t := (List.range 8).foldl (fun u n => pauseRule u n c) v
     (32768 < total → Completes (.tcConfigSet slot) s slot e stAborted 0x0A01 s) ∧
     (total ≤ 32768 → Completes (.tcConfigSet slot) s slot e stOk rsNone t ∧ t.classes = s.classes.set c conf ∧
       t.adm.cmds = s.adm.cmds ∧ t.qps = s.qps ∧ t.limiters = s.limiters ∧ t.insts = s.insts ∧ t.pool = s.pool))

/-- GATE_LIST_INSTALL, GATE_LIST_QUERY and GATE_LIST_CANCEL (R248, R250 to R252): a list becomes the port's pending list and the command answers
its cycle; a DISABLED port, device time UNSET, and an instant less than 10 us ahead are refused; a cancelled list is gone and the other
stays; a cancel without a list is refused, on any port. Lists whose instant has come have taken over before each. INSTALL and CANCEL of one
port run in order.

Where the spec is open, clauses here are the model's choice: assumptions 29 (commands that wait for one another) and 30 (the order of
refusals). -/
def Obligations.GateLists : Prop :=
  ∀ (slot : Nat) (s : State) (c : AdminCmd),
    let e := c.entry
    let n := fld e 8 2 0
    let t := gateTakeoversDue s
    (CanStart s slot 0x0612 c →
      (∀ b, earlierRuns s slot (samePort n) = true → exec (.gateListInstall slot b) s = .next (holdCmd s slot)) ∧
      (∀ b, earlierRuns s slot (samePort n) = false → (portOf s n).state = .disabled →
        Completes (.gateListInstall slot b) s slot e stAborted rsUnitOut s) ∧
      (∀ b, earlierRuns s slot (samePort n) = false → (portOf s n).state ≠ .disabled → s.time.state = .unset →
        Completes (.gateListInstall slot b) s slot e stAborted 0x0A03 s) ∧
      (earlierRuns s slot (samePort n) = false → (portOf s n).state ≠ .disabled → s.time.state ≠ .unset →
        Completes (.gateListInstall slot none) s slot e stAborted rsHostRead s) ∧
      (∀ b, earlierRuns s slot (samePort n) = false → (portOf s n).state ≠ .disabled → s.time.state ≠ .unset →
        let es := gateEntries (fld e 10 8 0) b
        let legal := ∀ x ∈ es, 8 ≤ x.1 ∧ x.1 ≤ 1000000000 ∧ x.2.2 = 0
        let l : GateList := { entries := es.map fun x => (x.1, x.2.1), takeover := fld e 16 63 0, guardNs := fld e 12 31 0 }
        (¬legal → Completes (.gateListInstall slot (some b)) s slot e stMalformed rsNone s) ∧
        (legal → fld e 16 63 0 < s.time.dev.toNat + 10000 → Completes (.gateListInstall slot (some b)) s slot e stAborted 0x0A02 s) ∧
        (legal → s.time.dev.toNat + 10000 ≤ fld e 16 63 0 →
          Completes (.gateListInstall slot (some b)) s slot (putFld e 32 63 0 ((l.entries.map (·.1)).sum)) stOk rsNone
            (modPort t n fun p => { p with pendList := some l })))) ∧
    (CanStart s slot 0x0613 c →
      ((portOf s n).state = .disabled → Completes (.gateListQuery slot) s slot e stAborted rsUnitOut s) ∧
      ((portOf s n).state ≠ .disabled → Completes (.gateListQuery slot) s slot (gateResults t (portOf t n) e) stOk rsNone t)) ∧
    (CanStart s slot 0x0614 c →
      (earlierRuns s slot (samePort n) = true → exec (.gateListCancel slot) s = .next (holdCmd s slot)) ∧
      (earlierRuns s slot (samePort n) = false → bit e 9 0 = true →
        ((portOf t n).running = none → Completes (.gateListCancel slot) s slot e stAborted 0x0A04 t) ∧
        ((portOf t n).running ≠ none → Completes (.gateListCancel slot) s slot e stOk rsNone
          (modPort t n fun q => { q with running := none, applied := false, disagree := none }))) ∧
      (earlierRuns s slot (samePort n) = false → bit e 9 0 = false →
        ((portOf t n).pendList = none → Completes (.gateListCancel slot) s slot e stAborted 0x0A04 t) ∧
        ((portOf t n).pendList ≠ none → Completes (.gateListCancel slot) s slot e stOk rsNone
          (modPort t n fun q => { q with pendList := none }))))

/-- An installed gate list takes over at its instant of device time: before it GATE_TAKEOVER changes nothing and, while gating is applied
and no takeover has come, the classes the port opens are those of the list that runs; at it the pending list is the one that governs and,
once GATE_TAKEOVER has run, the one that runs. The instant is the one GATE_LIST_INSTALL stated, and installing leaves the running list as
it is. A port without a pending list, and one that does not exist, has nothing to take over. -/
def Obligations.GateTakeover : Prop :=
  (∀ (port : Nat) (s : State) (p : Port) (l : GateList), s.ports[port]? = some p → p.pendList = some l →
    (s.time.dev.toNat < l.takeover → exec (.gateTakeover port) s = .next s) ∧
    (∀ r t, p.running = some r → gateApplied s p = true → t < l.takeover → gatesOpen s p t = r.gatesAt t) ∧
    (∀ t, s.time.trusted = true → l.takeover ≤ t → gatesOpen s p t = l.gatesAt t) ∧
    (live s = false → exec (.gateTakeover port) s = .next s) ∧
    (live s = true → l.takeover ≤ s.time.dev.toNat → ∃ u q, exec (.gateTakeover port) s = .next u ∧ u.ports[port]? = some q ∧
      q.running = some l ∧ q.pendList = none ∧ q.disagree = none ∧ (∀ t, s.time.trusted = true → gatesOpen u q t = l.gatesAt t) ∧
      ∀ n, n ≠ port → u.ports[n]? = s.ports[n]?) ∧
    (∀ slot b c, CanStart s slot 0x0612 c → fld c.entry 8 2 0 = port → p.state ≠ .disabled → earlierRuns s slot (samePort port) = false →
      s.time.dev.toNat < l.takeover → s.time.state ≠ .unset → s.time.dev.toNat + 10000 ≤ fld c.entry 16 63 0 →
      (∀ x ∈ gateEntries (fld c.entry 10 8 0) b, 8 ≤ x.1 ∧ x.1 ≤ 1000000000 ∧ x.2.2 = 0) →
      ∃ u q m, exec (.gateListInstall slot (some b)) s = .next u ∧ u.ports[port]? = some q ∧ q.pendList = some m ∧
        m.takeover = fld c.entry 16 63 0 ∧ q.running = p.running)) ∧
  (∀ (port : Nat) (s : State), (∀ p, s.ports[port]? = some p → p.pendList = none) → exec (.gateTakeover port) s = .next s)

/-- The timers of the way out (R191, R194, R213, R223, R236, R237): a train closes 20 ns after its first cell; a wheel slot that comes offers
its packet and the limiter serves the next; what a RESEND held back is offered again when its wait ends; a DOWN path probes when its hold
ends; none does anything before its time.

Loss and its repair (R220, R221, R224, R228): a repeat timer that runs out halves the window, once an SRTT, and declares its packet lost; a
packet lost is repeated with RETX and ACK_REQ, its charge gone, until MAX_REPEATS end it; a READ whose bytes stop coming sends its request
again under its own PSN, until MAX_REPEATS end it.

Where the spec is open, clauses here are the model's choice: assumptions 3 (free expiries), 89 (when a packet takes its PSN) and 90
(repeats of a READ_REQ). -/
def Obligations.SendingTimers : Prop :=
  (∀ (coord saId tc : Nat) (s : State),
     let key (x : Train) : Bool := x.coord == coord && x.saId == saId && x.tc == tc
     (∀ t, s.trains.find? key = some t →
       (serving s = true → t.opened + 20 ≤ s.now → exec (.trainCloseTimer coord saId tc) s = .next { s with
         fresh := s.fresh + 1
         trains := s.trains.filter fun x => !key x
         txq := s.txq ++ [{ id := s.fresh, coord := coord, saId := saId, tc := tc, path := none, body := .train t.cells, src := none }] }) ∧
       (serving s = false ∨ s.now < t.opened + 20 → exec (.trainCloseTimer coord saId tc) s = .next s)) ∧
     (s.trains.find? key = none → exec (.trainCloseTimer coord saId tc) s = .next s)) ∧
  (∀ (inst tc : Nat) (s : State),
     (∀ e n id, (limiterOf s inst tc).slot = some (e, n, id) →
       let due := (e + 511) / 512 * 2
       (serving s = true → due ≤ s.now → exec (.wheelSlot inst tc) s = .next (paceClass (offerPkt
         { s with limiters := tput s.limiters (limiterKey inst tc) { limiterOf s inst tc with slot := none } } n id) inst tc)) ∧
       (serving s = false ∨ s.now < due → exec (.wheelSlot inst tc) s = .next s)) ∧
     ((limiterOf s inst tc).slot = none → exec (.wheelSlot inst tc) s = .next s)) ∧
  (∀ (qpn : Nat) (s : State),
     (∀ q at_ psn, tget s.qps qpn = some q → q.resendAt = some (at_, psn) →
       (serving s = true → at_ ≤ s.now → q.state ≠ .frozen → exec (.resendWaitExpire qpn) s = .next (pace (modQp s qpn fun x =>
         { x with resendAt := none, tx := x.tx.map fun y => if y.stage == .waiting then { y with stage := .paced } else y }) qpn)) ∧
       (serving s = false ∨ s.now < at_ ∨ q.state = .frozen → exec (.resendWaitExpire qpn) s = .next s)) ∧
     ((∀ q, tget s.qps qpn = some q → q.resendAt = none) → exec (.resendWaitExpire qpn) s = .next s)) ∧
  (∀ (coord path : Nat) (s : State),
     (∀ d, tget s.dests coord = some d →
       let x := pathOf s d path
       let ended := running s = true ∧ x.health = .down ∧ x.holdEnd ≤ s.now
       (ended → exec (.pathHoldExpire coord path) s = .next (modPath s coord path fun y => { y with health := .probing, probe := none })) ∧
       (¬ended → exec (.pathHoldExpire coord path) s = .next s)) ∧
     (tget s.dests coord = none → exec (.pathHoldExpire coord path) s = .next s)) ∧
  (∀ (qpn id : Nat) (s : State),
     (∀ q t at_, tget s.qps qpn = some q → txOf s qpn id = some t → t.deadline = some at_ →
       let waits := t.stage = .wire ∨ (t.lost = true ∧ (t.stage = .paced ∨ t.stage = .offered) ∧ sendBlocked s q.remoteCoord q.saId = true)
       let due := serving s = true ∧ s.pm.state ≠ 2 ∧ q.state ≠ .frozen ∧ waits ∧ at_ ≤ s.now
       (due → exec (.retransmitTimeout qpn id) s = .next (declareLost (expiryCut s q.remoteCoord) qpn id)) ∧
       (¬due → exec (.retransmitTimeout qpn id) s = .next s)) ∧
     (∀ t, txOf s qpn id = some t → t.deadline = none → exec (.retransmitTimeout qpn id) s = .next s) ∧
     (txOf s qpn id = none → exec (.retransmitTimeout qpn id) s = .next s)) ∧
  (∀ (s : State) (coord : Nat) (d : Dest), tget s.dests coord = some d →
     let halve := match d.lastCut with | some t => decide (d.srtt ≤ s.now - t) | none => true
     tget (expiryCut s coord).dests coord =
       some (if halve then { d with cwnd := max s.cong.minWndB (d.cwnd / 2), lastCut := some s.now } else d)) ∧
  (∀ (qpn id : Nat) (s : State) (q : Qp) (t : TxPkt), tget s.qps qpn = some q → txOf s qpn id = some t → t.repeats < s.cong.maxRepeats →
     ∃ u, txOf (loseOne s qpn id) qpn id = some u ∧
       u.stage = (if t.lost then t.stage else .paced) ∧ u.charge = 0 ∧ u.lost = true ∧ u.repeats = t.repeats + 1 ∧ u.pkt.retx = true ∧
       u.pkt.ackReq = true ∧ u.pkt.psn = t.pkt.psn ∧ u.pkt.payload = t.pkt.payload ∧
       u.deadline = some (s.now + rtoNs s ((tget s.dests q.remoteCoord).getD (newDest s q.remoteCoord)) (t.repeats + 1))) ∧
  (∀ (qpn slot : Nat) (s : State),
     (∀ q w p, tget s.qps qpn = some q → (q.work.find? fun w => w.slot == slot && w.op == 3 && !w.decided) = some w → w.req = some p →
       let out := q.tx.find? fun t => t.numbered && t.pkt.psn == p.psn
       let leaves := ∃ t, out = some t ∧ t.stage ≠ .queued ∧ t.stage ≠ .wire
       let due := serving s = true ∧ qpActive q = true ∧ ¬leaves ∧ (∃ at_, w.due = some at_ ∧ at_ ≤ s.now) ∧ placedBytes w ≠ w.length
       let made := (out.map (·.repeats)).getD w.repeats
       let owner : TxOwner := match w.tpe with | some (c, sl, m) => .tpe c sl m | none => .sq slot
       (due → made < s.cong.maxRepeats → exec (.readReqTimeout qpn slot) s = .next (repeatReq s qpn q w p)) ∧
       (due → s.cong.maxRepeats ≤ made →
         exec (.readReqTimeout qpn slot) s = .next (ownerFails s qpn owner (exhaustedStatus s q owner w.failMark) 0)) ∧
       (¬due → exec (.readReqTimeout qpn slot) s = .next s)) ∧
     (tget s.qps qpn = none → exec (.readReqTimeout qpn slot) s = .next s)) ∧
  (∀ (qpn : Nat) (s : State) (q : Qp) (w : SqWork) (p : Pkt),
     let d := (tget s.dests q.remoteCoord).getD (newDest s q.remoteCoord)
     let again (t : TxPkt) : TxPkt :=
       { t with repeats := t.repeats + 1, lost := true, stage := .paced, pkt := { t.pkt with retx := true, ackReq := true }, again := false
                deadline := some (s.now + rtoNs s d (t.repeats + 1)) }
     let u := modQp s qpn fun x => { x with work := x.work.map fun y => if y.slot = w.slot then { y with due := none } else y }
     (∀ t, q.tx.find? (fun t => t.numbered && t.pkt.psn == p.psn) = some t → repeatReq s qpn q w p =
       pace (modTx (clearProbe q.remoteCoord u t) qpn t.id fun x => { again x with probe := false }) qpn) ∧
     (q.tx.find? (fun t => t.numbered && t.pkt.psn == p.psn) = none → repeatReq s qpn q w p = pace (requestAgain u qpn w p again) qpn)) ∧
  (∀ (qpn : Nat) (s : State) (q : Qp) (w : SqWork) (p : Pkt) (f : TxPkt → TxPkt), tget s.qps qpn = some q →
     (∀ t, (f t).pkt.psn = t.pkt.psn) →
     ∃ x t, tget (requestAgain s qpn w p f).qps qpn = some x ∧ t ∈ x.tx ∧ t.pkt.psn = p.psn ∧ ∀ y ∈ q.tx, y ∈ x.tx)

/-- The slot of a paced packet (R236, R238): with T = 256,000,000,000 / PKT_RATE and times in 1/256 ns, it is eligible at the later of now and
TAT less (BURST - 1) T, and TAT becomes the later of TAT and that instant, plus T. The queue pairs of a limiter take turns. PKT_RATE 0 paces
nothing.

Sending (R219, R233, R234, R351, R357): a datagram that is not there, or for which the engines do not work, is not sent; one whose association
is gone, and one that has no packet left, is dropped; an association that is exhausted, a window that admits none of its packets and a
destination without a path that takes it keep it waiting; else it is sealed under the next SEAL_SEQ and goes to its class queue, its packets
numbered and charged.

Frames (R235, R242, R249): a port that is busy or not UP starts no frame; MAC control and other frames of the port go first; a strict class
goes before the others, the highest first; a frame that starts keeps its port busy for its bytes and the 20 of preamble and gap, and starts
the timers of its packets.

Where the spec is open, clauses here are the model's choice: assumptions 48 (deficit round robin), 89 (when a packet takes its PSN) and 115
(what the Owl counts). -/
def Obligations.Transmission : Prop :=
  (∀ (s : State) (inst tc n id : Nat) (fuel : Nat) (t : TxPkt) (rest : List Nat),
     let l := limiterOf s inst tc
     let put (u : State) (x : Limiter) : State := { u with limiters := tput u.limiters (limiterKey inst tc) x }
     l.slot = none → pacedQps s inst tc l.robin = n :: rest → (tget s.qps n).bind pacedOf = some t → t.id = id →
     (0 < l.rate →
       let period := 256000000000 / l.rate
       let e := max (256 * s.now) (l.tat - (l.burst - 1) * period)
       serveLimiter (fuel + 1) s inst tc = put s { l with tat := max l.tat e + period, slot := some (e, n, id), robin := n }) ∧
     (l.rate = 0 → serveLimiter (fuel + 1) s inst tc = serveLimiter fuel (put (offerPkt s n id) { l with robin := n }) inst tc)) ∧
  (∀ (id bad : Nat) (s : State),
     (s.txq.find? (fun d => d.id == id) = none ∨ serving s = false ∨ s.pm.state = 2 → exec (.datagramSend id bad) s = .next s) ∧
     (∀ d, s.txq.find? (fun d => d.id == id) = some d → serving s = true → s.pm.state ≠ 2 →
       let dropped : State := { s with txq := s.txq.filter fun x => !(x.id == id) }
       (saOf s d.saId = none → exec (.datagramSend id bad) s = .next dropped) ∧
       (∀ qpn dst b, saOf s d.saId ≠ none → d.body = .control qpn dst b →
         exec (.datagramSend id bad) s = .next (sendCtl s d qpn dst b bad)) ∧
       (saOf s d.saId ≠ none → (∀ qpn dst b, d.body ≠ .control qpn dst b) →
         (dgramPkts s d.body = [] → exec (.datagramSend id bad) s = .next dropped) ∧
         (dgramPkts s d.body ≠ [] → exec (.datagramSend id bad) s = .next (sendData s d bad))))) ∧
  (∀ (s v : State) (d : TxDgram) (a : Sa) (de : Dest) (n id bad : Nat), d.body = .kite n id → dgramPkts s d.body ≠ [] →
     ensureDest s d.coord = some v → saOf s d.saId = some a → tget (exhaustCheck v d.coord).dests d.coord = some de →
     let u := exhaustCheck v d.coord
     let ok := sendable u de (dgramPkts s d.body) 0 [] []
     let used := ((ok.filter (·.2.lost)).map fun c => c.2.used).flatten
     let len := 64 + (ok.map fun c => c.2.pkt.payload.length).sum
     (ok = [] ∨ sealSpent a = true ∨ choosePath u d.coord d.tc len used = none → sendData s d bad = u) ∧
     (∀ p bs x, ok ≠ [] → sealSpent a = false → choosePath u d.coord d.tc len used = some (p, false) →
       sealUnder u d.saId a 2 0 (partsOf (ok.map fun c => c.2.pkt)) bad = (x, .ok bs) →
       sendData s d bad = keepRest (queueFrame (modDest (ok.foldl (noteSent d.coord p x.fresh false) { x with fresh := x.fresh + 1 }) d.coord
         fun y => { y with rot := p }) (d.src.getD (ownCoord s)) d.coord d.tc p true bs (ok.map fun c => (c.1, c.2.id))) d
         (ok.map fun c => c.2.id))) ∧
  (∀ (s v : State) (d : TxDgram) (a : Sa) (qpn dst bad : Nat) (b : CtlBody), ensureDest s d.coord = some v → saOf s d.saId = some a →
     let u := exhaustCheck v d.coord
     let bytes := ctlBytes dst (stampCtl s b)
     (sealSpent a = true ∨ chooseCtlPath u d.coord d.tc (32 + bytes.length) d.path = none → sendCtl s d qpn dst b bad = u) ∧
     (∀ p bs x, sealSpent a = false → chooseCtlPath u d.coord d.tc (32 + bytes.length) d.path = some p → d.path = some p →
       sealUnder { u with txq := u.txq.filter fun y => !(y.id == d.id) } d.saId a 3 0 [(bytes, [])] bad = (x, .ok bs) →
       sendCtl s d qpn dst b bad = queueFrame (modDest x d.coord fun y => { y with lastSent := s.now }) (d.src.getD (ownCoord s))
         d.coord d.tc p false bs [])) ∧
  (∀ (s : State) (saId kind cells : Nat) (a : Sa) (parts : Parts), saOf s saId = some a →
     let r := sealUnder s saId a kind cells parts 0
     r.2 = .ok (sealDatagram (slotKey s a.txSlot) (envelope kind cells (spiOf a.peer a.txPhase) a.sealSeq) parts) ∧
     ∃ b, saOf r.1 saId = some b ∧ b.sealSeq = a.sealSeq + 1 ∧ b.txSlot = a.txSlot ∧ b.txPhase = a.txPhase ∧
       (a.sealSeq + 1 = a.limit → b.exhausted = true)) ∧
  (∀ (port : Nat) (s : State),
     let busy (u : State) (f : Bytes) : State := modPort u port fun q => { q with busyTill := s.now + wireNs s port (wireLen f + 20) }
     let may := serving s = true ∧ (portOf s port).state = .up ∧ (portOf s port).busyTill ≤ s.now
     (¬may → exec (.frameTransmitStart port) s = .next s) ∧
     (∀ f rest, may → (portOf s port).ctl = f :: rest →
       exec (.frameTransmitStart port) s = .next (emit (sentFrame (busy (modPort s port fun q => { q with ctl := rest }) f) (wireLen f) 1)
         (.frame port f))) ∧
     (may → (portOf s port).ctl = [] → s.pm.state = 2 ∨ arbitrate s port = none → exec (.frameTransmitStart port) s = .next s) ∧
     (∀ c t f rest, may → (portOf s port).ctl = [] → s.pm.state ≠ 2 → arbitrate s port = some (c, t) → (classOf t port c).queue = f :: rest →
       exec (.frameTransmitStart port) s = .next (f.pkts.foldl startTimer (emit (sentFrame
         (busy (count (modClass t port c fun k => { k with queue := rest }) 1 port 1 1) f.bytes) (wireLen f.bytes) (max 1 f.pkts.length))
         (.frame port f.bytes)))) ∧
     (∀ c u, arbitrate s port = some (c, u) → (classReady s port c).isSome = true ∧
       ∀ d, c < d → d < 8 → (confOf s d).strict = true → (confOf s c).strict = true → classReady s port d = none)) ∧
  (∀ (s : State) (qpn id : Nat) (q : Qp) (t : TxPkt), tget s.qps qpn = some q → txOf s qpn id = some t → t.stage = .queued ∨ t.stage = .wire →
     let d := (tget s.dests q.remoteCoord).getD (newDest s q.remoteCoord)
     let wait := if t.held then s.cong.rtoMaxUs * 1000 else rtoNs s d t.repeats
     txOf (startTimer s (qpn, id)) qpn id = some { t with stage := .wire, sentAt := s.now, deadline := some (s.now + wait) })

/-! ### Rings -/

/-- A doorbell rung by the instance that owns the ring (R130, R132, Table 6-5): a DISABLED ring ignores it, a RECALLING one remembers it, and an
ENABLED one reads the slot at HEAD, where no read is outstanding and the prefetch cache has room; one rung while a read is outstanding is
remembered. Any other doorbell is ignored.

Slot reads as they complete (R132, R143, R147): a slot the XV4800 owns is taken and HEAD advances; one software owns ends the run of reads,
unless a doorbell came meanwhile; a failed read leaves a malformed entry in its slot; a read that a freeze overtook is not taken; a
Recall's read hands its entry back and goes on, or ends the Recall; without an outstanding read nothing happens.

Where the spec is open, clauses here are the model's choice: assumptions 6 (an entry whose read failed), 35 (failed slot reads), 36
(slot reads that a freeze overtakes), 79 (doorbells) and 115 (what the Owl counts). -/
def Obligations.Rings : Prop :=
  (∀ (k : RingKind) (id inst : Nat) (s : State),
     let bell : Instr := match k with
       | .sq => .sqDoorbell inst id
       | .rq => .rqDoorbell inst id
       | .tpe => .tpeDoorbell inst id
       | .lookaside => .lookasideDoorbell inst
     (∀ r, live s = true → pageOpen s inst = true → getRing s k id = some r → ringInst s k id = inst →
       exec bell s = .next (ringDoorbell (heardBell s) k id)) ∧
     (k ≠ .lookaside → live s = false ∨ pageOpen s inst = false ∨ getRing s k id = none ∨ ringInst s k id ≠ inst →
       exec bell s = .next (heardBell s))) ∧
  (∀ (k : RingKind) (id : Nat) (s : State) (r : Ring), getRing s k id = some r →
     let inst := ringInst s k id
     let free := serving s = true ∧ s.pm.state ≠ 2 ∧ (cached r).length < 16 ∧ r.taken.length < 2 ^ r.log2 ∧
       r.taken.any (fun t => t.slot == r.head) = false ∧ instFrozen s inst = false ∧ locUp s r.loc = true
     (r.state = .disabled → ringDoorbell s k id = s) ∧
     (r.state = .recalling → ringDoorbell s k id = setRing s k id { r with doorbell := true }) ∧
     (r.state = .enabled → r.reading ≠ none → ringDoorbell s k id = setRing s k id { r with run := true, doorbell := true }) ∧
     (r.state = .enabled → r.reading = none → free → ringDoorbell s k id =
       emit (setRing s k id { r with run := true, doorbell := false, reading := some r.head })
         (.slotRead (locTarget s inst r.loc) (r.base.toNat + 64 * r.head))) ∧
     (r.state = .enabled → r.reading = none → ¬free → ringDoorbell s k id = setRing s k id { r with run := true, doorbell := false })) ∧
  (∀ (k : RingKind) (id : Nat) (x : SlotRead) (intact : Bool) (s : State),
     (getRing s k id = none → exec (.ringSlotRead k id x intact) s = .next s) ∧
     (∀ r, getRing s k id = some r → r.reading = none ∨ live s = false ∨ locUp s r.loc = false →
       exec (.ringSlotRead k id x intact) s = .next s) ∧
     (∀ r h, getRing s k id = some r → r.reading = some h → live s = true → locUp s r.loc = true →
       let v : Ring := if intact then r else { r with strike := true }
       let u := setRing (heardAt s r.loc) k id v
       let frozen := instFrozen s (ringInst s k id)
       (frozen = true → exec (.ringSlotRead k id x intact) s = .next (setRing u k id { v with reading := none })) ∧
       (∀ i n, frozen = false → r.recallAt = some (i, n) → r.state = .recalling →
         exec (.ringSlotRead k id x intact) s = .next (tpeSettle (recallRead u k id v h i n x))) ∧
       (frozen = false → r.recallAt = none → r.state = .enabled →
         exec (.ringSlotRead k id x intact) s = .next (tpeSettle (headRead u k id v h x))) ∧
       (frozen = false → ¬(r.recallAt ≠ none ∧ r.state = .recalling) → ¬(r.recallAt = none ∧ r.state = .enabled) →
         exec (.ringSlotRead k id x intact) s = .next u))) ∧
  (∀ (k : RingKind) (id h i n : Nat) (s : State) (r : Ring) (e : Entry),
     let took : Taken := { slot := h, entry := e, started := false, outcome := none, gate := [] }
     let first := (pageOf s (ringInst s k id)).firstRecalled.toNat
     let read := setRing s k id { r with reading := none, run := r.run && bit e 63 7 }
     (bit e 63 7 = true → headRead s k id r h (.data e) = fetchRing (setRing s k id { r with
       reading := none, doorbell := false, taken := r.taken ++ [took], head := (h + 1) % 2 ^ r.log2 }) k id) ∧
     (bit e 63 7 = false → headRead s k id r h (.data e) =
       fetchRing (setRing s k id { r with reading := none, doorbell := false, run := r.doorbell }) k id) ∧
     headRead s k id r h .failed = slotFailed s k id h { r with head := (h + 1) % 2 ^ r.log2 } ∧
     slotFailed s k id h r = failSlot (setRing { s with fresh := s.fresh + 1 } k id { r with
       taken := r.taken ++ [{ slot := h, entry := Config.lostEntry s.fresh, started := false, outcome := none, gate := [] }]
       reading := none }) k id h ∧
     (h ≠ i → recallRead s k id r h i n (.data e) = settleRing (recallGo read k id) k id) ∧
     (bit e 63 7 = true → recallRead s k id r h h n (.data e) =
       settleRing (recallLoop (2 ^ r.log2 + 1) (recallOne read k id took) k id first ((h + 1) % 2 ^ r.log2) (n + 1)) k id) ∧
     (bit e 63 7 = false → recallRead s k id r h h n (.data e) = settleRing (recallEnd read k id first n) k id))

/-- SQ_ENTRY_START (R142, R166 to R168, R173, R174): entries start in ring order, where the queue pair is READY, its limits and its instance let
them; a malformed entry ends MALFORMED; a LENGTH beyond the limit ends LENGTH_LIMIT; a NOP, and a WRITE or READ of no bytes, is complete as
it starts; any other legal entry starts its work: a READ asks for its responses, a WRITE reads its source and cuts its packets.

Where the spec is open, clauses here are the model's choice: assumptions 38 (when a queue pair enters ERROR), 39 (malformed tenant
entries) and 107 (errors that a command's accesses meet). -/
def Obligations.SqEntryStart : Prop :=
  (∀ (qpn : Nat) (m : Meets) (s : State),
    (tget s.qps qpn = none → exec (.sqEntryStart qpn m) s = .next s) ∧
    (∀ q, tget s.qps qpn = some q → nextStart q.sq = none → exec (.sqEntryStart qpn m) s = .next s) ∧
    (∀ q t, tget s.qps qpn = some q → nextStart q.sq = some t →
      (sqMayStart s q t = false → exec (.sqEntryStart qpn m) s = .next s) ∧
      (sqMayStart s q t = true → sendLegal t.entry = false →
        exec (.sqEntryStart qpn m) s = .next (endEntry s .sq qpn t.slot stMalformed 0 0)) ∧
      (sqMayStart s q t = true → sendLegal t.entry = true → overLength t.entry = true →
        exec (.sqEntryStart qpn m) s = .next (fetchRing (endEntry s .sq qpn t.slot stLengthLimit 0 0) .sq qpn)) ∧
      (sqMayStart s q t = true → sendLegal t.entry = true → overLength t.entry = false →
        exec (.sqEntryStart qpn m) s = .next (fetchRing (underMeets m s fun u => startEntry u qpn q t) .sq qpn)))) ∧
  (∀ (qpn : Nat) (u : State) (q : Qp) (t : Taken),
    let op := fld t.entry 0 7 0
    let len := fld t.entry 4 31 0
    let v := markStarted u .sq qpn t.slot
    let w := workOf t.slot t.entry
    (op = 4 ∨ (len = 0 ∧ op ≠ 2) → startEntry u qpn q t = endEntry v .sq qpn t.slot stOk 0 0) ∧
    (op = 3 → len ≠ 0 → startEntry u qpn q t = askReads 128 (addWork v qpn q { w with cut := true }) qpn) ∧
    (op = 2 → len = 0 → startEntry u qpn q t = cutEntry (addWork v qpn q w) qpn w []) ∧
    (op = 1 ∨ op = 2 → len ≠ 0 →
      let a := beginAccess (addWork v qpn q w) q.inst (.sqRead qpn t.slot) .localRead (fld t.entry 8 56 0) len
      startEntry u qpn q t = sqSource a.1 qpn t.slot a.2)) ∧
  (∀ (qpn slot : Nat) (s : State),
    sqSource s qpn slot .permission = endEntry s .sq qpn slot stTransFault 1 0 ∧
    sqSource s qpn slot .notMapped = endEntry s .sq qpn slot stTransFault 2 0 ∧
    sqSource s qpn slot .timeout = endEntry s .sq qpn slot stPageTimeout 1 0 ∧ sqSource s qpn slot .waits = s) ∧
  (∀ (q : Qp) (w : SqWork) (data : Bytes), w.op = 2 →
    ∃ ps p, cutWrite q w data = ps ++ [p] ∧ p.op = 2 ∧ p.last = true ∧ p.payload = notifyPayload w.notify w.length ∧
      (∀ x ∈ ps, x.op = 1 ∧ x.last = false) ∧ (ps.map (·.payload)).flatten = data)

/-- Hand-back (R134 to R136, R144, R359): the entry's STATUS (after SUB, on a lookaside queue) is written before the byte that gives up
ownership, and the entry leaves the ring; an SQ or list entry that asks for a report or did not end OK is reported in the ring's CQ, as every
RQ entry is; a lookaside entry that asks for it raises the instance's signal. A hand-back that cannot be written leaves the report to stand
for it, and the ring's memory is no longer written.

Where the spec is open, clauses here are the model's choice: assumption 77 (outcomes before hand-back). -/
def Obligations.HandBack : Prop :=
  (∀ (s : State) (k : RingKind) (n : Nat) (r : Ring) (t : Taken) (o : Outcome), getRing s k n = some r → r.memDead = false →
    locMuted s (ringInst s k n) r.loc = false →
    let inst := ringInst s k n
    let a := r.base.toNat + 64 * t.slot
    let dst := locTarget s inst r.loc
    let left := if k = .sq then endWork s n t.slot else s
    let v := setRing left k n { r with taken := r.taken.filter fun x => !(x.slot == t.slot) }
    let w := if k = .lookaside then emit v (.memWrite dst (a + 56) (leBytes 2 o.sub)) else v
    let u := emit (emit w (.memWrite dst (a + 62) [o.status])) (.memWrite dst (a + 63) [0])
    (r.strike = false → k ≠ .lookaside → wantsReport k t o = false → handBack s k n t o = u) ∧
    (r.strike = false → k ≠ .lookaside → wantsReport k t o = true → handBack s k n t o = queueReport u r.cqn (mkReport k n t o)) ∧
    (r.strike = false → k = .lookaside → bit t.entry 60 0 = false → handBack s k n t o = u) ∧
    (r.strike = false → k = .lookaside → bit t.entry 60 0 = true → handBack s k n t o = raiseSignal u inst) ∧
    (∀ c, r.strike = true → k ≠ .lookaside → tget s.cqs r.cqn = some c → c.error = false → handBack s k n t o =
      queueReport (setRing left k n { r with
        taken := r.taken.filter fun x => !(x.slot == t.slot), memDead := true, strike := false, deadBy := some (t.slot, o.status) })
        r.cqn (mkReport k n t o))) ∧
  (∀ (t : Taken) (o : Outcome), wantsReport .rq t o = true ∧ wantsReport .lookaside t o = false ∧
    (wantsReport .sq t o = true ↔ o.status ≠ stOk ∨ bit t.entry 60 0 = true) ∧
    (wantsReport .tpe t o = true ↔ o.status ≠ stOk ∨ bit t.entry 60 0 = true))

/-- A write of CQ_RETURN makes COUNT more entries returned, the oldest reports no longer waiting to be read; a COUNT that would make more
returned than the CQ holds is ignored. Nothing else changes but the Owl's count of what it has received. -/
def Obligations.CqReturn : Prop :=
  ∀ (n k : Nat) (s : State) (c : Cq), tget s.cqs n = some c → live s = true → pageOpen s c.inst = true →
    (c.free + k ≤ 2 ^ c.log2 → ∃ tr, exec (.cqReturn c.inst n k) s =
      .next { s with traffic := tr, cqs := tmod s.cqs n fun x => { x with free := x.free + k, pending := x.pending.drop k } }) ∧
    (2 ^ c.log2 < c.free + k → ∃ tr, exec (.cqReturn c.inst n k) s = .next { s with traffic := tr })

/-- The completion queue's own commands (R137, R149 to R155): no instance but the CQ's own returns its entries or arms it; arming fires at once
where the condition already holds; MOD_TIME ends the wait of the oldest pending report; the message of a CQ in an aperture follows a
flushing read; a report that has waited 1 ms sets CQ_STALL, once an episode; a held report is written into the next returned entry, OWN last,
and one that cannot be written puts the CQ into error. An interrupt sets its vector's bit.

Where the spec is open, clauses here are the model's choice: assumptions 98 (completion queues of a frozen instance), 108 (reports that
wait for a link) and 115 (what the Owl counts). -/
def Obligations.CompletionQueues : Prop :=
  (∀ (inst n k : Nat) (s : State), (live s = false ∨ ∀ c, tget s.cqs n = some c → c.inst ≠ inst ∨ pageOpen s inst = false) →
    exec (.cqReturn inst n k) s = .next (heardBell s) ∧ exec (.cqArm inst n) s = .next (heardBell s)) ∧
  (∀ (n : Nat) (s : State) (c : Cq), tget s.cqs n = some c →
    let aged := c.modTime ≠ 0 ∧ ∃ t rest, c.pending = t :: rest ∧ t + 1000 * c.modTime ≤ s.now
    let fires := c.armed = true ∧ c.intEn = true ∧ (c.modCount ≤ c.pending.length ∨ aged)
    (live s = true → pageOpen s c.inst = true →
      exec (.cqArm c.inst n) s = .next (cqInterrupt (modCq (heardBell s) n fun x => { x with armed := true }) n)) ∧
    (running s = true → exec (.cqModTimer n) s = .next (cqInterrupt s n)) ∧
    (¬fires → cqInterrupt s n = s) ∧
    (fires → c.loc = 0 → cqInterrupt s n = raiseVector (modCq s n fun x => { x with armed := false }) c.inst c.vector) ∧
    (fires → c.loc ≠ 0 → cqInterrupt s n = (issueFlush (modCq s n fun x => { x with armed := false }) c.loc c.inst (.cq n)).2) ∧
    (∀ r t rest, c.held = (r, t) :: rest →
      let late := running s = true ∧ c.stall = false ∧ t + 1000000 ≤ s.now
      let u := modPage (modCq s n fun x => { x with stall := true }) c.inst fun p =>
        if p.stallValid then p else { p with stallValid := true, stallCqn := BitVec.ofNat 18 n }
      (late → c.intEn = false → exec (.cqStallTimer n) s = .next u) ∧
      (late → c.intEn = true → exec (.cqStallTimer n) s = .next (raiseVector u c.inst c.vector)) ∧
      (¬late → exec (.cqStallTimer n) s = .next s) ∧
      (live s = true → cqOpen s c = false → exec (.cqReportRelease n true) s = .next s) ∧
      (live s = true → cqOpen s c = true → exec (.cqReportRelease n true) s =
        .next (writeReport (modCq s n fun x => { x with held := rest, stall := x.stall && !rest.isEmpty }) n r)) ∧
      (live s = true → exec (.cqReportRelease n false) s = .next (releaseReport (modCq s n fun x => { x with strike := true }) n))) ∧
    (c.held = [] → exec (.cqStallTimer n) s = .next s ∧ exec (.cqReportRelease n true) s = .next s) ∧
    (∀ r, c.strike = false → writeReport s n r =
      let v := if locMuted s c.inst c.loc then s
        else writeOwned s (locTarget s c.inst c.loc) (c.base.toNat + 32 * c.next) (entryBytes (reportEntry r s.epoch))
      cqInterrupt (modCq v n fun x =>
        { x with next := (x.next + 1) % 2 ^ x.log2, free := x.free - 1, pending := x.pending ++ [s.now] }) n) ∧
    (∀ r, c.strike = true → writeReport s n r = cqFail (modCq s n fun x => { x with strike := false }) n) ∧
    (c.error = false → ∃ d, tget (cqFail s n).cqs n = some d ∧ d.error = true ∧ d.held = [] ∧ d.stall = false) ∧
    (∀ r, c.error = true → queueReport s n r = s) ∧
    (∀ r, c.error = false → c.held = [] → cqOpen s c = true → queueReport s n r = writeReport s n r) ∧
    (∀ r, c.error = false → c.held ≠ [] ∨ cqOpen s c = false →
      queueReport s n r = modCq s n fun x => { x with held := x.held ++ [(r, s.now)] })) ∧
  (∀ (n : Nat) (s : State),
    (running s = false → exec (.cqModTimer n) s = .next s) ∧
    (tget s.cqs n = none → exec (.cqModTimer n) s = .next s ∧ exec (.cqStallTimer n) s = .next s) ∧
    (live s = false → ∀ ok, exec (.cqReportRelease n ok) s = .next s)) ∧
  (∀ (inst v : Nat) (s : State), v < 64 → (pageOf (raiseVector s inst v) inst).vecPending.getLsbD v = true)

/-- RECALL_FIRST (R138 to R141, R147): a second Recall while one runs sets COLLISION; a ring that is not ENABLED refuses it with a count of 0;
on an ENABLED ring BUSY is set, the ring is RECALLING, and entries are recalled from the first slot from FIRST on that has not started:
cached ones at once, each handed back RECALLED, then slots read one by one; a started entry, a slot software owns and a whole ring end it,
with HEAD at the first slot recalled. In a FROZEN instance it begins at the thaw. A closed page, and a ring the instance does not own,
ignore it.

Where the spec is open, clauses here are the model's choice: assumptions 37 (a recall that cannot hand back), 108 (recalls of a frozen
instance, and entries before FIRST) and 115 (what the Owl counts). -/
def Obligations.RecallFirst : Prop :=
  (∀ (inst first : Nat) (s : State),
    (live s = false → exec (.recallFirst inst first) s = .next (heardBell s)) ∧
    (live s = true → recallTarget s inst = none → exec (.recallFirst inst first) s = .next (recallFirst (heardBell s) inst first)) ∧
    (∀ k id, live s = true → recallTarget s inst = some (k, id) →
      exec (.recallFirst inst first) s = .next (tpeSettle (settleRing (recallFirst (heardBell s) inst first) k id)))) ∧
  (∀ (inst first : Nat) (s : State),
    (pageOpen s inst = false → recallFirst s inst first = s) ∧
    (pageOpen s inst = true → (pageOf s inst).busy = true →
      recallFirst s inst first = modPage s inst fun p => { p with collided := true }) ∧
    (pageOpen s inst = true → (pageOf s inst).busy = false → recallTarget s inst = none → recallFirst s inst first = s) ∧
    (∀ k id r, pageOpen s inst = true → (pageOf s inst).busy = false → recallTarget s inst = some (k, id) → getRing s k id = some r →
      (r.state ≠ .enabled → recallFirst s inst first = modPage s inst fun p => { p with refused := true, recallCount := 0 }) ∧
      (r.state = .enabled → instFrozen s inst = true →
        recallFirst s inst first = modPage s inst fun p => { p with refused := false, busy := true, waits := some first }) ∧
      (r.state = .enabled → instFrozen s inst = false →
        let i := skipStarted (2 ^ r.log2) r (first % 2 ^ r.log2)
        let u := modPage s inst fun p => { p with refused := false, busy := true, waits := none, firstRecalled := BitVec.ofNat 16 i }
        recallFirst s inst first = recallLoop (2 ^ r.log2 + 1) (setRing u k id { r with state := .recalling }) k id i i 0))) ∧
  (∀ (fuel : Nat) (s : State) (k : RingKind) (id first i n : Nat) (r : Ring), getRing s k id = some r → r.memDead = false →
    let rest := setRing s k id { r with recallAt := some (i, n) }
    (2 ^ r.log2 ≤ n → recallLoop (fuel + 1) s k id first i n = recallEnd s k id first n) ∧
    (∀ t, n < 2 ^ r.log2 → r.taken.find? (fun t => t.slot == i) = some t →
      (t.started = true ∨ t.outcome ≠ none → recallLoop (fuel + 1) s k id first i n = recallEnd s k id first n) ∧
      (t.started = false → t.outcome = none → locUp s r.loc = true → recallLoop (fuel + 1) s k id first i n =
        recallLoop fuel (handBack s k id t { status := stRecalled, sub := 0, bytes := 0, notify := 0 }) k id first
          ((i + 1) % 2 ^ r.log2) (n + 1)) ∧
      (t.started = false → t.outcome = none → locUp s r.loc = false → recallLoop (fuel + 1) s k id first i n = rest)) ∧
    (n < 2 ^ r.log2 → r.taken.find? (fun t => t.slot == i) = none →
      (r.reading ≠ none ∨ locUp s r.loc = false → recallLoop (fuel + 1) s k id first i n = rest) ∧
      (r.reading = none → locUp s r.loc = true → recallLoop (fuel + 1) s k id first i n =
        emit (setRing s k id { r with recallAt := some (i, n), reading := some i })
          (.slotRead (locTarget s (ringInst s k id) r.loc) (r.base.toNat + 64 * i))))) ∧
  (∀ (s : State) (k : RingKind) (id first n : Nat) (r : Ring), getRing s k id = some r →
    recallEnd s k id first n = fetchRing (modPage (setRing s k id { r with
      state := .enabled, recallAt := none, doorbell := false, run := r.run || r.doorbell, head := if n = 0 then r.head else first })
      (ringInst s k id) fun p => { p with busy := false, recallCount := BitVec.ofNat 17 n }) k id)

/-- Data and flushing reads (R67, R273, R275, R459, R460): the completion of a data read gives its owner the bytes, pool bytes gathered with them,
and the drains that wait for it go on; a flushing read that completes releases what it was issued for. One that times out ends a drain's
wait and is issued again for anything else. While the link of the A port that serves it is down, a data read neither ends nor fails: its
access translates again and is made anew; and no flushing read completes. A read that is not outstanding releases only a drain's wait.

A drain that waits for nothing any more ends: its command completes with what it removed, an ATS Invalidate Request is answered.

Where the spec is open, clauses here are the model's choice: assumptions 76 (FLUSH_READ_COMPLETE that timed out), 107 (errors that a
command's accesses meet) and 115 (what the Owl counts). -/
def Obligations.ReadsComplete : Prop :=
  (∀ (s : State) (id : Nat) (b : Option Bytes) (m : Meets),
    (live s = false → exec (.dataReadComplete id b m) s = .next s) ∧
    (live s = true → s.reads.find? (fun r => r.id == id) = none → exec (.dataReadComplete id b m) s = .next (waitEnded s id)) ∧
    (∀ r, live s = true → s.reads.find? (fun r => r.id == id) = some r →
      let down := ∃ p ∈ r.pieces, p.port ≠ 0 ∧ p.port ≠ 5 ∧ aLinkUp s (p.port - 1) = false
      let v := if r.pieces.any fun p => p.port == 0 then heardTlp s else s
      (down → b ≠ none → exec (.dataReadComplete id b m) s = .next s) ∧
      (down → b = none → exec (.dataReadComplete id b m) s = .next (waitEnded (readAgain s r) id)) ∧
      (¬down → exec (.dataReadComplete id b m) s = .next (underMeets m { v with reads := s.reads.filter fun x => !(x.id == id) }
        fun t => tpeSettle (waitEnded (handData t r (b.bind (gather t r.inst r.pieces))) id))))) ∧
  (∀ (s : State) (id : Nat) (late : Bool),
    (live s = false → exec (.flushReadComplete id late) s = .next s) ∧
    (live s = true → s.flushes.find? (fun f => f.id == id) = none → exec (.flushReadComplete id late) s = .next (waitEnded s id)) ∧
    (∀ f, live s = true → s.flushes.find? (fun f => f.id == id) = some f →
      let down := f.port ≠ 0 ∧ aLinkUp s (f.port - 1) = false
      let gone : State := { heardAt s f.port with flushes := s.flushes.filter fun x => !(x.id == id) }
      (late = false → ¬down → exec (.flushReadComplete id late) s = .next (tpeSettle (waitEnded (flushEnded gone f) id))) ∧
      (late = false → down → exec (.flushReadComplete id late) s = .next s) ∧
      (late = true → drainsOnly f = true → exec (.flushReadComplete id late) s = .next (tpeSettle (waitEnded (flushEnded gone f) id))) ∧
      (late = true → drainsOnly f = false → ¬down →
        exec (.flushReadComplete id late) s = .next (tpeSettle (waitEnded (emit s (.flushRead f.port id)) id))) ∧
      (late = true → drainsOnly f = false → down → exec (.flushReadComplete id late) s = .next (tpeSettle (waitEnded s id))))) ∧
  (∀ (s : State) (f : Flush),
    (∀ k id slot r, f.why = .handBack k id slot → getRing s k id = some r →
      let u := setRing s k id { r with
        taken := r.taken.map fun t => if t.slot = slot then { t with gate := t.gate.filter fun x => !(x == f.id) } else t }
      flushEnded s f = fetchRing (settleRing u k id) k id) ∧
    (∀ qpn, f.why = .ack qpn → flushEnded s f = ackFlushed s qpn f.id) ∧
    (∀ n c, f.why = .cq n → tget s.cqs n = some c → flushEnded s f = raiseVector s c.inst c.vector) ∧
    (∀ ctx slot, f.why = .tpe ctx slot →
      flushEnded s f = modRun s ctx slot fun r => { r with flushes := r.flushes.filter fun x => !(x == f.id) }) ∧
    (∀ i r, f.why = .lookaside i → laRunOf s i = some r →
      let u := modLa s i fun r => { r with flushes := r.flushes.filter fun x => !(x == f.id) }
      let done := r.made = true ∧ r.outs = [] ∧ ∀ x ∈ r.flushes, x = f.id
      (done → flushEnded s f = laEnd u i r.status 0) ∧ (¬done → flushEnded s f = u)) ∧
    (f.why = .invalidate ∨ (∃ i, f.why = .drain i) → flushEnded s f = s)) ∧
  (∀ (s : State) (id : Nat) (d : Drain), s.drains = [d] → (∀ r ∈ s.insts, id ∉ r.2.drains) →
    let e : Drain := { d with reads := d.reads.filter fun x => !(x == id), flushes := d.flushes.filter fun x => !(x == id) }
    let ended := e.reads = [] ∧ e.flushes = [] ∧ (d.slot = none ∨ s.ctlReset = false)
    (∀ slot, ended → d.slot = some slot →
      waitEnded s id = completeWith { s with drains := [] } slot (drainResult d.removed)) ∧
    (ended → d.slot = none → waitEnded s id = emit { s with drains := [] } (.atsInvalidated d.tag)) ∧
    (¬ended → waitEnded s id = { s with drains := [e] }))

/-! ### The way in -/

/-- The receive checks (R203, R350 to R354, R368, Table 8-17). A frame of a port that is UP is counted at its port once its outer headers pass;
one that fails a check is counted under that check and dropped. A datagram whose association a forwarding record names is relayed where its
class has room (R406). One with no association, in a phase without a key or with a bad tag is counted and dropped, as is one whose two
openings disagree; a SEAL_SEQ seen before, or 65,536 below the highest, is a replay; an authentic body with an illegal field is counted.
Any other joins the transport's queue where its class has room (R245, R246) and is counted as opened; a handshake that arrives in a control
reset is lost (R435). The SEAL_SEQ of an authentic datagram is recorded, and the first of the next phase switches the receive phase.

A frame of a port that is not UP, a frame without the rails, a MAC control frame and a frame of another protocol change nothing here.

Where the spec is open, clauses here are the model's choice: assumptions 44 (receive space), 46 (relays), 47 (sources outside the mapping),
99 (counters of received frames), 111 (IPv6 extension headers) and 115 (what the Owl counts). -/
def Obligations.FrameReceived : Prop :=
  ∀ (port : Nat) (bytes : Bytes) (fcsOk disagree : Bool) (s : State),
    ((s.start.image = none ∨ running s = false ∨ portUp s port = false ∨ beField bytes 12 2 15 0 = 0x8808) →
      exec (.frameReceived port bytes fcsOk disagree) s = .next s) ∧
    ∀ i, s.start.image = some i → running s = true → portUp s port = true → beField bytes 12 2 15 0 ≠ 0x8808 →
      let o := outerOf i port fcsOk bytes
      let v := heardOn s port bytes (framePackets o)
      (∀ n, o = .bad n → exec (.frameReceived port bytes fcsOk disagree) s = .next (count v 0 0 (n - 1) 1)) ∧
      (o = .arp ∨ o = .neighbor ∨ o = .ptp → exec (.frameReceived port bytes fcsOk disagree) s = .next v) ∧
      (∀ ip pcp dscp ecn sport u, o = .urosh ip pcp dscp ecn sport u →
        let s1 := count v 1 port 0 1
        let c := rxClass s1 pcp dscp
        let room := rxFits s1 port c (wireLen bytes)
        (ready v = false → exec (.frameReceived port bytes fcsOk disagree) s = .next s1) ∧
        (ready v = true → envelopeLegal u = false → exec (.frameReceived port bytes fcsOk disagree) s = .next (count s1 0 0 6 1)) ∧
        (∀ f, ready v = true → envelopeLegal u = true → forwardOf s1 u = some f →
          (room = true → exec (.frameReceived port bytes fcsOk disagree) s = .next (relay s1 f pcp dscp ecn sport u)) ∧
          (room = false → exec (.frameReceived port bytes fcsOk disagree) s = .next (rxDrop s1 port c))) ∧
        (ready v = true → envelopeLegal u = true → forwardOf s1 u = none →
          let spi := beField u 4 4 31 0
          let id := spi % 2 ^ 14
          let phase := spi / 2 ^ 14 % 2 == 1
          let seq := beField u 8 8 63 0
          let parts (r : RxPhase) := openDatagram (slotKey s1 r.slot) (u.take 16)
            (splitBody (beField u 0 1 3 0) (beField u 1 1 7 0) ((u.drop 16).take (u.length - 32))) (u.drop (u.length - 16))
          let cls := rxClass s1 (if pcp.getD 8 = 8 then none else some (pcp.getD 8)) dscp
          (saOf s1 id = none → exec (.frameReceived port bytes fcsOk disagree) s = .next (count s1 0 0 7 1)) ∧
          (∀ a, saOf s1 id = some a → spi / 2 ^ 15 ≠ 0 ∨ a.dead = true →
            exec (.frameReceived port bytes fcsOk disagree) s = .next (count s1 0 0 7 1)) ∧
          (∀ a, saOf s1 id = some a → spi / 2 ^ 15 = 0 → a.dead = false → phaseOf a phase = none →
            exec (.frameReceived port bytes fcsOk disagree) s = .next (tagFails s1 id phase)) ∧
          (∀ a r, saOf s1 id = some a → spi / 2 ^ 15 = 0 → a.dead = false → phaseOf a phase = some r →
            (disagree = true → exec (.frameReceived port bytes fcsOk disagree) s = .next (cipherMismatch s1 1)) ∧
            (disagree = false → parts r = none → exec (.frameReceived port bytes fcsOk disagree) s = .next (tagFails s1 id phase)) ∧
            (∀ ps, disagree = false → parts r = some ps → (seq + 65536 ≤ r.high ∨ seq ∈ r.seen) →
              exec (.frameReceived port bytes fcsOk disagree) s = .next (count s1 2 id 1 1)) ∧
            (∀ ps, disagree = false → parts r = some ps → r.high < seq + 65536 → seq ∉ r.seen →
              let high := max r.high seq
              let s2 := switchPhase (modSa s1 id fun x => setPhase x phase
                (some { r with high := high, seen := (seq :: r.seen).filter fun x => decide (high < x + 65536) })) id phase
              (parseBody (beField u 0 1 3 0) ps = none → exec (.frameReceived port bytes fcsOk disagree) s = .next (count s2 0 0 8 1)) ∧
              (∀ b, parseBody (beField u 0 1 3 0) ps = some b →
                let s4 := notePeerTime (count s2 2 id 2 1) port b
                let held : State := rxTake s4 port cls (wireLen bytes)
                (rxFits s4 port cls (wireLen bytes) = false →
                  exec (.frameReceived port bytes fcsOk disagree) s = .next (rxDrop s4 port cls)) ∧
                (rxFits s4 port cls (wireLen bytes) = true → s4.ctlReset = true → isHandshake b = true →
                  exec (.frameReceived port bytes fcsOk disagree) s = .next s4) ∧
                (rxFits s4 port cls (wireLen bytes) = true → (s4.ctlReset = false ∨ isHandshake b = false) →
                  exec (.frameReceived port bytes fcsOk disagree) s = .next { held with rxq := held.rxq ++
                    [{ port := port, cls := cls, frameLen := wireLen bytes, src := (coordOf i ip).getD (2 ^ 24), saId := id
                       path := sport % 256, ce := ecn == 3, arrived := s1.now, body := b }] }))))))

/-- The oldest datagram that waits for the transport is handled whole, packet by packet (R204, R216); TRAIN_RECEIVED, KITE_RECEIVED,
ACK_RECEIVED and MOVED_RECEIVED take it where it is of their kind, and nothing happens otherwise. An ACK or a MOVED counts for a queue pair
that is bound to its association and its peer, an ACK also where it comes by relay (R407).

A packet for a queue pair (R204, R216, R393, R407): below CUM_PSN, or recorded, it is a duplicate and is answered again, a READ_REQ
executed again; within the window it is recorded as held and accepted by its kind; 65,536 or more beyond, it is dropped and counted; a CE
mark counts. A frozen queue pair sends a hold answer, one in ERROR answers FLUSHED, one that moved away from where the packet comes from
sends MOVED.

Where the spec is open, clauses here are the model's choice: assumptions 11 (answers to a stranger), 42 (packets while FROZEN), 43
(notifies), 88 (RESEND answers), 107 (errors that a command's accesses meet) and 109 (READ resources). -/
def Obligations.DatagramsReceived : Prop :=
  (∀ (s : State) (m : Meets), takeRx s false = none ∨ serving s = false →
     exec (.trainReceived m) s = .next s ∧ exec (.kiteReceived m) s = .next s ∧ exec .ackReceived s = .next s ∧ exec .movedReceived s = .next s) ∧
  (∀ (s t : State) (d : RxDgram) (m : Meets), serving s = true → takeRx s false = some (d, t) →
     (∀ ps, d.body = .train ps → exec (.trainReceived m) s = .next (tpeSettle (underMeets m t fun u => rxPackets u d ps))) ∧
     (∀ p, d.body = .kite p → exec (.kiteReceived m) s = .next (tpeSettle (underMeets m t fun u => rxPacket u d d.frameLen p))) ∧
     ((∀ ps, d.body ≠ .train ps) → exec (.trainReceived m) s = .next s) ∧
     ((∀ p, d.body ≠ .kite p) → exec (.kiteReceived m) s = .next s) ∧
     ((∀ qpn b, d.body ≠ .control qpn (.ack b)) → exec .ackReceived s = .next s) ∧
     ((∀ qpn b, d.body ≠ .control qpn (.moved b)) → exec .movedReceived s = .next s) ∧
     (∀ qpn b, d.body = .control qpn (.ack b) →
       (∀ q, tget t.qps qpn = some q → q.saId = d.saId → (d.src = q.remoteCoord ∨ q.oldCoord = some d.src) →
         (q.state = .ready ∨ q.state = .draining → exec .ackReceived s = .next (tpeSettle (onAck t qpn q b))) ∧
         (q.state ≠ .ready → q.state ≠ .draining → exec .ackReceived s = .next t)) ∧
       ((∀ q, tget t.qps qpn = some q → q.saId ≠ d.saId ∨ (d.src ≠ q.remoteCoord ∧ q.oldCoord ≠ some d.src)) →
         exec .ackReceived s = .next t)) ∧
     (∀ qpn b, d.body = .control qpn (.moved b) →
       (∀ q, tget t.qps qpn = some q → q.saId = d.saId → d.src = q.remoteCoord →
         (q.state = .ready ∨ q.state = .draining → exec .movedReceived s = .next (onMoved t qpn q b)) ∧
         (q.state ≠ .ready → q.state ≠ .draining → exec .movedReceived s = .next t)) ∧
       ((∀ q, tget t.qps qpn = some q → q.saId ≠ d.saId ∨ d.src ≠ q.remoteCoord) → exec .movedReceived s = .next t))) ∧
  (∀ (s : State) (d : RxDgram) (share : Nat) (p : Pkt),
     let n := p.dstQpn
     let gone := rxRelease s d.port d.cls share
     let t : Trigger := (p.psn, d.arrived, d.path)
     (tget s.qps n = none → rxPacket s d share p = nakStranger gone d p 1) ∧
     (∀ q, tget s.qps n = some q →
       let off := sdist p.psn q.cumPsn
       let s0 := if d.ce then modQp s n fun x => { x with ceCount := x.ceCount + 1 } else s
       let dup := rxRelease s0 d.port d.cls share
       (q.saId ≠ d.saId → rxPacket s d share p = nakStranger gone d p 2) ∧
       (∀ i, q.saId = d.saId → q.state = .frozen → tget s.insts q.inst = some i →
         rxPacket s d share p = sendAckBody gone n d.path (ackBody q (p.psn, i.frozenAt, d.path))) ∧
       (q.saId = d.saId → q.oldCoord = some d.src → q.state ≠ .frozen → q.state ≠ .reset →
         ∃ x, (rxPacket s d share p).txq = gone.txq ++ [x] ∧ x.coord = q.remoteCoord ∧ x.path = some d.path ∧
           x.body = .control n q.remoteQpn (.moved { refused := p.psn, coord := ownCoord s, inst := q.inst, qpn := n })) ∧
       (q.saId = d.saId → q.state = .reset → rxPacket s d share p = nakStranger gone d p 2) ∧
       (q.saId = d.saId → q.oldCoord ≠ some d.src → q.state ≠ .frozen → (q.state = .init ∨ q.remoteCoord ≠ d.src) →
         rxPacket s d share p = nakStranger gone d p 2) ∧
       (q.saId = d.saId → q.oldCoord ≠ some d.src → q.remoteCoord = d.src → q.state = .error →
         rxPacket s d share p = sendNak gone n t stFlushed 0) ∧
       (q.saId = d.saId → q.oldCoord ≠ some d.src → q.remoteCoord = d.src → q.state = .ready ∨ q.state = .draining →
         (65536 ≤ off → rxPacket s d share p = count gone 0 0 9 1) ∧
         (0 ≤ off → off < 65536 → recOf q p.psn = none →
           rxPacket s d share p = settleStaging (acceptPkt (recordHeld s0 n d share p) n p)) ∧
         (off < 0 ∨ (recOf q p.psn).isSome = true → off < 65536 → p.op = 3 → rxPacket s d share p = readAgainReq dup n q p t) ∧
         (off < 0 → p.op ≠ 3 → recOf q p.psn = none →
           rxPacket s d share p = if (hiddenPsns q).contains p.psn then askAck dup n t else sendAck dup n t) ∧
         (∀ r, off < 65536 → p.op ≠ 3 → recOf q p.psn = some r →
           (r.mark = .held → rxPacket s d share p = sendAck dup n (p.psn, r.arrived, d.path)) ∧
           (r.mark = .placed → rxPacket s d share p = if (hiddenPsns q).contains p.psn then askAck dup n t else sendAck dup n t) ∧
           (∀ st sub, r.mark = .refused st sub → rxPacket s d share p = sendNak dup n t st sub))))) ∧
  (∀ (s : State) (n : Nat) (q : Qp) (p : Pkt) (t : Trigger), tget s.qps n = some q →
     let late := (q.missed.filter fun m => m.1 == p.psn).any fun m => m.2.2 == 1
     let answered := ((q.missed.filter fun m => m.1 == p.psn).filter fun m => m.2.2 == 2).map (·.2.1)
     (late = true → acceptPkt s n p = finishRx s n p.psn (.refused stPageTimeout 2) [] true) ∧
     (late = false → p.op = 1 →
       let r := beginAccess s q.inst (.rxPkt n p.psn) .remoteWrite p.va p.payload.length answered
       acceptPkt s n p = placeWrite r.1 n p.psn r.2 true) ∧
     (∀ r, late = false → p.op = 2 → recOf q p.psn = some r →
       acceptPkt s n p = scheduleAck (notifyWaits s n) n p (p.psn, r.arrived, r.path)) ∧
     (late = false → p.op = 3 → respOf q p.tag = none → 128 ≤ q.resp.length →
       acceptPkt s n p = finishRx s n p.psn (.refused stRemoteInvalid 4) [] true) ∧
     (late = false → p.op = 3 → (respOf q p.tag ≠ none ∨ q.resp.length < 128) →
       acceptPkt s n p = executeRead s n p true answered none) ∧
     (late = false → p.op = 4 → acceptPkt s n p = acceptResp s n q p) ∧
     (∀ r, p.op = 3 → recOf q p.psn = some r →
       (r.mark = .held → readAgainReq s n q p t = sendAck (executeRead s n p false [] none) n (p.psn, r.arrived, t.2.2)) ∧
       (r.mark = .placed → readAgainReq s n q p t = sendAck (executeRead s n p false [] (some (t.2.1, t.2.2))) n t) ∧
       (∀ st sub, r.mark = .refused st sub → readAgainReq s n q p t = sendNak s n t st sub)) ∧
     (p.op = 3 → recOf q p.psn = none →
       (late = true → readAgainReq s n q p t = sendNak s n t stPageTimeout 2) ∧
       (late = false → readAgainReq s n q p t = sendAck (executeRead s n p false answered (some (t.2.1, t.2.2))) n t)))

/-- The receiver's timers (R171, R215, R217, R272): the oldest unanswered arrival waits ACK_DELAY_NS at most; a packet held for 1.5 ms on a
miss is answered with NAK PAGE_TIMEOUT, on staging or for an RQ entry with REMOTE_INVALID, and a READ_REQ executed again that has waited
1.5 ms on a miss is ended and answered so too; a notify that has waited 1 ms for an RQ entry is answered with NAK. None acts before its
time, in a debug halt, or for what has ended.

NOTIFY_DELIVER (R170, R171): the notify that is next in PSN order takes the next RQ entry, whose report carries its value and byte
count; a malformed RQ entry ends MALFORMED, and the notify goes on waiting; while data before it is not yet visible, or without an RQ
entry, it waits. An RQ entry can be taken while its ring is ENABLED and its instance is not stopped. A notify whose message had a data
packet refused is refused with that status.

Where the spec is open, clauses here are the model's choice: assumptions 43 (notifies), 87 (a notify whose data is missing), 88
(RESEND answers) and 109 (a message with a refused packet). -/
def Obligations.ReceiverTimers : Prop :=
  (∀ (qpn : Nat) (psn : Word) (s : State), tget s.qps qpn = none ∨ serving s = false →
     exec (.ackDelayExpire qpn) s = .next s ∧ exec (.holdTimeout qpn psn) s = .next s ∧ exec (.notifyWaitTimeout qpn) s = .next s ∧
     exec (.notifyDeliver qpn) s = .next s) ∧
  (∀ (qpn : Nat) (s : State) (q : Qp), tget s.qps qpn = some q → serving s = true →
     (∀ a t, q.ackExpire = some a → q.lastTrig = some t →
       (q.state ≠ .frozen → a ≤ s.now → exec (.ackDelayExpire qpn) s = .next (askAck s qpn t)) ∧
       (q.state = .frozen ∨ s.now < a → exec (.ackDelayExpire qpn) s = .next s)) ∧
     (q.ackExpire = none ∨ q.lastTrig = none → exec (.ackDelayExpire qpn) s = .next s) ∧
     (∀ psn r, recOf q psn = some r → r.mark = .held →
       let ownRead (tag : Nat) : Prop := ∃ p, r.pkt = some p ∧ p.op = 3 ∧ p.tag = tag
       (s.now < r.arrived + 1500000 → exec (.holdTimeout qpn psn) s = .next s) ∧
       (r.arrived + 1500000 ≤ s.now → r.miss = true → ∃ u, exec (.holdTimeout qpn psn) s =
           .next (finishRx u qpn psn (.refused stPageTimeout 2) [] false) ∧
         u = { s with waits := u.waits, qps := u.qps } ∧
         (∀ w, w ∈ u.waits ↔ w ∈ s.waits ∧ w.owner ≠ .rxPkt qpn psn ∧ ∀ tag, w.owner = .respRead qpn tag → ¬ownRead tag) ∧
         tget u.qps qpn = some { q with resp := q.resp.filter fun y => !((r.pkt.any fun p => p.op == 3) && y.psn == psn) } ∧
         ∀ n, n ≠ qpn → tget u.qps n = tget s.qps n) ∧
       (r.arrived + 1500000 ≤ s.now → r.miss = false → r.staging = true →
         exec (.holdTimeout qpn psn) s = .next (finishRx s qpn psn (.refused stRemoteInvalid 6) [] false)) ∧
       (r.arrived + 1500000 ≤ s.now → r.miss = false → r.staging = false → r.waitAt.isSome = true → nextReceive s q = none →
         exec (.holdTimeout qpn psn) s = .next (finishRx s qpn psn (.refused stRemoteInvalid 3) [] false)) ∧
       (r.miss = false → r.staging = false → (r.waitAt = none ∨ (nextReceive s q).isSome = true) →
         exec (.holdTimeout qpn psn) s = .next s)) ∧
     (∀ psn, (∀ r, recOf q psn = some r → r.mark ≠ .held) →
       (∀ x a path, q.resp.find? (fun y => y.psn == psn && y.held.isSome) = some x → x.held = some (a, path) →
         let waits := ∃ w, waitOf s (.respRead qpn x.tag) = some w ∧ w.missed ≠ []
         (waits → a + 1500000 ≤ s.now → exec (.holdTimeout qpn psn) s = .next (sendNak
           (modQp (cancelResp s qpn x.tag) qpn fun z => { z with resp := z.resp.filter fun y => !(y.tag == x.tag) }) qpn (psn, a, path)
           stPageTimeout 2)) ∧
         (¬waits ∨ s.now < a + 1500000 → exec (.holdTimeout qpn psn) s = .next s)) ∧
       (q.resp.find? (fun y => y.psn == psn && y.held.isSome) = none → exec (.holdTimeout qpn psn) s = .next s)) ∧
     (∀ r, nextNotify q = some r →
       (∀ t, r.waitAt = some t → t + 1000000 ≤ s.now → nextReceive s q = none →
         exec (.notifyWaitTimeout qpn) s = .next (finishRx s qpn r.psn (.refused stRemoteInvalid 3) [] false)) ∧
       ((r.waitAt = none ∨ (∃ t, r.waitAt = some t ∧ s.now < t + 1000000) ∨ (nextReceive s q).isSome = true) →
         exec (.notifyWaitTimeout qpn) s = .next s)) ∧
     (nextNotify q = none → exec (.notifyWaitTimeout qpn) s = .next s)) ∧
  (∀ (qpn : Nat) (s : State) (q : Qp), tget s.qps qpn = some q → serving s = true →
     (nextNotify q = none ∨ nextReceive s q = none ∨ (q.state ≠ .ready ∧ q.state ≠ .draining) ∨ hiddenPsns q ≠ [] →
       exec (.notifyDeliver qpn) s = .next s) ∧
     (∀ r p t, nextNotify q = some r → r.pkt = some p → nextReceive s q = some t → q.state = .ready ∨ q.state = .draining →
       hiddenPsns q = [] →
       let start (x : Taken) : Taken := if x.slot = t.slot then { x with started := true } else x
       let u := modQp s qpn fun x => { x with rq := { x.rq with taken := x.rq.taken.map start } }
       let o : Outcome := { status := stOk, sub := 0, bytes := beField p.payload 4 4 31 0, notify := BitVec.ofNat 32 (beField p.payload 0 4 31 0) }
       (∀ st sub, messageRefusal q p = some (st, sub) →
         exec (.notifyDeliver qpn) s = .next (finishRx s qpn r.psn (.refused st sub) [] false)) ∧
       (messageRefusal q p = none → receiveLegal t.entry = true → exec (.notifyDeliver qpn) s =
         .next (fetchRing (finishRx (drainQp (endSlot u .rq qpn t.slot o) .rq qpn) qpn r.psn .placed [] false) .rq qpn)) ∧
       (messageRefusal q p = none → receiveLegal t.entry = false →
         exec (.notifyDeliver qpn) s = .next (endEntry u .rq qpn t.slot stMalformed 0 0)))) ∧
  (∀ (s : State) (q : Qp),
     (∀ r, nextNotify q = some r ↔ (recOf q q.cumPsn = some r ∧ r.mark = .held ∧ ∃ p, r.pkt = some p ∧ p.op = 2)) ∧
     (instStopped s q.inst = true ∨ q.rq.state ≠ .enabled → nextReceive s q = none) ∧
     (instStopped s q.inst = false → q.rq.state = .enabled →
       nextReceive s q = q.rq.taken.find? fun t => !t.started && t.outcome.isNone))

/-! ### Mailboxes and the management bus -/

/-- A write to a channel window (R414 to R417, R422) takes effect where software can write the window: the device is live, and an instance
exists and is not RESETTING. It is counted as received either way, but for a secure channel's.

OUT_DOORBELL, bit by bit: a set bit starts nothing; a new one gives its notice the next SEQ; a legal one is queued for its peer, a secure
one waits for the firmware, a malformed one is ended at once in ACK mode with 0x0003 and not delivered, one for an absent instance with
0x0001, for a RESETTING one with 0x0013. Bit 31 of an instance is the lookaside doorbell.

IN_ACK and IN_DOORBELL end a notice that is in its IN slot: the end goes back to its sender, in ACK mode with the code and OUT_ACKED, in
EMPTY mode with EMPTY where no OUT bit is left, and interrupts where that is news and unmasked. A mask takes what is written, EMPTY clears
with a 1, and one interrupt goes where the write unmasks a bit that is set.

The relay (R418 to R421, R423): the oldest notice of a queue whose instance is not FROZEN goes to the IN slot that is free for it, and waits
while there is none; begun and not ended, it keeps its SEQ.

Where the spec is open, clauses here are the model's choice: assumptions 29 (commands that wait for one another), 115 (what the Owl counts)
and 116 (relays behind a FROZEN instance's). -/
def Obligations.Mailboxes : Prop :=
  (∀ (r : ChanRef) (w : Word) (n off : Nat) (code : BitVec 16) (s : State),
    let v := heardMbx r s
    (chanOpen s r = false → exec (.mbxOutDoorbell r w) s = .next v ∧ exec (.mbxInDoorbellClear r w) s = .next v ∧
      exec (.mbxInAck r n code) s = .next v ∧ exec (.mbxMaskWrite r off w) s = .next v) ∧
    (32 ≤ n → exec (.mbxInAck r n code) s = .next v) ∧
    (∀ c, chanOpen s r = true → chanOf s r = some c →
      let irq (b : Bool) (t : State) : State := if b then chanIrq t r else t
      exec (.mbxOutDoorbell r w) s = .next (((List.range 32).filter fun n => w.getLsbD n).foldl (fun t n => mbxSend t r n) v) ∧
      exec (.mbxInDoorbellClear r w) s = .next (((List.range 32).filter fun n => w.getLsbD n).foldl (inClear r) v) ∧
      (n < 32 → exec (.mbxInAck r n code) s = .next (if c.inDb.getLsbD n && !isSignal r n then endIn v r n code else v)) ∧
      exec (.mbxMaskWrite r 0x808 w) s = .next (irq (c.outAcked &&& c.outMask &&& ~~~w != 0) (modChan v r fun x => { x with outMask := w })) ∧
      exec (.mbxMaskWrite r 0x814 w) s = .next (irq (c.inDb &&& c.inMask &&& ~~~w != 0) (modChan v r fun x => { x with inMask := w })) ∧
      exec (.mbxMaskWrite r 0x80C w) s = .next (irq (c.empty && !w.getLsbD 0 && c.emptyMask && !w.getLsbD 1)
        (modChan v r fun x => { x with empty := c.empty && !w.getLsbD 0, emptyMask := w.getLsbD 1 })) ∧
      (off ≠ 0x808 → off ≠ 0x80C → off ≠ 0x814 → exec (.mbxMaskWrite r off w) s = .next v))) ∧
  (∀ (s : State) (r : ChanRef) (c : Channel) (n : Nat), chanOf s r = some c →
    let sent := modChan s r fun x => { x with
      outN := lmod x.outN n fun m => { m with seq := c.outLast + 1 }, outDb := x.outDb ||| wordBit n, outLast := c.outLast + 1 }
    let w := (noticeAt c.outN n).words
    (∀ i, r = .inst i → n = 31 → mbxSend s r n = laDoorbell s i) ∧
    ((∀ i, r = .inst i → n ≠ 31) →
      (c.outDb.getLsbD n = true → mbxSend s r n = s) ∧
      (c.outDb.getLsbD n = false → noticeLegal r w = false → mbxSend s r n = endNotice sent r n 3 true) ∧
      (∀ i x, c.outDb.getLsbD n = false → noticeLegal r w = true → r = .inst i → tget s.insts i = some x →
        mbxSend s r n = { sent with relays := sent.relays ++ [{ up := true, chan := x.relayCh, inst := i, bit := n, slot := 0, begun := none }] }) ∧
      (∀ k, c.outDb.getLsbD n = false → noticeLegal r w = true → r = .secure k → mbxSend s r n = sent) ∧
      (∀ k, c.outDb.getLsbD n = false → noticeLegal r w = true → r = .pf k →
        (tget s.insts (noticePeer w) = none → mbxSend s r n = endNotice sent r n 1 true) ∧
        (∀ x, tget s.insts (noticePeer w) = some x → x.state = .resetting → mbxSend s r n = endNotice sent r n 0x13 true) ∧
        (∀ x, tget s.insts (noticePeer w) = some x → x.state ≠ .resetting → mbxSend s r n = { sent with relays := sent.relays ++
          [{ up := false, chan := k, inst := noticePeer w, bit := n, slot := noticeBit w, begun := none }] })))) ∧
  (∀ (s : State) (r : ChanRef) (c : Channel) (n : Nat) (code : BitVec 16), chanOf s r = some c →
    let acked := !noticeEmpty (noticeAt c.inN n).words
    let gone := modChan s r fun x => { x with inDb := x.inDb &&& ~~~wordBit n, senders := tdel x.senders n }
    (tget c.senders n = none → endIn s r n code = gone) ∧
    (∀ p, tget c.senders n = some p → endIn s r n code = endNotice gone (senderRef r p) p.2 code acked) ∧
    (c.inDb.getLsbD n = false → inClear r s n = s) ∧
    (c.inDb.getLsbD n = true → isSignal r n = true → inClear r s n = modChan s r fun x => { x with inDb := x.inDb &&& ~~~wordBit n }) ∧
    (c.inDb.getLsbD n = true → isSignal r n = false → inClear r s n = if acked then s else endIn s r n 0) ∧
    (let db := c.outDb &&& ~~~wordBit n
     let ended (ack : Bool) := modChan s r fun x => { x with
       outN := lmod x.outN n fun m => { m with ret := if ack then code else 0, epoch := s.epoch }
       outDb := db, outAcked := if ack then x.outAcked ||| wordBit n else x.outAcked, empty := x.empty || (!ack && db == 0) }
     (c.outAcked.getLsbD n = false → c.outMask.getLsbD n = false → endNotice s r n code true = chanIrq (ended true) r) ∧
     (c.outAcked.getLsbD n = true ∨ c.outMask.getLsbD n = true → endNotice s r n code true = ended true) ∧
     (db = 0 → c.empty = false → c.emptyMask = false → endNotice s r n code false = chanIrq (ended false) r) ∧
     (db ≠ 0 ∨ c.empty = true ∨ c.emptyMask = true → endNotice s r n code false = ended false))) ∧
  (∀ (s : State) (q : RelayTo) (done : Bool), let next := s.relays.find? fun x => relayTo x == q && relayFree s x
    (next = none ∨ firmware s = false → exec (.mbxRelayDeliver q done) s = .next s) ∧
    (∀ x a c, next = some x → chanOf s (relayFrom x) = some a → chanOf s (relayDest x) = some c → firmware s = true →
      (relaySlot x c = none → exec (.mbxRelayDeliver q done) s = .next s) ∧
      (∀ n, relaySlot x c = some n →
        let kept := x.begun = some c.inTaken
        let seq := if kept then c.inTaken else c.inTaken + 1
        let u := if kept then s else modChan s (relayDest x) fun y => { y with inTaken := c.inTaken + 1 }
        exec (.mbxRelayDeliver q false) s = .next { u with relays := u.relays.map fun y => if y = x then { y with begun := some seq } else y } ∧
        exec (.mbxRelayDeliver q true) s = .next (deliver { u with relays := u.relays.filter fun y => !(y == x) }
          (relayDest x) n (relayWords x (noticeAt a.outN x.bit).words) seq (some (if x.up then (x.inst, x.bit) else (x.chan, x.bit)))))) ∧
    (∀ x, next = some x → instFrozen s x.inst = false ∧ (x.up = false → pageOpen s x.inst = true))) ∧
  (∀ (s : State) (r : ChanRef) (c : Channel) (n : Nat) (w : BitVec 128) (seq : BitVec 16) (p : Nat × Nat), chanOf s r = some c →
    let given := modChan s r fun x => { x with
      inN := lmod x.inN n fun _ => { words := w, seq := seq, ret := 0, epoch := s.epoch }
      inDb := x.inDb ||| wordBit n, inLast := seq, senders := tput x.senders n p }
    deliver s r n w seq (some p) = if c.inDb.getLsbD n = false ∧ c.inMask.getLsbD n = false then chanIrq given r else given) ∧
  (∀ (s : State) (slot : Nat) (c : AdminCmd), CanStart s slot 0x0720 c →
    let e := c.entry
    let i := cmdInst c
    let queued := (s.relays.filter fun y => y.up && y.inst == i).length
    (∀ r, instRefusalFrozen s i = some r → Completes (.mbxChannelConfig slot) s slot e r.1 r.2 s) ∧
    (∀ x, instRefusalFrozen s i = none → tget s.insts i = some x →
      (bit e 8 0 = true → Completes (.mbxChannelConfig slot) s slot
        (putFld (putFld (putFld e 9 3 0 x.relayCh) 10 5 0 x.mbxVec) 12 15 0 queued) stOk rsNone s) ∧
      (bit e 8 0 = false → Completes (.mbxChannelConfig slot) s slot (putFld e 12 15 0 queued) stOk rsNone
        (modInst s i fun y => { y with relayCh := fld e 9 3 0, mbxVec := fld e 10 5 0 }))))

/-- An EMPTY-mode notice ends by a 1 written to its IN_DOORBELL bit or by IN_ACK, whose RET_CODE is discarded: the receiver's bit clears, the
sender's OUT_DOORBELL bit clears, its slot has RET_CODE 0 and EPOCH, and EMPTY is set where no OUT bit is left. -/
def Obligations.EmptyNotices : Prop :=
  ∀ (s : State) (r : ChanRef) (c a : Channel) (n : Nat) (p : Nat × Nat) (m : Notice), chanOpen s r = true → chanOf s r = some c → n < 32 →
    isSignal r n = false → (∀ k, r ≠ .secure k) → c.inDb.getLsbD n = true → noticeEmpty (noticeAt c.inN n).words = true →
    tget c.senders n = some p → chanOf s (senderRef r p) = some a → p.2 < 32 → a.outN[p.2]? = some m →
    ∀ i : Instr, (i = .mbxInDoorbellClear r (wordBit n) ∨ ∃ code, i = .mbxInAck r n code) →
      ∃ t c' a', exec i s = .next t ∧ chanOf t r = some c' ∧ chanOf t (senderRef r p) = some a' ∧ c'.inDb = c.inDb &&& ~~~wordBit n ∧
        a'.outDb = a.outDb &&& ~~~wordBit p.2 ∧ a'.outN[p.2]? = some { m with ret := 0, epoch := s.epoch } ∧ a'.outAcked = a.outAcked ∧
        a'.empty = (a.empty || a.outDb &&& ~~~wordBit p.2 == 0)

/-- The management side. SECURE_SERVICE_REQUEST (R428): the firmware serves the next request, channels in turn, the lowest bit of a channel
first, where it is well formed, and ends it with 0x0003 where it is not.

On the management bus (R49, R425 to R427) an MCTP packet is taken where it is whole, comes to the address of the straps and this endpoint,
and its packet error code is right; every other is dropped. A vendor-defined message reads and writes channel registers by 32-bit words, and an
illegal one is answered with a failure and writes nothing; one of another vendor is dropped. A control request is answered once the rails
are up, and sets the endpoint ID where it asks for that. The Alert Response Address is answered while SMB_ALERT_N is asserted.

Where the spec is open, clauses here are the model's choice: assumptions 16 (results the manual does not state), 69 (secure
service bodies), 70 (MCTP) and 100 (SMB_ALERT_N and secure channels). -/
def Obligations.Management : Prop :=
  (∀ s : State,
    (firmware s = false ∨ nextService s = none → exec .secureServiceRequest s = .next s) ∧
    (∀ k b, firmware s = true → nextService s = some (k, b) →
      let u : State := { s with secLast := k }
      let e := secureBody s k b
      let w := (noticeAt ((s.secMbx[k]?.getD Channel.reset).outN) b).words
      (serviceLegal w e = false → exec .secureServiceRequest s = .next (endNotice u (.secure k) b 3 true)) ∧
      (serviceLegal w e = true →
        (fld e 0 15 0 = 0 → exec .secureServiceRequest s = .next (secureEnd u k b stOk rsNone (secureBody u k b))) ∧
        (fld e 0 15 0 = 2 → exec .secureServiceRequest s = .next (countersRead u (.secure k b) e true)) ∧
        (fld e 0 15 0 = 3 → (portOf s (fld e 8 2 0)).state = .disabled →
          exec .secureServiceRequest s = .next (refRefuse u (.secure k b) stAborted rsUnitOut)) ∧
        (fld e 0 15 0 = 3 → (portOf s (fld e 8 2 0)).state ≠ .disabled →
          exec .secureServiceRequest s = .next (refDone u (.secure k b) (portResults u (fld e 8 2 0)))) ∧
        (fld e 0 15 0 = 0x700 → exec .secureServiceRequest s = .next (powerRequest u (.secure k b) (fld e 8 1 0))) ∧
        (fld e 0 15 0 = 0x701 → exec .secureServiceRequest s = .next (owlLogRead u (.secure k b) e true)))) ∧
    (∀ k b, nextService s = some (k, b) → ∃ c, s.secMbx[k]? = some c ∧ b < 32 ∧ c.outDb.getLsbD b = true ∧ (k, b) ∉ s.secRuns)) ∧
  (∀ (s : State) (src dst eid tag : Byte) (m : Bytes), src.getLsbD 0 = true → dst = 0 ∨ dst = s.eid → tag.toNat < 8 →
    1 ≤ m.length → m.length ≤ 250 →
    let head := [smbusAddr s, 0x0F, BitVec.ofNat 8 (m.length + 5), src, 0x01, dst, eid, 0xC8 ||| tag] ++ m
    mctpOpen s (head ++ [pecOf head]) = some { src := src, eid := eid, tag := tag, msg := m } ∧
    ∀ x, x ≠ pecOf head → mctpOpen s (head ++ [x]) = none) ∧
  (∀ (s : State) (p : Bytes), mctpOpen s p = none ∨ p.head? ≠ some (smbusAddr s) →
    exec (.mctpVendorRequest p) s = .next s ∧ exec (.mctpControlMessage p) s = .next s) ∧
  (∀ (s : State) (p : Bytes) (r : MctpPacket), mctpOpen s p = some r →
    let m := r.msg
    let head := vendorHead ++ [BitVec.ofNat 8 (leField m 5 1 7 0 % 128 + 128)]
    (live s = false ∨ m.take 5 ≠ vendorHead ∨ m.length < 6 → exec (.mctpVendorRequest p) s = .next s) ∧
    (live s = true → m.take 5 = vendorHead → 6 ≤ m.length →
      (vendorLegal m = false → exec (.mctpVendorRequest p) s = .next (emit s (.smbus (mctpReply s r (head ++ [0x01]))))) ∧
      (vendorLegal m = true → leField m 5 1 7 0 = 1 → exec (.mctpVendorRequest p) s = .next (emit s (.smbus
        (mctpReply s r (head ++ [0x00] ++ (vendorOffs m).flatMap fun o => vendorRead s (leField m 6 1 3 0) o))))) ∧
      (vendorLegal m = true → leField m 5 1 7 0 = 2 →
        let put (t : State) (i : Nat × Nat) : State :=
          if i.2 % 4 != 0 then t else chanWrite t (.secure (leField m 6 1 3 0)) i.2 (BitVec.ofNat 32 (leField m (10 + 4 * i.1) 4 31 0))
        exec (.mctpVendorRequest p) s = .next (emit ((List.zip (List.range (vendorOffs m).length) (vendorOffs m)).foldl put s)
          (.smbus (mctpReply s r (head ++ [0x00])))))) ∧
    (let asks := s.power.phase = .up ∧ 3 ≤ m.length ∧ m.getD 0 0 = 0 ∧ (m.getD 1 0).getLsbD 7 = true ∧ (m.getD 1 0).getLsbD 6 = false
     let answers (id : BitVec 8) (a : Bytes) : Prop := exec (.mctpControlMessage p) s = .next (emit { s with eid := id, fresh := s.fresh + 1 }
       (.smbus (mctpReply s r ([0x00, m.getD 1 0 &&& 0x1F, m.getD 2 0] ++ a))))
     (¬asks → exec (.mctpControlMessage p) s = .next s) ∧
     (∀ op id, asks → m.drop 2 = [1, op, id] → op &&& 3 = 0 ∨ op &&& 3 = 1 → id ≠ 0 → id ≠ 0xFF → answers id [0x00, 0x00, id, 0x00]) ∧
     (∀ op id, asks → m.drop 2 = [1, op, id] → op &&& 3 = 2 ∨ op &&& 3 = 3 ∨ id = 0 ∨ id = 0xFF → answers s.eid [0x02]) ∧
     (asks → m.drop 2 = [2] → answers s.eid [0x00, s.eid, 0x00, 0x00]) ∧
     (∀ t, asks → m.drop 2 = [4, t] → t = 0xFF ∨ t = 0x00 ∨ t = 0x7F → ∃ v : Word, answers s.eid ([0x00, 0x01] ++ leBytes 4 v.toNat)) ∧
     (∀ t, asks → m.drop 2 = [4, t] → t ≠ 0xFF → t ≠ 0x00 → t ≠ 0x7F → answers s.eid [0x80]) ∧
     (asks → m.drop 2 = [5] → answers s.eid [0x00, 0x01, 0x7F]) ∧
     (asks → m.getD 2 0 = 1 ∧ m.length ≠ 5 ∨ m.getD 2 0 = 2 ∧ m.length ≠ 3 ∨ m.getD 2 0 = 4 ∧ m.length ≠ 4 ∨ m.getD 2 0 = 5 ∧ m.length ≠ 3 →
       answers s.eid [0x03]) ∧
     (asks → m.getD 2 0 ≠ 1 → m.getD 2 0 ≠ 2 → m.getD 2 0 ≠ 4 → m.getD 2 0 ≠ 5 → answers s.eid [0x05]))) ∧
  (∀ s : State,
    (s.pins.smbAlert = true → exec .smbusAlertResponse s = .next (emit s (.smbus [smbusAddr s]))) ∧
    (s.pins.smbAlert = false → exec .smbusAlertResponse s = .next s))

/-! ### Power states, Owl, trace, watchdog and debug -/

/-- POWER_STATE_REQUEST (R437 to R441): with no change asked for it answers the state; Flight and Glide are recorded and take effect at once,
Flight not while a rule throttles, and in Roost they are its wake; Roost is refused while an instance is not FROZEN, and otherwise accepted, the
command going on until it takes effect; a second request for Roost waits for the first, and one in Roost is answered.

Roost (R441 to R444): it is entered once every earlier command has completed and every instance is FROZEN, else its request is refused; on
entry the counters and every link that is up or trains are held, the trace ring is suspended and the time is no longer disciplined; a wake
leaves it for the state asked for, or for Glide while a rule throttles, and the ports held train again, the events held are posted and a
report is written; none of it happens without its request or its wake.

GLIDE_LOAD_WINDOW (R438, R439): the load of a window is what was received and sent in it. In Glide a window above any figure of R438 leaves
for Flight at once, CORE raised in one step to what the pace needs, its margin noted; after such an exit, 1 ms of windows at or below all of R439 returns to
Glide, and one above starts the wait again; no window is measured while a rule throttles.

Where the spec is open, clauses here are the model's choice: assumptions 28 (commands in Roost), 66 (Roost requests), 101 (the
numbers that commands carry) and 115 (load windows). -/
def Obligations.PowerStates : Prop :=
  (∀ (slot : Nat) (s : State) (c : AdminCmd), CanStart s slot 0x0700 c →
     let e := c.entry
     let target := fld e 8 1 0
     let asked := askState s target 0
     (target = 3 → Completes (.powerStateRequest slot) s slot (powerResults s e) stOk rsNone s) ∧
     (target ≤ 1 → Completes (.powerStateRequest slot) s slot (powerResults asked e) stOk rsNone asked) ∧
     (target = 2 → s.pm.roost.isSome = true → exec (.powerStateRequest slot) s = .next (holdCmd s slot)) ∧
     (target = 2 → s.pm.roost = none → s.pm.state = 2 → Completes (.powerStateRequest slot) s slot (powerResults s e) stOk rsNone s) ∧
     (target = 2 → s.pm.roost = none → s.pm.state ≠ 2 → allFrozen s = false →
       Completes (.powerStateRequest slot) s slot e stAborted 0x1201 s) ∧
     (target = 2 → s.pm.roost = none → s.pm.state ≠ 2 → allFrozen s = true →
       exec (.powerStateRequest slot) s = .next (keepRunning
         { s with pm := { s.pm with roost := some (some (.admin slot)), roostSeq := s.adm.seqNext } } slot))) ∧
  (∀ (s : State) (target cause new : Nat),
     let u : State := { s with pm := { s.pm with glideReq := target == 1, loadExit := false } }
     (s.pm.state = 2 → askState s target cause = { u with pm := { u.pm with wake := some (target, cause) } }) ∧
     (s.pm.state = 1 → target = 0 → s.pm.throttled = false → askState s target cause = movePower u 0 cause) ∧
     (s.pm.state = 1 → (target ≠ 0 ∨ s.pm.throttled = true) → askState s target cause = u) ∧
     (s.pm.state = 0 → target = 1 → askState s target cause = movePower u 1 cause) ∧
     (s.pm.state = 0 → target ≠ 1 → askState s target cause = u) ∧
     (let v := owlPut s 0x0013 (powerData s.pm.state new cause)
      OnlyReports { v with
        pm := { s.pm with state := new, lowSince := none, winStart := s.now, winSeen := s.traffic }
        power := { s.power with glideTarget := new == 1 } } (movePower s new cause)) ∧
     (∀ e, powerResults s e = putFld e 9 3 0 (s.pm.state + 4 * s.pm.throttled.toNat + 8 * s.pm.glideReq.toNat))) ∧
  (∀ s : State,
     (s.pm.roost = none ∨ roostDue s = false ∨ s.pm.state = 2 ∨ ready s = false ∨ firmware s = false → exec .roostEnter s = .next s) ∧
     (∀ r, s.pm.roost = some r → ready s = true → firmware s = true → roostDue s = true → s.pm.state ≠ 2 →
       let u : State := { s with pm := { s.pm with roost := none } }
       (∀ x, allFrozen s = false → r = some x → exec .roostEnter s = .next (refRefuse u x stAborted 0x1201)) ∧
       (allFrozen s = false → r = none → exec .roostEnter s = .next u) ∧
       (∀ x, allFrozen s = true → r = some x → exec .roostEnter s =
         .next (refDone (enterRoost s (refCause x)) x (powerResults (enterRoost s (refCause x))))) ∧
       (allFrozen s = true → r = none → exec .roostEnter s = .next (enterRoost s causeRule))) ∧
     (∀ slot, s.pm.roost = some (some (.admin slot)) → (roostDue s = true ↔ cmdsBefore s slot = [] ∧ (admCmd s slot).isSome = true)) ∧
     (∀ cause, let t := enterRoost s cause
       t.pm.state = 2 ∧ t.pm.glideReq = false ∧ t.pm.roost = none ∧ t.pm.wake = none ∧ t.pm.counters = t.counters ∧
       t.trace.suspended = s.trace.running ∧ t.trace.ring = s.trace.ring ∧ t.power.glideTarget = false ∧
       t.time.state ≠ .locked ∧ t.insts = s.insts ∧
       ∀ n < 8, t.pm.heldPorts.getLsbD n = ((portOf s n).state == .up || (portOf s n).state == .training)) ∧
     (s.pm.wake = none ∨ running s = false ∨ s.pm.state ≠ 2 → exec .roostExit s = .next s) ∧
     (∀ target cause, s.pm.wake = some (target, cause) → running s = true → s.pm.state = 2 →
       let new := if s.pm.throttled then 1 else target
       let out : State := { s with
         power := { s.power with coreMv := 880, atCeiling := true, glideTarget := new == 1 }
         pm := { s.pm with state := new, wake := none, held := [], heldPorts := 0, counters := [] }
         trace := { s.trace with suspended := false } }
       let resumed := if s.trace.suspended then trace out none 0x0002 0 (evData [(16, 1, new), (20, 4, s.trace.sinceSusp)]) else out
       let posted := s.pm.held.foldl (fun t e => putOrHold t e.code e.time e.data) (notePower resumed 2 new cause)
       exec .roostExit s = .next (payReport (((List.range 8).filter fun n => s.pm.heldPorts.getLsbD n).foldl unholdPort (msixRaise posted 0 19))))) ∧
  (∀ (need : Nat) (pace : Int) (s : State),
     let ns := s.now - s.pm.winStart
     let l := trafficSince s.traffic s.pm.winSeen
     let u : State := { s with pm := { s.pm with winStart := s.now, winSeen := s.traffic } }
     (serving s = false → exec (.glideLoadWindow need pace) s = .next s) ∧
     (serving s = true → s.pm.throttled = true → exec (.glideLoadWindow need pace) s = .next u) ∧
     (serving s = true → s.pm.throttled = false → s.now < s.pm.winStart + 2000 → exec (.glideLoadWindow need pace) s = .next s) ∧
     (serving s = true → s.pm.throttled = false → s.pm.winStart + 2000 ≤ s.now →
       (s.pm.state = 1 → loadOver l ns = true →
         let t := movePower { u with pm := { u.pm with loadExit := true } } 0 causeLoad
         let mv := max s.power.coreMv.toNat (min 880 (max 620 need))
         exec (.glideLoadWindow need pace) s = .next { t with power := { t.power with
           coreMv := BitVec.ofNat 16 mv, atCeiling := mv == 880, marginPct := BitVec.ofNat 8 (min 255 pace.toNat) } }) ∧
       (s.pm.state = 1 → loadOver l ns = false → exec (.glideLoadWindow need pace) s = .next u) ∧
       (s.pm.state ≠ 1 → (s.pm.state ≠ 0 ∨ s.pm.loadExit = false) → exec (.glideLoadWindow need pace) s = .next u) ∧
       (s.pm.state = 0 → s.pm.loadExit = true →
         let since := s.pm.lowSince.getD s.pm.winStart
         (loadLow l ns = false → exec (.glideLoadWindow need pace) s = .next { u with pm := { u.pm with lowSince := none } }) ∧
         (loadLow l ns = true → s.now < since + 1000000 →
           exec (.glideLoadWindow need pace) s = .next { u with pm := { u.pm with lowSince := some since } }) ∧
         (loadLow l ns = true → since + 1000000 ≤ s.now →
           exec (.glideLoadWindow need pace) s = .next (movePower { u with pm := { u.pm with loadExit := false } } 1 causeLoad)))) ∧
     (loadOver l ns = true ↔ 1600000 * ns < 8000 * l.rxBytes ∨ 1600000 * ns < 8000 * l.txBytes ∨ 1500000 * ns < 1000000 * l.rxPkts ∨
       1500000 * ns < 1000000 * l.txPkts) ∧
     (loadLow l ns = true ↔ 8000 * l.rxBytes ≤ 1200000 * ns ∧ 8000 * l.txBytes ≤ 1200000 * ns ∧ 1000000 * l.rxPkts ≤ 1100000 * ns ∧
       1000000 * l.txPkts ≤ 1100000 * ns))

/-- OWL_SAMPLE (R447 to R451, R482, Table 4-17): every 125 us, while the main rails are up, every channel is sampled and filtered: what a mapped-out unit
senses reads zero, channels 26 to 29 are what was received and sent since the last sample, channel 31 is the hottest of channels 0 to 7; a
channel without an enabled filter reads zero. A halt stops the rules and not the filters.

A rule's condition must hold for HOLD samples in a row, and ends beyond its hysteresis; an invalid rule does nothing. A trip rule is the thermal
trip; in Perch no other action follows. Then the shut ports, the throttle, and a wake or a request for Roost follow the active rules.

Where the spec is open, clauses here are the model's choice: assumptions 101 (the numbers that commands carry) and 115 (what the Owl
counts). -/
def Obligations.OwlSample : Prop :=
  (∀ (xs : List Int) (s : State),
    (s.start.image = none ∨ s.power.phase ≠ .up → exec (.owlSample xs) s = .next s) ∧
    (∀ t, s.owl.sampledAt = some t → s.clocks.count < t + 125000 → exec (.owlSample xs) s = .next s) ∧
    (∀ i, s.start.image = some i → s.power.phase = .up → (∀ t, s.owl.sampledAt = some t → t + 125000 ≤ s.clocks.count) →
      let f := filterAll i s.owl.hist (ownSamples s xs)
      let u : State := { s with owl := { s.owl with hist := f.map (·.2), sampledAt := some s.clocks.count, seen := s.traffic } }
      let r := (List.range 64).foldl (ruleAt i (f.map (·.1))) (u, [])
      let trip := ∃ a ∈ r.2, a.2 = true ∧ a.1.action = 5
      (s.halted = true → exec (.owlSample xs) s = .next u) ∧
      (s.halted = false → trip → exec (.owlSample xs) s = .next (thermalTrip r.1)) ∧
      (s.halted = false → ¬trip → live s = false → exec (.owlSample xs) s = .next r.1) ∧
      (s.halted = false → ¬trip → live s = true →
        exec (.owlSample xs) s = .next (wakeRules (throttleRules (portShutdowns r.1 i) i) r.2)))) ∧
  (∀ (i : Image) (ys : List Int) (a : State × List (OwlRule × Bool)) (n : Nat) (r : OwlRule) (c : OwlRun),
    i.rules[n]? = some r → a.1.owl.rules[n]? = some c →
    let x := ruleStep r c (ys.getD r.channel 0)
    let kept : State := { a.1 with owl := { a.1.owl with rules := lmod a.1.owl.rules n fun _ => x.1 } }
    (x.2 = none → ruleAt i ys a n = (kept, a.2)) ∧
    (∀ on, x.2 = some on → ruleAt i ys a n = (noteRule kept n r on (ys.getD r.channel 0), a.2 ++ [(r, on)]))) ∧
  (∀ (r : OwlRule) (c : OwlRun) (y : Int),
    (r.valid = false → ruleStep r c y = (c, none)) ∧
    (r.valid = true →
      let holds := if r.below then y ≤ r.threshold else r.threshold ≤ y
      let ends := if r.below then r.threshold + r.hyst < y else y < r.threshold - r.hyst
      (c.active = false → holds → c.held + 1 < r.hold → ruleStep r c y = ({ c with held := c.held + 1 }, none)) ∧
      (c.active = false → holds → r.hold ≤ c.held + 1 → ruleStep r c y = ({ held := 0, active := true }, some true)) ∧
      (c.active = false → ¬holds → ruleStep r c y = ({ c with held := 0 }, none)) ∧
      (c.active = true → ends → ruleStep r c y = ({ held := 0, active := false }, some false)) ∧
      (c.active = true → ¬ends → ruleStep r c y = (c, none)))) ∧
  (∀ (s : State) (acts : List (OwlRule × Bool)),
    let wake := ∃ a ∈ acts, a.2 = true ∧ a.1.action = 1
    let roost := ∃ a ∈ acts, a.2 = true ∧ a.1.action = 2
    let open_ := s.pm.state ≠ 2 ∧ s.pm.roost = none ∧ allFrozen s = true ∧ serving s = true
    (wake → s.pm.state = 2 → wakeRules s acts = { s with pm := { s.pm with wake := some (0, causeRule) } }) ∧
    (wake → s.pm.state ≠ 2 → wakeRules s acts = s) ∧
    (¬wake → roost → open_ → wakeRules s acts = { s with pm := { s.pm with roost := some none, roostSeq := s.adm.seqNext } }) ∧
    (¬wake → (¬roost ∨ ¬open_) → wakeRules s acts = s)) ∧
  (∀ (s : State) (i : Image),
    let on := ruleActive s i 3 fun _ => true
    let u : State := { s with pm := { s.pm with throttled := on } }
    (on = true → s.pm.throttled = false → s.pm.state = 0 →
      throttleRules s i = movePower { u with pm := { u.pm with loadExit := false } } 1 causeThrottle) ∧
    (on = false → s.pm.throttled = true → s.pm.state = 1 → s.pm.glideReq = false → throttleRules s i = movePower u 0 causeThrottle) ∧
    (s.pm.state = 2 ∨ on = s.pm.throttled ∨ (on = true ∧ s.pm.state = 1) ∨ (on = false ∧ s.pm.state = 0) ∨
      (on = false ∧ s.pm.glideReq = true) → throttleRules s i = u)) ∧
  (∀ (i : Image) (hist : List (Option OwlHist)) (s : State) (xs : List Int) (n : Nat), n < 32 →
    let l := trafficSince s.traffic s.owl.seen
    let y := (filterAll i hist xs)[n]?
    (ownSamples s xs)[n]? = some (
      if n = 26 then (l.tlps : Int) else if n = 27 then (l.bells : Int) else if n = 28 then ((8 * l.rxBytes / 125000 : Nat) : Int)
      else if n = 29 then ((8 * l.txBytes / 125000 : Nat) : Int) else if n = 31 then ((List.range 8).map fun k => xs.getD k 0).foldl max (xs.getD 0 0)
      else if 8 ≤ n ∧ n ≤ 13 ∧ s.start.stackOk.getLsbD (n - 8) = false then 0
      else if 18 ≤ n ∧ n ≤ 25 ∧ s.start.nportOk.getLsbD ((n - 18) / 2) = false then 0 else xs.getD n 0) ∧
    (∀ f, i.filters[n]? = some f → f.enable = true →
      y = some ((filterStep f (hist.getD n none) (xs.getD n 0)).1, some (filterStep f (hist.getD n none) (xs.getD n 0)).2)) ∧
    ((∀ f, i.filters[n]? = some f → f.enable = false) → y = some (0, none)))

/-- The watchdog and the control reset (R432 to R435, Table 17-7): the first write with PERIOD_MS from 1 to 16,000 enables and locks it, and after that
every write is ignored; PERIOD_MS without a refresh is a control reset: EPOCH advances, the firmware stops, commands in execution go back
to their start but for those whose drain or zeroing goes on, handshakes, the flash job, requests of secure channels and a command's request
for Roost are gone, and nothing else changes. Its end restarts the firmware and refreshes the watchdog; relays are made again, held page
responses are answered, and drains that ended complete. A watchdog without its clock, in a debug halt or in a control reset does nothing.

Where the spec is open, clauses here are the model's choice: assumptions 31 (what the firmware does, it does when it runs), 32 (a
control reset's sweep), 52 (the watchdog's refresh) and 115 (what the Owl counts). -/
def Obligations.WatchdogAndControlReset : Prop :=
  ∀ s : State,
    (∀ w : Word, let period := fld w 0 13 0
      let v := heardTlp s
      (live s = true → s.wdt.enabled = false → 1 ≤ period → period ≤ 16000 →
        exec (.wdtEnable w) s = .next { v with wdt := { periodMs := BitVec.ofNat 14 period, enabled := true, since := s.now } }) ∧
      (live s = false ∨ s.wdt.enabled = true ∨ period = 0 ∨ 16000 < period → exec (.wdtEnable w) s = .next v)) ∧
    (running s = false ∨ s.wdt.enabled = false ∨ s.now < s.wdt.since + s.wdt.periodMs.toNat * 1000000 ∨ wdtClkGood s = false ∨ s.ctlReset = true →
      exec .watchdogExpire s = .next s) ∧
    (running s = true → s.wdt.enabled = true → s.ctlReset = false → wdtClkGood s = true →
      s.wdt.since + s.wdt.periodMs.toNat * 1000000 ≤ s.now →
      let goesOn (c : AdminCmd) := c.phase = .running ∧ ((∃ d ∈ s.drains, d.slot = some c.slot) ∨ ∃ z ∈ s.pool.zeroing, z.slot = some c.slot)
      ∃ cmds : List AdminCmd, exec .watchdogExpire s = .next { s with
          epoch := s.epoch + 1, ctlReset := true, secRuns := []
          start := { s.start with
            fwRunning := false, flash := none, fwDeadline := if ready s || s.start.imageAt.isNone then none else some (s.now + 50000000) }
          adm := { s.adm with cmds := cmds }
          qps := s.qps.map fun r => (r.1, { r.2 with handshake := none })
          pm := { s.pm with roost := match s.pm.roost with | some (some _) => none | r => r } } ∧
        cmds.length = s.adm.cmds.length ∧
        ∀ (n : Nat) (c : AdminCmd), s.adm.cmds[n]? = some c → (goesOn c → cmds[n]? = some c) ∧ (¬goesOn c → cmds[n]? = some { c with phase := .queued })) ∧
    (∀ i, s.start.image = some i → (wdtClkGood s = true ↔ i.wdtClkSel = true ∨ s.clocks.good.getLsbD 6 = true)) ∧
    (s.start.image = none → wdtClkGood s = false) ∧
    (running s = true → s.ctlReset = true → exec .controlResetDone s = .next (checkReady (payReport (endDrains (payResponses (relaysAgain
      { s with
        ctlReset := false
        start := { s.start with fwRunning := s.start.imageAt.isSome, fwDeadline := none }
        wdt := { s.wdt with since := s.now } })))))) ∧
    (s.ctlReset = false ∨ running s = false → exec .controlResetDone s = .next s)

/-- DAP_TRANSFER (R479, R480, Table 20-5): a wrong parity is answered FAULT and does nothing; SPACE 0 reads and writes registers, SPACE 1 pool
memory as stored, SPACE 2 the key store and the die's SRAM; a read outside a space, or of a misaligned address, answers zero and a write
there does nothing. Pool memory answers WAIT during the scrub, FAULT where its stack has stopped, and in Roost WAIT once while the stack leaves
self-refresh; a write leaves its line readable, and one into a clear block zeroes the block around it.

Halting and boundary scan (R27, R477, R478, R482): HALT stops the engines and marks that a halt has been; while halted no engine starts, and
RESUME lets the requests held back leave and lets the clock losses and restorations found meanwhile act; EXTEST, CLAMP and HIGHZ halt the
device until a full reset, so that RESUME does nothing; IDCODE, that of the part's stepping (R484), is shifted out. The TAP does nothing while
the main rails are down, the debug port nothing before the device is powered up.

Where the spec is open, clauses here are the model's choice: assumptions 15 (values of the die's SRAM), 33 (what goes on in a debug
halt), 61 (debug writes to keys), 73 (debug transfers) and 74 (IDCODE). -/
def Obligations.DebugAccess : Prop :=
  (∀ (r : DapReq) (ok : Bool) (s : State), s.power.phase ≠ .up → exec (.dapTransfer r ok) s = .next s) ∧
  (∀ (r : DapReq) (s : State), s.power.phase = .up →
     let answer (t : State) (ack : BitVec 3) (w : Word) := exec (.dapTransfer r true) s = .next (emit t (.dap ack w))
     (exec (.dapTransfer r false) s = .next (emit s (.dap 4 0))) ∧
     (r.addr % 4 ≠ 0 ∨ r.space = 3 ∨ (r.space = 0 ∧ 0x1000000 ≤ r.addr) → answer s 1 0) ∧
     (r.addr % 4 = 0 → r.space = 0 → r.addr < 0x1000000 →
       (r.write = true → answer (regWrite s .dap r.addr r.data) 1 0) ∧
       (r.write = false → answer (regRead s .dap r.addr).2 1 (regRead s .dap r.addr).1)) ∧
     (r.addr % 4 = 0 → r.space = 1 →
       let woken : State := { s with dbg := { s.dbg with wakeTill := none } }
       let awake := s.pm.state ≠ 2 ∨ s.dbg.wakeTill.isSome = true
       (s.start.trained = false ∨ stackOf s r.addr = none → answer s 1 0) ∧
       (∀ n, s.start.trained = true → stackOf s r.addr = some n →
         (s.start.scrubDone = false → answer s 2 0) ∧
         (s.start.scrubDone = true → s.pool.stackOut.getLsbD n = true → answer s 4 0) ∧
         (s.start.scrubDone = true → s.pool.stackOut.getLsbD n = false → ¬awake →
           answer { s with dbg := { s.dbg with wakeTill := some s.now } } 2 0) ∧
         (s.start.scrubDone = true → s.pool.stackOut.getLsbD n = false → awake → r.write = false →
           answer woken 1 (BitVec.ofNat 32 (leNat (memRead s.pool.mem r.addr 4)))) ∧
         (s.start.scrubDone = true → s.pool.stackOut.getLsbD n = false → awake → r.write = true →
           answer (poolPoke woken r.addr r.data) 1 0))) ∧
     (r.addr % 4 = 0 → r.space = 2 →
       (r.write = true → answer (storePoke s r.addr r.data) 1 0) ∧ (r.write = false → answer s 1 (storePeek s r.addr)))) ∧
  (∀ (s : State) (a : Nat) (w : Word), a % 4 = 0 →
     let b := a / 4096
     (a < reserveBase s → writtenFlag s b = false → poolPoke s a w = { s with pool := { s.pool with
       mem := memWrite (memZero s.pool.mem (4096 * b) 4096) a (leBytes 4 w.toNat)
       written := b :: s.pool.written, failed := s.pool.failed.filter fun l => l / 64 != b } }) ∧
     (reserveBase s ≤ a ∨ writtenFlag s b = true → poolPoke s a w = { s with pool := { s.pool with
       mem := memWrite s.pool.mem a (leBytes 4 w.toNat), failed := s.pool.failed.filter fun l => l != a / 64 } })) ∧
  (∀ (s : State) (a : Nat) (w : Word),
     let kept (f : Cipher → Cipher) : State := { s with cipher := f s.cipher }
     let beside : State := { s with dbg := { s.dbg with keyMem := memWrite s.dbg.keyMem a (leBytes 4 w.toNat) } }
     (∀ k, a < 0x100000 → tget s.cipher.keys (a / 64) = some k → a % 64 < k.key.length →
       storePeek s a = BitVec.ofNat 32 (leNat (slice k.key (a % 64) 4)) ∧
       storePoke s a w = kept fun c => { c with keys := tput c.keys (a / 64) { k with key := pokeWord k.key (a % 64) w } }) ∧
     (∀ k, 0x100000 ≤ a → a < 0x100020 → s.cipher.ctxKey = some k →
       storePeek s a = BitVec.ofNat 32 (leNat (slice (leBytes 32 k.toNat) (a - 0x100000) 4)) ∧
       storePoke s a w = kept fun c => { c with ctxKey := some (pokeKey k (a - 0x100000) w) }) ∧
     (∀ k, 0x100020 ≤ a → a < 0x100040 → s.cipher.migKey = some k →
       storePeek s a = BitVec.ofNat 32 (leNat (slice (leBytes 32 k.1.toNat) (a - 0x100020) 4)) ∧
       storePoke s a w = kept fun c => { c with migKey := some (pokeKey k.1 (a - 0x100020) w, k.2) }) ∧
     ((a < 0x100000 ∧ (∀ k, tget s.cipher.keys (a / 64) = some k → k.key.length ≤ a % 64)) ∨
       (0x100000 ≤ a ∧ a < 0x100020 ∧ s.cipher.ctxKey = none) ∨ (0x100020 ≤ a ∧ a < 0x100040 ∧ s.cipher.migKey = none) →
       storePeek s a = BitVec.ofNat 32 (leNat (memRead s.dbg.keyMem a 4)) ∧ storePoke s a w = beside) ∧
     (0x1000000 ≤ a → a < 0x11000000 → a % 4 = 0 → storePeek (storePoke s a w) a = w ∧
       ∀ b, b % 4 = 0 → b ≠ a → storePeek (storePoke s a w) b = storePeek s b) ∧
     ((0x100040 ≤ a ∧ a < 0x1000000) ∨ 0x11000000 ≤ a → storePeek s a = 0 ∧ storePoke s a w = s)) ∧
  (∀ s : State,
     (s.power.phase = .up →
       exec .dbgHalt s = .next { s with halted := true, dbg := { s.dbg with everHalted := true } } ∧
       (s.halted = false ∨ s.dbg.scanHalt = true → exec .dbgResume s = .next s) ∧
       (s.halted = true → s.dbg.scanHalt = false →
         let on : State := { s with halted := false, heldOut := [], dbg := { s.dbg with owed := [] } }
         exec .dbgResume s = .next (kickRings (admFetch (s.dbg.owed.foldl payClock (s.heldOut.foldl sendOut on)))))) ∧
     (s.power.phase ≠ .up → exec .dbgHalt s = .next s ∧ exec .dbgResume s = .next s) ∧
     (s.power.railsUp = true →
       (exec (.tapInstruction .idcode) s = .next (emit { s with dbg := { s.dbg with irLoaded := 1 } } (.tapData (if s.a1 then 0x14800A4F else 0x24800A4F)))) ∧
       (∀ c ∈ [TapInstr.extest, .clamp, .highz], exec (.tapInstruction c) s = .next { s with
         halted := true, dbg := { s.dbg with irLoaded := tapCode c, everHalted := true, scanHalt := true } }) ∧
       (∀ c ∈ [TapInstr.bypass, .sample, .preload, .other],
         exec (.tapInstruction c) s = .next { s with dbg := { s.dbg with irLoaded := tapCode c } })) ∧
     (s.power.railsUp = false → ∀ c, exec (.tapInstruction c) s = .next s) ∧
     (s.halted = true → serving s = false ∧ firmware s = false ∧ running s = false) ∧
     (∀ slot opcode, s.halted = true → mayStart s slot opcode = none))

/-! ### What every step keeps -/

/-- Perch is left only by what takes the rails or the reset away (R37, R43, R104): a step from Perch ends outside the powered state, or in
Perch with its first cause and its information unchanged.

Where the spec is open, clauses here are the model's choice: assumption 20 (PERCH_N in a power-down). -/
def Obligations.PerchStays : Prop :=
  ∀ s t : State, s.power.phase = .up → s.start.stage = 0xF → step s = .next t →
    t.power.phase ≠ .up ∨
      (t.start.stage = 0xF ∧ t.start.perchCause = s.start.perchCause ∧ t.start.perchInfo = s.start.perchInfo)

/-- PERCH_N is low for as long as the device is in Perch, whatever step it takes there and whichever step leads there, and each full reset
releases it (R43, R37). -/
def Obligations.PerchPinLow : Prop :=
  (∀ s t : State, PerchPin s → step s = .next t → PerchPin t) ∧
  (∀ (pin : ResetPin) (ns : Nat) (s : State), 1000 ≤ ns → s.power.phase = .up →
    ∃ t, exec (.fullResetAssert pin ns) s = .next t ∧ t.start.stage = 0 ∧ t.pins.perchN ≠ .low) ∧
  (∀ (straps : BitVec 5) (s : State), s.power.phase = .poweringDown →
    ∃ t, exec (.powerDownComplete straps) s = .next t ∧ t.start.stage = 0 ∧ t.pins.perchN ≠ .low) ∧
  ∀ s : State, s.power.phase ≠ .off → ∃ t, exec .vinUvloFall s = .next t ∧ t.start.stage = 0 ∧ t.pins.perchN ≠ .low

/-- What registers keep on every step: CORE stays within 620 to 880 mV (R57), the watchdog runs only with a period of 1 to 16,000 ms
(R432), and STAGE stays a value Table 5-4 names. -/
def Obligations.RegistersStayLegal : Prop :=
  ∀ s t : State, Legal s → step s = .next t → Legal t

/-- Pool memory keeps its canonical form on every step: addresses strictly rising and no zero byte listed (the model's representation,
assumption 19). -/
def Obligations.PoolStaysCanonical : Prop :=
  ∀ s t : State, memWf s.pool.mem = true → step s = .next t → memWf t.pool.mem = true

/-- The state after reset meets the invariants. -/
def Obligations.ResetIsLegal : Prop :=
  Legal State.reset ∧ PerchPin State.reset ∧ memWf State.reset.pool.mem = true
end

