-- ==== Sys2Proof/Laws/Reports.lean ====
section
/-!
SUPPORT. What a report can do, once for each operation that reports: it changes only what `quiet` leaves out, and of the pool only
the trace ring.
-/

namespace Sys2Proof.Machine

/-! ### Byte memories -/

theorem memByte_append (l m : List (Nat × Byte)) (a : Nat) (h : ∀ c ∈ l, c.1 ≠ a) : memByte (l ++ m) a = memByte m a := by
  induction l with
  | nil => rfl
  | cons c l ih =>
    obtain ⟨n, b⟩ := c
    have hn : n ≠ a := h (n, b) (by simp)
    simp only [List.cons_append, memByte, hn, if_false]
    exact ih fun c hc => h c (by simp [hc])

theorem memByte_append_right (l m : List (Nat × Byte)) (a : Nat) (h : ∀ c ∈ m, c.1 ≠ a) : memByte (l ++ m) a = memByte l a := by
  induction l with
  | nil =>
    have := memByte_append m [] a h
    simpa [memByte] using this
  | cons c l ih => obtain ⟨n, b⟩ := c; simp only [List.cons_append, memByte, ih]

theorem memByte_filter (m : List (Nat × Byte)) (p : Nat → Bool) (a : Nat) (h : p a = true) :
    memByte (m.filter fun c => p c.1) a = memByte m a := by
  induction m with
  | nil => rfl
  | cons c m ih =>
    obtain ⟨n, b⟩ := c
    by_cases hp : p n = true
    · simp [hp, memByte, ih]
    · have hn : n ≠ a := fun e => hp (e ▸ h)
      simp [hp, memByte, hn, ih]

theorem memCells_range (a : Nat) (bs : Bytes) : ∀ c ∈ memCells a bs, a ≤ c.1 ∧ c.1 < a + bs.length := by
  induction bs generalizing a with
  | nil => simp [memCells]
  | cons b bs ih =>
    intro c hc
    simp only [memCells] at hc
    split at hc
    · have := ih (a + 1) c hc; simp; omega
    · rcases List.mem_cons.1 hc with h | h
      · subst h; simp
      · have := ih (a + 1) c h; simp; omega

/-- A write leaves every byte outside the stored run as it was. -/
theorem memByte_memWrite_of_outside (m : List (Nat × Byte)) (a : Nat) (bs : Bytes) (x : Nat) (h : x < a ∨ a + bs.length ≤ x) :
    memByte (memWrite m a bs) x = memByte m x := by
  unfold memWrite
  have hc : ∀ c ∈ memCells a bs, c.1 ≠ x := fun c hc => by have := memCells_range a bs c hc; omega
  rcases h with h | h
  · rw [memByte_append_right _ _ _ (by simp only [List.mem_filter]; intro c hc; have := hc.2; simp at this; omega),
      memByte_append_right _ _ _ hc]
    exact memByte_filter m (fun n => decide (n < a)) x (by simpa using h)
  · rw [memByte_append _ _ _ (by
      intro c hc'
      rcases List.mem_append.1 hc' with h' | h'
      · have := (List.mem_filter.1 h').2; simp at this; omega
      · exact hc c h')]
    exact memByte_filter m (fun n => decide (a + bs.length ≤ n)) x (by simpa using h)

/-- Zeroing a run leaves every byte outside it as it was. -/
theorem memByte_memZero_of_outside (m : List (Nat × Byte)) (a n x : Nat) (h : x < a ∨ a + n ≤ x) :
    memByte (memZero m a n) x = memByte m x :=
  memByte_filter m (fun k => decide (k < a) || decide (a + n ≤ k)) x (by simpa using h)

/-! ### Reports alone -/

namespace OnlyReports

/-- What leaves the pool alone and takes back no output is a report where `quiet` does not see it. -/
theorem of_quiet {s t : State} (same : quiet t = quiet s) (pool : t.pool = s.pool) (outs : ∀ o ∈ outputs s, o ∈ outputs t) :
    OnlyReports s t :=
  ⟨same, fun _ _ => by rw [pool], fun _ _ => by simp [writtenFlag, pool], fun _ _ => by rw [pool], outs⟩

theorem refl (s : State) : OnlyReports s s := of_quiet rfl rfl fun _ h => h

/-- The trace ring is none of what a report changes. -/
theorem ring_eq {s t : State} (h : OnlyReports s t) : t.trace.ring = s.trace.ring := congrArg (fun u => u.trace.ring) h.same

theorem inTrace_eq {s t : State} (h : OnlyReports s t) (a : Nat) : inTrace t a = inTrace s a := by unfold inTrace; rw [h.ring_eq]

theorem trans {s t u : State} (h : OnlyReports s t) (k : OnlyReports t u) : OnlyReports s u :=
  ⟨k.same.trans h.same, fun a ha => (k.mem a ((h.inTrace_eq a).trans ha)).trans (h.mem a ha),
    fun b hb => (k.written b ((h.inTrace_eq _).trans hb)).trans (h.written b hb),
    fun l hl => (k.failed l ((h.inTrace_eq _).trans hl)).trans (h.failed l hl), fun o ho => k.outs o (h.outs o ho)⟩

end OnlyReports

theorem sendOut_onlyReports (s : State) (o : Output) : OnlyReports s (sendOut s o) := by
  unfold sendOut
  split <;> exact .of_quiet rfl rfl fun p hp => by simp [outputs] at hp ⊢; tauto

theorem emit_onlyReports (s : State) (o : Output) : OnlyReports s (emit s o) := by
  unfold emit
  split
  · exact .of_quiet rfl rfl fun p hp => by simp [outputs] at hp ⊢; tauto
  · exact sendOut_onlyReports s o

/-- Any number of outputs. -/
theorem foldl_emit_onlyReports {α : Type} (f : State → α → Output) (l : List α) (s : State) :
    OnlyReports s (l.foldl (fun t x => emit t (f t x)) s) := by
  induction l generalizing s with
  | nil => exact .refl s
  | cons x l ih => exact (emit_onlyReports s _).trans (ih _)

theorem writeResult_onlyReports (s : State) (d : Target) (a : Nat) (bs : Bytes) : OnlyReports s (writeResult s d a bs) :=
  foldl_emit_onlyReports (fun _ (x : Nat × Nat) => .memWrite d x.1 (slice bs (x.1 - a) x.2)) _ s

theorem writeOwned_onlyReports (s : State) (d : Target) (a : Nat) (bs : Bytes) : OnlyReports s (writeOwned s d a bs) :=
  (emit_onlyReports _ _).trans (emit_onlyReports _ _)

theorem msixSend_onlyReports (s : State) (fn v : Nat) : OnlyReports s (msixSend s fn v) := by
  unfold msixSend
  split
  · exact .refl s
  · split
    · exact .refl s
    · split
      · refine .of_quiet ?_ rfl fun _ h => h
        simp only [quiet, tmod, List.map_map]
        congr 1
        apply List.map_congr_left
        rintro ⟨n, f⟩ -
        simp only [Function.comp]
        split
        · next h => subst h; rfl
        · rfl
      · exact emit_onlyReports _ _

theorem msixRaise_onlyReports (s : State) (fn v : Nat) : OnlyReports s (msixRaise s fn v) := by
  unfold msixRaise
  split
  · exact .refl s
  · exact msixSend_onlyReports s fn v

theorem length_leBytes (n v : Nat) : (leBytes n v).length = n := by
  induction n generalizing v with
  | zero => rfl
  | succ n ih => simp [leBytes, ih]

theorem length_traceBytes (t : BitVec 64) (q : Word) (y r : Nat) (d : BitVec 96) : (traceBytes t q y r d).length = 32 := by
  simp [traceBytes, length_leBytes]

/-- A line stored inside the trace ring is a report. -/
theorem putLine_onlyReports (s : State) (a : Nat) (bs : Bytes) (base l : Nat) (hr : s.trace.ring = some (base, l))
    (h1 : base ≤ a) (h2 : a + bs.length ≤ base + 2 ^ l) (h3 : 0 < bs.length) : OnlyReports s (putLine s a bs) := by
  have blk : ∀ x, inTrace s x = false → x / 4096 < base / 4096 ∨ (base + 2 ^ l - 1) / 4096 < x / 4096 := by
    intro x hx
    simp only [inTrace, hr, Bool.and_eq_false_iff, decide_eq_false_iff_not] at hx
    omega
  have lo : base / 4096 ≤ a / 4096 := Nat.div_le_div_right h1
  have hi : (a + bs.length - 1) / 4096 ≤ (base + 2 ^ l - 1) / 4096 := Nat.div_le_div_right (by omega)
  have mid : a / 4096 ≤ (a + bs.length - 1) / 4096 := Nat.div_le_div_right (by omega)
  unfold putLine
  dsimp only
  split
  · exact .refl s
  · refine ⟨rfl, fun x hx => ?_, fun b hb => ?_, fun n hn => ?_, fun _ h => h⟩
    · have := blk x hx
      show memByte (memWrite _ a bs) x = _
      rw [memByte_memWrite_of_outside _ _ _ _ (by omega)]
      split
      · exact memByte_memZero_of_outside _ _ _ _ (by omega)
      · rfl
    · have := blk _ hb
      have hne : b ≠ a / 4096 := by omega
      cases hw : s.pool.written.contains (a / 4096) <;> simp only [writtenFlag, hw] <;> simp [hne]
    · have := blk _ hn
      dsimp only
      split
      · have hne : n / 64 ≠ a / 4096 := by omega
        rw [Bool.eq_iff_iff]
        simp only [List.contains_iff_mem, List.mem_filter, Bool.not_eq_true', beq_eq_false_iff_ne]
        exact ⟨fun h => h.1, fun h => ⟨h, hne⟩⟩
      · rfl

theorem writeSeq_onlyReports (s : State) (n : Word) : OnlyReports s { s with trace := { s.trace with writeSeq := n } } :=
  .of_quiet rfl rfl fun _ h => h

/-- A record lies inside the trace ring. -/
theorem tracePut_onlyReports (s : State) (type source : Nat) (data : BitVec 96) : OnlyReports s (tracePut s type source data) := by
  unfold tracePut
  split
  · exact .refl s
  · next base l hr =>
    split
    · exact .refl s
    · next hc =>
      have hcap : traceCap s = 2 ^ l / 32 := by simp [traceCap, hr]
      have hlt := Nat.mod_lt s.trace.writeSeq.toNat (Nat.pos_of_ne_zero hc)
      have h32 : 32 * (2 ^ l / 32) ≤ 2 ^ l := Nat.mul_div_le _ _
      have hp := putLine_onlyReports s (base + 32 * (s.trace.writeSeq.toNat % traceCap s))
        (traceBytes s.time.dev s.trace.writeSeq type source data) base l hr (by omega)
        (by rw [length_traceBytes]; rw [hcap] at hlt ⊢; omega) (by rw [length_traceBytes]; omega)
      have step (n : Word) := hp.trans (writeSeq_onlyReports _ n)
      dsimp only
      split
      · exact (step _).trans (msixRaise_onlyReports _ _ _)
      · exact step _

theorem traceLose_onlyReports (s : State) (full : Bool) : OnlyReports s (traceLose s full) := .of_quiet rfl rfl fun _ h => h

theorem sinceLost_onlyReports (s : State) (n : Nat) (b : Bool) :
    OnlyReports s { s with trace := { s.trace with sinceLost := n, lostDue := b } } := .of_quiet rfl rfl fun _ h => h

theorem traceRaw_onlyReports (s : State) (cls : Option Nat) (type source : Nat) (data : BitVec 96) :
    OnlyReports s (traceRaw s cls type source data).1 := by
  unfold traceRaw
  repeat' (first | split | dsimp only)
  all_goals first
    | exact .refl s
    | exact traceLose_onlyReports s _
    | exact tracePut_onlyReports _ _ _ _
    | exact ((tracePut_onlyReports s 0x0003 0 _).trans (sinceLost_onlyReports _ 0 false)).trans (tracePut_onlyReports _ _ _ _)

theorem evtSeq_onlyReports (s : State) (n : Word) : OnlyReports s { s with adm := { s.adm with evtSeq := n } } :=
  .of_quiet rfl rfl fun _ h => h

theorem evtOverflow_onlyReports (s : State) (b : Bool) : OnlyReports s { s with adm := { s.adm with evtOverflow := b } } :=
  .of_quiet rfl rfl fun _ h => h

theorem evtSlot_onlyReports (s : State) (free next : Nat) :
    OnlyReports s { s with adm := { s.adm with evtFree := free, evtNext := next } } := .of_quiet rfl rfl fun _ h => h

theorem putEventRaw_onlyReports (s : State) (code : BitVec 16) (time : BitVec 64) (data : BitVec 96) :
    OnlyReports s (putEventRaw s code time data).1 := by
  unfold putEventRaw
  split
  · exact (evtSeq_onlyReports s _).trans (evtOverflow_onlyReports _ _)
  · exact ((((evtSeq_onlyReports s _).trans (writeOwned_onlyReports _ _ _ _)).trans (evtSlot_onlyReports _ _ _)).trans
      (msixRaise_onlyReports _ _ _)).trans (traceRaw_onlyReports _ _ _ _ _)

theorem putEvent_onlyReports (s : State) (code : BitVec 16) (time : BitVec 64) (data : BitVec 96) :
    OnlyReports s (putEvent s code time data) := by
  unfold putEvent
  dsimp only
  split
  · exact (putEventRaw_onlyReports _ _ _ _).trans (putEventRaw_onlyReports _ _ _ _)
  · exact putEventRaw_onlyReports _ _ _ _

theorem putOrHold_onlyReports (s : State) (code : BitVec 16) (time : BitVec 64) (data : BitVec 96) :
    OnlyReports s (putOrHold s code time data) := by
  unfold putOrHold
  repeat' split
  all_goals first | exact putEvent_onlyReports _ _ _ _ | exact .of_quiet rfl rfl fun _ h => h

/-- An event changes nothing but what reports leave. -/
theorem post_onlyReports (s : State) (code : BitVec 16) (data : BitVec 96) : OnlyReports s (post s code data) := by
  unfold post
  repeat' split
  all_goals first | exact .refl s | exact putOrHold_onlyReports _ _ _ _ | exact .of_quiet rfl rfl fun _ h => h

theorem trace_onlyReports (s : State) (cls : Option Nat) (type source : Nat) (data : BitVec 96) :
    OnlyReports s (trace s cls type source data) := by
  unfold trace
  dsimp only
  split
  · exact (traceRaw_onlyReports _ _ _ _ _).trans (post_onlyReports _ _ _)
  · exact traceRaw_onlyReports _ _ _ _ _

/-! ### The completion of an admin command -/

/-- An output joins the others. -/
theorem mem_outputs_emit (s : State) (o p : Output) : p ∈ outputs (emit s o) ↔ p ∈ outputs s ∨ p = o := by
  unfold emit sendOut outputs; split <;> [skip; split] <;> simp <;> tauto

/-- The output is there. -/
theorem emit_mem (s : State) (o : Output) : o ∈ outputs (emit s o) := (mem_outputs_emit s o o).2 (.inr rfl)

/-- A report changes no field that `quiet` leaves. -/
theorem OnlyReports.adm_eq {s t : State} (h : OnlyReports s t) : t.adm.enable = s.adm.enable ∧ t.adm.enabled = s.adm.enabled ∧
    t.adm.cmds = s.adm.cmds ∧ t.adm.fetching = s.adm.fetching ∧ t.adm.reading = s.adm.reading ∧ t.adm.ringBase = s.adm.ringBase ∧
    t.adm.head = s.adm.head ∧ t.halted = s.halted ∧ serving t = serving s := by
  have f {α : Type} (g : State → α) (hg : ∀ u, g (quiet u) = g u) : g t = g s := by rw [← hg t, h.same, hg]
  exact ⟨f (·.adm.enable) fun _ => rfl, f (·.adm.enabled) fun _ => rfl, f (·.adm.cmds) fun _ => rfl, f (·.adm.fetching) fun _ => rfl,
    f (·.adm.reading) fun _ => rfl, f (·.adm.ringBase) fun _ => rfl, f (·.adm.head) fun _ => rfl, f (·.halted) fun _ => rfl,
    f serving fun _ => rfl⟩

/-- The same output leaves two states apart by reports alone. -/
theorem emit_congr {s t : State} (h : OnlyReports s t) (o : Output) : OnlyReports (emit s o) (emit t o) := by
  have hs := emit_onlyReports s o
  have k := h.trans (emit_onlyReports t o)
  refine ⟨k.same.trans hs.same.symm, fun a ha => ?_, fun b hb => ?_, fun l hl => ?_, fun p hp => ?_⟩
  · rw [k.mem a ((hs.inTrace_eq a).symm.trans ha), hs.mem a ((hs.inTrace_eq a).symm.trans ha)]
  · rw [k.written b ((hs.inTrace_eq _).symm.trans hb), hs.written b ((hs.inTrace_eq _).symm.trans hb)]
  · rw [k.failed l ((hs.inTrace_eq _).symm.trans hl), hs.failed l ((hs.inTrace_eq _).symm.trans hl)]
  · rw [mem_outputs_emit] at hp ⊢
    exact hp.imp_left (h.outs p)

theorem reading_onlyReports {s t : State} (h : OnlyReports s t) :
    OnlyReports { s with adm := { s.adm with reading := true } } { t with adm := { t.adm with reading := true } } :=
  ⟨congrArg (fun u => { u with adm := { u.adm with reading := true } }) h.same, h.mem, h.written, h.failed, h.outs⟩

/-- `admFetch` reads and writes nothing that a report changes. -/
theorem admFetch_onlyReports {s t : State} (h : OnlyReports s t) : OnlyReports (admFetch s) (admFetch t) := by
  obtain ⟨h1, h2, h3, h4, h5, h6, h7, h8, h9⟩ := h.adm_eq
  have hm : admMayFetch t = admMayFetch s := by unfold admMayFetch; rw [h1, h2, h3, h4, h5, h9]
  unfold admFetch
  rw [hm, h6, h7]
  split
  · exact emit_congr (reading_onlyReports h) _
  · exact h

/-- `admSettle` reads and writes nothing that a report changes. -/
theorem admSettle_onlyReports {s t : State} (h : OnlyReports s t) : OnlyReports (admSettle s) (admSettle t) := by
  obtain ⟨h1, h2, h3, -⟩ := h.adm_eq
  unfold admSettle
  rw [h1, h2, h3]
  split
  · exact ⟨congrArg (fun u => { u with adm := { u.adm with enabled := false, fetching := false, reading := false, bell := false } }) h.same,
      h.mem, h.written, h.failed, h.outs⟩
  · exact admFetch_onlyReports h

/-- A report leaves what it reports on the command list to the caller. -/
theorem dropCmd_onlyReports {s t : State} (h : OnlyReports s t) (slot : Nat) :
    OnlyReports { s with adm := { s.adm with cmds := s.adm.cmds.filter fun c => !(c.slot == slot) } }
      { t with adm := { t.adm with cmds := t.adm.cmds.filter fun c => !(c.slot == slot) } } :=
  ⟨congrArg (fun u => { u with adm := { u.adm with cmds := u.adm.cmds.filter fun c => !(c.slot == slot) } }) h.same, h.mem, h.written,
    h.failed, h.outs⟩

/-- What completing an admin entry does: the command leaves the ring's list, and the rest are reports. -/
theorem completeEntry_onlyReports (s : State) (slot : Nat) (res : Entry) (status : BitVec 8) (reason : Nat) :
    OnlyReports (admDone s slot) (completeEntry s slot res status reason) := by
  unfold completeEntry admDone
  refine admSettle_onlyReports (OnlyReports.trans ?_ (trace_onlyReports _ _ _ _ _))
  refine OnlyReports.trans ?_ (msixRaise_onlyReports _ _ _)
  exact dropCmd_onlyReports (writeOwned_onlyReports s _ _ _) slot

/-- Settling the ring takes no output back. -/
theorem admSettle_outs (s : State) (o : Output) (h : o ∈ outputs s) : o ∈ outputs (admSettle s) := by
  unfold admSettle admFetch
  split
  · exact h
  · split
    · exact (emit_onlyReports _ _).outs o h
    · exact h

/-- The completed entry is written. -/
theorem completeEntry_written (s : State) (slot : Nat) (res : Entry) (status : BitVec 8) (reason : Nat) :
    EntryWritten s (completeEntry s slot res status reason) slot res status reason := by
  unfold completeEntry EntryWritten
  refine admSettle_outs _ _ ((trace_onlyReports _ _ _ _ _).outs _ ((msixRaise_onlyReports _ _ _).outs _ ?_))
  exact (emit_onlyReports _ _).outs _ (emit_mem _ _)

/-- Whatever a report leaves alone is as before. -/
theorem OnlyReports.eq_of {α : Type} {s t : State} (h : OnlyReports s t) (f : State → α) (hf : ∀ u, f (quiet u) = f u) : f t = f s := by
  rw [← hf t, h.same, hf]

theorem admDone_onlyReports {s t : State} (h : OnlyReports s t) (slot : Nat) : OnlyReports (admDone s slot) (admDone t slot) :=
  admSettle_onlyReports (dropCmd_onlyReports h slot)

/-- A meaning that ends with the completion of `slot`, on a state that is `t` but for reports, completes with `t`. -/
theorem completes_of {i : Instr} {s t u : State} {slot : Nat} {res : Entry} {status : BitVec 8} {reason : Nat}
    (h : exec i s = .next (completeEntry u slot res status reason)) (hr : OnlyReports t u)
    (hb : t.adm.ringBase = s.adm.ringBase) (he : t.epoch = s.epoch) : Completes i s slot res status reason t := by
  refine ⟨_, h, (admDone_onlyReports hr slot).trans (completeEntry_onlyReports _ _ _ _ _), ?_⟩
  have hb' : u.adm.ringBase = t.adm.ringBase := hr.eq_of (fun v => v.adm.ringBase) fun _ => rfl
  have he' : u.epoch = t.epoch := hr.eq_of (fun v => v.epoch) fun _ => rfl
  have w := completeEntry_written u slot res status reason
  unfold EntryWritten at w ⊢
  rw [← hb, ← he, ← hb', ← he']
  exact w

/-- A report leaves the ring's commands as they are. -/
theorem OnlyReports.admCmd_eq {s t : State} (h : OnlyReports s t) (slot : Nat) : admCmd t slot = admCmd s slot :=
  h.eq_of (fun v => admCmd v slot) fun _ => rfl

theorem complete_eq {s : State} {slot : Nat} {c : AdminCmd} (h : admCmd s slot = some c) :
    complete s slot = completeEntry s slot c.entry stOk rsNone := by simp [complete, completeWith, h]

theorem completeWith_eq {s : State} {slot : Nat} {c : AdminCmd} (h : admCmd s slot = some c) (f : Entry → Entry) :
    completeWith s slot f = completeEntry s slot (f c.entry) stOk rsNone := by simp [completeWith, h]

theorem refuse_eq {s : State} {slot : Nat} {c : AdminCmd} (h : admCmd s slot = some c) (status : BitVec 8) (reason : Nat) :
    refuse s slot status reason = completeEntry s slot c.entry status reason := by simp [refuse, h]

/-- A command that may start is in the ring's list. -/
theorem admCmd_of_mayStart {s : State} {slot opcode : Nat} {c : AdminCmd} (h : mayStart s slot opcode = some c) :
    admCmd s slot = some c := by
  unfold mayStart at h
  split at h
  · cases h
  · next d hd => rw [hd]; dsimp only at h; split at h <;> simp_all

/-- The meaning of an admin command that can start. -/
theorem startAdmin_of_canStart {s : State} {slot opcode : Nat} {c : AdminCmd} (h : CanStart s slot opcode c)
    (f : AdminCmd → State → State) : startAdmin s slot opcode f = f c s := by simp [startAdmin, h.1, h.2]

end Sys2Proof.Machine
end

