-- ==== Sys2Proof/Laws/Memory.lean ====
section
/-!
SUPPORT. Byte memories: what a read after a write gives, and that every operation keeps the canonical form.
-/

namespace Sys2Proof.Machine

/-- The canonical form, said of the whole list: addresses strictly rising, no zero byte. -/
theorem memWf_iff (m : List (Nat × Byte)) :
    memWf m = true ↔ m.Pairwise (fun c d => c.1 < d.1) ∧ ∀ c ∈ m, c.2 ≠ 0 := by
  induction m with
  | nil => simp [memWf]
  | cons c m ih =>
    obtain ⟨a, b⟩ := c
    cases m with
    | nil => simp [memWf]
    | cons d m =>
      obtain ⟨a', b'⟩ := d
      simp only [memWf, Bool.and_eq_true, bne_iff_ne, decide_eq_true_eq, ih]
      constructor
      · rintro ⟨⟨hb, ha⟩, hp, hz⟩
        refine ⟨List.pairwise_cons.2 ⟨?_, hp⟩, ?_⟩
        · intro x hx
          rcases List.mem_cons.1 hx with h | h
          · subst h; exact ha
          · exact Nat.lt_trans ha ((List.pairwise_cons.1 hp).1 x h)
        · intro x hx
          rcases List.mem_cons.1 hx with h | h
          · subst h; exact hb
          · exact hz x h
      · rintro ⟨hp, hz⟩
        have h := List.pairwise_cons.1 hp
        exact ⟨⟨hz (a, b) (by simp), h.1 (a', b') (by simp)⟩, h.2, fun x hx => hz x (by simp [hx])⟩

theorem memWf_filter {m : List (Nat × Byte)} (h : memWf m = true) (p : Nat × Byte → Bool) : memWf (m.filter p) = true := by
  rw [memWf_iff] at *
  exact ⟨h.1.filter _, fun c hc => h.2 c (List.mem_filter.1 hc).1⟩

/-- Zeroing a range keeps the canonical form. -/
theorem memWf_memZero {m : List (Nat × Byte)} (h : memWf m = true) (a n : Nat) : memWf (memZero m a n) = true := memWf_filter h _

theorem memWf_memCells (a : Nat) (bs : Bytes) : memWf (memCells a bs) = true := by
  rw [memWf_iff]
  induction bs generalizing a with
  | nil => simp [memCells]
  | cons b bs ih =>
    simp only [memCells]
    split
    · exact ih _
    · rename_i hb
      refine ⟨List.pairwise_cons.2 ⟨fun c hc => ?_, (ih _).1⟩, fun c hc => ?_⟩
      · have := memCells_range (a + 1) bs c hc; omega
      · rcases List.mem_cons.1 hc with h | h
        · subst h; exact hb
        · exact (ih _).2 c h

/-- A write keeps the canonical form. -/
theorem memWf_memWrite {m : List (Nat × Byte)} (h : memWf m = true) (a : Nat) (bs : Bytes) : memWf (memWrite m a bs) = true := by
  have hc := memWf_memCells a bs
  rw [memWf_iff] at *
  unfold memWrite
  refine ⟨List.pairwise_append.2 ⟨List.pairwise_append.2 ⟨h.1.filter _, hc.1, ?_⟩, h.1.filter _, ?_⟩, ?_⟩
  · intro x hx y hy
    have := memCells_range a bs y hy
    have hx := (List.mem_filter.1 hx).2; simp at hx; omega
  · intro x hx y hy
    have hy := (List.mem_filter.1 hy).2; simp at hy
    rcases List.mem_append.1 hx with h | h
    · have h := (List.mem_filter.1 h).2; simp at h; omega
    · have := memCells_range a bs x h; omega
  · intro x hx
    rcases List.mem_append.1 hx with h' | h'
    · rcases List.mem_append.1 h' with h' | h'
      · exact h.2 x (List.mem_filter.1 h').1
      · exact hc.2 x h'
    · exact h.2 x (List.mem_filter.1 h').1

theorem memByte_memCells (bs : Bytes) (a i : Nat) (h : i < bs.length) : memByte (memCells a bs) (a + i) = bs[i] := by
  induction bs generalizing a i with
  | nil => simp at h
  | cons b bs ih =>
    simp only [memCells]
    cases i with
    | zero =>
      split
      · rename_i hb
        have := memByte_append (memCells (a + 1) bs) [] a fun c hc => by have := memCells_range (a + 1) bs c hc; omega
        simpa [memByte, hb] using this
      · simp [memByte]
    | succ i =>
      have := ih (a + 1) i (by simpa using h)
      rw [show a + 1 + i = a + (i + 1) by omega] at this
      split
      · simpa using this
      · rw [memByte, if_neg (by omega)]; simpa using this

/-- A byte stored is the byte read back. -/
theorem memByte_memWrite_of_inside (m : List (Nat × Byte)) (a : Nat) (bs : Bytes) (i : Nat) (h : i < bs.length) :
    memByte (memWrite m a bs) (a + i) = bs[i] := by
  unfold memWrite
  rw [memByte_append_right _ _ _ (by simp only [List.mem_filter]; intro c hc; have := hc.2; simp at this; omega),
    memByte_append _ _ _ (by simp only [List.mem_filter]; intro c hc; have := hc.2; simp at this; omega)]
  exact memByte_memCells bs a i h

/-- The run stored is the run read back. -/
theorem memRead_memWrite (m : List (Nat × Byte)) (a : Nat) (bs : Bytes) : memRead (memWrite m a bs) a bs.length = bs := by
  refine List.ext_getElem (by simp [memRead]) fun i h _ => ?_
  simp only [memRead, List.getElem_map, List.getElem_range]
  exact memByte_memWrite_of_inside m a bs i (by simpa [memRead] using h)

/-- A byte zeroed reads zero. -/
theorem memByte_memZero_of_inside (m : List (Nat × Byte)) (a n x : Nat) (h : a ≤ x) (h' : x < a + n) :
    memByte (memZero m a n) x = 0 := by
  have := memByte_append (memZero m a n) [] x fun c hc => by
    have := (List.mem_filter.1 hc).2; simp at this; omega
  simpa [memByte] using this

theorem tget_tput {α : Type} (t : Tab α) (k : Nat) (v : α) : tget (tput t k v) k = some v := by
  induction t with
  | nil => simp [tput, tget]
  | cons r t ih =>
    obtain ⟨n, w⟩ := r
    simp only [tput]
    split
    · simp [tget]
    · split
      · simp [tget]
      · rename_i h; simpa [tget, h] using ih

theorem tget_tput_of_ne {α : Type} (t : Tab α) (k j : Nat) (v : α) (h : j ≠ k) : tget (tput t k v) j = tget t j := by
  induction t with
  | nil => simp [tput, tget, h.symm]
  | cons r t ih =>
    obtain ⟨n, w⟩ := r
    simp only [tput]
    split
    · simp [tget, h.symm]
    · split
      · rename_i hn; subst hn; simp [tget, h.symm]
      · simp [tget, ih]

theorem tget_tmod {α : Type} (t : Tab α) (k : Nat) (f : α → α) : tget (tmod t k f) k = (tget t k).map f := by
  induction t with
  | nil => rfl
  | cons r t ih =>
    obtain ⟨n, w⟩ := r
    by_cases h : n = k
    · simp [tmod, tget, h]
    · simpa [tmod, tget, h] using ih

theorem tget_tmod_of_ne {α : Type} (t : Tab α) (k j : Nat) (f : α → α) (h : j ≠ k) : tget (tmod t k f) j = tget t j := by
  induction t with
  | nil => rfl
  | cons r t ih =>
    obtain ⟨n, w⟩ := r
    by_cases hn : n = k
    · subst hn; simpa [tmod, tget, h.symm] using ih
    · by_cases hj : n = j
      · simp [tmod, tget, hj, h]
      · simpa [tmod, tget, hn, hj] using ih

theorem tget_tdel {α : Type} (t : Tab α) (k : Nat) : tget (tdel t k) k = none := by
  induction t with
  | nil => rfl
  | cons r t ih =>
    obtain ⟨n, w⟩ := r
    by_cases h : n = k
    · simpa [tdel, h] using ih
    · simpa [tdel, tget, h] using ih

end Sys2Proof.Machine
end

