-- ==== Sys2Proof/Laws/State.lean ====
section
/-!
SUPPORT. What each update of State leaves unchanged, field by field, and the one field it sets: the lemmas a proof rewrites with
in place of unfolding a record update.
-/

namespace Sys2Proof.Machine

variable (s : State)

@[simp] theorem sendOut_fields (o : Output) :
    (sendOut s o).pins = s.pins ∧ (sendOut s o).power = s.power ∧ (sendOut s o).clocks = s.clocks ∧ (sendOut s o).time = s.time ∧ (sendOut
    s o).start = s.start ∧ (sendOut s o).adm = s.adm ∧ (sendOut s o).epoch = s.epoch ∧ (sendOut s o).ctlReset = s.ctlReset ∧ (sendOut s
    o).pm = s.pm ∧ (sendOut s o).trace = s.trace ∧ (sendOut s o).wdt = s.wdt ∧ (sendOut s o).vfEnable = s.vfEnable ∧ (sendOut s o).numVfs
    = s.numVfs ∧ (sendOut s o).fns = s.fns ∧ (sendOut s o).payload = s.payload ∧ (sendOut s o).readReq = s.readReq ∧ (sendOut s o).relaxed
    = s.relaxed ∧ (sendOut s o).aspmL1 = s.aspmL1 ∧ (sendOut s o).pfBar = s.pfBar ∧ (sendOut s o).vfBar = s.vfBar ∧ (sendOut s o).pages =
    s.pages ∧ (sendOut s o).cqs = s.cqs ∧ (sendOut s o).qps = s.qps ∧ (sendOut s o).msgOut = s.msgOut ∧ (sendOut s o).dests = s.dests ∧
    (sendOut s o).pathConf = s.pathConf ∧ (sendOut s o).pathDef = s.pathDef ∧ (sendOut s o).cong = s.cong ∧ (sendOut s o).ports = s.ports
    ∧ (sendOut s o).classes = s.classes ∧ (sendOut s o).limiters = s.limiters ∧ (sendOut s o).trains = s.trains ∧ (sendOut s o).txq =
    s.txq ∧ (sendOut s o).rxq = s.rxq ∧ (sendOut s o).mirrors = s.mirrors ∧ (sendOut s o).tcache = s.tcache ∧ (sendOut s o).ats = s.ats ∧
    (sendOut s o).waits = s.waits ∧ (sendOut s o).pageReqs = s.pageReqs ∧ (sendOut s o).prgHeld = s.prgHeld ∧ (sendOut s o).reads =
    s.reads ∧ (sendOut s o).flushes = s.flushes ∧ (sendOut s o).drains = s.drains ∧ (sendOut s o).pool = s.pool ∧ (sendOut s o).insts =
    s.insts ∧ (sendOut s o).ctxs = s.ctxs ∧ (sendOut s o).kettles = s.kettles ∧ (sendOut s o).array = s.array ∧ (sendOut s o).forwards =
    s.forwards ∧ (sendOut s o).counters = s.counters ∧ (sendOut s o).cipher = s.cipher ∧ (sendOut s o).pfMbx = s.pfMbx ∧ (sendOut s
    o).secMbx = s.secMbx ∧ (sendOut s o).relays = s.relays ∧ (sendOut s o).secLast = s.secLast ∧ (sendOut s o).secRuns = s.secRuns ∧
    (sendOut s o).owl = s.owl ∧ (sendOut s o).traffic = s.traffic ∧ (sendOut s o).eid = s.eid ∧ (sendOut s o).a1 = s.a1 ∧ (sendOut s
    o).halted = s.halted ∧ (sendOut s o).dbg = s.dbg ∧ (sendOut s o).heldOut = s.heldOut ∧ (sendOut s o).pending = s.pending ∧ (sendOut s
    o).now = s.now ∧ (sendOut s o).fresh = s.fresh := by
  unfold sendOut; split <;> (and_intros <;> rfl)

@[simp] theorem emit_fields (o : Output) :
    (emit s o).pins = s.pins ∧ (emit s o).power = s.power ∧ (emit s o).clocks = s.clocks ∧ (emit s o).time = s.time ∧ (emit s o).start =
    s.start ∧ (emit s o).adm = s.adm ∧ (emit s o).epoch = s.epoch ∧ (emit s o).ctlReset = s.ctlReset ∧ (emit s o).pm = s.pm ∧ (emit s
    o).trace = s.trace ∧ (emit s o).wdt = s.wdt ∧ (emit s o).vfEnable = s.vfEnable ∧ (emit s o).numVfs = s.numVfs ∧ (emit s o).fns = s.fns
    ∧ (emit s o).payload = s.payload ∧ (emit s o).readReq = s.readReq ∧ (emit s o).relaxed = s.relaxed ∧ (emit s o).aspmL1 = s.aspmL1 ∧
    (emit s o).pfBar = s.pfBar ∧ (emit s o).vfBar = s.vfBar ∧ (emit s o).pages = s.pages ∧ (emit s o).cqs = s.cqs ∧ (emit s o).qps = s.qps
    ∧ (emit s o).msgOut = s.msgOut ∧ (emit s o).dests = s.dests ∧ (emit s o).pathConf = s.pathConf ∧ (emit s o).pathDef = s.pathDef ∧
    (emit s o).cong = s.cong ∧ (emit s o).ports = s.ports ∧ (emit s o).classes = s.classes ∧ (emit s o).limiters = s.limiters ∧ (emit s
    o).trains = s.trains ∧ (emit s o).txq = s.txq ∧ (emit s o).rxq = s.rxq ∧ (emit s o).mirrors = s.mirrors ∧ (emit s o).tcache = s.tcache
    ∧ (emit s o).ats = s.ats ∧ (emit s o).waits = s.waits ∧ (emit s o).pageReqs = s.pageReqs ∧ (emit s o).prgHeld = s.prgHeld ∧ (emit s
    o).reads = s.reads ∧ (emit s o).flushes = s.flushes ∧ (emit s o).drains = s.drains ∧ (emit s o).pool = s.pool ∧ (emit s o).insts =
    s.insts ∧ (emit s o).ctxs = s.ctxs ∧ (emit s o).kettles = s.kettles ∧ (emit s o).array = s.array ∧ (emit s o).forwards = s.forwards ∧
    (emit s o).counters = s.counters ∧ (emit s o).cipher = s.cipher ∧ (emit s o).pfMbx = s.pfMbx ∧ (emit s o).secMbx = s.secMbx ∧ (emit s
    o).relays = s.relays ∧ (emit s o).secLast = s.secLast ∧ (emit s o).secRuns = s.secRuns ∧ (emit s o).owl = s.owl ∧ (emit s o).traffic =
    s.traffic ∧ (emit s o).eid = s.eid ∧ (emit s o).a1 = s.a1 ∧ (emit s o).halted = s.halted ∧ (emit s o).dbg = s.dbg ∧ (emit s o).pending
    = s.pending ∧ (emit s o).now = s.now ∧ (emit s o).fresh = s.fresh := by
  unfold emit sendOut; split <;> [skip; split] <;> (and_intros <;> rfl)

@[simp] theorem count_fields (group index n k : Nat) :
    (count s group index n k).pins = s.pins ∧ (count s group index n k).power = s.power ∧ (count s group index n k).clocks = s.clocks ∧
    (count s group index n k).time = s.time ∧ (count s group index n k).start = s.start ∧ (count s group index n k).adm = s.adm ∧ (count s
    group index n k).epoch = s.epoch ∧ (count s group index n k).ctlReset = s.ctlReset ∧ (count s group index n k).pm = s.pm ∧ (count s
    group index n k).trace = s.trace ∧ (count s group index n k).wdt = s.wdt ∧ (count s group index n k).vfEnable = s.vfEnable ∧ (count s
    group index n k).numVfs = s.numVfs ∧ (count s group index n k).fns = s.fns ∧ (count s group index n k).payload = s.payload ∧ (count s
    group index n k).readReq = s.readReq ∧ (count s group index n k).relaxed = s.relaxed ∧ (count s group index n k).aspmL1 = s.aspmL1 ∧
    (count s group index n k).pfBar = s.pfBar ∧ (count s group index n k).vfBar = s.vfBar ∧ (count s group index n k).pages = s.pages ∧
    (count s group index n k).cqs = s.cqs ∧ (count s group index n k).qps = s.qps ∧ (count s group index n k).msgOut = s.msgOut ∧ (count s
    group index n k).dests = s.dests ∧ (count s group index n k).pathConf = s.pathConf ∧ (count s group index n k).pathDef = s.pathDef ∧
    (count s group index n k).cong = s.cong ∧ (count s group index n k).ports = s.ports ∧ (count s group index n k).classes = s.classes ∧
    (count s group index n k).limiters = s.limiters ∧ (count s group index n k).trains = s.trains ∧ (count s group index n k).txq = s.txq
    ∧ (count s group index n k).rxq = s.rxq ∧ (count s group index n k).mirrors = s.mirrors ∧ (count s group index n k).tcache = s.tcache
    ∧ (count s group index n k).ats = s.ats ∧ (count s group index n k).waits = s.waits ∧ (count s group index n k).pageReqs = s.pageReqs
    ∧ (count s group index n k).prgHeld = s.prgHeld ∧ (count s group index n k).reads = s.reads ∧ (count s group index n k).flushes =
    s.flushes ∧ (count s group index n k).drains = s.drains ∧ (count s group index n k).pool = s.pool ∧ (count s group index n k).insts =
    s.insts ∧ (count s group index n k).ctxs = s.ctxs ∧ (count s group index n k).kettles = s.kettles ∧ (count s group index n k).array =
    s.array ∧ (count s group index n k).forwards = s.forwards ∧ (count s group index n k).cipher = s.cipher ∧ (count s group index n
    k).pfMbx = s.pfMbx ∧ (count s group index n k).secMbx = s.secMbx ∧ (count s group index n k).relays = s.relays ∧ (count s group index
    n k).secLast = s.secLast ∧ (count s group index n k).secRuns = s.secRuns ∧ (count s group index n k).owl = s.owl ∧ (count s group
    index n k).traffic = s.traffic ∧ (count s group index n k).eid = s.eid ∧ (count s group index n k).a1 = s.a1 ∧ (count s group index n
    k).halted = s.halted ∧ (count s group index n k).dbg = s.dbg ∧ (count s group index n k).out = s.out ∧ (count s group index n
    k).heldOut = s.heldOut ∧ (count s group index n k).portHeld = s.portHeld ∧ (count s group index n k).pending = s.pending ∧ (count s
    group index n k).now = s.now ∧ (count s group index n k).fresh = s.fresh ∧ (count s group index n k).counters = tput s.counters
    (counterKey group index n) (min (2 ^ 64 - 1) (counter s group index n + k)) := by
  and_intros <;> rfl

@[simp] theorem heardTlp_fields :
    (heardTlp s).pins = s.pins ∧ (heardTlp s).power = s.power ∧ (heardTlp s).clocks = s.clocks ∧ (heardTlp s).time = s.time ∧ (heardTlp
    s).start = s.start ∧ (heardTlp s).adm = s.adm ∧ (heardTlp s).epoch = s.epoch ∧ (heardTlp s).ctlReset = s.ctlReset ∧ (heardTlp s).pm =
    s.pm ∧ (heardTlp s).trace = s.trace ∧ (heardTlp s).wdt = s.wdt ∧ (heardTlp s).vfEnable = s.vfEnable ∧ (heardTlp s).numVfs = s.numVfs ∧
    (heardTlp s).fns = s.fns ∧ (heardTlp s).payload = s.payload ∧ (heardTlp s).readReq = s.readReq ∧ (heardTlp s).relaxed = s.relaxed ∧
    (heardTlp s).aspmL1 = s.aspmL1 ∧ (heardTlp s).pfBar = s.pfBar ∧ (heardTlp s).vfBar = s.vfBar ∧ (heardTlp s).pages = s.pages ∧
    (heardTlp s).cqs = s.cqs ∧ (heardTlp s).qps = s.qps ∧ (heardTlp s).msgOut = s.msgOut ∧ (heardTlp s).dests = s.dests ∧ (heardTlp
    s).pathConf = s.pathConf ∧ (heardTlp s).pathDef = s.pathDef ∧ (heardTlp s).cong = s.cong ∧ (heardTlp s).ports = s.ports ∧ (heardTlp
    s).classes = s.classes ∧ (heardTlp s).limiters = s.limiters ∧ (heardTlp s).trains = s.trains ∧ (heardTlp s).txq = s.txq ∧ (heardTlp
    s).rxq = s.rxq ∧ (heardTlp s).mirrors = s.mirrors ∧ (heardTlp s).tcache = s.tcache ∧ (heardTlp s).ats = s.ats ∧ (heardTlp s).waits =
    s.waits ∧ (heardTlp s).pageReqs = s.pageReqs ∧ (heardTlp s).prgHeld = s.prgHeld ∧ (heardTlp s).reads = s.reads ∧ (heardTlp s).flushes
    = s.flushes ∧ (heardTlp s).drains = s.drains ∧ (heardTlp s).pool = s.pool ∧ (heardTlp s).insts = s.insts ∧ (heardTlp s).ctxs = s.ctxs
    ∧ (heardTlp s).kettles = s.kettles ∧ (heardTlp s).array = s.array ∧ (heardTlp s).forwards = s.forwards ∧ (heardTlp s).counters =
    s.counters ∧ (heardTlp s).cipher = s.cipher ∧ (heardTlp s).pfMbx = s.pfMbx ∧ (heardTlp s).secMbx = s.secMbx ∧ (heardTlp s).relays =
    s.relays ∧ (heardTlp s).secLast = s.secLast ∧ (heardTlp s).secRuns = s.secRuns ∧ (heardTlp s).owl = s.owl ∧ (heardTlp s).eid = s.eid ∧
    (heardTlp s).a1 = s.a1 ∧ (heardTlp s).halted = s.halted ∧ (heardTlp s).dbg = s.dbg ∧ (heardTlp s).out = s.out ∧ (heardTlp s).heldOut =
    s.heldOut ∧ (heardTlp s).portHeld = s.portHeld ∧ (heardTlp s).pending = s.pending ∧ (heardTlp s).now = s.now ∧ (heardTlp s).fresh =
    s.fresh := by
  unfold heardTlp; split <;> (and_intros <;> rfl)

@[simp] theorem heardAt_fields (port : Nat) :
    (heardAt s port).pins = s.pins ∧ (heardAt s port).power = s.power ∧ (heardAt s port).clocks = s.clocks ∧ (heardAt s port).time =
    s.time ∧ (heardAt s port).start = s.start ∧ (heardAt s port).adm = s.adm ∧ (heardAt s port).epoch = s.epoch ∧ (heardAt s
    port).ctlReset = s.ctlReset ∧ (heardAt s port).pm = s.pm ∧ (heardAt s port).trace = s.trace ∧ (heardAt s port).wdt = s.wdt ∧ (heardAt
    s port).vfEnable = s.vfEnable ∧ (heardAt s port).numVfs = s.numVfs ∧ (heardAt s port).fns = s.fns ∧ (heardAt s port).payload =
    s.payload ∧ (heardAt s port).readReq = s.readReq ∧ (heardAt s port).relaxed = s.relaxed ∧ (heardAt s port).aspmL1 = s.aspmL1 ∧
    (heardAt s port).pfBar = s.pfBar ∧ (heardAt s port).vfBar = s.vfBar ∧ (heardAt s port).pages = s.pages ∧ (heardAt s port).cqs = s.cqs
    ∧ (heardAt s port).qps = s.qps ∧ (heardAt s port).msgOut = s.msgOut ∧ (heardAt s port).dests = s.dests ∧ (heardAt s port).pathConf =
    s.pathConf ∧ (heardAt s port).pathDef = s.pathDef ∧ (heardAt s port).cong = s.cong ∧ (heardAt s port).ports = s.ports ∧ (heardAt s
    port).classes = s.classes ∧ (heardAt s port).limiters = s.limiters ∧ (heardAt s port).trains = s.trains ∧ (heardAt s port).txq = s.txq
    ∧ (heardAt s port).rxq = s.rxq ∧ (heardAt s port).mirrors = s.mirrors ∧ (heardAt s port).tcache = s.tcache ∧ (heardAt s port).ats =
    s.ats ∧ (heardAt s port).waits = s.waits ∧ (heardAt s port).pageReqs = s.pageReqs ∧ (heardAt s port).prgHeld = s.prgHeld ∧ (heardAt s
    port).reads = s.reads ∧ (heardAt s port).flushes = s.flushes ∧ (heardAt s port).drains = s.drains ∧ (heardAt s port).pool = s.pool ∧
    (heardAt s port).insts = s.insts ∧ (heardAt s port).ctxs = s.ctxs ∧ (heardAt s port).kettles = s.kettles ∧ (heardAt s port).array =
    s.array ∧ (heardAt s port).forwards = s.forwards ∧ (heardAt s port).counters = s.counters ∧ (heardAt s port).cipher = s.cipher ∧
    (heardAt s port).pfMbx = s.pfMbx ∧ (heardAt s port).secMbx = s.secMbx ∧ (heardAt s port).relays = s.relays ∧ (heardAt s port).secLast
    = s.secLast ∧ (heardAt s port).secRuns = s.secRuns ∧ (heardAt s port).owl = s.owl ∧ (heardAt s port).eid = s.eid ∧ (heardAt s port).a1
    = s.a1 ∧ (heardAt s port).halted = s.halted ∧ (heardAt s port).dbg = s.dbg ∧ (heardAt s port).out = s.out ∧ (heardAt s port).heldOut =
    s.heldOut ∧ (heardAt s port).portHeld = s.portHeld ∧ (heardAt s port).pending = s.pending ∧ (heardAt s port).now = s.now ∧ (heardAt s
    port).fresh = s.fresh := by
  unfold heardAt heardTlp; split <;> [split; skip] <;> (and_intros <;> rfl)

@[simp] theorem heardBell_fields :
    (heardBell s).pins = s.pins ∧ (heardBell s).power = s.power ∧ (heardBell s).clocks = s.clocks ∧ (heardBell s).time = s.time ∧
    (heardBell s).start = s.start ∧ (heardBell s).adm = s.adm ∧ (heardBell s).epoch = s.epoch ∧ (heardBell s).ctlReset = s.ctlReset ∧
    (heardBell s).pm = s.pm ∧ (heardBell s).trace = s.trace ∧ (heardBell s).wdt = s.wdt ∧ (heardBell s).vfEnable = s.vfEnable ∧ (heardBell
    s).numVfs = s.numVfs ∧ (heardBell s).fns = s.fns ∧ (heardBell s).payload = s.payload ∧ (heardBell s).readReq = s.readReq ∧ (heardBell
    s).relaxed = s.relaxed ∧ (heardBell s).aspmL1 = s.aspmL1 ∧ (heardBell s).pfBar = s.pfBar ∧ (heardBell s).vfBar = s.vfBar ∧ (heardBell
    s).pages = s.pages ∧ (heardBell s).cqs = s.cqs ∧ (heardBell s).qps = s.qps ∧ (heardBell s).msgOut = s.msgOut ∧ (heardBell s).dests =
    s.dests ∧ (heardBell s).pathConf = s.pathConf ∧ (heardBell s).pathDef = s.pathDef ∧ (heardBell s).cong = s.cong ∧ (heardBell s).ports
    = s.ports ∧ (heardBell s).classes = s.classes ∧ (heardBell s).limiters = s.limiters ∧ (heardBell s).trains = s.trains ∧ (heardBell
    s).txq = s.txq ∧ (heardBell s).rxq = s.rxq ∧ (heardBell s).mirrors = s.mirrors ∧ (heardBell s).tcache = s.tcache ∧ (heardBell s).ats =
    s.ats ∧ (heardBell s).waits = s.waits ∧ (heardBell s).pageReqs = s.pageReqs ∧ (heardBell s).prgHeld = s.prgHeld ∧ (heardBell s).reads
    = s.reads ∧ (heardBell s).flushes = s.flushes ∧ (heardBell s).drains = s.drains ∧ (heardBell s).pool = s.pool ∧ (heardBell s).insts =
    s.insts ∧ (heardBell s).ctxs = s.ctxs ∧ (heardBell s).kettles = s.kettles ∧ (heardBell s).array = s.array ∧ (heardBell s).forwards =
    s.forwards ∧ (heardBell s).counters = s.counters ∧ (heardBell s).cipher = s.cipher ∧ (heardBell s).pfMbx = s.pfMbx ∧ (heardBell
    s).secMbx = s.secMbx ∧ (heardBell s).relays = s.relays ∧ (heardBell s).secLast = s.secLast ∧ (heardBell s).secRuns = s.secRuns ∧
    (heardBell s).owl = s.owl ∧ (heardBell s).eid = s.eid ∧ (heardBell s).a1 = s.a1 ∧ (heardBell s).halted = s.halted ∧ (heardBell s).dbg
    = s.dbg ∧ (heardBell s).out = s.out ∧ (heardBell s).heldOut = s.heldOut ∧ (heardBell s).portHeld = s.portHeld ∧ (heardBell s).pending
    = s.pending ∧ (heardBell s).now = s.now ∧ (heardBell s).fresh = s.fresh := by
  unfold heardBell heardBells heardTlp; split <;> (and_intros <;> rfl)

@[simp] theorem keepRunning_fields (slot : Nat) :
    (keepRunning s slot).pins = s.pins ∧ (keepRunning s slot).power = s.power ∧ (keepRunning s slot).clocks = s.clocks ∧ (keepRunning s
    slot).time = s.time ∧ (keepRunning s slot).start = s.start ∧ (keepRunning s slot).epoch = s.epoch ∧ (keepRunning s slot).ctlReset =
    s.ctlReset ∧ (keepRunning s slot).pm = s.pm ∧ (keepRunning s slot).trace = s.trace ∧ (keepRunning s slot).wdt = s.wdt ∧ (keepRunning s
    slot).vfEnable = s.vfEnable ∧ (keepRunning s slot).numVfs = s.numVfs ∧ (keepRunning s slot).fns = s.fns ∧ (keepRunning s slot).payload
    = s.payload ∧ (keepRunning s slot).readReq = s.readReq ∧ (keepRunning s slot).relaxed = s.relaxed ∧ (keepRunning s slot).aspmL1 =
    s.aspmL1 ∧ (keepRunning s slot).pfBar = s.pfBar ∧ (keepRunning s slot).vfBar = s.vfBar ∧ (keepRunning s slot).pages = s.pages ∧
    (keepRunning s slot).cqs = s.cqs ∧ (keepRunning s slot).qps = s.qps ∧ (keepRunning s slot).msgOut = s.msgOut ∧ (keepRunning s
    slot).dests = s.dests ∧ (keepRunning s slot).pathConf = s.pathConf ∧ (keepRunning s slot).pathDef = s.pathDef ∧ (keepRunning s
    slot).cong = s.cong ∧ (keepRunning s slot).ports = s.ports ∧ (keepRunning s slot).classes = s.classes ∧ (keepRunning s slot).limiters
    = s.limiters ∧ (keepRunning s slot).trains = s.trains ∧ (keepRunning s slot).txq = s.txq ∧ (keepRunning s slot).rxq = s.rxq ∧
    (keepRunning s slot).mirrors = s.mirrors ∧ (keepRunning s slot).tcache = s.tcache ∧ (keepRunning s slot).ats = s.ats ∧ (keepRunning s
    slot).waits = s.waits ∧ (keepRunning s slot).pageReqs = s.pageReqs ∧ (keepRunning s slot).prgHeld = s.prgHeld ∧ (keepRunning s
    slot).reads = s.reads ∧ (keepRunning s slot).flushes = s.flushes ∧ (keepRunning s slot).drains = s.drains ∧ (keepRunning s slot).pool
    = s.pool ∧ (keepRunning s slot).insts = s.insts ∧ (keepRunning s slot).ctxs = s.ctxs ∧ (keepRunning s slot).kettles = s.kettles ∧
    (keepRunning s slot).array = s.array ∧ (keepRunning s slot).forwards = s.forwards ∧ (keepRunning s slot).counters = s.counters ∧
    (keepRunning s slot).cipher = s.cipher ∧ (keepRunning s slot).pfMbx = s.pfMbx ∧ (keepRunning s slot).secMbx = s.secMbx ∧ (keepRunning
    s slot).relays = s.relays ∧ (keepRunning s slot).secLast = s.secLast ∧ (keepRunning s slot).secRuns = s.secRuns ∧ (keepRunning s
    slot).owl = s.owl ∧ (keepRunning s slot).traffic = s.traffic ∧ (keepRunning s slot).eid = s.eid ∧ (keepRunning s slot).a1 = s.a1 ∧
    (keepRunning s slot).halted = s.halted ∧ (keepRunning s slot).dbg = s.dbg ∧ (keepRunning s slot).out = s.out ∧ (keepRunning s
    slot).heldOut = s.heldOut ∧ (keepRunning s slot).portHeld = s.portHeld ∧ (keepRunning s slot).pending = s.pending ∧ (keepRunning s
    slot).now = s.now ∧ (keepRunning s slot).fresh = s.fresh := by
  and_intros <;> rfl

@[simp] theorem holdCmd_fields (slot : Nat) :
    (holdCmd s slot).pins = s.pins ∧ (holdCmd s slot).power = s.power ∧ (holdCmd s slot).clocks = s.clocks ∧ (holdCmd s slot).time =
    s.time ∧ (holdCmd s slot).start = s.start ∧ (holdCmd s slot).epoch = s.epoch ∧ (holdCmd s slot).ctlReset = s.ctlReset ∧ (holdCmd s
    slot).pm = s.pm ∧ (holdCmd s slot).trace = s.trace ∧ (holdCmd s slot).wdt = s.wdt ∧ (holdCmd s slot).vfEnable = s.vfEnable ∧ (holdCmd
    s slot).numVfs = s.numVfs ∧ (holdCmd s slot).fns = s.fns ∧ (holdCmd s slot).payload = s.payload ∧ (holdCmd s slot).readReq = s.readReq
    ∧ (holdCmd s slot).relaxed = s.relaxed ∧ (holdCmd s slot).aspmL1 = s.aspmL1 ∧ (holdCmd s slot).pfBar = s.pfBar ∧ (holdCmd s
    slot).vfBar = s.vfBar ∧ (holdCmd s slot).pages = s.pages ∧ (holdCmd s slot).cqs = s.cqs ∧ (holdCmd s slot).qps = s.qps ∧ (holdCmd s
    slot).msgOut = s.msgOut ∧ (holdCmd s slot).dests = s.dests ∧ (holdCmd s slot).pathConf = s.pathConf ∧ (holdCmd s slot).pathDef =
    s.pathDef ∧ (holdCmd s slot).cong = s.cong ∧ (holdCmd s slot).ports = s.ports ∧ (holdCmd s slot).classes = s.classes ∧ (holdCmd s
    slot).limiters = s.limiters ∧ (holdCmd s slot).trains = s.trains ∧ (holdCmd s slot).txq = s.txq ∧ (holdCmd s slot).rxq = s.rxq ∧
    (holdCmd s slot).mirrors = s.mirrors ∧ (holdCmd s slot).tcache = s.tcache ∧ (holdCmd s slot).ats = s.ats ∧ (holdCmd s slot).waits =
    s.waits ∧ (holdCmd s slot).pageReqs = s.pageReqs ∧ (holdCmd s slot).prgHeld = s.prgHeld ∧ (holdCmd s slot).reads = s.reads ∧ (holdCmd
    s slot).flushes = s.flushes ∧ (holdCmd s slot).drains = s.drains ∧ (holdCmd s slot).pool = s.pool ∧ (holdCmd s slot).insts = s.insts ∧
    (holdCmd s slot).ctxs = s.ctxs ∧ (holdCmd s slot).kettles = s.kettles ∧ (holdCmd s slot).array = s.array ∧ (holdCmd s slot).forwards =
    s.forwards ∧ (holdCmd s slot).counters = s.counters ∧ (holdCmd s slot).cipher = s.cipher ∧ (holdCmd s slot).pfMbx = s.pfMbx ∧ (holdCmd
    s slot).secMbx = s.secMbx ∧ (holdCmd s slot).relays = s.relays ∧ (holdCmd s slot).secLast = s.secLast ∧ (holdCmd s slot).secRuns =
    s.secRuns ∧ (holdCmd s slot).owl = s.owl ∧ (holdCmd s slot).traffic = s.traffic ∧ (holdCmd s slot).eid = s.eid ∧ (holdCmd s slot).a1 =
    s.a1 ∧ (holdCmd s slot).halted = s.halted ∧ (holdCmd s slot).dbg = s.dbg ∧ (holdCmd s slot).out = s.out ∧ (holdCmd s slot).heldOut =
    s.heldOut ∧ (holdCmd s slot).portHeld = s.portHeld ∧ (holdCmd s slot).pending = s.pending ∧ (holdCmd s slot).now = s.now ∧ (holdCmd s
    slot).fresh = s.fresh := by
  and_intros <;> rfl

@[simp] theorem modPage_fields (i : Nat) (f : Page → Page) :
    (modPage s i f).pins = s.pins ∧ (modPage s i f).power = s.power ∧ (modPage s i f).clocks = s.clocks ∧ (modPage s i f).time = s.time ∧
    (modPage s i f).start = s.start ∧ (modPage s i f).adm = s.adm ∧ (modPage s i f).epoch = s.epoch ∧ (modPage s i f).ctlReset =
    s.ctlReset ∧ (modPage s i f).pm = s.pm ∧ (modPage s i f).trace = s.trace ∧ (modPage s i f).wdt = s.wdt ∧ (modPage s i f).vfEnable =
    s.vfEnable ∧ (modPage s i f).numVfs = s.numVfs ∧ (modPage s i f).fns = s.fns ∧ (modPage s i f).payload = s.payload ∧ (modPage s i
    f).readReq = s.readReq ∧ (modPage s i f).relaxed = s.relaxed ∧ (modPage s i f).aspmL1 = s.aspmL1 ∧ (modPage s i f).pfBar = s.pfBar ∧
    (modPage s i f).vfBar = s.vfBar ∧ (modPage s i f).cqs = s.cqs ∧ (modPage s i f).qps = s.qps ∧ (modPage s i f).msgOut = s.msgOut ∧
    (modPage s i f).dests = s.dests ∧ (modPage s i f).pathConf = s.pathConf ∧ (modPage s i f).pathDef = s.pathDef ∧ (modPage s i f).cong =
    s.cong ∧ (modPage s i f).ports = s.ports ∧ (modPage s i f).classes = s.classes ∧ (modPage s i f).limiters = s.limiters ∧ (modPage s i
    f).trains = s.trains ∧ (modPage s i f).txq = s.txq ∧ (modPage s i f).rxq = s.rxq ∧ (modPage s i f).mirrors = s.mirrors ∧ (modPage s i
    f).tcache = s.tcache ∧ (modPage s i f).ats = s.ats ∧ (modPage s i f).waits = s.waits ∧ (modPage s i f).pageReqs = s.pageReqs ∧
    (modPage s i f).prgHeld = s.prgHeld ∧ (modPage s i f).reads = s.reads ∧ (modPage s i f).flushes = s.flushes ∧ (modPage s i f).drains =
    s.drains ∧ (modPage s i f).pool = s.pool ∧ (modPage s i f).insts = s.insts ∧ (modPage s i f).ctxs = s.ctxs ∧ (modPage s i f).kettles =
    s.kettles ∧ (modPage s i f).array = s.array ∧ (modPage s i f).forwards = s.forwards ∧ (modPage s i f).counters = s.counters ∧ (modPage
    s i f).cipher = s.cipher ∧ (modPage s i f).pfMbx = s.pfMbx ∧ (modPage s i f).secMbx = s.secMbx ∧ (modPage s i f).relays = s.relays ∧
    (modPage s i f).secLast = s.secLast ∧ (modPage s i f).secRuns = s.secRuns ∧ (modPage s i f).owl = s.owl ∧ (modPage s i f).traffic =
    s.traffic ∧ (modPage s i f).eid = s.eid ∧ (modPage s i f).a1 = s.a1 ∧ (modPage s i f).halted = s.halted ∧ (modPage s i f).dbg = s.dbg
    ∧ (modPage s i f).out = s.out ∧ (modPage s i f).heldOut = s.heldOut ∧ (modPage s i f).portHeld = s.portHeld ∧ (modPage s i f).pending
    = s.pending ∧ (modPage s i f).now = s.now ∧ (modPage s i f).fresh = s.fresh ∧ (modPage s i f).pages = tput s.pages i (f (pageOf s i))
    := by
  and_intros <;> rfl

@[simp] theorem modCq_fields (n : Nat) (f : Cq → Cq) :
    (modCq s n f).pins = s.pins ∧ (modCq s n f).power = s.power ∧ (modCq s n f).clocks = s.clocks ∧ (modCq s n f).time = s.time ∧ (modCq s
    n f).start = s.start ∧ (modCq s n f).adm = s.adm ∧ (modCq s n f).epoch = s.epoch ∧ (modCq s n f).ctlReset = s.ctlReset ∧ (modCq s n
    f).pm = s.pm ∧ (modCq s n f).trace = s.trace ∧ (modCq s n f).wdt = s.wdt ∧ (modCq s n f).vfEnable = s.vfEnable ∧ (modCq s n f).numVfs
    = s.numVfs ∧ (modCq s n f).fns = s.fns ∧ (modCq s n f).payload = s.payload ∧ (modCq s n f).readReq = s.readReq ∧ (modCq s n f).relaxed
    = s.relaxed ∧ (modCq s n f).aspmL1 = s.aspmL1 ∧ (modCq s n f).pfBar = s.pfBar ∧ (modCq s n f).vfBar = s.vfBar ∧ (modCq s n f).pages =
    s.pages ∧ (modCq s n f).qps = s.qps ∧ (modCq s n f).msgOut = s.msgOut ∧ (modCq s n f).dests = s.dests ∧ (modCq s n f).pathConf =
    s.pathConf ∧ (modCq s n f).pathDef = s.pathDef ∧ (modCq s n f).cong = s.cong ∧ (modCq s n f).ports = s.ports ∧ (modCq s n f).classes =
    s.classes ∧ (modCq s n f).limiters = s.limiters ∧ (modCq s n f).trains = s.trains ∧ (modCq s n f).txq = s.txq ∧ (modCq s n f).rxq =
    s.rxq ∧ (modCq s n f).mirrors = s.mirrors ∧ (modCq s n f).tcache = s.tcache ∧ (modCq s n f).ats = s.ats ∧ (modCq s n f).waits =
    s.waits ∧ (modCq s n f).pageReqs = s.pageReqs ∧ (modCq s n f).prgHeld = s.prgHeld ∧ (modCq s n f).reads = s.reads ∧ (modCq s n
    f).flushes = s.flushes ∧ (modCq s n f).drains = s.drains ∧ (modCq s n f).pool = s.pool ∧ (modCq s n f).insts = s.insts ∧ (modCq s n
    f).ctxs = s.ctxs ∧ (modCq s n f).kettles = s.kettles ∧ (modCq s n f).array = s.array ∧ (modCq s n f).forwards = s.forwards ∧ (modCq s
    n f).counters = s.counters ∧ (modCq s n f).cipher = s.cipher ∧ (modCq s n f).pfMbx = s.pfMbx ∧ (modCq s n f).secMbx = s.secMbx ∧
    (modCq s n f).relays = s.relays ∧ (modCq s n f).secLast = s.secLast ∧ (modCq s n f).secRuns = s.secRuns ∧ (modCq s n f).owl = s.owl ∧
    (modCq s n f).traffic = s.traffic ∧ (modCq s n f).eid = s.eid ∧ (modCq s n f).a1 = s.a1 ∧ (modCq s n f).halted = s.halted ∧ (modCq s n
    f).dbg = s.dbg ∧ (modCq s n f).out = s.out ∧ (modCq s n f).heldOut = s.heldOut ∧ (modCq s n f).portHeld = s.portHeld ∧ (modCq s n
    f).pending = s.pending ∧ (modCq s n f).now = s.now ∧ (modCq s n f).fresh = s.fresh ∧ (modCq s n f).cqs = tmod s.cqs n f := by
  and_intros <;> rfl

@[simp] theorem modQp_fields (n : Nat) (f : Qp → Qp) :
    (modQp s n f).pins = s.pins ∧ (modQp s n f).power = s.power ∧ (modQp s n f).clocks = s.clocks ∧ (modQp s n f).time = s.time ∧ (modQp s
    n f).start = s.start ∧ (modQp s n f).adm = s.adm ∧ (modQp s n f).epoch = s.epoch ∧ (modQp s n f).ctlReset = s.ctlReset ∧ (modQp s n
    f).pm = s.pm ∧ (modQp s n f).trace = s.trace ∧ (modQp s n f).wdt = s.wdt ∧ (modQp s n f).vfEnable = s.vfEnable ∧ (modQp s n f).numVfs
    = s.numVfs ∧ (modQp s n f).fns = s.fns ∧ (modQp s n f).payload = s.payload ∧ (modQp s n f).readReq = s.readReq ∧ (modQp s n f).relaxed
    = s.relaxed ∧ (modQp s n f).aspmL1 = s.aspmL1 ∧ (modQp s n f).pfBar = s.pfBar ∧ (modQp s n f).vfBar = s.vfBar ∧ (modQp s n f).pages =
    s.pages ∧ (modQp s n f).cqs = s.cqs ∧ (modQp s n f).msgOut = s.msgOut ∧ (modQp s n f).dests = s.dests ∧ (modQp s n f).pathConf =
    s.pathConf ∧ (modQp s n f).pathDef = s.pathDef ∧ (modQp s n f).cong = s.cong ∧ (modQp s n f).ports = s.ports ∧ (modQp s n f).classes =
    s.classes ∧ (modQp s n f).limiters = s.limiters ∧ (modQp s n f).trains = s.trains ∧ (modQp s n f).txq = s.txq ∧ (modQp s n f).rxq =
    s.rxq ∧ (modQp s n f).mirrors = s.mirrors ∧ (modQp s n f).tcache = s.tcache ∧ (modQp s n f).ats = s.ats ∧ (modQp s n f).waits =
    s.waits ∧ (modQp s n f).pageReqs = s.pageReqs ∧ (modQp s n f).prgHeld = s.prgHeld ∧ (modQp s n f).reads = s.reads ∧ (modQp s n
    f).flushes = s.flushes ∧ (modQp s n f).drains = s.drains ∧ (modQp s n f).pool = s.pool ∧ (modQp s n f).insts = s.insts ∧ (modQp s n
    f).ctxs = s.ctxs ∧ (modQp s n f).kettles = s.kettles ∧ (modQp s n f).array = s.array ∧ (modQp s n f).forwards = s.forwards ∧ (modQp s
    n f).counters = s.counters ∧ (modQp s n f).cipher = s.cipher ∧ (modQp s n f).pfMbx = s.pfMbx ∧ (modQp s n f).secMbx = s.secMbx ∧
    (modQp s n f).relays = s.relays ∧ (modQp s n f).secLast = s.secLast ∧ (modQp s n f).secRuns = s.secRuns ∧ (modQp s n f).owl = s.owl ∧
    (modQp s n f).traffic = s.traffic ∧ (modQp s n f).eid = s.eid ∧ (modQp s n f).a1 = s.a1 ∧ (modQp s n f).halted = s.halted ∧ (modQp s n
    f).dbg = s.dbg ∧ (modQp s n f).out = s.out ∧ (modQp s n f).heldOut = s.heldOut ∧ (modQp s n f).portHeld = s.portHeld ∧ (modQp s n
    f).pending = s.pending ∧ (modQp s n f).now = s.now ∧ (modQp s n f).fresh = s.fresh ∧ (modQp s n f).qps = tmod s.qps n f := by
  and_intros <;> rfl

@[simp] theorem modTx_fields (n id : Nat) (f : TxPkt → TxPkt) :
    (modTx s n id f).pins = s.pins ∧ (modTx s n id f).power = s.power ∧ (modTx s n id f).clocks = s.clocks ∧ (modTx s n id f).time =
    s.time ∧ (modTx s n id f).start = s.start ∧ (modTx s n id f).adm = s.adm ∧ (modTx s n id f).epoch = s.epoch ∧ (modTx s n id
    f).ctlReset = s.ctlReset ∧ (modTx s n id f).pm = s.pm ∧ (modTx s n id f).trace = s.trace ∧ (modTx s n id f).wdt = s.wdt ∧ (modTx s n
    id f).vfEnable = s.vfEnable ∧ (modTx s n id f).numVfs = s.numVfs ∧ (modTx s n id f).fns = s.fns ∧ (modTx s n id f).payload = s.payload
    ∧ (modTx s n id f).readReq = s.readReq ∧ (modTx s n id f).relaxed = s.relaxed ∧ (modTx s n id f).aspmL1 = s.aspmL1 ∧ (modTx s n id
    f).pfBar = s.pfBar ∧ (modTx s n id f).vfBar = s.vfBar ∧ (modTx s n id f).pages = s.pages ∧ (modTx s n id f).cqs = s.cqs ∧ (modTx s n
    id f).msgOut = s.msgOut ∧ (modTx s n id f).dests = s.dests ∧ (modTx s n id f).pathConf = s.pathConf ∧ (modTx s n id f).pathDef =
    s.pathDef ∧ (modTx s n id f).cong = s.cong ∧ (modTx s n id f).ports = s.ports ∧ (modTx s n id f).classes = s.classes ∧ (modTx s n id
    f).limiters = s.limiters ∧ (modTx s n id f).trains = s.trains ∧ (modTx s n id f).txq = s.txq ∧ (modTx s n id f).rxq = s.rxq ∧ (modTx s
    n id f).mirrors = s.mirrors ∧ (modTx s n id f).tcache = s.tcache ∧ (modTx s n id f).ats = s.ats ∧ (modTx s n id f).waits = s.waits ∧
    (modTx s n id f).pageReqs = s.pageReqs ∧ (modTx s n id f).prgHeld = s.prgHeld ∧ (modTx s n id f).reads = s.reads ∧ (modTx s n id
    f).flushes = s.flushes ∧ (modTx s n id f).drains = s.drains ∧ (modTx s n id f).pool = s.pool ∧ (modTx s n id f).insts = s.insts ∧
    (modTx s n id f).ctxs = s.ctxs ∧ (modTx s n id f).kettles = s.kettles ∧ (modTx s n id f).array = s.array ∧ (modTx s n id f).forwards =
    s.forwards ∧ (modTx s n id f).counters = s.counters ∧ (modTx s n id f).cipher = s.cipher ∧ (modTx s n id f).pfMbx = s.pfMbx ∧ (modTx s
    n id f).secMbx = s.secMbx ∧ (modTx s n id f).relays = s.relays ∧ (modTx s n id f).secLast = s.secLast ∧ (modTx s n id f).secRuns =
    s.secRuns ∧ (modTx s n id f).owl = s.owl ∧ (modTx s n id f).traffic = s.traffic ∧ (modTx s n id f).eid = s.eid ∧ (modTx s n id f).a1 =
    s.a1 ∧ (modTx s n id f).halted = s.halted ∧ (modTx s n id f).dbg = s.dbg ∧ (modTx s n id f).out = s.out ∧ (modTx s n id f).heldOut =
    s.heldOut ∧ (modTx s n id f).portHeld = s.portHeld ∧ (modTx s n id f).pending = s.pending ∧ (modTx s n id f).now = s.now ∧ (modTx s n
    id f).fresh = s.fresh := by
  and_intros <;> rfl

@[simp] theorem modWork_fields (n slot : Nat) (f : SqWork → SqWork) :
    (modWork s n slot f).pins = s.pins ∧ (modWork s n slot f).power = s.power ∧ (modWork s n slot f).clocks = s.clocks ∧ (modWork s n slot
    f).time = s.time ∧ (modWork s n slot f).start = s.start ∧ (modWork s n slot f).adm = s.adm ∧ (modWork s n slot f).epoch = s.epoch ∧
    (modWork s n slot f).ctlReset = s.ctlReset ∧ (modWork s n slot f).pm = s.pm ∧ (modWork s n slot f).trace = s.trace ∧ (modWork s n slot
    f).wdt = s.wdt ∧ (modWork s n slot f).vfEnable = s.vfEnable ∧ (modWork s n slot f).numVfs = s.numVfs ∧ (modWork s n slot f).fns =
    s.fns ∧ (modWork s n slot f).payload = s.payload ∧ (modWork s n slot f).readReq = s.readReq ∧ (modWork s n slot f).relaxed = s.relaxed
    ∧ (modWork s n slot f).aspmL1 = s.aspmL1 ∧ (modWork s n slot f).pfBar = s.pfBar ∧ (modWork s n slot f).vfBar = s.vfBar ∧ (modWork s n
    slot f).pages = s.pages ∧ (modWork s n slot f).cqs = s.cqs ∧ (modWork s n slot f).msgOut = s.msgOut ∧ (modWork s n slot f).dests =
    s.dests ∧ (modWork s n slot f).pathConf = s.pathConf ∧ (modWork s n slot f).pathDef = s.pathDef ∧ (modWork s n slot f).cong = s.cong ∧
    (modWork s n slot f).ports = s.ports ∧ (modWork s n slot f).classes = s.classes ∧ (modWork s n slot f).limiters = s.limiters ∧
    (modWork s n slot f).trains = s.trains ∧ (modWork s n slot f).txq = s.txq ∧ (modWork s n slot f).rxq = s.rxq ∧ (modWork s n slot
    f).mirrors = s.mirrors ∧ (modWork s n slot f).tcache = s.tcache ∧ (modWork s n slot f).ats = s.ats ∧ (modWork s n slot f).waits =
    s.waits ∧ (modWork s n slot f).pageReqs = s.pageReqs ∧ (modWork s n slot f).prgHeld = s.prgHeld ∧ (modWork s n slot f).reads = s.reads
    ∧ (modWork s n slot f).flushes = s.flushes ∧ (modWork s n slot f).drains = s.drains ∧ (modWork s n slot f).pool = s.pool ∧ (modWork s
    n slot f).insts = s.insts ∧ (modWork s n slot f).ctxs = s.ctxs ∧ (modWork s n slot f).kettles = s.kettles ∧ (modWork s n slot f).array
    = s.array ∧ (modWork s n slot f).forwards = s.forwards ∧ (modWork s n slot f).counters = s.counters ∧ (modWork s n slot f).cipher =
    s.cipher ∧ (modWork s n slot f).pfMbx = s.pfMbx ∧ (modWork s n slot f).secMbx = s.secMbx ∧ (modWork s n slot f).relays = s.relays ∧
    (modWork s n slot f).secLast = s.secLast ∧ (modWork s n slot f).secRuns = s.secRuns ∧ (modWork s n slot f).owl = s.owl ∧ (modWork s n
    slot f).traffic = s.traffic ∧ (modWork s n slot f).eid = s.eid ∧ (modWork s n slot f).a1 = s.a1 ∧ (modWork s n slot f).halted =
    s.halted ∧ (modWork s n slot f).dbg = s.dbg ∧ (modWork s n slot f).out = s.out ∧ (modWork s n slot f).heldOut = s.heldOut ∧ (modWork s
    n slot f).portHeld = s.portHeld ∧ (modWork s n slot f).pending = s.pending ∧ (modWork s n slot f).now = s.now ∧ (modWork s n slot
    f).fresh = s.fresh := by
  and_intros <;> rfl

@[simp] theorem modDest_fields (coord : Nat) (f : Dest → Dest) :
    (modDest s coord f).pins = s.pins ∧ (modDest s coord f).power = s.power ∧ (modDest s coord f).clocks = s.clocks ∧ (modDest s coord
    f).time = s.time ∧ (modDest s coord f).start = s.start ∧ (modDest s coord f).adm = s.adm ∧ (modDest s coord f).epoch = s.epoch ∧
    (modDest s coord f).ctlReset = s.ctlReset ∧ (modDest s coord f).pm = s.pm ∧ (modDest s coord f).trace = s.trace ∧ (modDest s coord
    f).wdt = s.wdt ∧ (modDest s coord f).vfEnable = s.vfEnable ∧ (modDest s coord f).numVfs = s.numVfs ∧ (modDest s coord f).fns = s.fns ∧
    (modDest s coord f).payload = s.payload ∧ (modDest s coord f).readReq = s.readReq ∧ (modDest s coord f).relaxed = s.relaxed ∧ (modDest
    s coord f).aspmL1 = s.aspmL1 ∧ (modDest s coord f).pfBar = s.pfBar ∧ (modDest s coord f).vfBar = s.vfBar ∧ (modDest s coord f).pages =
    s.pages ∧ (modDest s coord f).cqs = s.cqs ∧ (modDest s coord f).qps = s.qps ∧ (modDest s coord f).msgOut = s.msgOut ∧ (modDest s coord
    f).pathConf = s.pathConf ∧ (modDest s coord f).pathDef = s.pathDef ∧ (modDest s coord f).cong = s.cong ∧ (modDest s coord f).ports =
    s.ports ∧ (modDest s coord f).classes = s.classes ∧ (modDest s coord f).limiters = s.limiters ∧ (modDest s coord f).trains = s.trains
    ∧ (modDest s coord f).txq = s.txq ∧ (modDest s coord f).rxq = s.rxq ∧ (modDest s coord f).mirrors = s.mirrors ∧ (modDest s coord
    f).tcache = s.tcache ∧ (modDest s coord f).ats = s.ats ∧ (modDest s coord f).waits = s.waits ∧ (modDest s coord f).pageReqs =
    s.pageReqs ∧ (modDest s coord f).prgHeld = s.prgHeld ∧ (modDest s coord f).reads = s.reads ∧ (modDest s coord f).flushes = s.flushes ∧
    (modDest s coord f).drains = s.drains ∧ (modDest s coord f).pool = s.pool ∧ (modDest s coord f).insts = s.insts ∧ (modDest s coord
    f).ctxs = s.ctxs ∧ (modDest s coord f).kettles = s.kettles ∧ (modDest s coord f).array = s.array ∧ (modDest s coord f).forwards =
    s.forwards ∧ (modDest s coord f).counters = s.counters ∧ (modDest s coord f).cipher = s.cipher ∧ (modDest s coord f).pfMbx = s.pfMbx ∧
    (modDest s coord f).secMbx = s.secMbx ∧ (modDest s coord f).relays = s.relays ∧ (modDest s coord f).secLast = s.secLast ∧ (modDest s
    coord f).secRuns = s.secRuns ∧ (modDest s coord f).owl = s.owl ∧ (modDest s coord f).traffic = s.traffic ∧ (modDest s coord f).eid =
    s.eid ∧ (modDest s coord f).a1 = s.a1 ∧ (modDest s coord f).halted = s.halted ∧ (modDest s coord f).dbg = s.dbg ∧ (modDest s coord
    f).out = s.out ∧ (modDest s coord f).heldOut = s.heldOut ∧ (modDest s coord f).portHeld = s.portHeld ∧ (modDest s coord f).pending =
    s.pending ∧ (modDest s coord f).now = s.now ∧ (modDest s coord f).fresh = s.fresh ∧ (modDest s coord f).dests = tmod s.dests coord f
    := by
  and_intros <;> rfl

@[simp] theorem modPath_fields (coord p : Nat) (f : Path → Path) :
    (modPath s coord p f).pins = s.pins ∧ (modPath s coord p f).power = s.power ∧ (modPath s coord p f).clocks = s.clocks ∧ (modPath s
    coord p f).time = s.time ∧ (modPath s coord p f).start = s.start ∧ (modPath s coord p f).adm = s.adm ∧ (modPath s coord p f).epoch =
    s.epoch ∧ (modPath s coord p f).ctlReset = s.ctlReset ∧ (modPath s coord p f).pm = s.pm ∧ (modPath s coord p f).trace = s.trace ∧
    (modPath s coord p f).wdt = s.wdt ∧ (modPath s coord p f).vfEnable = s.vfEnable ∧ (modPath s coord p f).numVfs = s.numVfs ∧ (modPath s
    coord p f).fns = s.fns ∧ (modPath s coord p f).payload = s.payload ∧ (modPath s coord p f).readReq = s.readReq ∧ (modPath s coord p
    f).relaxed = s.relaxed ∧ (modPath s coord p f).aspmL1 = s.aspmL1 ∧ (modPath s coord p f).pfBar = s.pfBar ∧ (modPath s coord p f).vfBar
    = s.vfBar ∧ (modPath s coord p f).pages = s.pages ∧ (modPath s coord p f).cqs = s.cqs ∧ (modPath s coord p f).qps = s.qps ∧ (modPath s
    coord p f).msgOut = s.msgOut ∧ (modPath s coord p f).pathConf = s.pathConf ∧ (modPath s coord p f).pathDef = s.pathDef ∧ (modPath s
    coord p f).cong = s.cong ∧ (modPath s coord p f).ports = s.ports ∧ (modPath s coord p f).classes = s.classes ∧ (modPath s coord p
    f).limiters = s.limiters ∧ (modPath s coord p f).trains = s.trains ∧ (modPath s coord p f).txq = s.txq ∧ (modPath s coord p f).rxq =
    s.rxq ∧ (modPath s coord p f).mirrors = s.mirrors ∧ (modPath s coord p f).tcache = s.tcache ∧ (modPath s coord p f).ats = s.ats ∧
    (modPath s coord p f).waits = s.waits ∧ (modPath s coord p f).pageReqs = s.pageReqs ∧ (modPath s coord p f).prgHeld = s.prgHeld ∧
    (modPath s coord p f).reads = s.reads ∧ (modPath s coord p f).flushes = s.flushes ∧ (modPath s coord p f).drains = s.drains ∧ (modPath
    s coord p f).pool = s.pool ∧ (modPath s coord p f).insts = s.insts ∧ (modPath s coord p f).ctxs = s.ctxs ∧ (modPath s coord p
    f).kettles = s.kettles ∧ (modPath s coord p f).array = s.array ∧ (modPath s coord p f).forwards = s.forwards ∧ (modPath s coord p
    f).counters = s.counters ∧ (modPath s coord p f).cipher = s.cipher ∧ (modPath s coord p f).pfMbx = s.pfMbx ∧ (modPath s coord p
    f).secMbx = s.secMbx ∧ (modPath s coord p f).relays = s.relays ∧ (modPath s coord p f).secLast = s.secLast ∧ (modPath s coord p
    f).secRuns = s.secRuns ∧ (modPath s coord p f).owl = s.owl ∧ (modPath s coord p f).traffic = s.traffic ∧ (modPath s coord p f).eid =
    s.eid ∧ (modPath s coord p f).a1 = s.a1 ∧ (modPath s coord p f).halted = s.halted ∧ (modPath s coord p f).dbg = s.dbg ∧ (modPath s
    coord p f).out = s.out ∧ (modPath s coord p f).heldOut = s.heldOut ∧ (modPath s coord p f).portHeld = s.portHeld ∧ (modPath s coord p
    f).pending = s.pending ∧ (modPath s coord p f).now = s.now ∧ (modPath s coord p f).fresh = s.fresh := by
  unfold modPath; split <;> (and_intros <;> rfl)

@[simp] theorem modPort_fields (n : Nat) (f : Port → Port) :
    (modPort s n f).pins = s.pins ∧ (modPort s n f).power = s.power ∧ (modPort s n f).clocks = s.clocks ∧ (modPort s n f).time = s.time ∧
    (modPort s n f).start = s.start ∧ (modPort s n f).adm = s.adm ∧ (modPort s n f).epoch = s.epoch ∧ (modPort s n f).ctlReset =
    s.ctlReset ∧ (modPort s n f).pm = s.pm ∧ (modPort s n f).trace = s.trace ∧ (modPort s n f).wdt = s.wdt ∧ (modPort s n f).vfEnable =
    s.vfEnable ∧ (modPort s n f).numVfs = s.numVfs ∧ (modPort s n f).fns = s.fns ∧ (modPort s n f).payload = s.payload ∧ (modPort s n
    f).readReq = s.readReq ∧ (modPort s n f).relaxed = s.relaxed ∧ (modPort s n f).aspmL1 = s.aspmL1 ∧ (modPort s n f).pfBar = s.pfBar ∧
    (modPort s n f).vfBar = s.vfBar ∧ (modPort s n f).pages = s.pages ∧ (modPort s n f).cqs = s.cqs ∧ (modPort s n f).qps = s.qps ∧
    (modPort s n f).msgOut = s.msgOut ∧ (modPort s n f).dests = s.dests ∧ (modPort s n f).pathConf = s.pathConf ∧ (modPort s n f).pathDef
    = s.pathDef ∧ (modPort s n f).cong = s.cong ∧ (modPort s n f).classes = s.classes ∧ (modPort s n f).limiters = s.limiters ∧ (modPort s
    n f).trains = s.trains ∧ (modPort s n f).txq = s.txq ∧ (modPort s n f).rxq = s.rxq ∧ (modPort s n f).mirrors = s.mirrors ∧ (modPort s
    n f).tcache = s.tcache ∧ (modPort s n f).ats = s.ats ∧ (modPort s n f).waits = s.waits ∧ (modPort s n f).pageReqs = s.pageReqs ∧
    (modPort s n f).prgHeld = s.prgHeld ∧ (modPort s n f).reads = s.reads ∧ (modPort s n f).flushes = s.flushes ∧ (modPort s n f).drains =
    s.drains ∧ (modPort s n f).pool = s.pool ∧ (modPort s n f).insts = s.insts ∧ (modPort s n f).ctxs = s.ctxs ∧ (modPort s n f).kettles =
    s.kettles ∧ (modPort s n f).array = s.array ∧ (modPort s n f).forwards = s.forwards ∧ (modPort s n f).counters = s.counters ∧ (modPort
    s n f).cipher = s.cipher ∧ (modPort s n f).pfMbx = s.pfMbx ∧ (modPort s n f).secMbx = s.secMbx ∧ (modPort s n f).relays = s.relays ∧
    (modPort s n f).secLast = s.secLast ∧ (modPort s n f).secRuns = s.secRuns ∧ (modPort s n f).owl = s.owl ∧ (modPort s n f).traffic =
    s.traffic ∧ (modPort s n f).eid = s.eid ∧ (modPort s n f).a1 = s.a1 ∧ (modPort s n f).halted = s.halted ∧ (modPort s n f).dbg = s.dbg
    ∧ (modPort s n f).out = s.out ∧ (modPort s n f).heldOut = s.heldOut ∧ (modPort s n f).portHeld = s.portHeld ∧ (modPort s n f).pending
    = s.pending ∧ (modPort s n f).now = s.now ∧ (modPort s n f).fresh = s.fresh ∧ (modPort s n f).ports = lmod s.ports n f := by
  and_intros <;> rfl

@[simp] theorem modClass_fields (n c : Nat) (f : PortClass → PortClass) :
    (modClass s n c f).pins = s.pins ∧ (modClass s n c f).power = s.power ∧ (modClass s n c f).clocks = s.clocks ∧ (modClass s n c f).time
    = s.time ∧ (modClass s n c f).start = s.start ∧ (modClass s n c f).adm = s.adm ∧ (modClass s n c f).epoch = s.epoch ∧ (modClass s n c
    f).ctlReset = s.ctlReset ∧ (modClass s n c f).pm = s.pm ∧ (modClass s n c f).trace = s.trace ∧ (modClass s n c f).wdt = s.wdt ∧
    (modClass s n c f).vfEnable = s.vfEnable ∧ (modClass s n c f).numVfs = s.numVfs ∧ (modClass s n c f).fns = s.fns ∧ (modClass s n c
    f).payload = s.payload ∧ (modClass s n c f).readReq = s.readReq ∧ (modClass s n c f).relaxed = s.relaxed ∧ (modClass s n c f).aspmL1 =
    s.aspmL1 ∧ (modClass s n c f).pfBar = s.pfBar ∧ (modClass s n c f).vfBar = s.vfBar ∧ (modClass s n c f).pages = s.pages ∧ (modClass s
    n c f).cqs = s.cqs ∧ (modClass s n c f).qps = s.qps ∧ (modClass s n c f).msgOut = s.msgOut ∧ (modClass s n c f).dests = s.dests ∧
    (modClass s n c f).pathConf = s.pathConf ∧ (modClass s n c f).pathDef = s.pathDef ∧ (modClass s n c f).cong = s.cong ∧ (modClass s n c
    f).classes = s.classes ∧ (modClass s n c f).limiters = s.limiters ∧ (modClass s n c f).trains = s.trains ∧ (modClass s n c f).txq =
    s.txq ∧ (modClass s n c f).rxq = s.rxq ∧ (modClass s n c f).mirrors = s.mirrors ∧ (modClass s n c f).tcache = s.tcache ∧ (modClass s n
    c f).ats = s.ats ∧ (modClass s n c f).waits = s.waits ∧ (modClass s n c f).pageReqs = s.pageReqs ∧ (modClass s n c f).prgHeld =
    s.prgHeld ∧ (modClass s n c f).reads = s.reads ∧ (modClass s n c f).flushes = s.flushes ∧ (modClass s n c f).drains = s.drains ∧
    (modClass s n c f).pool = s.pool ∧ (modClass s n c f).insts = s.insts ∧ (modClass s n c f).ctxs = s.ctxs ∧ (modClass s n c f).kettles
    = s.kettles ∧ (modClass s n c f).array = s.array ∧ (modClass s n c f).forwards = s.forwards ∧ (modClass s n c f).counters = s.counters
    ∧ (modClass s n c f).cipher = s.cipher ∧ (modClass s n c f).pfMbx = s.pfMbx ∧ (modClass s n c f).secMbx = s.secMbx ∧ (modClass s n c
    f).relays = s.relays ∧ (modClass s n c f).secLast = s.secLast ∧ (modClass s n c f).secRuns = s.secRuns ∧ (modClass s n c f).owl =
    s.owl ∧ (modClass s n c f).traffic = s.traffic ∧ (modClass s n c f).eid = s.eid ∧ (modClass s n c f).a1 = s.a1 ∧ (modClass s n c
    f).halted = s.halted ∧ (modClass s n c f).dbg = s.dbg ∧ (modClass s n c f).out = s.out ∧ (modClass s n c f).heldOut = s.heldOut ∧
    (modClass s n c f).portHeld = s.portHeld ∧ (modClass s n c f).pending = s.pending ∧ (modClass s n c f).now = s.now ∧ (modClass s n c
    f).fresh = s.fresh := by
  and_intros <;> rfl

@[simp] theorem modInst_fields (i : Nat) (f : Inst → Inst) :
    (modInst s i f).pins = s.pins ∧ (modInst s i f).power = s.power ∧ (modInst s i f).clocks = s.clocks ∧ (modInst s i f).time = s.time ∧
    (modInst s i f).start = s.start ∧ (modInst s i f).adm = s.adm ∧ (modInst s i f).epoch = s.epoch ∧ (modInst s i f).ctlReset =
    s.ctlReset ∧ (modInst s i f).pm = s.pm ∧ (modInst s i f).trace = s.trace ∧ (modInst s i f).wdt = s.wdt ∧ (modInst s i f).vfEnable =
    s.vfEnable ∧ (modInst s i f).numVfs = s.numVfs ∧ (modInst s i f).fns = s.fns ∧ (modInst s i f).payload = s.payload ∧ (modInst s i
    f).readReq = s.readReq ∧ (modInst s i f).relaxed = s.relaxed ∧ (modInst s i f).aspmL1 = s.aspmL1 ∧ (modInst s i f).pfBar = s.pfBar ∧
    (modInst s i f).vfBar = s.vfBar ∧ (modInst s i f).pages = s.pages ∧ (modInst s i f).cqs = s.cqs ∧ (modInst s i f).qps = s.qps ∧
    (modInst s i f).msgOut = s.msgOut ∧ (modInst s i f).dests = s.dests ∧ (modInst s i f).pathConf = s.pathConf ∧ (modInst s i f).pathDef
    = s.pathDef ∧ (modInst s i f).cong = s.cong ∧ (modInst s i f).ports = s.ports ∧ (modInst s i f).classes = s.classes ∧ (modInst s i
    f).limiters = s.limiters ∧ (modInst s i f).trains = s.trains ∧ (modInst s i f).txq = s.txq ∧ (modInst s i f).rxq = s.rxq ∧ (modInst s
    i f).mirrors = s.mirrors ∧ (modInst s i f).tcache = s.tcache ∧ (modInst s i f).ats = s.ats ∧ (modInst s i f).waits = s.waits ∧
    (modInst s i f).pageReqs = s.pageReqs ∧ (modInst s i f).prgHeld = s.prgHeld ∧ (modInst s i f).reads = s.reads ∧ (modInst s i
    f).flushes = s.flushes ∧ (modInst s i f).drains = s.drains ∧ (modInst s i f).pool = s.pool ∧ (modInst s i f).ctxs = s.ctxs ∧ (modInst
    s i f).kettles = s.kettles ∧ (modInst s i f).array = s.array ∧ (modInst s i f).forwards = s.forwards ∧ (modInst s i f).counters =
    s.counters ∧ (modInst s i f).cipher = s.cipher ∧ (modInst s i f).pfMbx = s.pfMbx ∧ (modInst s i f).secMbx = s.secMbx ∧ (modInst s i
    f).relays = s.relays ∧ (modInst s i f).secLast = s.secLast ∧ (modInst s i f).secRuns = s.secRuns ∧ (modInst s i f).owl = s.owl ∧
    (modInst s i f).traffic = s.traffic ∧ (modInst s i f).eid = s.eid ∧ (modInst s i f).a1 = s.a1 ∧ (modInst s i f).halted = s.halted ∧
    (modInst s i f).dbg = s.dbg ∧ (modInst s i f).out = s.out ∧ (modInst s i f).heldOut = s.heldOut ∧ (modInst s i f).portHeld =
    s.portHeld ∧ (modInst s i f).pending = s.pending ∧ (modInst s i f).now = s.now ∧ (modInst s i f).fresh = s.fresh ∧ (modInst s i
    f).insts = tmod s.insts i f := by
  and_intros <;> rfl

@[simp] theorem modCtx_fields (n : Nat) (f : Ctx → Ctx) :
    (modCtx s n f).pins = s.pins ∧ (modCtx s n f).power = s.power ∧ (modCtx s n f).clocks = s.clocks ∧ (modCtx s n f).time = s.time ∧
    (modCtx s n f).start = s.start ∧ (modCtx s n f).adm = s.adm ∧ (modCtx s n f).epoch = s.epoch ∧ (modCtx s n f).ctlReset = s.ctlReset ∧
    (modCtx s n f).pm = s.pm ∧ (modCtx s n f).trace = s.trace ∧ (modCtx s n f).wdt = s.wdt ∧ (modCtx s n f).vfEnable = s.vfEnable ∧
    (modCtx s n f).numVfs = s.numVfs ∧ (modCtx s n f).fns = s.fns ∧ (modCtx s n f).payload = s.payload ∧ (modCtx s n f).readReq =
    s.readReq ∧ (modCtx s n f).relaxed = s.relaxed ∧ (modCtx s n f).aspmL1 = s.aspmL1 ∧ (modCtx s n f).pfBar = s.pfBar ∧ (modCtx s n
    f).vfBar = s.vfBar ∧ (modCtx s n f).pages = s.pages ∧ (modCtx s n f).cqs = s.cqs ∧ (modCtx s n f).qps = s.qps ∧ (modCtx s n f).msgOut
    = s.msgOut ∧ (modCtx s n f).dests = s.dests ∧ (modCtx s n f).pathConf = s.pathConf ∧ (modCtx s n f).pathDef = s.pathDef ∧ (modCtx s n
    f).cong = s.cong ∧ (modCtx s n f).ports = s.ports ∧ (modCtx s n f).classes = s.classes ∧ (modCtx s n f).limiters = s.limiters ∧
    (modCtx s n f).trains = s.trains ∧ (modCtx s n f).txq = s.txq ∧ (modCtx s n f).rxq = s.rxq ∧ (modCtx s n f).mirrors = s.mirrors ∧
    (modCtx s n f).tcache = s.tcache ∧ (modCtx s n f).ats = s.ats ∧ (modCtx s n f).waits = s.waits ∧ (modCtx s n f).pageReqs = s.pageReqs
    ∧ (modCtx s n f).prgHeld = s.prgHeld ∧ (modCtx s n f).reads = s.reads ∧ (modCtx s n f).flushes = s.flushes ∧ (modCtx s n f).drains =
    s.drains ∧ (modCtx s n f).pool = s.pool ∧ (modCtx s n f).insts = s.insts ∧ (modCtx s n f).kettles = s.kettles ∧ (modCtx s n f).array =
    s.array ∧ (modCtx s n f).forwards = s.forwards ∧ (modCtx s n f).counters = s.counters ∧ (modCtx s n f).cipher = s.cipher ∧ (modCtx s n
    f).pfMbx = s.pfMbx ∧ (modCtx s n f).secMbx = s.secMbx ∧ (modCtx s n f).relays = s.relays ∧ (modCtx s n f).secLast = s.secLast ∧
    (modCtx s n f).secRuns = s.secRuns ∧ (modCtx s n f).owl = s.owl ∧ (modCtx s n f).traffic = s.traffic ∧ (modCtx s n f).eid = s.eid ∧
    (modCtx s n f).a1 = s.a1 ∧ (modCtx s n f).halted = s.halted ∧ (modCtx s n f).dbg = s.dbg ∧ (modCtx s n f).out = s.out ∧ (modCtx s n
    f).heldOut = s.heldOut ∧ (modCtx s n f).portHeld = s.portHeld ∧ (modCtx s n f).pending = s.pending ∧ (modCtx s n f).now = s.now ∧
    (modCtx s n f).fresh = s.fresh ∧ (modCtx s n f).ctxs = tmod s.ctxs n f := by
  and_intros <;> rfl

@[simp] theorem modRun_fields (ctx slot : Nat) (f : TpeRun → TpeRun) :
    (modRun s ctx slot f).pins = s.pins ∧ (modRun s ctx slot f).power = s.power ∧ (modRun s ctx slot f).clocks = s.clocks ∧ (modRun s ctx
    slot f).time = s.time ∧ (modRun s ctx slot f).start = s.start ∧ (modRun s ctx slot f).adm = s.adm ∧ (modRun s ctx slot f).epoch =
    s.epoch ∧ (modRun s ctx slot f).ctlReset = s.ctlReset ∧ (modRun s ctx slot f).pm = s.pm ∧ (modRun s ctx slot f).trace = s.trace ∧
    (modRun s ctx slot f).wdt = s.wdt ∧ (modRun s ctx slot f).vfEnable = s.vfEnable ∧ (modRun s ctx slot f).numVfs = s.numVfs ∧ (modRun s
    ctx slot f).fns = s.fns ∧ (modRun s ctx slot f).payload = s.payload ∧ (modRun s ctx slot f).readReq = s.readReq ∧ (modRun s ctx slot
    f).relaxed = s.relaxed ∧ (modRun s ctx slot f).aspmL1 = s.aspmL1 ∧ (modRun s ctx slot f).pfBar = s.pfBar ∧ (modRun s ctx slot f).vfBar
    = s.vfBar ∧ (modRun s ctx slot f).pages = s.pages ∧ (modRun s ctx slot f).cqs = s.cqs ∧ (modRun s ctx slot f).qps = s.qps ∧ (modRun s
    ctx slot f).msgOut = s.msgOut ∧ (modRun s ctx slot f).dests = s.dests ∧ (modRun s ctx slot f).pathConf = s.pathConf ∧ (modRun s ctx
    slot f).pathDef = s.pathDef ∧ (modRun s ctx slot f).cong = s.cong ∧ (modRun s ctx slot f).ports = s.ports ∧ (modRun s ctx slot
    f).classes = s.classes ∧ (modRun s ctx slot f).limiters = s.limiters ∧ (modRun s ctx slot f).trains = s.trains ∧ (modRun s ctx slot
    f).txq = s.txq ∧ (modRun s ctx slot f).rxq = s.rxq ∧ (modRun s ctx slot f).mirrors = s.mirrors ∧ (modRun s ctx slot f).tcache =
    s.tcache ∧ (modRun s ctx slot f).ats = s.ats ∧ (modRun s ctx slot f).waits = s.waits ∧ (modRun s ctx slot f).pageReqs = s.pageReqs ∧
    (modRun s ctx slot f).prgHeld = s.prgHeld ∧ (modRun s ctx slot f).reads = s.reads ∧ (modRun s ctx slot f).flushes = s.flushes ∧
    (modRun s ctx slot f).drains = s.drains ∧ (modRun s ctx slot f).pool = s.pool ∧ (modRun s ctx slot f).insts = s.insts ∧ (modRun s ctx
    slot f).kettles = s.kettles ∧ (modRun s ctx slot f).array = s.array ∧ (modRun s ctx slot f).forwards = s.forwards ∧ (modRun s ctx slot
    f).counters = s.counters ∧ (modRun s ctx slot f).cipher = s.cipher ∧ (modRun s ctx slot f).pfMbx = s.pfMbx ∧ (modRun s ctx slot
    f).secMbx = s.secMbx ∧ (modRun s ctx slot f).relays = s.relays ∧ (modRun s ctx slot f).secLast = s.secLast ∧ (modRun s ctx slot
    f).secRuns = s.secRuns ∧ (modRun s ctx slot f).owl = s.owl ∧ (modRun s ctx slot f).traffic = s.traffic ∧ (modRun s ctx slot f).eid =
    s.eid ∧ (modRun s ctx slot f).a1 = s.a1 ∧ (modRun s ctx slot f).halted = s.halted ∧ (modRun s ctx slot f).dbg = s.dbg ∧ (modRun s ctx
    slot f).out = s.out ∧ (modRun s ctx slot f).heldOut = s.heldOut ∧ (modRun s ctx slot f).portHeld = s.portHeld ∧ (modRun s ctx slot
    f).pending = s.pending ∧ (modRun s ctx slot f).now = s.now ∧ (modRun s ctx slot f).fresh = s.fresh := by
  and_intros <;> rfl

@[simp] theorem modSa_fields (id : Nat) (f : Sa → Sa) :
    (modSa s id f).pins = s.pins ∧ (modSa s id f).power = s.power ∧ (modSa s id f).clocks = s.clocks ∧ (modSa s id f).time = s.time ∧
    (modSa s id f).start = s.start ∧ (modSa s id f).adm = s.adm ∧ (modSa s id f).epoch = s.epoch ∧ (modSa s id f).ctlReset = s.ctlReset ∧
    (modSa s id f).pm = s.pm ∧ (modSa s id f).trace = s.trace ∧ (modSa s id f).wdt = s.wdt ∧ (modSa s id f).vfEnable = s.vfEnable ∧ (modSa
    s id f).numVfs = s.numVfs ∧ (modSa s id f).fns = s.fns ∧ (modSa s id f).payload = s.payload ∧ (modSa s id f).readReq = s.readReq ∧
    (modSa s id f).relaxed = s.relaxed ∧ (modSa s id f).aspmL1 = s.aspmL1 ∧ (modSa s id f).pfBar = s.pfBar ∧ (modSa s id f).vfBar =
    s.vfBar ∧ (modSa s id f).pages = s.pages ∧ (modSa s id f).cqs = s.cqs ∧ (modSa s id f).qps = s.qps ∧ (modSa s id f).msgOut = s.msgOut
    ∧ (modSa s id f).dests = s.dests ∧ (modSa s id f).pathConf = s.pathConf ∧ (modSa s id f).pathDef = s.pathDef ∧ (modSa s id f).cong =
    s.cong ∧ (modSa s id f).ports = s.ports ∧ (modSa s id f).classes = s.classes ∧ (modSa s id f).limiters = s.limiters ∧ (modSa s id
    f).trains = s.trains ∧ (modSa s id f).txq = s.txq ∧ (modSa s id f).rxq = s.rxq ∧ (modSa s id f).mirrors = s.mirrors ∧ (modSa s id
    f).tcache = s.tcache ∧ (modSa s id f).ats = s.ats ∧ (modSa s id f).waits = s.waits ∧ (modSa s id f).pageReqs = s.pageReqs ∧ (modSa s
    id f).prgHeld = s.prgHeld ∧ (modSa s id f).reads = s.reads ∧ (modSa s id f).flushes = s.flushes ∧ (modSa s id f).drains = s.drains ∧
    (modSa s id f).pool = s.pool ∧ (modSa s id f).insts = s.insts ∧ (modSa s id f).ctxs = s.ctxs ∧ (modSa s id f).kettles = s.kettles ∧
    (modSa s id f).array = s.array ∧ (modSa s id f).forwards = s.forwards ∧ (modSa s id f).counters = s.counters ∧ (modSa s id f).pfMbx =
    s.pfMbx ∧ (modSa s id f).secMbx = s.secMbx ∧ (modSa s id f).relays = s.relays ∧ (modSa s id f).secLast = s.secLast ∧ (modSa s id
    f).secRuns = s.secRuns ∧ (modSa s id f).owl = s.owl ∧ (modSa s id f).traffic = s.traffic ∧ (modSa s id f).eid = s.eid ∧ (modSa s id
    f).a1 = s.a1 ∧ (modSa s id f).halted = s.halted ∧ (modSa s id f).dbg = s.dbg ∧ (modSa s id f).out = s.out ∧ (modSa s id f).heldOut =
    s.heldOut ∧ (modSa s id f).portHeld = s.portHeld ∧ (modSa s id f).pending = s.pending ∧ (modSa s id f).now = s.now ∧ (modSa s id
    f).fresh = s.fresh := by
  and_intros <;> rfl

@[simp] theorem modCipher_fields (f : Cipher → Cipher) :
    (modCipher s f).pins = s.pins ∧ (modCipher s f).power = s.power ∧ (modCipher s f).clocks = s.clocks ∧ (modCipher s f).time = s.time ∧
    (modCipher s f).start = s.start ∧ (modCipher s f).adm = s.adm ∧ (modCipher s f).epoch = s.epoch ∧ (modCipher s f).ctlReset =
    s.ctlReset ∧ (modCipher s f).pm = s.pm ∧ (modCipher s f).trace = s.trace ∧ (modCipher s f).wdt = s.wdt ∧ (modCipher s f).vfEnable =
    s.vfEnable ∧ (modCipher s f).numVfs = s.numVfs ∧ (modCipher s f).fns = s.fns ∧ (modCipher s f).payload = s.payload ∧ (modCipher s
    f).readReq = s.readReq ∧ (modCipher s f).relaxed = s.relaxed ∧ (modCipher s f).aspmL1 = s.aspmL1 ∧ (modCipher s f).pfBar = s.pfBar ∧
    (modCipher s f).vfBar = s.vfBar ∧ (modCipher s f).pages = s.pages ∧ (modCipher s f).cqs = s.cqs ∧ (modCipher s f).qps = s.qps ∧
    (modCipher s f).msgOut = s.msgOut ∧ (modCipher s f).dests = s.dests ∧ (modCipher s f).pathConf = s.pathConf ∧ (modCipher s f).pathDef
    = s.pathDef ∧ (modCipher s f).cong = s.cong ∧ (modCipher s f).ports = s.ports ∧ (modCipher s f).classes = s.classes ∧ (modCipher s
    f).limiters = s.limiters ∧ (modCipher s f).trains = s.trains ∧ (modCipher s f).txq = s.txq ∧ (modCipher s f).rxq = s.rxq ∧ (modCipher
    s f).mirrors = s.mirrors ∧ (modCipher s f).tcache = s.tcache ∧ (modCipher s f).ats = s.ats ∧ (modCipher s f).waits = s.waits ∧
    (modCipher s f).pageReqs = s.pageReqs ∧ (modCipher s f).prgHeld = s.prgHeld ∧ (modCipher s f).reads = s.reads ∧ (modCipher s
    f).flushes = s.flushes ∧ (modCipher s f).drains = s.drains ∧ (modCipher s f).pool = s.pool ∧ (modCipher s f).insts = s.insts ∧
    (modCipher s f).ctxs = s.ctxs ∧ (modCipher s f).kettles = s.kettles ∧ (modCipher s f).array = s.array ∧ (modCipher s f).forwards =
    s.forwards ∧ (modCipher s f).counters = s.counters ∧ (modCipher s f).pfMbx = s.pfMbx ∧ (modCipher s f).secMbx = s.secMbx ∧ (modCipher
    s f).relays = s.relays ∧ (modCipher s f).secLast = s.secLast ∧ (modCipher s f).secRuns = s.secRuns ∧ (modCipher s f).owl = s.owl ∧
    (modCipher s f).traffic = s.traffic ∧ (modCipher s f).eid = s.eid ∧ (modCipher s f).a1 = s.a1 ∧ (modCipher s f).halted = s.halted ∧
    (modCipher s f).dbg = s.dbg ∧ (modCipher s f).out = s.out ∧ (modCipher s f).heldOut = s.heldOut ∧ (modCipher s f).portHeld =
    s.portHeld ∧ (modCipher s f).pending = s.pending ∧ (modCipher s f).now = s.now ∧ (modCipher s f).fresh = s.fresh ∧ (modCipher s
    f).cipher = f s.cipher := by
  and_intros <;> rfl

@[simp] theorem modFn_fields (n : Nat) (f : FnState → FnState) :
    (modFn s n f).pins = s.pins ∧ (modFn s n f).power = s.power ∧ (modFn s n f).clocks = s.clocks ∧ (modFn s n f).time = s.time ∧ (modFn s
    n f).start = s.start ∧ (modFn s n f).adm = s.adm ∧ (modFn s n f).epoch = s.epoch ∧ (modFn s n f).ctlReset = s.ctlReset ∧ (modFn s n
    f).pm = s.pm ∧ (modFn s n f).trace = s.trace ∧ (modFn s n f).wdt = s.wdt ∧ (modFn s n f).vfEnable = s.vfEnable ∧ (modFn s n f).numVfs
    = s.numVfs ∧ (modFn s n f).payload = s.payload ∧ (modFn s n f).readReq = s.readReq ∧ (modFn s n f).relaxed = s.relaxed ∧ (modFn s n
    f).aspmL1 = s.aspmL1 ∧ (modFn s n f).pfBar = s.pfBar ∧ (modFn s n f).vfBar = s.vfBar ∧ (modFn s n f).pages = s.pages ∧ (modFn s n
    f).cqs = s.cqs ∧ (modFn s n f).qps = s.qps ∧ (modFn s n f).msgOut = s.msgOut ∧ (modFn s n f).dests = s.dests ∧ (modFn s n f).pathConf
    = s.pathConf ∧ (modFn s n f).pathDef = s.pathDef ∧ (modFn s n f).cong = s.cong ∧ (modFn s n f).ports = s.ports ∧ (modFn s n f).classes
    = s.classes ∧ (modFn s n f).limiters = s.limiters ∧ (modFn s n f).trains = s.trains ∧ (modFn s n f).txq = s.txq ∧ (modFn s n f).rxq =
    s.rxq ∧ (modFn s n f).mirrors = s.mirrors ∧ (modFn s n f).tcache = s.tcache ∧ (modFn s n f).ats = s.ats ∧ (modFn s n f).waits =
    s.waits ∧ (modFn s n f).pageReqs = s.pageReqs ∧ (modFn s n f).prgHeld = s.prgHeld ∧ (modFn s n f).reads = s.reads ∧ (modFn s n
    f).flushes = s.flushes ∧ (modFn s n f).drains = s.drains ∧ (modFn s n f).pool = s.pool ∧ (modFn s n f).insts = s.insts ∧ (modFn s n
    f).ctxs = s.ctxs ∧ (modFn s n f).kettles = s.kettles ∧ (modFn s n f).array = s.array ∧ (modFn s n f).forwards = s.forwards ∧ (modFn s
    n f).counters = s.counters ∧ (modFn s n f).cipher = s.cipher ∧ (modFn s n f).pfMbx = s.pfMbx ∧ (modFn s n f).secMbx = s.secMbx ∧
    (modFn s n f).relays = s.relays ∧ (modFn s n f).secLast = s.secLast ∧ (modFn s n f).secRuns = s.secRuns ∧ (modFn s n f).owl = s.owl ∧
    (modFn s n f).traffic = s.traffic ∧ (modFn s n f).eid = s.eid ∧ (modFn s n f).a1 = s.a1 ∧ (modFn s n f).halted = s.halted ∧ (modFn s n
    f).dbg = s.dbg ∧ (modFn s n f).out = s.out ∧ (modFn s n f).heldOut = s.heldOut ∧ (modFn s n f).portHeld = s.portHeld ∧ (modFn s n
    f).pending = s.pending ∧ (modFn s n f).now = s.now ∧ (modFn s n f).fresh = s.fresh ∧ (modFn s n f).fns = tmod s.fns n f := by
  and_intros <;> rfl

@[simp] theorem setAport_fields (n : Nat) (f : APort → APort) :
    (setAport s n f).pins = s.pins ∧ (setAport s n f).power = s.power ∧ (setAport s n f).clocks = s.clocks ∧ (setAport s n f).time =
    s.time ∧ (setAport s n f).adm = s.adm ∧ (setAport s n f).epoch = s.epoch ∧ (setAport s n f).ctlReset = s.ctlReset ∧ (setAport s n
    f).pm = s.pm ∧ (setAport s n f).trace = s.trace ∧ (setAport s n f).wdt = s.wdt ∧ (setAport s n f).vfEnable = s.vfEnable ∧ (setAport s
    n f).numVfs = s.numVfs ∧ (setAport s n f).fns = s.fns ∧ (setAport s n f).payload = s.payload ∧ (setAport s n f).readReq = s.readReq ∧
    (setAport s n f).relaxed = s.relaxed ∧ (setAport s n f).aspmL1 = s.aspmL1 ∧ (setAport s n f).pfBar = s.pfBar ∧ (setAport s n f).vfBar
    = s.vfBar ∧ (setAport s n f).pages = s.pages ∧ (setAport s n f).cqs = s.cqs ∧ (setAport s n f).qps = s.qps ∧ (setAport s n f).msgOut =
    s.msgOut ∧ (setAport s n f).dests = s.dests ∧ (setAport s n f).pathConf = s.pathConf ∧ (setAport s n f).pathDef = s.pathDef ∧
    (setAport s n f).cong = s.cong ∧ (setAport s n f).ports = s.ports ∧ (setAport s n f).classes = s.classes ∧ (setAport s n f).limiters =
    s.limiters ∧ (setAport s n f).trains = s.trains ∧ (setAport s n f).txq = s.txq ∧ (setAport s n f).rxq = s.rxq ∧ (setAport s n
    f).mirrors = s.mirrors ∧ (setAport s n f).tcache = s.tcache ∧ (setAport s n f).ats = s.ats ∧ (setAport s n f).waits = s.waits ∧
    (setAport s n f).pageReqs = s.pageReqs ∧ (setAport s n f).prgHeld = s.prgHeld ∧ (setAport s n f).reads = s.reads ∧ (setAport s n
    f).flushes = s.flushes ∧ (setAport s n f).drains = s.drains ∧ (setAport s n f).pool = s.pool ∧ (setAport s n f).insts = s.insts ∧
    (setAport s n f).ctxs = s.ctxs ∧ (setAport s n f).kettles = s.kettles ∧ (setAport s n f).array = s.array ∧ (setAport s n f).forwards =
    s.forwards ∧ (setAport s n f).counters = s.counters ∧ (setAport s n f).cipher = s.cipher ∧ (setAport s n f).pfMbx = s.pfMbx ∧
    (setAport s n f).secMbx = s.secMbx ∧ (setAport s n f).relays = s.relays ∧ (setAport s n f).secLast = s.secLast ∧ (setAport s n
    f).secRuns = s.secRuns ∧ (setAport s n f).owl = s.owl ∧ (setAport s n f).traffic = s.traffic ∧ (setAport s n f).eid = s.eid ∧
    (setAport s n f).a1 = s.a1 ∧ (setAport s n f).halted = s.halted ∧ (setAport s n f).dbg = s.dbg ∧ (setAport s n f).out = s.out ∧
    (setAport s n f).heldOut = s.heldOut ∧ (setAport s n f).portHeld = s.portHeld ∧ (setAport s n f).pending = s.pending ∧ (setAport s n
    f).now = s.now ∧ (setAport s n f).fresh = s.fresh := by
  and_intros <;> rfl

@[simp] theorem setRing_fields (k : RingKind) (id : Nat) (r : Ring) :
    (setRing s k id r).pins = s.pins ∧ (setRing s k id r).power = s.power ∧ (setRing s k id r).clocks = s.clocks ∧ (setRing s k id r).time
    = s.time ∧ (setRing s k id r).start = s.start ∧ (setRing s k id r).adm = s.adm ∧ (setRing s k id r).epoch = s.epoch ∧ (setRing s k id
    r).ctlReset = s.ctlReset ∧ (setRing s k id r).pm = s.pm ∧ (setRing s k id r).trace = s.trace ∧ (setRing s k id r).wdt = s.wdt ∧
    (setRing s k id r).vfEnable = s.vfEnable ∧ (setRing s k id r).numVfs = s.numVfs ∧ (setRing s k id r).fns = s.fns ∧ (setRing s k id
    r).payload = s.payload ∧ (setRing s k id r).readReq = s.readReq ∧ (setRing s k id r).relaxed = s.relaxed ∧ (setRing s k id r).aspmL1 =
    s.aspmL1 ∧ (setRing s k id r).pfBar = s.pfBar ∧ (setRing s k id r).vfBar = s.vfBar ∧ (setRing s k id r).pages = s.pages ∧ (setRing s k
    id r).cqs = s.cqs ∧ (setRing s k id r).msgOut = s.msgOut ∧ (setRing s k id r).dests = s.dests ∧ (setRing s k id r).pathConf =
    s.pathConf ∧ (setRing s k id r).pathDef = s.pathDef ∧ (setRing s k id r).cong = s.cong ∧ (setRing s k id r).ports = s.ports ∧ (setRing
    s k id r).classes = s.classes ∧ (setRing s k id r).limiters = s.limiters ∧ (setRing s k id r).trains = s.trains ∧ (setRing s k id
    r).txq = s.txq ∧ (setRing s k id r).rxq = s.rxq ∧ (setRing s k id r).mirrors = s.mirrors ∧ (setRing s k id r).tcache = s.tcache ∧
    (setRing s k id r).ats = s.ats ∧ (setRing s k id r).waits = s.waits ∧ (setRing s k id r).pageReqs = s.pageReqs ∧ (setRing s k id
    r).prgHeld = s.prgHeld ∧ (setRing s k id r).reads = s.reads ∧ (setRing s k id r).flushes = s.flushes ∧ (setRing s k id r).drains =
    s.drains ∧ (setRing s k id r).pool = s.pool ∧ (setRing s k id r).kettles = s.kettles ∧ (setRing s k id r).array = s.array ∧ (setRing s
    k id r).forwards = s.forwards ∧ (setRing s k id r).counters = s.counters ∧ (setRing s k id r).cipher = s.cipher ∧ (setRing s k id
    r).pfMbx = s.pfMbx ∧ (setRing s k id r).secMbx = s.secMbx ∧ (setRing s k id r).relays = s.relays ∧ (setRing s k id r).secLast =
    s.secLast ∧ (setRing s k id r).secRuns = s.secRuns ∧ (setRing s k id r).owl = s.owl ∧ (setRing s k id r).traffic = s.traffic ∧
    (setRing s k id r).eid = s.eid ∧ (setRing s k id r).a1 = s.a1 ∧ (setRing s k id r).halted = s.halted ∧ (setRing s k id r).dbg = s.dbg
    ∧ (setRing s k id r).out = s.out ∧ (setRing s k id r).heldOut = s.heldOut ∧ (setRing s k id r).portHeld = s.portHeld ∧ (setRing s k id
    r).pending = s.pending ∧ (setRing s k id r).now = s.now ∧ (setRing s k id r).fresh = s.fresh := by
  cases k <;> (and_intros <;> rfl)

@[simp] theorem modChan_fields (r : ChanRef) (f : Channel → Channel) :
    (modChan s r f).power = s.power ∧ (modChan s r f).clocks = s.clocks ∧ (modChan s r f).time = s.time ∧ (modChan s r f).start = s.start
    ∧ (modChan s r f).adm = s.adm ∧ (modChan s r f).epoch = s.epoch ∧ (modChan s r f).ctlReset = s.ctlReset ∧ (modChan s r f).pm = s.pm ∧
    (modChan s r f).trace = s.trace ∧ (modChan s r f).wdt = s.wdt ∧ (modChan s r f).vfEnable = s.vfEnable ∧ (modChan s r f).numVfs =
    s.numVfs ∧ (modChan s r f).fns = s.fns ∧ (modChan s r f).payload = s.payload ∧ (modChan s r f).readReq = s.readReq ∧ (modChan s r
    f).relaxed = s.relaxed ∧ (modChan s r f).aspmL1 = s.aspmL1 ∧ (modChan s r f).pfBar = s.pfBar ∧ (modChan s r f).vfBar = s.vfBar ∧
    (modChan s r f).pages = s.pages ∧ (modChan s r f).cqs = s.cqs ∧ (modChan s r f).qps = s.qps ∧ (modChan s r f).msgOut = s.msgOut ∧
    (modChan s r f).dests = s.dests ∧ (modChan s r f).pathConf = s.pathConf ∧ (modChan s r f).pathDef = s.pathDef ∧ (modChan s r f).cong =
    s.cong ∧ (modChan s r f).ports = s.ports ∧ (modChan s r f).classes = s.classes ∧ (modChan s r f).limiters = s.limiters ∧ (modChan s r
    f).trains = s.trains ∧ (modChan s r f).txq = s.txq ∧ (modChan s r f).rxq = s.rxq ∧ (modChan s r f).mirrors = s.mirrors ∧ (modChan s r
    f).tcache = s.tcache ∧ (modChan s r f).ats = s.ats ∧ (modChan s r f).waits = s.waits ∧ (modChan s r f).pageReqs = s.pageReqs ∧
    (modChan s r f).prgHeld = s.prgHeld ∧ (modChan s r f).reads = s.reads ∧ (modChan s r f).flushes = s.flushes ∧ (modChan s r f).drains =
    s.drains ∧ (modChan s r f).pool = s.pool ∧ (modChan s r f).ctxs = s.ctxs ∧ (modChan s r f).kettles = s.kettles ∧ (modChan s r f).array
    = s.array ∧ (modChan s r f).forwards = s.forwards ∧ (modChan s r f).counters = s.counters ∧ (modChan s r f).cipher = s.cipher ∧
    (modChan s r f).relays = s.relays ∧ (modChan s r f).secLast = s.secLast ∧ (modChan s r f).secRuns = s.secRuns ∧ (modChan s r f).owl =
    s.owl ∧ (modChan s r f).traffic = s.traffic ∧ (modChan s r f).eid = s.eid ∧ (modChan s r f).a1 = s.a1 ∧ (modChan s r f).halted =
    s.halted ∧ (modChan s r f).dbg = s.dbg ∧ (modChan s r f).out = s.out ∧ (modChan s r f).heldOut = s.heldOut ∧ (modChan s r f).portHeld
    = s.portHeld ∧ (modChan s r f).pending = s.pending ∧ (modChan s r f).now = s.now ∧ (modChan s r f).fresh = s.fresh := by
  cases r <;> (and_intros <;> rfl)

end Sys2Proof.Machine
end

