-- ==== Sys2Proof/Laws/AdmFrame.lean ====
section
/-!
SUPPORT. The frame of the operations that complete no admin command: the ring's commands, its place and EPOCH stay. `f_admSame` says that an
operation applied to a state that is still `AdmSame` as `s` gives another such state. What `Completes` asks of a state before its completion
is in these three.
-/

set_option Elab.async false
set_option linter.unusedTactic false
set_option linter.unreachableTactic false

namespace Sys2Proof.Machine

/-- What every operation leaves as it was that completes no admin command and takes none up: the commands of the ring, where the ring lies,
and the EPOCH. -/
structure AdmSame (s t : State) : Prop where
  cmds : t.adm.cmds = s.adm.cmds
  base : t.adm.ringBase = s.adm.ringBase
  epoch : t.epoch = s.epoch

theorem AdmSame.refl (s : State) : AdmSame s s := ⟨rfl, rfl, rfl⟩

theorem AdmSame.trans {s t u : State} (h : AdmSame s t) (k : AdmSame t u) : AdmSame s u := ⟨k.cmds.trans h.cmds, k.base.trans h.base,
    k.epoch.trans h.epoch⟩

theorem AdmSame.keep {s t : State} (h : AdmSame s t) (pins : Pins) (power : Power) (clocks : Clocks) (time : TimeBase) (start : Start)
    (adm_evtBase : BitVec 64) (adm_ringLog2 : BitVec 4) (adm_evtLog2 : BitVec 4) (adm_enable : Bool) (adm_seqBase : Word) (adm_enabled :
    Bool) (adm_evtOverflow : Bool) (adm_head : BitVec 12) (adm_seqNext : Word) (adm_evtSeq : Word) (adm_fetching : Bool) (adm_reading :
    Bool) (adm_bell : Bool) (adm_evtNext : Nat) (adm_evtFree : Nat) (adm_held : List HeldEvent) (adm_heldLost : BitVec 16) (adm_reportOwed
    : Bool) (ctlReset : Bool) (pm : Pm) (trace : Trace) (wdt : Watchdog) (vfEnable : Bool) (numVfs : Nat) (fns : Tab FnState) (payload :
    BitVec 3) (readReq : BitVec 3) (relaxed : Bool) (aspmL1 : Bool) (pfBar : BitVec 64) (vfBar : BitVec 64) (pages : Tab Page) (cqs : Tab
    Cq) (qps : Tab Qp) (msgOut : Nat) (dests : Tab Dest) (pathConf : Tab PathConf) (pathDef : PathConf) (cong : CongParams) (ports : List
    Port) (classes : List ClassConf) (limiters : Tab Limiter) (trains : List Train) (txq : List TxDgram) (rxq : List RxDgram) (mirrors :
    Tab Mirror) (tcache : List CacheEntry) (ats : List AtsEntry) (waits : List Waiting) (pageReqs : List PageReq) (prgHeld : List (Nat ×
    Nat × PrgCode)) (reads : List DataRead) (flushes : List Flush) (drains : List Drain) (pool : Pool) (insts : Tab Inst) (ctxs : Tab Ctx)
    (kettles : Tab Kettle) (array : ArrayUnit) (forwards : List Forward) (counters : Tab Nat) (cipher : Cipher) (pfMbx : List Channel)
    (secMbx : List Channel) (relays : List Relay) (secLast : Nat) (secRuns : List (Nat × Nat)) (owl : Owl) (traffic : Traffic) (eid :
    BitVec 8) (a1 : Bool) (halted : Bool) (dbg : Dbg) (out : List Output) (heldOut : List Output) (portHeld : List Output) (pending : List
    Instr) (now : Nat) (fresh : Nat) :
    AdmSame s (State.mk pins power clocks time start (Adm.mk t.adm.ringBase adm_evtBase adm_ringLog2 adm_evtLog2 adm_enable adm_seqBase
        adm_enabled adm_evtOverflow adm_head adm_seqNext adm_evtSeq adm_fetching adm_reading adm_bell t.adm.cmds adm_evtNext adm_evtFree
        adm_held adm_heldLost adm_reportOwed) t.epoch ctlReset pm trace wdt vfEnable numVfs fns payload readReq relaxed aspmL1 pfBar vfBar
        pages cqs qps msgOut dests pathConf pathDef cong ports classes limiters trains txq rxq mirrors tcache ats waits pageReqs prgHeld
        reads flushes drains pool insts ctxs kettles array forwards counters cipher pfMbx secMbx relays secLast secRuns owl traffic eid a1
        halted dbg out heldOut portHeld pending now fresh) :=
  ⟨h.cmds, h.base, h.epoch⟩

theorem AdmSame.ite {s t u : State} {c : Prop} [Decidable c] (h : AdmSame s t) (k : AdmSame s u) : AdmSame s (if c then t else u) := by
  split <;> assumption

theorem AdmSame.foldl {α : Type} {s t : State} (h : AdmSame s t) (f : State → α → State) (l : List α) (hf : ∀ u a, AdmSame s u → AdmSame s
    (f u a)) : AdmSame s (l.foldl f t) := by
  induction l generalizing t with
  | nil => exact h
  | cons a l ih => exact ih (hf t a h)

theorem AdmSame.foldl1 {α β : Type} {s t : State} (h : AdmSame s t) (b : β) (f : State × β → α → State × β) (l : List α) (hf : ∀ u a,
    AdmSame s u.1 → AdmSame s (f u a).1) : AdmSame s (l.foldl f (t, b)).1 := by
  suffices ∀ x : State × β, AdmSame s x.1 → AdmSame s (l.foldl f x).1 from this _ h
  intro x hx
  induction l generalizing x with
  | nil => exact hx
  | cons a l ih => exact ih _ (hf _ a hx)

theorem AdmSame.foldl2 {α β : Type} {s t : State} (h : AdmSame s t) (b : β) (f : β × State → α → β × State) (l : List α) (hf : ∀ u a,
    AdmSame s u.2 → AdmSame s (f u a).2) : AdmSame s (l.foldl f (b, t)).2 := by
  suffices ∀ x : β × State, AdmSame s x.2 → AdmSame s (l.foldl f x).2 from this _ h
  intro x hx
  induction l generalizing x with
  | nil => exact hx
  | cons a l ih => exact ih _ (hf _ a hx)

/-! ### Ops -/

theorem sendOut_admSame {a0 : State} (s : State) (o : Output) (h0 : AdmSame a0 s) : AdmSame a0 (sendOut s o) := by
  unfold sendOut
  try dsimp only
  repeat' (first
    | with_reducible assumption
    | intro _
    | with_reducible (first
      | apply AdmSame.refl | apply AdmSame.ite | (fail_if_no_progress apply AdmSame.keep))
    | split)

theorem emit_admSame {a0 : State} (s : State) (o : Output) (h0 : AdmSame a0 s) : AdmSame a0 (emit s o) := by
  unfold emit
  try dsimp only
  repeat' (first
    | with_reducible assumption
    | intro _
    | with_reducible (first
      | apply sendOut_admSame | apply AdmSame.refl | apply AdmSame.ite | (fail_if_no_progress apply AdmSame.keep))
    | split)

theorem releasePort_admSame {a0 : State} (s : State) (n : Nat) (h0 : AdmSame a0 s) : AdmSame a0 (releasePort s n) := by
  unfold releasePort
  try dsimp only
  repeat' (first
    | with_reducible assumption
    | intro _
    | with_reducible (first
      | apply emit_admSame | apply AdmSame.refl | apply AdmSame.ite | apply AdmSame.foldl | apply AdmSame.foldl1 | apply AdmSame.foldl2
      | (fail_if_no_progress apply AdmSame.keep))
    | split)

theorem writeData_admSame {a0 : State} (s : State) (dst : Target) (addr : Nat) (bs : Bytes) (h0 : AdmSame a0 s) : AdmSame a0 (writeData s
    dst addr bs) := by
  unfold writeData
  try dsimp only
  repeat' (first
    | with_reducible assumption
    | intro _
    | with_reducible (first
      | apply emit_admSame | apply AdmSame.refl | apply AdmSame.ite | apply AdmSame.foldl | apply AdmSame.foldl1 | apply AdmSame.foldl2
      | (fail_if_no_progress apply AdmSame.keep))
    | split)

theorem readData_admSame {a0 : State} (s : State) (src : Target) (addr len id : Nat) (h0 : AdmSame a0 s) : AdmSame a0 (readData s src addr
    len id) := by
  unfold readData
  try dsimp only
  repeat' (first
    | with_reducible assumption
    | intro _
    | with_reducible (first
      | apply emit_admSame | apply AdmSame.refl | apply AdmSame.ite | apply AdmSame.foldl | apply AdmSame.foldl1 | apply AdmSame.foldl2
      | (fail_if_no_progress apply AdmSame.keep))
    | split)

theorem writeResult_admSame {a0 : State} (s : State) (dst : Target) (addr : Nat) (bs : Bytes) (h0 : AdmSame a0 s) : AdmSame a0
    (writeResult s dst addr bs) := by
  unfold writeResult
  try dsimp only
  repeat' (first
    | with_reducible assumption
    | intro _
    | with_reducible (first
      | apply emit_admSame | apply AdmSame.refl | apply AdmSame.ite | apply AdmSame.foldl | apply AdmSame.foldl1 | apply AdmSame.foldl2
      | (fail_if_no_progress apply AdmSame.keep))
    | split)

theorem takeFresh_admSame {a0 : State} (s : State) (h0 : AdmSame a0 s) : AdmSame a0 (takeFresh s).2 := by
  unfold takeFresh
  try dsimp only
  repeat' (first
    | with_reducible assumption
    | intro _
    | with_reducible (first
      | apply AdmSame.refl | apply AdmSame.ite | (fail_if_no_progress apply AdmSame.keep))
    | split)

theorem writeOwned_admSame {a0 : State} (s : State) (dst : Target) (addr : Nat) (bs : Bytes) (h0 : AdmSame a0 s) : AdmSame a0 (writeOwned
    s dst addr bs) := by
  unfold writeOwned
  try dsimp only
  repeat' (first
    | with_reducible assumption
    | intro _
    | with_reducible (first
      | apply emit_admSame | apply AdmSame.refl | apply AdmSame.ite | (fail_if_no_progress apply AdmSame.keep))
    | split)

theorem count_admSame {a0 : State} (s : State) (group index n k : Nat) (h0 : AdmSame a0 s) : AdmSame a0 (count s group index n k) := by
  unfold count
  try dsimp only
  repeat' (first
    | with_reducible assumption
    | intro _
    | with_reducible (first
      | apply AdmSame.refl | apply AdmSame.ite | (fail_if_no_progress apply AdmSame.keep))
    | split)

theorem heardTlp_admSame {a0 : State} (s : State) (h0 : AdmSame a0 s) : AdmSame a0 (heardTlp s) := by
  unfold heardTlp
  try dsimp only
  repeat' (first
    | with_reducible assumption
    | intro _
    | with_reducible (first
      | apply AdmSame.refl | apply AdmSame.ite | (fail_if_no_progress apply AdmSame.keep))
    | split)

theorem heardAt_admSame {a0 : State} (s : State) (port : Nat) (h0 : AdmSame a0 s) : AdmSame a0 (heardAt s port) := by
  unfold heardAt
  try dsimp only
  repeat' (first
    | with_reducible assumption
    | intro _
    | with_reducible (first
      | apply heardTlp_admSame | apply AdmSame.refl | apply AdmSame.ite | (fail_if_no_progress apply AdmSame.keep))
    | split)

theorem heardBells_admSame {a0 : State} (s : State) (n : Nat) (h0 : AdmSame a0 s) : AdmSame a0 (heardBells s n) := by
  unfold heardBells
  try dsimp only
  repeat' (first
    | with_reducible assumption
    | intro _
    | with_reducible (first
      | apply AdmSame.refl | apply AdmSame.ite | (fail_if_no_progress apply AdmSame.keep))
    | split)

theorem heardBell_admSame {a0 : State} (s : State) (h0 : AdmSame a0 s) : AdmSame a0 (heardBell s) := by
  unfold heardBell
  try dsimp only
  repeat' (first
    | with_reducible assumption
    | intro _
    | with_reducible (first
      | apply heardBells_admSame | apply heardTlp_admSame | apply AdmSame.refl | apply AdmSame.ite
      | (fail_if_no_progress apply AdmSame.keep))
    | split)

theorem heardFrame_admSame {a0 : State} (s : State) (n k : Nat) (h0 : AdmSame a0 s) : AdmSame a0 (heardFrame s n k) := by
  unfold heardFrame
  try dsimp only
  repeat' (first
    | with_reducible assumption
    | intro _
    | with_reducible (first
      | apply AdmSame.refl | apply AdmSame.ite | (fail_if_no_progress apply AdmSame.keep))
    | split)

theorem sentFrame_admSame {a0 : State} (s : State) (n k : Nat) (h0 : AdmSame a0 s) : AdmSame a0 (sentFrame s n k) := by
  unfold sentFrame
  try dsimp only
  repeat' (first
    | with_reducible assumption
    | intro _
    | with_reducible (first
      | apply AdmSame.refl | apply AdmSame.ite | (fail_if_no_progress apply AdmSame.keep))
    | split)

theorem msixSend_admSame {a0 : State} (s : State) (fn v : Nat) (h0 : AdmSame a0 s) : AdmSame a0 (msixSend s fn v) := by
  unfold msixSend
  try dsimp only
  repeat' (first
    | with_reducible assumption
    | intro _
    | with_reducible (first
      | apply emit_admSame | apply AdmSame.refl | apply AdmSame.ite | (fail_if_no_progress apply AdmSame.keep))
    | split)

theorem msixRaise_admSame {a0 : State} (s : State) (fn v : Nat) (h0 : AdmSame a0 s) : AdmSame a0 (msixRaise s fn v) := by
  unfold msixRaise
  try dsimp only
  repeat' (first
    | with_reducible assumption
    | intro _
    | with_reducible (first
      | apply msixSend_admSame | apply AdmSame.refl | apply AdmSame.ite | (fail_if_no_progress apply AdmSame.keep))
    | split)

theorem putLine_admSame {a0 : State} (s : State) (a : Nat) (bs : Bytes) (h0 : AdmSame a0 s) : AdmSame a0 (putLine s a bs) := by
  unfold putLine
  try dsimp only
  repeat' (first
    | with_reducible assumption
    | intro _
    | with_reducible (first
      | apply AdmSame.refl | apply AdmSame.ite | (fail_if_no_progress apply AdmSame.keep))
    | split)

theorem tracePut_admSame {a0 : State} (s : State) (type source : Nat) (data : BitVec 96) (h0 : AdmSame a0 s) : AdmSame a0 (tracePut s type
    source data) := by
  unfold tracePut
  try dsimp only
  repeat' (first
    | with_reducible assumption
    | intro _
    | with_reducible (first
      | apply msixRaise_admSame | apply putLine_admSame | apply AdmSame.refl | apply AdmSame.ite
      | (fail_if_no_progress apply AdmSame.keep))
    | split)

theorem traceLose_admSame {a0 : State} (s : State) (full : Bool) (h0 : AdmSame a0 s) : AdmSame a0 (traceLose s full) := by
  unfold traceLose
  try dsimp only
  repeat' (first
    | with_reducible assumption
    | intro _
    | with_reducible (first
      | apply AdmSame.refl | apply AdmSame.ite | (fail_if_no_progress apply AdmSame.keep))
    | split)

theorem traceRaw_admSame {a0 : State} (s : State) (cls : Option Nat) (type source : Nat) (data : BitVec 96) (h0 : AdmSame a0 s) : AdmSame
    a0 (traceRaw s cls type source data).1 := by
  unfold traceRaw
  try dsimp only
  repeat' (first
    | with_reducible assumption
    | intro _
    | with_reducible (first
      | apply traceLose_admSame | apply tracePut_admSame | apply AdmSame.refl | apply AdmSame.ite
      | (fail_if_no_progress apply AdmSame.keep))
    | split)

theorem putEventRaw_admSame {a0 : State} (s : State) (code : BitVec 16) (time : BitVec 64) (data : BitVec 96) (h0 : AdmSame a0 s) :
    AdmSame a0 (putEventRaw s code time data).1 := by
  unfold putEventRaw
  try dsimp only
  repeat' (first
    | with_reducible assumption
    | intro _
    | with_reducible (first
      | apply msixRaise_admSame | apply traceRaw_admSame | apply writeOwned_admSame | apply AdmSame.refl | apply AdmSame.ite
      | (fail_if_no_progress apply AdmSame.keep))
    | split)

theorem putEvent_admSame {a0 : State} (s : State) (code : BitVec 16) (time : BitVec 64) (data : BitVec 96) (h0 : AdmSame a0 s) : AdmSame
    a0 (putEvent s code time data) := by
  unfold putEvent
  try dsimp only
  repeat' (first
    | with_reducible assumption
    | intro _
    | with_reducible (first
      | apply putEventRaw_admSame | apply AdmSame.refl | apply AdmSame.ite | (fail_if_no_progress apply AdmSame.keep))
    | split)

theorem putOrHold_admSame {a0 : State} (s : State) (code : BitVec 16) (time : BitVec 64) (data : BitVec 96) (h0 : AdmSame a0 s) : AdmSame
    a0 (putOrHold s code time data) := by
  unfold putOrHold
  try dsimp only
  repeat' (first
    | with_reducible assumption
    | intro _
    | with_reducible (first
      | apply putEvent_admSame | apply AdmSame.refl | apply AdmSame.ite | (fail_if_no_progress apply AdmSame.keep))
    | split)

theorem post_admSame {a0 : State} (s : State) (code : BitVec 16) (data : BitVec 96) (h0 : AdmSame a0 s) : AdmSame a0 (post s code data) :=
    by
  unfold post
  try dsimp only
  repeat' (first
    | with_reducible assumption
    | intro _
    | with_reducible (first
      | apply putOrHold_admSame | apply AdmSame.refl | apply AdmSame.ite | (fail_if_no_progress apply AdmSame.keep))
    | split)

theorem trace_admSame {a0 : State} (s : State) (cls : Option Nat) (type source : Nat) (data : BitVec 96) (h0 : AdmSame a0 s) : AdmSame a0
    (trace s cls type source data) := by
  unfold trace
  try dsimp only
  repeat' (first
    | with_reducible assumption
    | intro _
    | with_reducible (first
      | apply post_admSame | apply traceRaw_admSame | apply AdmSame.refl | apply AdmSame.ite | (fail_if_no_progress apply AdmSame.keep))
    | split)

theorem owlPut_admSame {a0 : State} (s : State) (type : Nat) (data : BitVec 96) (h0 : AdmSame a0 s) : AdmSame a0 (owlPut s type data) :=
    by
  unfold owlPut
  try dsimp only
  repeat' (first
    | with_reducible assumption
    | intro _
    | with_reducible (first
      | apply AdmSame.refl | apply AdmSame.ite | (fail_if_no_progress apply AdmSame.keep))
    | split)

theorem notePerch_admSame {a0 : State} (s : State) (h0 : AdmSame a0 s) : AdmSame a0 (notePerch s) := by
  unfold notePerch
  try dsimp only
  repeat' (first
    | with_reducible assumption
    | intro _
    | with_reducible (first
      | apply owlPut_admSame | apply takeFresh_admSame | apply trace_admSame | apply AdmSame.refl | apply AdmSame.ite
      | (fail_if_no_progress apply AdmSame.keep))
    | split)

theorem enterPerch_admSame {a0 : State} (s0 : State) (cause : BitVec 8) (info : Word) (h0 : AdmSame a0 s0) : AdmSame a0 (enterPerch s0
    cause info) := by
  unfold enterPerch
  try dsimp only
  repeat' (first
    | with_reducible assumption
    | intro _
    | with_reducible (first
      | apply msixSend_admSame | apply notePerch_admSame | apply AdmSame.refl | apply AdmSame.ite
      | (fail_if_no_progress apply AdmSame.keep))
    | split)

theorem admFetch_admSame {a0 : State} (s : State) (h0 : AdmSame a0 s) : AdmSame a0 (admFetch s) := by
  unfold admFetch
  try dsimp only
  repeat' (first
    | with_reducible assumption
    | intro _
    | with_reducible (first
      | apply emit_admSame | apply AdmSame.refl | apply AdmSame.ite | (fail_if_no_progress apply AdmSame.keep))
    | split)

theorem admSettle_admSame {a0 : State} (s : State) (h0 : AdmSame a0 s) : AdmSame a0 (admSettle s) := by
  unfold admSettle
  try dsimp only
  repeat' (first
    | with_reducible assumption
    | intro _
    | with_reducible (first
      | apply admFetch_admSame | apply AdmSame.refl | apply AdmSame.ite | (fail_if_no_progress apply AdmSame.keep))
    | split)

/-! ### Power -/

theorem enterStep5_admSame {a0 : State} (s : State) (straps : BitVec 5) (h0 : AdmSame a0 s) : AdmSame a0 (enterStep5 s straps) := by
  unfold enterStep5
  try dsimp only
  repeat' (first
    | with_reducible assumption
    | intro _
    | with_reducible (first
      | apply AdmSame.refl | apply AdmSame.ite | (fail_if_no_progress apply AdmSame.keep))
    | split)

theorem stopLinks_admSame {a0 : State} (s : State) (h0 : AdmSame a0 s) : AdmSame a0 (stopLinks s) := by
  unfold stopLinks
  try dsimp only
  repeat' (first
    | with_reducible assumption
    | intro _
    | with_reducible (first
      | apply AdmSame.refl | apply AdmSame.ite | (fail_if_no_progress apply AdmSame.keep))
    | split)

theorem setResetPin_admSame {a0 : State} (s : State) (pin : ResetPin) (high : Bool) (h0 : AdmSame a0 s) : AdmSame a0 (setResetPin s pin
    high) := by
  unfold setResetPin
  try dsimp only
  repeat' (first
    | with_reducible assumption
    | intro _
    | with_reducible (first
      | apply AdmSame.refl | apply AdmSame.ite | (fail_if_no_progress apply AdmSame.keep))
    | split)

theorem thermalTrip_admSame {a0 : State} (s : State) (h0 : AdmSame a0 s) : AdmSame a0 (thermalTrip s) := by
  unfold thermalTrip
  try dsimp only
  repeat' (first
    | with_reducible assumption
    | intro _
    | with_reducible (first
      | apply stopLinks_admSame | apply AdmSame.refl | apply AdmSame.ite | (fail_if_no_progress apply AdmSame.keep))
    | split)

/-! ### Startup -/

theorem checkReady_admSame {a0 : State} (s : State) (h0 : AdmSame a0 s) : AdmSame a0 (checkReady s) := by
  unfold checkReady
  try dsimp only
  repeat' (first
    | with_reducible assumption
    | intro _
    | with_reducible (first
      | apply AdmSame.refl | apply AdmSame.ite | (fail_if_no_progress apply AdmSame.keep))
    | split)

theorem acceptImage_admSame {a0 : State} (s : State) (alt : Bool) (c : Bytes) (h0 : AdmSame a0 s) : AdmSame a0 (acceptImage s alt c) := by
  unfold acceptImage
  try dsimp only
  repeat' (first
    | with_reducible assumption
    | intro _
    | with_reducible (first
      | apply AdmSame.refl | apply AdmSame.ite | apply AdmSame.foldl | apply AdmSame.foldl1 | apply AdmSame.foldl2
      | (fail_if_no_progress apply AdmSame.keep))
    | split)

theorem readFlash_admSame {a0 : State} (s : State) (alt : Bool) (sfdp : Option Sfdp) (h0 : AdmSame a0 s) : AdmSame a0 (readFlash s alt
    sfdp) := by
  unfold readFlash
  try dsimp only
  repeat' (first
    | with_reducible assumption
    | intro _
    | with_reducible (first
      | apply emit_admSame | apply AdmSame.refl | apply AdmSame.ite | (fail_if_no_progress apply AdmSame.keep))
    | split)

theorem setAport_admSame {a0 : State} (s : State) (n : Nat) (f : APort → APort) (h0 : AdmSame a0 s) : AdmSame a0 (setAport s n f) := by
  unfold setAport
  try dsimp only
  repeat' (first
    | with_reducible assumption
    | intro _
    | with_reducible (first
      | apply AdmSame.refl | apply AdmSame.ite | (fail_if_no_progress apply AdmSame.keep))
    | split)

theorem postAport_admSame {a0 : State} (s : State) (n : Nat) (ok : Bool) (step : Nat) (h0 : AdmSame a0 s) : AdmSame a0 (postAport s n ok
    step) := by
  unfold postAport
  try dsimp only
  repeat' (first
    | with_reducible assumption
    | intro _
    | with_reducible (first
      | apply post_admSame | apply AdmSame.refl | apply AdmSame.ite | (fail_if_no_progress apply AdmSame.keep))
    | split)

theorem aportFail_admSame {a0 : State} (s : State) (n step : Nat) (h0 : AdmSame a0 s) : AdmSame a0 (aportFail s n step) := by
  unfold aportFail
  try dsimp only
  repeat' (first
    | with_reducible assumption
    | intro _
    | with_reducible (first
      | apply postAport_admSame | apply setAport_admSame | apply AdmSame.refl | apply AdmSame.ite
      | (fail_if_no_progress apply AdmSame.keep))
    | split)

/-! ### Rings -/

theorem setRing_admSame {a0 : State} (s : State) (k : RingKind) (id : Nat) (r : Ring) (h0 : AdmSame a0 s) : AdmSame a0 (setRing s k id r)
    := by
  unfold setRing
  try dsimp only
  repeat' (first
    | with_reducible assumption
    | intro _
    | with_reducible (first
      | apply AdmSame.refl | apply AdmSame.ite | (fail_if_no_progress apply AdmSame.keep))
    | split)

theorem modInst_admSame {a0 : State} (s : State) (i : Nat) (f : Inst → Inst) (h0 : AdmSame a0 s) : AdmSame a0 (modInst s i f) := by
  unfold modInst
  try dsimp only
  repeat' (first
    | with_reducible assumption
    | intro _
    | with_reducible (first
      | apply AdmSame.refl | apply AdmSame.ite | (fail_if_no_progress apply AdmSame.keep))
    | split)

theorem modPage_admSame {a0 : State} (s : State) (i : Nat) (f : Page → Page) (h0 : AdmSame a0 s) : AdmSame a0 (modPage s i f) := by
  unfold modPage
  try dsimp only
  repeat' (first
    | with_reducible assumption
    | intro _
    | with_reducible (first
      | apply AdmSame.refl | apply AdmSame.ite | (fail_if_no_progress apply AdmSame.keep))
    | split)

theorem raiseVector_admSame {a0 : State} (s : State) (inst v : Nat) (h0 : AdmSame a0 s) : AdmSame a0 (raiseVector s inst v) := by
  unfold raiseVector
  try dsimp only
  repeat' (first
    | with_reducible assumption
    | intro _
    | with_reducible (first
      | apply emit_admSame | apply modInst_admSame | apply modPage_admSame | apply msixRaise_admSame | apply AdmSame.refl
      | apply AdmSame.ite | (fail_if_no_progress apply AdmSame.keep))
    | split)

theorem raiseSignal_admSame {a0 : State} (s : State) (inst : Nat) (h0 : AdmSame a0 s) : AdmSame a0 (raiseSignal s inst) := by
  unfold raiseSignal
  try dsimp only
  repeat' (first
    | with_reducible assumption
    | intro _
    | with_reducible (first
      | apply modInst_admSame | apply raiseVector_admSame | apply AdmSame.refl | apply AdmSame.ite
      | (fail_if_no_progress apply AdmSame.keep))
    | split)

theorem issueFlush_admSame {a0 : State} (s : State) (port inst : Nat) (why : FlushFor) (h0 : AdmSame a0 s) : AdmSame a0 (issueFlush s port
    inst why).2 := by
  unfold issueFlush
  try dsimp only
  repeat' (first
    | with_reducible assumption
    | intro _
    | with_reducible (first
      | apply emit_admSame | apply takeFresh_admSame | apply AdmSame.refl | apply AdmSame.ite | (fail_if_no_progress apply AdmSame.keep))
    | split)

theorem issueFlushes_admSame {a0 : State} (s : State) (ports : List Nat) (inst : Nat) (why : FlushFor) (h0 : AdmSame a0 s) : AdmSame a0
    (issueFlushes s ports inst why).2 := by
  unfold issueFlushes
  try dsimp only
  repeat' (first
    | with_reducible assumption
    | intro _
    | with_reducible (first
      | apply issueFlush_admSame | apply AdmSame.refl | apply AdmSame.ite | apply AdmSame.foldl | apply AdmSame.foldl1
      | apply AdmSame.foldl2 | (fail_if_no_progress apply AdmSame.keep))
    | split)

theorem modCq_admSame {a0 : State} (s : State) (n : Nat) (f : Cq → Cq) (h0 : AdmSame a0 s) : AdmSame a0 (modCq s n f) := by
  unfold modCq
  try dsimp only
  repeat' (first
    | with_reducible assumption
    | intro _
    | with_reducible (first
      | apply AdmSame.refl | apply AdmSame.ite | (fail_if_no_progress apply AdmSame.keep))
    | split)

theorem cqMessage_admSame {a0 : State} (s : State) (n : Nat) (c : Cq) (h0 : AdmSame a0 s) : AdmSame a0 (cqMessage s n c) := by
  unfold cqMessage
  try dsimp only
  repeat' (first
    | with_reducible assumption
    | intro _
    | with_reducible (first
      | apply issueFlush_admSame | apply raiseVector_admSame | apply AdmSame.refl | apply AdmSame.ite
      | (fail_if_no_progress apply AdmSame.keep))
    | split)

theorem cqInterrupt_admSame {a0 : State} (s : State) (n : Nat) (h0 : AdmSame a0 s) : AdmSame a0 (cqInterrupt s n) := by
  unfold cqInterrupt
  try dsimp only
  repeat' (first
    | with_reducible assumption
    | intro _
    | with_reducible (first
      | apply cqMessage_admSame | apply modCq_admSame | apply AdmSame.refl | apply AdmSame.ite
      | (fail_if_no_progress apply AdmSame.keep))
    | split)

theorem cqFail_admSame {a0 : State} (s : State) (n : Nat) (h0 : AdmSame a0 s) : AdmSame a0 (cqFail s n) := by
  unfold cqFail
  try dsimp only
  repeat' (first
    | with_reducible assumption
    | intro _
    | with_reducible (first
      | apply modCq_admSame | apply modPage_admSame | apply raiseVector_admSame | apply AdmSame.refl | apply AdmSame.ite
      | (fail_if_no_progress apply AdmSame.keep))
    | split)

theorem writeReport_admSame {a0 : State} (s : State) (n : Nat) (r : Report) (h0 : AdmSame a0 s) : AdmSame a0 (writeReport s n r) := by
  unfold writeReport
  try dsimp only
  repeat' (first
    | with_reducible assumption
    | intro _
    | with_reducible (first
      | apply cqFail_admSame | apply cqInterrupt_admSame | apply modCq_admSame | apply writeOwned_admSame | apply AdmSame.refl
      | apply AdmSame.ite | (fail_if_no_progress apply AdmSame.keep))
    | split)

theorem queueReport_admSame {a0 : State} (s : State) (n : Nat) (r : Report) (h0 : AdmSame a0 s) : AdmSame a0 (queueReport s n r) := by
  unfold queueReport
  try dsimp only
  repeat' (first
    | with_reducible assumption
    | intro _
    | with_reducible (first
      | apply modCq_admSame | apply writeReport_admSame | apply AdmSame.refl | apply AdmSame.ite
      | (fail_if_no_progress apply AdmSame.keep))
    | split)

theorem releaseReport_admSame {a0 : State} (s : State) (n : Nat) (h0 : AdmSame a0 s) : AdmSame a0 (releaseReport s n) := by
  unfold releaseReport
  try dsimp only
  repeat' (first
    | with_reducible assumption
    | intro _
    | with_reducible (first
      | apply modCq_admSame | apply writeReport_admSame | apply AdmSame.refl | apply AdmSame.ite
      | (fail_if_no_progress apply AdmSame.keep))
    | split)

theorem cqReturn_admSame {a0 : State} (s : State) (inst cqn count : Nat) (h0 : AdmSame a0 s) : AdmSame a0 (cqReturn s inst cqn count) :=
    by
  unfold cqReturn
  try dsimp only
  repeat' (first
    | with_reducible assumption
    | intro _
    | with_reducible (first
      | apply count_admSame | apply modCq_admSame | apply AdmSame.refl | apply AdmSame.ite | (fail_if_no_progress apply AdmSame.keep))
    | split)

theorem cqArm_admSame {a0 : State} (s : State) (inst cqn : Nat) (h0 : AdmSame a0 s) : AdmSame a0 (cqArm s inst cqn) := by
  unfold cqArm
  try dsimp only
  repeat' (first
    | with_reducible assumption
    | intro _
    | with_reducible (first
      | apply cqInterrupt_admSame | apply modCq_admSame | apply AdmSame.refl | apply AdmSame.ite
      | (fail_if_no_progress apply AdmSame.keep))
    | split)

theorem modQp_admSame {a0 : State} (s : State) (n : Nat) (f : Qp → Qp) (h0 : AdmSame a0 s) : AdmSame a0 (modQp s n f) := by
  unfold modQp
  try dsimp only
  repeat' (first
    | with_reducible assumption
    | intro _
    | with_reducible (first
      | apply AdmSame.refl | apply AdmSame.ite | (fail_if_no_progress apply AdmSame.keep))
    | split)

theorem endMessage_admSame {a0 : State} (s : State) (inst : Nat) (h0 : AdmSame a0 s) : AdmSame a0 (endMessage s inst) := by
  unfold endMessage
  try dsimp only
  repeat' (first
    | with_reducible assumption
    | intro _
    | with_reducible (first
      | apply modInst_admSame | apply AdmSame.refl | apply AdmSame.ite | (fail_if_no_progress apply AdmSame.keep))
    | split)

theorem beginMessage_admSame {a0 : State} (s : State) (inst : Nat) (h0 : AdmSame a0 s) : AdmSame a0 (beginMessage s inst) := by
  unfold beginMessage
  try dsimp only
  repeat' (first
    | with_reducible assumption
    | intro _
    | with_reducible (first
      | apply modInst_admSame | apply AdmSame.refl | apply AdmSame.ite | (fail_if_no_progress apply AdmSame.keep))
    | split)

theorem endWork_admSame {a0 : State} (s : State) (qpn slot : Nat) (h0 : AdmSame a0 s) : AdmSame a0 (endWork s qpn slot) := by
  unfold endWork
  try dsimp only
  repeat' (first
    | with_reducible assumption
    | intro _
    | with_reducible (first
      | apply endMessage_admSame | apply modQp_admSame | apply AdmSame.refl | apply AdmSame.ite
      | (fail_if_no_progress apply AdmSame.keep))
    | split)

theorem gateEntry_admSame {a0 : State} (s : State) (k : RingKind) (id slot : Nat) (h0 : AdmSame a0 s) : AdmSame a0 (gateEntry s k id
    slot).2 := by
  unfold gateEntry
  try dsimp only
  repeat' (first
    | with_reducible assumption
    | intro _
    | with_reducible (first
      | apply issueFlushes_admSame | apply AdmSame.refl | apply AdmSame.ite | (fail_if_no_progress apply AdmSame.keep))
    | split)

theorem handBack_admSame {a0 : State} (s : State) (k : RingKind) (id : Nat) (t : Taken) (o : Outcome) (h0 : AdmSame a0 s) : AdmSame a0
    (handBack s k id t o) := by
  unfold handBack
  try dsimp only
  repeat' (first
    | with_reducible assumption
    | intro _
    | with_reducible (first
      | apply count_admSame | apply emit_admSame | apply endWork_admSame | apply modInst_admSame | apply queueReport_admSame
      | apply raiseSignal_admSame | apply setRing_admSame | apply AdmSame.refl | apply AdmSame.ite
      | (fail_if_no_progress apply AdmSame.keep))
    | split)

theorem drainRing_admSame {a0 : State} (x0 : Nat) (x1 : State) (x2 : RingKind) (x3 : Nat) (h0 : AdmSame a0 x1) : AdmSame a0 (drainRing x0
    x1 x2 x3) := by
  induction x0 generalizing x1 x2 x3 with
  | zero => simpa [drainRing] using h0
  | succ n ih =>
    unfold drainRing
    try dsimp only
    repeat' (first
      | with_reducible assumption
      | intro _
      | with_reducible (first
        | apply ih | apply handBack_admSame | apply AdmSame.refl | apply AdmSame.ite | (fail_if_no_progress apply AdmSame.keep))
      | split)

theorem drain_admSame {a0 : State} (s : State) (k : RingKind) (id : Nat) (h0 : AdmSame a0 s) : AdmSame a0 (drain s k id) := by
  unfold drain
  try dsimp only
  repeat' (first
    | with_reducible assumption
    | intro _
    | with_reducible (first
      | apply drainRing_admSame | apply AdmSame.refl | apply AdmSame.ite | (fail_if_no_progress apply AdmSame.keep))
    | split)

theorem decideSlot_admSame {a0 : State} (s : State) (k : RingKind) (id slot : Nat) (o : Outcome) (gate : List Nat) (h0 : AdmSame a0 s) :
    AdmSame a0 (decideSlot s k id slot o gate) := by
  unfold decideSlot
  try dsimp only
  repeat' (first
    | with_reducible assumption
    | intro _
    | with_reducible (first
      | apply setRing_admSame | apply AdmSame.refl | apply AdmSame.ite | (fail_if_no_progress apply AdmSame.keep))
    | split)

theorem endSlot_admSame {a0 : State} (s : State) (k : RingKind) (id slot : Nat) (o : Outcome) (h0 : AdmSame a0 s) : AdmSame a0 (endSlot s
    k id slot o) := by
  unfold endSlot
  try dsimp only
  repeat' (first
    | with_reducible assumption
    | intro _
    | with_reducible (first
      | apply decideSlot_admSame | apply gateEntry_admSame | apply AdmSame.refl | apply AdmSame.ite
      | (fail_if_no_progress apply AdmSame.keep))
    | split)

theorem disableRing_admSame {a0 : State} (s : State) (k : RingKind) (id : Nat) (status : BitVec 8) (h0 : AdmSame a0 s) : AdmSame a0
    (disableRing s k id status) := by
  unfold disableRing
  try dsimp only
  repeat' (first
    | with_reducible assumption
    | intro _
    | with_reducible (first
      | apply drain_admSame | apply endSlot_admSame | apply modPage_admSame | apply setRing_admSame | apply AdmSame.refl
      | apply AdmSame.ite | apply AdmSame.foldl | apply AdmSame.foldl1 | apply AdmSame.foldl2 | (fail_if_no_progress apply AdmSame.keep))
    | split)

theorem fetchRing_admSame {a0 : State} (s : State) (k : RingKind) (id : Nat) (h0 : AdmSame a0 s) : AdmSame a0 (fetchRing s k id) := by
  unfold fetchRing
  try dsimp only
  repeat' (first
    | with_reducible assumption
    | intro _
    | with_reducible (first
      | apply emit_admSame | apply setRing_admSame | apply AdmSame.refl | apply AdmSame.ite | (fail_if_no_progress apply AdmSame.keep))
    | split)

theorem ringDoorbell_admSame {a0 : State} (s : State) (k : RingKind) (id : Nat) (h0 : AdmSame a0 s) : AdmSame a0 (ringDoorbell s k id) :=
    by
  unfold ringDoorbell
  try dsimp only
  repeat' (first
    | with_reducible assumption
    | intro _
    | with_reducible (first
      | apply fetchRing_admSame | apply setRing_admSame | apply AdmSame.refl | apply AdmSame.ite
      | (fail_if_no_progress apply AdmSame.keep))
    | split)

theorem enableRing_admSame {a0 : State} (s : State) (k : RingKind) (id : Nat) (h0 : AdmSame a0 s) : AdmSame a0 (enableRing s k id) := by
  unfold enableRing
  try dsimp only
  repeat' (first
    | with_reducible assumption
    | intro _
    | with_reducible (first
      | apply ringDoorbell_admSame | apply setRing_admSame | apply AdmSame.refl | apply AdmSame.ite
      | (fail_if_no_progress apply AdmSame.keep))
    | split)

theorem recallStop_admSame {a0 : State} (s : State) (k : RingKind) (id first n : Nat) (h0 : AdmSame a0 s) : AdmSame a0 (recallStop s k id
    first n) := by
  unfold recallStop
  try dsimp only
  repeat' (first
    | with_reducible assumption
    | intro _
    | with_reducible (first
      | apply modPage_admSame | apply setRing_admSame | apply AdmSame.refl | apply AdmSame.ite
      | (fail_if_no_progress apply AdmSame.keep))
    | split)

theorem recallEnd_admSame {a0 : State} (s : State) (k : RingKind) (id first n : Nat) (h0 : AdmSame a0 s) : AdmSame a0 (recallEnd s k id
    first n) := by
  unfold recallEnd
  try dsimp only
  repeat' (first
    | with_reducible assumption
    | intro _
    | with_reducible (first
      | apply fetchRing_admSame | apply recallStop_admSame | apply AdmSame.refl | apply AdmSame.ite
      | (fail_if_no_progress apply AdmSame.keep))
    | split)

theorem recallOne_admSame {a0 : State} (s : State) (k : RingKind) (id : Nat) (t : Taken) (h0 : AdmSame a0 s) : AdmSame a0 (recallOne s k
    id t) := by
  unfold recallOne
  try dsimp only
  repeat' (first
    | with_reducible assumption
    | intro _
    | with_reducible (first
      | apply handBack_admSame | apply AdmSame.refl | apply AdmSame.ite | (fail_if_no_progress apply AdmSame.keep))
    | split)

theorem recallLoop_admSame {a0 : State} (x0 : Nat) (x1 : State) (x2 : RingKind) (x3 x4 x5 x6 : Nat) (h0 : AdmSame a0 x1) : AdmSame a0
    (recallLoop x0 x1 x2 x3 x4 x5 x6) := by
  induction x0 generalizing x1 x2 x3 x4 x5 x6 with
  | zero => simpa [recallLoop] using recallEnd_admSame _ _ _ _ _ h0
  | succ n ih =>
    unfold recallLoop
    try dsimp only
    repeat' (first
      | with_reducible assumption
      | intro _
      | with_reducible (first
        | apply ih | apply emit_admSame | apply recallEnd_admSame | apply recallOne_admSame | apply recallStop_admSame
        | apply setRing_admSame | apply AdmSame.refl | apply AdmSame.ite | (fail_if_no_progress apply AdmSame.keep))
      | split)

theorem recallGo_admSame {a0 : State} (s : State) (k : RingKind) (id : Nat) (h0 : AdmSame a0 s) : AdmSame a0 (recallGo s k id) := by
  unfold recallGo
  try dsimp only
  repeat' (first
    | with_reducible assumption
    | intro _
    | with_reducible (first
      | apply recallLoop_admSame | apply AdmSame.refl | apply AdmSame.ite | (fail_if_no_progress apply AdmSame.keep))
    | split)

theorem recallFirst_admSame {a0 : State} (s : State) (inst first : Nat) (h0 : AdmSame a0 s) : AdmSame a0 (recallFirst s inst first) := by
  unfold recallFirst
  try dsimp only
  repeat' (first
    | with_reducible assumption
    | intro _
    | with_reducible (first
      | apply modPage_admSame | apply recallLoop_admSame | apply setRing_admSame | apply AdmSame.refl | apply AdmSame.ite
      | (fail_if_no_progress apply AdmSame.keep))
    | split)

theorem recallThaw_admSame {a0 : State} (s : State) (inst : Nat) (h0 : AdmSame a0 s) : AdmSame a0 (recallThaw s inst) := by
  unfold recallThaw
  try dsimp only
  repeat' (first
    | with_reducible assumption
    | intro _
    | with_reducible (first
      | apply modPage_admSame | apply recallFirst_admSame | apply AdmSame.refl | apply AdmSame.ite
      | (fail_if_no_progress apply AdmSame.keep))
    | split)

/-! ### Admin -/

theorem postReport_admSame {a0 : State} (s : State) (h0 : AdmSame a0 s) : AdmSame a0 (postReport s) := by
  unfold postReport
  try dsimp only
  repeat' (first
    | with_reducible assumption
    | intro _
    | with_reducible (first
      | apply putEvent_admSame | apply AdmSame.refl | apply AdmSame.ite | apply AdmSame.foldl | apply AdmSame.foldl1
      | apply AdmSame.foldl2 | (fail_if_no_progress apply AdmSame.keep))
    | split)

theorem payReport_admSame {a0 : State} (s : State) (h0 : AdmSame a0 s) : AdmSame a0 (payReport s) := by
  unfold payReport
  try dsimp only
  repeat' (first
    | with_reducible assumption
    | intro _
    | with_reducible (first
      | apply postReport_admSame | apply AdmSame.refl | apply AdmSame.ite | (fail_if_no_progress apply AdmSame.keep))
    | split)

theorem admDoorbell_admSame {a0 : State} (s : State) (h0 : AdmSame a0 s) : AdmSame a0 (admDoorbell s) := by
  unfold admDoorbell
  try dsimp only
  repeat' (first
    | with_reducible assumption
    | intro _
    | with_reducible (first
      | apply admFetch_admSame | apply AdmSame.refl | apply AdmSame.ite | (fail_if_no_progress apply AdmSame.keep))
    | split)

theorem admMalformed_admSame {a0 : State} (s : State) (h0 : AdmSame a0 s) : AdmSame a0 (admMalformed s) := by
  unfold admMalformed
  try dsimp only
  repeat' (first
    | with_reducible assumption
    | intro _
    | with_reducible (first
      | apply enterPerch_admSame | apply AdmSame.refl | apply AdmSame.ite | (fail_if_no_progress apply AdmSame.keep))
    | split)

theorem evtReturn_admSame {a0 : State} (s : State) (count : Nat) (h0 : AdmSame a0 s) : AdmSame a0 (evtReturn s count) := by
  unfold evtReturn
  try dsimp only
  repeat' (first
    | with_reducible assumption
    | intro _
    | with_reducible (first
      | apply count_admSame | apply AdmSame.refl | apply AdmSame.ite | (fail_if_no_progress apply AdmSame.keep))
    | split)

/-! ### Gates -/

theorem gateRefreshPort_admSame {a0 : State} (s : State) (n : Nat) (h0 : AdmSame a0 s) : AdmSame a0 (gateRefreshPort s n) := by
  unfold gateRefreshPort
  try dsimp only
  repeat' (first
    | with_reducible assumption
    | intro _
    | with_reducible (first
      | apply post_admSame | apply AdmSame.refl | apply AdmSame.ite | (fail_if_no_progress apply AdmSame.keep))
    | split)

theorem gateRefresh_admSame {a0 : State} (s : State) (h0 : AdmSame a0 s) : AdmSame a0 (gateRefresh s) := by
  unfold gateRefresh
  try dsimp only
  repeat' (first
    | with_reducible assumption
    | intro _
    | with_reducible (first
      | apply gateRefreshPort_admSame | apply AdmSame.refl | apply AdmSame.ite | apply AdmSame.foldl | apply AdmSame.foldl1
      | apply AdmSame.foldl2 | (fail_if_no_progress apply AdmSame.keep))
    | split)

theorem gateTakeover_admSame {a0 : State} (s : State) (n : Nat) (h0 : AdmSame a0 s) : AdmSame a0 (gateTakeover s n) := by
  unfold gateTakeover
  try dsimp only
  repeat' (first
    | with_reducible assumption
    | intro _
    | with_reducible (first
      | apply gateRefreshPort_admSame | apply post_admSame | apply AdmSame.refl | apply AdmSame.ite
      | (fail_if_no_progress apply AdmSame.keep))
    | split)

theorem gateTakeoversDue_admSame {a0 : State} (s : State) (h0 : AdmSame a0 s) : AdmSame a0 (gateTakeoversDue s) := by
  unfold gateTakeoversDue
  try dsimp only
  repeat' (first
    | with_reducible assumption
    | intro _
    | with_reducible (first
      | apply gateTakeover_admSame | apply AdmSame.refl | apply AdmSame.ite | apply AdmSame.foldl | apply AdmSame.foldl1
      | apply AdmSame.foldl2 | (fail_if_no_progress apply AdmSame.keep))
    | split)

/-! ### Ports -/

theorem modPort_admSame {a0 : State} (s : State) (n : Nat) (f : Port → Port) (h0 : AdmSame a0 s) : AdmSame a0 (modPort s n f) := by
  unfold modPort
  try dsimp only
  repeat' (first
    | with_reducible assumption
    | intro _
    | with_reducible (first
      | apply AdmSame.refl | apply AdmSame.ite | (fail_if_no_progress apply AdmSame.keep))
    | split)

theorem modClass_admSame {a0 : State} (s : State) (n c : Nat) (f : PortClass → PortClass) (h0 : AdmSame a0 s) : AdmSame a0 (modClass s n c
    f) := by
  unfold modClass
  try dsimp only
  repeat' (first
    | with_reducible assumption
    | intro _
    | with_reducible (first
      | apply modPort_admSame | apply AdmSame.refl | apply AdmSame.ite | (fail_if_no_progress apply AdmSame.keep))
    | split)

theorem movePort_admSame {a0 : State} (s : State) (n : Nat) (st : PortState) (h0 : AdmSame a0 s) : AdmSame a0 (movePort s n st) := by
  unfold movePort
  try dsimp only
  repeat' (first
    | with_reducible assumption
    | intro _
    | with_reducible (first
      | apply modPort_admSame | apply post_admSame | apply AdmSame.refl | apply AdmSame.ite | (fail_if_no_progress apply AdmSame.keep))
    | split)

theorem holdPort_admSame {a0 : State} (s : State) (n : Nat) (h0 : AdmSame a0 s) : AdmSame a0 (holdPort s n) := by
  unfold holdPort
  try dsimp only
  repeat' (first
    | with_reducible assumption
    | intro _
    | with_reducible (first
      | apply movePort_admSame | apply AdmSame.refl | apply AdmSame.ite | (fail_if_no_progress apply AdmSame.keep))
    | split)

theorem unholdPort_admSame {a0 : State} (s : State) (n : Nat) (h0 : AdmSame a0 s) : AdmSame a0 (unholdPort s n) := by
  unfold unholdPort
  try dsimp only
  repeat' (first
    | with_reducible assumption
    | intro _
    | with_reducible (first
      | apply movePort_admSame | apply AdmSame.refl | apply AdmSame.ite | (fail_if_no_progress apply AdmSame.keep))
    | split)

theorem portsLoseClock_admSame {a0 : State} (s : State) (h0 : AdmSame a0 s) : AdmSame a0 (portsLoseClock s) := by
  unfold portsLoseClock
  try dsimp only
  repeat' (first
    | with_reducible assumption
    | intro _
    | with_reducible (first
      | apply AdmSame.refl | apply AdmSame.ite | (fail_if_no_progress apply AdmSame.keep))
    | split)

theorem pauseClass_admSame {a0 : State} (s : State) (n c q : Nat) (h0 : AdmSame a0 s) : AdmSame a0 (pauseClass s n c q) := by
  unfold pauseClass
  try dsimp only
  repeat' (first
    | with_reducible assumption
    | intro _
    | with_reducible (first
      | apply count_admSame | apply modClass_admSame | apply AdmSame.refl | apply AdmSame.ite | (fail_if_no_progress apply AdmSame.keep))
    | split)

theorem macControl_admSame {a0 : State} (s : State) (port : Nat) (f : Bytes) (fcsOk : Bool) (h0 : AdmSame a0 s) : AdmSame a0 (macControl s
    port f fcsOk) := by
  unfold macControl
  try dsimp only
  repeat' (first
    | with_reducible assumption
    | intro _
    | with_reducible (first
      | apply count_admSame | apply pauseClass_admSame | apply AdmSame.refl | apply AdmSame.ite | apply AdmSame.foldl
      | apply AdmSame.foldl1 | apply AdmSame.foldl2 | (fail_if_no_progress apply AdmSame.keep))
    | split)

theorem heardOn_admSame {a0 : State} (s : State) (port : Nat) (bytes : Bytes) (k : Nat) (h0 : AdmSame a0 s) : AdmSame a0 (heardOn s port
    bytes k) := by
  unfold heardOn
  try dsimp only
  repeat' (first
    | with_reducible assumption
    | intro _
    | with_reducible (first
      | apply heardFrame_admSame | apply AdmSame.refl | apply AdmSame.ite | (fail_if_no_progress apply AdmSame.keep))
    | split)

theorem sendCtlFrame_admSame {a0 : State} (s : State) (port : Nat) (f : Bytes) (h0 : AdmSame a0 s) : AdmSame a0 (sendCtlFrame s port f) :=
    by
  unfold sendCtlFrame
  try dsimp only
  repeat' (first
    | with_reducible assumption
    | intro _
    | with_reducible (first
      | apply modPort_admSame | apply AdmSame.refl | apply AdmSame.ite | (fail_if_no_progress apply AdmSame.keep))
    | split)

theorem sendPause_admSame {a0 : State} (s : State) (port c q : Nat) (h0 : AdmSame a0 s) : AdmSame a0 (sendPause s port c q) := by
  unfold sendPause
  try dsimp only
  repeat' (first
    | with_reducible assumption
    | intro _
    | with_reducible (first
      | apply count_admSame | apply sendCtlFrame_admSame | apply AdmSame.refl | apply AdmSame.ite
      | (fail_if_no_progress apply AdmSame.keep))
    | split)

theorem pauseRule_admSame {a0 : State} (s : State) (port c : Nat) (h0 : AdmSame a0 s) : AdmSame a0 (pauseRule s port c) := by
  unfold pauseRule
  try dsimp only
  repeat' (first
    | with_reducible assumption
    | intro _
    | with_reducible (first
      | apply modClass_admSame | apply sendPause_admSame | apply AdmSame.refl | apply AdmSame.ite
      | (fail_if_no_progress apply AdmSame.keep))
    | split)

theorem rxTake_admSame {a0 : State} (s : State) (port c len : Nat) (h0 : AdmSame a0 s) : AdmSame a0 (rxTake s port c len) := by
  unfold rxTake
  try dsimp only
  repeat' (first
    | with_reducible assumption
    | intro _
    | with_reducible (first
      | apply modClass_admSame | apply pauseRule_admSame | apply AdmSame.refl | apply AdmSame.ite
      | (fail_if_no_progress apply AdmSame.keep))
    | split)

theorem rxRelease_admSame {a0 : State} (s : State) (port c len : Nat) (h0 : AdmSame a0 s) : AdmSame a0 (rxRelease s port c len) := by
  unfold rxRelease
  try dsimp only
  repeat' (first
    | with_reducible assumption
    | intro _
    | with_reducible (first
      | apply modClass_admSame | apply pauseRule_admSame | apply AdmSame.refl | apply AdmSame.ite
      | (fail_if_no_progress apply AdmSame.keep))
    | split)

theorem rxDrop_admSame {a0 : State} (s : State) (port c : Nat) (h0 : AdmSame a0 s) : AdmSame a0 (rxDrop s port c) := by
  unfold rxDrop
  try dsimp only
  repeat' (first
    | with_reducible assumption
    | intro _
    | with_reducible (first
      | apply count_admSame | apply modClass_admSame | apply post_admSame | apply AdmSame.refl | apply AdmSame.ite
      | (fail_if_no_progress apply AdmSame.keep))
    | split)

theorem endPauses_admSame {a0 : State} (s : State) (c : Nat) (h0 : AdmSame a0 s) : AdmSame a0 (endPauses s c) := by
  unfold endPauses
  try dsimp only
  repeat' (first
    | with_reducible assumption
    | intro _
    | with_reducible (first
      | apply modClass_admSame | apply sendPause_admSame | apply AdmSame.refl | apply AdmSame.ite | apply AdmSame.foldl
      | apply AdmSame.foldl1 | apply AdmSame.foldl2 | (fail_if_no_progress apply AdmSame.keep))
    | split)

/-! ### Qp -/

theorem drawRandom_admSame {a0 : State} (s : State) (h0 : AdmSame a0 s) : AdmSame a0 (drawRandom s).2 := by
  unfold drawRandom
  try dsimp only
  repeat' (first
    | with_reducible assumption
    | intro _
    | with_reducible (first
      | apply AdmSame.refl | apply AdmSame.ite | (fail_if_no_progress apply AdmSame.keep))
    | split)

theorem tpeQpLost_admSame {a0 : State} (s : State) (qpn : Nat) (h0 : AdmSame a0 s) : AdmSame a0 (tpeQpLost s qpn) := by
  unfold tpeQpLost
  try dsimp only
  repeat' (first
    | with_reducible assumption
    | intro _
    | with_reducible (first
      | apply AdmSame.refl | apply AdmSame.ite | (fail_if_no_progress apply AdmSame.keep))
    | split)

theorem moveQp_admSame {a0 : State} (s : State) (n : Nat) (st : QpState) (h0 : AdmSame a0 s) : AdmSame a0 (moveQp s n st) := by
  unfold moveQp
  try dsimp only
  repeat' (first
    | with_reducible assumption
    | intro _
    | with_reducible (first
      | apply modQp_admSame | apply tpeQpLost_admSame | apply trace_admSame | apply AdmSame.refl | apply AdmSame.ite
      | (fail_if_no_progress apply AdmSame.keep))
    | split)

theorem modDest_admSame {a0 : State} (s : State) (coord : Nat) (f : Dest → Dest) (h0 : AdmSame a0 s) : AdmSame a0 (modDest s coord f) :=
    by
  unfold modDest
  try dsimp only
  repeat' (first
    | with_reducible assumption
    | intro _
    | with_reducible (first
      | apply AdmSame.refl | apply AdmSame.ite | (fail_if_no_progress apply AdmSame.keep))
    | split)

theorem uncharge_admSame {a0 : State} (s : State) (coord charge : Nat) (h0 : AdmSame a0 s) : AdmSame a0 (uncharge s coord charge) := by
  unfold uncharge
  try dsimp only
  repeat' (first
    | with_reducible assumption
    | intro _
    | with_reducible (first
      | apply modDest_admSame | apply AdmSame.refl | apply AdmSame.ite | (fail_if_no_progress apply AdmSame.keep))
    | split)

theorem modPath_admSame {a0 : State} (s : State) (coord p : Nat) (f : Path → Path) (h0 : AdmSame a0 s) : AdmSame a0 (modPath s coord p f)
    := by
  unfold modPath
  try dsimp only
  repeat' (first
    | with_reducible assumption
    | intro _
    | with_reducible (first
      | apply modDest_admSame | apply AdmSame.refl | apply AdmSame.ite | (fail_if_no_progress apply AdmSame.keep))
    | split)

theorem forgetPkt_admSame {a0 : State} (coord : Nat) (s : State) (t : TxPkt) (h0 : AdmSame a0 s) : AdmSame a0 (forgetPkt coord s t) := by
  unfold forgetPkt
  try dsimp only
  repeat' (first
    | with_reducible assumption
    | intro _
    | with_reducible (first
      | apply modDest_admSame | apply modPath_admSame | apply uncharge_admSame | apply AdmSame.refl | apply AdmSame.ite
      | (fail_if_no_progress apply AdmSame.keep))
    | split)

theorem pullTx_admSame {a0 : State} (s : State) (keep : Nat × Nat → Bool) (h0 : AdmSame a0 s) : AdmSame a0 (pullTx s keep) := by
  unfold pullTx
  try dsimp only
  repeat' (first
    | with_reducible assumption
    | intro _
    | with_reducible (first
      | apply AdmSame.refl | apply AdmSame.ite | (fail_if_no_progress apply AdmSame.keep))
    | split)

theorem dropTx_admSame {a0 : State} (s : State) (qpn : Nat) (h0 : AdmSame a0 s) : AdmSame a0 (dropTx s qpn) := by
  unfold dropTx
  try dsimp only
  repeat' (first
    | with_reducible assumption
    | intro _
    | with_reducible (first
      | apply forgetPkt_admSame | apply modQp_admSame | apply pullTx_admSame | apply AdmSame.refl | apply AdmSame.ite
      | apply AdmSame.foldl | apply AdmSame.foldl1 | apply AdmSame.foldl2 | (fail_if_no_progress apply AdmSame.keep))
    | split)

theorem dropHeld_admSame {a0 : State} (s : State) (qpn : Nat) (h0 : AdmSame a0 s) : AdmSame a0 (dropHeld s qpn) := by
  unfold dropHeld
  try dsimp only
  repeat' (first
    | with_reducible assumption
    | intro _
    | with_reducible (first
      | apply modQp_admSame | apply rxRelease_admSame | apply AdmSame.refl | apply AdmSame.ite | apply AdmSame.foldl
      | apply AdmSame.foldl1 | apply AdmSame.foldl2 | (fail_if_no_progress apply AdmSame.keep))
    | split)

theorem stopQp_admSame {a0 : State} (s : State) (qpn : Nat) (h0 : AdmSame a0 s) : AdmSame a0 (stopQp s qpn) := by
  unfold stopQp
  try dsimp only
  repeat' (first
    | with_reducible assumption
    | intro _
    | with_reducible (first
      | apply dropHeld_admSame | apply dropTx_admSame | apply endWork_admSame | apply modQp_admSame | apply AdmSame.refl
      | apply AdmSame.ite | apply AdmSame.foldl | apply AdmSame.foldl1 | apply AdmSame.foldl2 | (fail_if_no_progress apply AdmSame.keep))
    | split)

theorem dropQp_admSame {a0 : State} (s : State) (qpn : Nat) (h0 : AdmSame a0 s) : AdmSame a0 (dropQp s qpn) := by
  unfold dropQp
  try dsimp only
  repeat' (first
    | with_reducible assumption
    | intro _
    | with_reducible (first
      | apply endWork_admSame | apply stopQp_admSame | apply AdmSame.refl | apply AdmSame.ite | apply AdmSame.foldl
      | apply AdmSame.foldl1 | apply AdmSame.foldl2 | (fail_if_no_progress apply AdmSame.keep))
    | split)

/-! ### Send -/

theorem ensureDest_admSame {a0 s t : State} {c : Nat} (h : ensureDest s c = some t) (h0 : AdmSame a0 s) : AdmSame a0 t := by
  unfold ensureDest at h
  (repeat' split at h) <;> simp at h <;> subst h <;> first | exact h0 | (apply AdmSame.keep h0)

theorem exhaustCheck_admSame {a0 : State} (s : State) (coord : Nat) (h0 : AdmSame a0 s) : AdmSame a0 (exhaustCheck s coord) := by
  unfold exhaustCheck
  try dsimp only
  repeat' (first
    | with_reducible assumption
    | intro _
    | with_reducible (first
      | apply modDest_admSame | apply modPath_admSame | apply post_admSame | apply AdmSame.refl | apply AdmSame.ite
      | apply AdmSame.foldl | apply AdmSame.foldl1 | apply AdmSame.foldl2 | (fail_if_no_progress apply AdmSame.keep))
    | split)

theorem queueControl_admSame {a0 : State} (s : State) (qpn coord saId tc : Nat) (path : Option Nat) (dstQpn : Nat) (b : CtlBody) (h0 :
    AdmSame a0 s) : AdmSame a0 (queueControl s qpn coord saId tc path dstQpn b) := by
  unfold queueControl
  try dsimp only
  repeat' (first
    | with_reducible assumption
    | intro _
    | with_reducible (first
      | apply takeFresh_admSame | apply AdmSame.refl | apply AdmSame.ite | (fail_if_no_progress apply AdmSame.keep))
    | split)

theorem modTx_admSame {a0 : State} (s : State) (qpn id : Nat) (f : TxPkt → TxPkt) (h0 : AdmSame a0 s) : AdmSame a0 (modTx s qpn id f) :=
    by
  unfold modTx
  try dsimp only
  repeat' (first
    | with_reducible assumption
    | intro _
    | with_reducible (first
      | apply modQp_admSame | apply AdmSame.refl | apply AdmSame.ite | (fail_if_no_progress apply AdmSame.keep))
    | split)

theorem closeTrain_admSame {a0 : State} (s : State) (t : Train) (h0 : AdmSame a0 s) : AdmSame a0 (closeTrain s t) := by
  unfold closeTrain
  try dsimp only
  repeat' (first
    | with_reducible assumption
    | intro _
    | with_reducible (first
      | apply takeFresh_admSame | apply AdmSame.refl | apply AdmSame.ite | (fail_if_no_progress apply AdmSame.keep))
    | split)

theorem joinTrain_admSame {a0 : State} (s : State) (coord saId tc qpn id : Nat) (last : Bool) (h0 : AdmSame a0 s) : AdmSame a0 (joinTrain
    s coord saId tc qpn id last) := by
  unfold joinTrain
  try dsimp only
  repeat' (first
    | with_reducible assumption
    | intro _
    | with_reducible (first
      | apply closeTrain_admSame | apply AdmSame.refl | apply AdmSame.ite | (fail_if_no_progress apply AdmSame.keep))
    | split)

theorem offerPkt_admSame {a0 : State} (s : State) (qpn id : Nat) (h0 : AdmSame a0 s) : AdmSame a0 (offerPkt s qpn id) := by
  unfold offerPkt
  try dsimp only
  repeat' (first
    | with_reducible assumption
    | intro _
    | with_reducible (first
      | apply joinTrain_admSame | apply modTx_admSame | apply takeFresh_admSame | apply AdmSame.refl | apply AdmSame.ite
      | (fail_if_no_progress apply AdmSame.keep))
    | split)

theorem closeLast_admSame {a0 : State} (s : State) (h0 : AdmSame a0 s) : AdmSame a0 (closeLast s) := by
  unfold closeLast
  try dsimp only
  repeat' (first
    | with_reducible assumption
    | intro _
    | with_reducible (first
      | apply closeTrain_admSame | apply AdmSame.refl | apply AdmSame.ite | apply AdmSame.foldl | apply AdmSame.foldl1
      | apply AdmSame.foldl2 | (fail_if_no_progress apply AdmSame.keep))
    | split)

theorem serveLimiter_admSame {a0 : State} (x0 : Nat) (x1 : State) (x2 x3 : Nat) (h0 : AdmSame a0 x1) : AdmSame a0 (serveLimiter x0 x1 x2
    x3) := by
  induction x0 generalizing x1 x2 x3 with
  | zero => simpa [serveLimiter] using h0
  | succ n ih =>
    unfold serveLimiter
    try dsimp only
    repeat' (first
      | with_reducible assumption
      | intro _
      | with_reducible (first
        | apply ih | apply offerPkt_admSame | apply AdmSame.refl | apply AdmSame.ite | (fail_if_no_progress apply AdmSame.keep))
      | split)

theorem paceClass_admSame {a0 : State} (s : State) (inst tc : Nat) (h0 : AdmSame a0 s) : AdmSame a0 (paceClass s inst tc) := by
  unfold paceClass
  try dsimp only
  repeat' (first
    | with_reducible assumption
    | intro _
    | with_reducible (first
      | apply closeLast_admSame | apply serveLimiter_admSame | apply AdmSame.refl | apply AdmSame.ite
      | (fail_if_no_progress apply AdmSame.keep))
    | split)

theorem pace_admSame {a0 : State} (s : State) (qpn : Nat) (h0 : AdmSame a0 s) : AdmSame a0 (pace s qpn) := by
  unfold pace
  try dsimp only
  repeat' (first
    | with_reducible assumption
    | intro _
    | with_reducible (first
      | apply paceClass_admSame | apply AdmSame.refl | apply AdmSame.ite | (fail_if_no_progress apply AdmSame.keep))
    | split)

theorem enqueue_admSame {a0 : State} (s : State) (qpn : Nat) (owner : TxOwner) (ps : List Pkt) (h0 : AdmSame a0 s) : AdmSame a0 (enqueue s
    qpn owner ps) := by
  unfold enqueue
  try dsimp only
  repeat' (first
    | with_reducible assumption
    | intro _
    | with_reducible (first
      | apply modQp_admSame | apply pace_admSame | apply takeFresh_admSame | apply AdmSame.refl | apply AdmSame.ite
      | apply AdmSame.foldl | apply AdmSame.foldl1 | apply AdmSame.foldl2 | (fail_if_no_progress apply AdmSame.keep))
    | split)

theorem modSa_admSame {a0 : State} (s : State) (id : Nat) (f : Sa → Sa) (h0 : AdmSame a0 s) : AdmSame a0 (modSa s id f) := by
  unfold modSa
  try dsimp only
  repeat' (first
    | with_reducible assumption
    | intro _
    | with_reducible (first
      | apply AdmSame.refl | apply AdmSame.ite | (fail_if_no_progress apply AdmSame.keep))
    | split)

theorem drawSeal_admSame {a0 : State} (s : State) (id : Nat) (a : Sa) (h0 : AdmSame a0 s) : AdmSame a0 (drawSeal s id a) := by
  unfold drawSeal
  try dsimp only
  repeat' (first
    | with_reducible assumption
    | intro _
    | with_reducible (first
      | apply modSa_admSame | apply post_admSame | apply AdmSame.refl | apply AdmSame.ite | (fail_if_no_progress apply AdmSame.keep))
    | split)

theorem cipherMismatch_admSame {a0 : State} (s : State) (kind : Nat) (h0 : AdmSame a0 s) : AdmSame a0 (cipherMismatch s kind) := by
  unfold cipherMismatch
  try dsimp only
  repeat' (first
    | with_reducible assumption
    | intro _
    | with_reducible (first
      | apply count_admSame | apply post_admSame | apply AdmSame.refl | apply AdmSame.ite | (fail_if_no_progress apply AdmSame.keep))
    | split)

theorem sealUnder_admSame {a0 : State} (s : State) (id : Nat) (a : Sa) (kind cells : Nat) (parts : Parts) (disagree : Nat) (h0 : AdmSame
    a0 s) : AdmSame a0 (sealUnder s id a kind cells parts disagree).1 := by
  unfold sealUnder
  try dsimp only
  repeat' (first
    | with_reducible assumption
    | intro _
    | with_reducible (first
      | apply cipherMismatch_admSame | apply count_admSame | apply drawSeal_admSame | apply AdmSame.refl | apply AdmSame.ite
      | (fail_if_no_progress apply AdmSame.keep))
    | split)

theorem noteSent_admSame {a0 : State} (coord path order : Nat) (probe : Bool) (s : State) (c : Nat × TxPkt) (h0 : AdmSame a0 s) : AdmSame
    a0 (noteSent coord path order probe s c) := by
  unfold noteSent
  try dsimp only
  repeat' (first
    | with_reducible assumption
    | intro _
    | with_reducible (first
      | apply modDest_admSame | apply modQp_admSame | apply AdmSame.refl | apply AdmSame.ite | (fail_if_no_progress apply AdmSame.keep))
    | split)

theorem pushFrame_admSame {a0 : State} (s : State) (port c : Nat) (f : TxFrame) (h0 : AdmSame a0 s) : AdmSame a0 (pushFrame s port c f) :=
    by
  unfold pushFrame
  try dsimp only
  repeat' (first
    | with_reducible assumption
    | intro _
    | with_reducible (first
      | apply modClass_admSame | apply AdmSame.refl | apply AdmSame.ite | (fail_if_no_progress apply AdmSame.keep))
    | split)

theorem queueFrame_admSame {a0 : State} (s : State) (src coord tc path : Nat) (ect : Bool) (u : Bytes) (pkts : List (Nat × Nat)) (h0 :
    AdmSame a0 s) : AdmSame a0 (queueFrame s src coord tc path ect u pkts) := by
  unfold queueFrame
  try dsimp only
  repeat' (first
    | with_reducible assumption
    | intro _
    | with_reducible (first
      | apply pushFrame_admSame | apply AdmSame.refl | apply AdmSame.ite | (fail_if_no_progress apply AdmSame.keep))
    | split)

theorem keepRest_admSame {a0 : State} (s : State) (d : TxDgram) (sent : List Nat) (h0 : AdmSame a0 s) : AdmSame a0 (keepRest s d sent) :=
    by
  unfold keepRest
  try dsimp only
  repeat' (first
    | with_reducible assumption
    | intro _
    | with_reducible (first
      | apply AdmSame.refl | apply AdmSame.ite | (fail_if_no_progress apply AdmSame.keep))
    | split)

theorem drr.earn_admSame {a0 : State} (s : State) (n c : Nat) (h0 : AdmSame a0 s) : AdmSame a0 (drr.earn s n c) := by
  unfold drr.earn
  try dsimp only
  repeat' (first
    | with_reducible assumption
    | intro _
    | with_reducible (first
      | apply modClass_admSame | apply AdmSame.refl | apply AdmSame.ite | (fail_if_no_progress apply AdmSame.keep))
    | split)

theorem startTimer_admSame {a0 : State} (s : State) (c : Nat × Nat) (h0 : AdmSame a0 s) : AdmSame a0 (startTimer s c) := by
  unfold startTimer
  try dsimp only
  repeat' (first
    | with_reducible assumption
    | intro _
    | with_reducible (first
      | apply modQp_admSame | apply modTx_admSame | apply AdmSame.refl | apply AdmSame.ite | (fail_if_no_progress apply AdmSame.keep))
    | split)

theorem tpeFail_admSame {a0 : State} (s : State) (ctx slot msg : Nat) (status : BitVec 8) (sub : Nat) (h0 : AdmSame a0 s) : AdmSame a0
    (tpeFail s ctx slot msg status sub) := by
  unfold tpeFail
  try dsimp only
  repeat' (first
    | with_reducible assumption
    | intro _
    | with_reducible (first
      | apply AdmSame.refl | apply AdmSame.ite | (fail_if_no_progress apply AdmSame.keep))
    | split)

theorem downPath_admSame {a0 : State} (s : State) (coord p holdUs cause : Nat) (prev : Health) (h0 : AdmSame a0 s) : AdmSame a0 (downPath
    s coord p holdUs cause prev) := by
  unfold downPath
  try dsimp only
  repeat' (first
    | with_reducible assumption
    | intro _
    | with_reducible (first
      | apply modPath_admSame | apply AdmSame.refl | apply AdmSame.ite | (fail_if_no_progress apply AdmSame.keep))
    | split)

theorem expiryCut_admSame {a0 : State} (s : State) (coord : Nat) (h0 : AdmSame a0 s) : AdmSame a0 (expiryCut s coord) := by
  unfold expiryCut
  try dsimp only
  repeat' (first
    | with_reducible assumption
    | intro _
    | with_reducible (first
      | apply modDest_admSame | apply AdmSame.refl | apply AdmSame.ite | (fail_if_no_progress apply AdmSame.keep))
    | split)

theorem withdrawLoss_admSame {a0 : State} (id coord : Nat) (s : State) (p : Nat) (h0 : AdmSame a0 s) : AdmSame a0 (withdrawLoss id coord s
    p) := by
  unfold withdrawLoss
  try dsimp only
  repeat' (first
    | with_reducible assumption
    | intro _
    | with_reducible (first
      | apply exhaustCheck_admSame | apply modPath_admSame | apply AdmSame.refl | apply AdmSame.ite
      | (fail_if_no_progress apply AdmSame.keep))
    | split)

/-! ### Pool -/

theorem storeBlock_admSame {a0 : State} (s : State) (inst ksel blk off : Nat) (bs : Bytes) (h0 : AdmSame a0 s) : AdmSame a0 (storeBlock s
    inst ksel blk off bs) := by
  unfold storeBlock
  try dsimp only
  repeat' (first
    | with_reducible assumption
    | intro _
    | with_reducible (first
      | apply AdmSame.refl | apply AdmSame.ite | (fail_if_no_progress apply AdmSame.keep))
    | split)

theorem storeSpan_admSame {a0 : State} (x0 : Nat) (x1 : State) (x2 x3 x4 : Nat) (x5 : Bytes) (h0 : AdmSame a0 x1) : AdmSame a0 (storeSpan
    x0 x1 x2 x3 x4 x5) := by
  induction x0 generalizing x1 x2 x3 x4 x5 with
  | zero => simpa [storeSpan] using h0
  | succ n ih =>
    unfold storeSpan
    try dsimp only
    repeat' (first
      | with_reducible assumption
      | intro _
      | with_reducible (first
        | apply ih | apply storeBlock_admSame | apply AdmSame.refl | apply AdmSame.ite | (fail_if_no_progress apply AdmSame.keep))
      | split)

theorem poolStore_admSame {a0 : State} (s : State) (inst ksel a : Nat) (bs : Bytes) (h0 : AdmSame a0 s) : AdmSame a0 (poolStore s inst
    ksel a bs) := by
  unfold poolStore
  try dsimp only
  repeat' (first
    | with_reducible assumption
    | intro _
    | with_reducible (first
      | apply storeSpan_admSame | apply AdmSame.refl | apply AdmSame.ite | (fail_if_no_progress apply AdmSame.keep))
    | split)

theorem poolWrite_admSame {a0 : State} (s : State) (inst ksel a : Nat) (bs : Bytes) (h0 : AdmSame a0 s) : AdmSame a0 (poolWrite s inst
    ksel a bs).1 := by
  unfold poolWrite
  try dsimp only
  repeat' (first
    | with_reducible assumption
    | intro _
    | with_reducible (first
      | apply poolStore_admSame | apply takeFresh_admSame | apply AdmSame.refl | apply AdmSame.ite | apply AdmSame.foldl
      | apply AdmSame.foldl1 | apply AdmSame.foldl2 | (fail_if_no_progress apply AdmSame.keep))
    | split)

theorem poolZero_admSame {a0 : State} (s : State) (base size : Nat) (h0 : AdmSame a0 s) : AdmSame a0 (poolZero s base size) := by
  unfold poolZero
  try dsimp only
  repeat' (first
    | with_reducible assumption
    | intro _
    | with_reducible (first
      | apply AdmSame.refl | apply AdmSame.ite | (fail_if_no_progress apply AdmSame.keep))
    | split)

theorem corrected_admSame {a0 : State} (s : State) (stack : Nat) (h0 : AdmSame a0 s) : AdmSame a0 (corrected s stack) := by
  unfold corrected
  try dsimp only
  repeat' (first
    | with_reducible assumption
    | intro _
    | with_reducible (first
      | apply count_admSame | apply post_admSame | apply AdmSame.refl | apply AdmSame.ite | (fail_if_no_progress apply AdmSame.keep))
    | split)

theorem lineLost_admSame {a0 : State} (s : State) (line stack : Nat) (h0 : AdmSame a0 s) : AdmSame a0 (lineLost s line stack) := by
  unfold lineLost
  try dsimp only
  repeat' (first
    | with_reducible assumption
    | intro _
    | with_reducible (first
      | apply count_admSame | apply post_admSame | apply AdmSame.refl | apply AdmSame.ite | (fail_if_no_progress apply AdmSame.keep))
    | split)

theorem foundLine_admSame {a0 : State} (s : State) (x : Nat × LineFault) (h0 : AdmSame a0 s) : AdmSame a0 (foundLine s x) := by
  unfold foundLine
  try dsimp only
  repeat' (first
    | with_reducible assumption
    | intro _
    | with_reducible (first
      | apply corrected_admSame | apply lineLost_admSame | apply AdmSame.refl | apply AdmSame.ite
      | (fail_if_no_progress apply AdmSame.keep))
    | split)

theorem foundWord_admSame {a0 : State} (s : State) (x : StoreWord) (h0 : AdmSame a0 s) : AdmSame a0 (foundWord s x) := by
  unfold foundWord
  try dsimp only
  repeat' (first
    | with_reducible assumption
    | intro _
    | with_reducible (first
      | apply count_admSame | apply AdmSame.refl | apply AdmSame.ite | (fail_if_no_progress apply AdmSame.keep))
    | split)

theorem underMeets_admSame {a0 : State} (m : Meets) (s : State) (f : State → State) (h0 : AdmSame a0 s) (h_f : ∀ y0, AdmSame a0 y0 →
    AdmSame a0 (f y0)) : AdmSame a0 (underMeets m s f) := by
  unfold underMeets
  try dsimp only
  repeat' (first
    | with_reducible assumption
    | intro _
    | with_reducible (first
      | apply h_f | apply foundLine_admSame | apply foundWord_admSame | apply AdmSame.refl | apply AdmSame.ite | apply AdmSame.foldl
      | apply AdmSame.foldl1 | apply AdmSame.foldl2 | (fail_if_no_progress apply AdmSame.keep))
    | split)

/-! ### Translate -/

theorem cachePut_admSame {a0 : State} (s : State) (e : CacheEntry) (h0 : AdmSame a0 s) : AdmSame a0 (cachePut s e) := by
  unfold cachePut
  try dsimp only
  repeat' (first
    | with_reducible assumption
    | intro _
    | with_reducible (first
      | apply AdmSame.refl | apply AdmSame.ite | (fail_if_no_progress apply AdmSame.keep))
    | split)

theorem modFn_admSame {a0 : State} (s : State) (n : Nat) (f : FnState → FnState) (h0 : AdmSame a0 s) : AdmSame a0 (modFn s n f) := by
  unfold modFn
  try dsimp only
  repeat' (first
    | with_reducible assumption
    | intro _
    | with_reducible (first
      | apply AdmSame.refl | apply AdmSame.ite | (fail_if_no_progress apply AdmSame.keep))
    | split)

theorem dropAts_admSame {a0 : State} (s : State) (inst va size : Nat) (h0 : AdmSame a0 s) : AdmSame a0 (dropAts s inst va size) := by
  unfold dropAts
  try dsimp only
  repeat' (first
    | with_reducible assumption
    | intro _
    | with_reducible (first
      | apply AdmSame.refl | apply AdmSame.ite | (fail_if_no_progress apply AdmSame.keep))
    | split)

theorem raiseReq_admSame {a0 : State} (inst : Nat) (need : Need) (fresh : List Nat) (s : State) (page : Nat) (h0 : AdmSame a0 s) : AdmSame
    a0 (raiseReq inst need fresh s page) := by
  unfold raiseReq
  try dsimp only
  repeat' (first
    | with_reducible assumption
    | intro _
    | with_reducible (first
      | apply AdmSame.refl | apply AdmSame.ite | (fail_if_no_progress apply AdmSame.keep))
    | split)

theorem addWait_admSame {a0 : State} (s : State) (w : Waiting) (h0 : AdmSame a0 s) : AdmSame a0 (addWait s w) := by
  unfold addWait
  try dsimp only
  repeat' (first
    | with_reducible assumption
    | intro _
    | with_reducible (first
      | apply AdmSame.refl | apply AdmSame.ite | (fail_if_no_progress apply AdmSame.keep))
    | split)

theorem dropWait_admSame {a0 : State} (s : State) (id : Nat) (h0 : AdmSame a0 s) : AdmSame a0 (dropWait s id) := by
  unfold dropWait
  try dsimp only
  repeat' (first
    | with_reducible assumption
    | intro _
    | with_reducible (first
      | apply AdmSame.refl | apply AdmSame.ite | (fail_if_no_progress apply AdmSame.keep))
    | split)

theorem askAts_admSame {a0 : State} (s : State) (w : Waiting) (page : Nat) (h0 : AdmSame a0 s) : AdmSame a0 (askAts s w page) := by
  unfold askAts
  try dsimp only
  repeat' (first
    | with_reducible assumption
    | intro _
    | with_reducible (first
      | apply emit_admSame | apply AdmSame.refl | apply AdmSame.ite | (fail_if_no_progress apply AdmSame.keep))
    | split)

theorem missAccess_admSame {a0 : State} (s : State) (w : Waiting) (pages : List Nat) (h0 : AdmSame a0 s) : AdmSame a0 (missAccess s w
    pages).1 := by
  unfold missAccess
  try dsimp only
  repeat' (first
    | with_reducible assumption
    | intro _
    | with_reducible (first
      | apply addWait_admSame | apply raiseReq_admSame | apply AdmSame.refl | apply AdmSame.ite | apply AdmSame.foldl
      | apply AdmSame.foldl1 | apply AdmSame.foldl2 | (fail_if_no_progress apply AdmSame.keep))
    | split)

theorem tryAccess_admSame {a0 : State} (s : State) (w : Waiting) (h0 : AdmSame a0 s) : AdmSame a0 (tryAccess s w).1 := by
  unfold tryAccess
  try dsimp only
  repeat' (first
    | with_reducible assumption
    | intro _
    | with_reducible (first
      | apply addWait_admSame | apply askAts_admSame | apply missAccess_admSame | apply AdmSame.refl | apply AdmSame.ite
      | (fail_if_no_progress apply AdmSame.keep))
    | split)

theorem beginAccess_admSame {a0 : State} (s : State) (inst : Nat) (owner : AccOwner) (need : Need) (va len : Nat) (again : optParam (List
    Nat) []) (h0 : AdmSame a0 s) : AdmSame a0 (beginAccess s inst owner need va len again).1 := by
  unfold beginAccess
  try dsimp only
  repeat' (first
    | with_reducible assumption
    | intro _
    | with_reducible (first
      | apply addWait_admSame | apply takeFresh_admSame | apply tryAccess_admSame | apply AdmSame.refl | apply AdmSame.ite
      | (fail_if_no_progress apply AdmSame.keep))
    | split)

theorem fillCache_admSame {a0 : State} (s : State) (w : Waiting) (h0 : AdmSame a0 s) : AdmSame a0 (fillCache s w) := by
  unfold fillCache
  try dsimp only
  repeat' (first
    | with_reducible assumption
    | intro _
    | with_reducible (first
      | apply cachePut_admSame | apply AdmSame.refl | apply AdmSame.ite | apply AdmSame.foldl | apply AdmSame.foldl1
      | apply AdmSame.foldl2 | (fail_if_no_progress apply AdmSame.keep))
    | split)

theorem retry_admSame {a0 : State} (s : State) (w : Waiting) (h0 : AdmSame a0 s) : AdmSame a0 (retry s w).1 := by
  unfold retry
  try dsimp only
  repeat' (first
    | with_reducible assumption
    | intro _
    | with_reducible (first
      | apply dropWait_admSame | apply tryAccess_admSame | apply AdmSame.refl | apply AdmSame.ite
      | (fail_if_no_progress apply AdmSame.keep))
    | split)

theorem retryAll_admSame {a0 : State} (s : State) (ws : List Waiting) (h0 : AdmSame a0 s) : AdmSame a0 (retryAll s ws).1 := by
  unfold retryAll
  try dsimp only
  repeat' (first
    | with_reducible assumption
    | intro _
    | with_reducible (first
      | apply retry_admSame | apply AdmSame.refl | apply AdmSame.ite | apply AdmSame.foldl | apply AdmSame.foldl1 | apply AdmSame.foldl2
      | (fail_if_no_progress apply AdmSame.keep))
    | split)

theorem endAll_admSame {a0 : State} (s : State) (ws : List Waiting) (x : Xlat) (h0 : AdmSame a0 s) : AdmSame a0 (endAll s ws x).1 := by
  unfold endAll
  try dsimp only
  repeat' (first
    | with_reducible assumption
    | intro _
    | with_reducible (first
      | apply dropWait_admSame | apply AdmSame.refl | apply AdmSame.ite | apply AdmSame.foldl | apply AdmSame.foldl1
      | apply AdmSame.foldl2 | (fail_if_no_progress apply AdmSame.keep))
    | split)

theorem walkDone_admSame {a0 : State} (s : State) (id : Nat) (h0 : AdmSame a0 s) : AdmSame a0 (walkDone s id).1 := by
  unfold walkDone
  try dsimp only
  repeat' (first
    | with_reducible assumption
    | intro _
    | with_reducible (first
      | apply fillCache_admSame | apply retry_admSame | apply AdmSame.refl | apply AdmSame.ite
      | (fail_if_no_progress apply AdmSame.keep))
    | split)

theorem atsDone_admSame {a0 : State} (s : State) (id : Nat) (res : AtsResult) (h0 : AdmSame a0 s) : AdmSame a0 (atsDone s id res).1 := by
  unfold atsDone
  try dsimp only
  repeat' (first
    | with_reducible assumption
    | intro _
    | with_reducible (first
      | apply dropWait_admSame | apply missAccess_admSame | apply retry_admSame | apply AdmSame.refl | apply AdmSame.ite
      | (fail_if_no_progress apply AdmSame.keep))
    | split)

theorem markMissed_admSame {a0 : State} (s : State) (inst page code : Nat) (h0 : AdmSame a0 s) : AdmSame a0 (markMissed s inst page code)
    := by
  unfold markMissed
  try dsimp only
  repeat' (first
    | with_reducible assumption
    | intro _
    | with_reducible (first
      | apply AdmSame.refl | apply AdmSame.ite | (fail_if_no_progress apply AdmSame.keep))
    | split)

theorem prgResponse_admSame {a0 : State} (s : State) (fn index : Nat) (code : PrgCode) (h0 : AdmSame a0 s) : AdmSame a0 (prgResponse s fn
    index code).1 := by
  unfold prgResponse
  try dsimp only
  repeat' (first
    | with_reducible assumption
    | intro _
    | with_reducible (first
      | apply dropAts_admSame | apply endAll_admSame | apply markMissed_admSame | apply modFn_admSame | apply post_admSame
      | apply retryAll_admSame | apply AdmSame.refl | apply AdmSame.ite | (fail_if_no_progress apply AdmSame.keep))
    | split)

theorem pageTimeout_admSame {a0 : State} (s : State) (inst page : Nat) (h0 : AdmSame a0 s) : AdmSame a0 (pageTimeout s inst page).1 := by
  unfold pageTimeout
  try dsimp only
  repeat' (first
    | with_reducible assumption
    | intro _
    | with_reducible (first
      | apply endAll_admSame | apply markMissed_admSame | apply AdmSame.refl | apply AdmSame.ite
      | (fail_if_no_progress apply AdmSame.keep))
    | split)

theorem removeRange_admSame {a0 : State} (s : State) (inst va size : Nat) (h0 : AdmSame a0 s) : AdmSame a0 (removeRange s inst va size).1
    := by
  unfold removeRange
  try dsimp only
  repeat' (first
    | with_reducible assumption
    | intro _
    | with_reducible (first
      | apply count_admSame | apply dropAts_admSame | apply AdmSame.refl | apply AdmSame.ite | apply AdmSame.foldl
      | apply AdmSame.foldl1 | apply AdmSame.foldl2 | (fail_if_no_progress apply AdmSame.keep))
    | split)

theorem applyRecord_admSame {a0 : State} (i : Nat) (a : State × Removed) (r : BitVec 256) (h0 : AdmSame a0 a.1) : AdmSame a0 (applyRecord
    i a r).1 := by
  unfold applyRecord
  try dsimp only
  repeat' (first
    | with_reducible assumption
    | intro _
    | with_reducible (first
      | apply count_admSame | apply removeRange_admSame | apply AdmSame.refl | apply AdmSame.ite
      | (fail_if_no_progress apply AdmSame.keep))
    | split)

theorem applyRecords_admSame {a0 : State} (s : State) (i : Nat) (rs : List (BitVec 256)) (h0 : AdmSame a0 s) : AdmSame a0 (applyRecords s
    i rs).1 := by
  unfold applyRecords
  try dsimp only
  repeat' (first
    | with_reducible assumption
    | intro _
    | with_reducible (first
      | apply applyRecord_admSame | apply count_admSame | apply AdmSame.refl | apply AdmSame.ite | apply AdmSame.foldl
      | apply AdmSame.foldl1 | apply AdmSame.foldl2 | (fail_if_no_progress apply AdmSame.keep))
    | split)

theorem resolveReqs_admSame {a0 : State} (s : State) (i : Nat) (rs : List (BitVec 256)) (h0 : AdmSame a0 s) : AdmSame a0 (resolveReqs s i
    rs).1 := by
  unfold resolveReqs
  try dsimp only
  repeat' (first
    | with_reducible assumption
    | intro _
    | with_reducible (first
      | apply dropAts_admSame | apply retryAll_admSame | apply AdmSame.refl | apply AdmSame.ite | apply AdmSame.foldl
      | apply AdmSame.foldl1 | apply AdmSame.foldl2 | (fail_if_no_progress apply AdmSame.keep))
    | split)

/-! ### Accum -/

theorem modCtx_admSame {a0 : State} (s : State) (n : Nat) (f : Ctx → Ctx) (h0 : AdmSame a0 s) : AdmSame a0 (modCtx s n f) := by
  unfold modCtx
  try dsimp only
  repeat' (first
    | with_reducible assumption
    | intro _
    | with_reducible (first
      | apply AdmSame.refl | apply AdmSame.ite | (fail_if_no_progress apply AdmSame.keep))
    | split)

theorem modRun_admSame {a0 : State} (s : State) (ctx slot : Nat) (f : TpeRun → TpeRun) (h0 : AdmSame a0 s) : AdmSame a0 (modRun s ctx slot
    f) := by
  unfold modRun
  try dsimp only
  repeat' (first
    | with_reducible assumption
    | intro _
    | with_reducible (first
      | apply modCtx_admSame | apply AdmSame.refl | apply AdmSame.ite | (fail_if_no_progress apply AdmSame.keep))
    | split)

theorem accAccept_admSame {a0 : State} (s : State) (inst qpn : Nat) (p : Pkt) (h0 : AdmSame a0 s) : AdmSame a0 (accAccept s inst qpn p).1
    := by
  unfold accAccept
  try dsimp only
  repeat' (first
    | with_reducible assumption
    | intro _
    | with_reducible (first
      | apply modCtx_admSame | apply AdmSame.refl | apply AdmSame.ite | (fail_if_no_progress apply AdmSame.keep))
    | split)

/-! ### Issue -/

theorem addWork_admSame {a0 : State} (s : State) (qpn : Nat) (q : Qp) (w : SqWork) (h0 : AdmSame a0 s) : AdmSame a0 (addWork s qpn q w) :=
    by
  unfold addWork
  try dsimp only
  repeat' (first
    | with_reducible assumption
    | intro _
    | with_reducible (first
      | apply beginMessage_admSame | apply modQp_admSame | apply AdmSame.refl | apply AdmSame.ite
      | (fail_if_no_progress apply AdmSame.keep))
    | split)

theorem askReads_admSame {a0 : State} (x0 : Nat) (x1 : State) (x2 : Nat) (h0 : AdmSame a0 x1) : AdmSame a0 (askReads x0 x1 x2) := by
  induction x0 generalizing x1 x2 with
  | zero => simpa [askReads] using h0
  | succ n ih =>
    unfold askReads
    try dsimp only
    repeat' (first
      | with_reducible assumption
      | intro _
      | with_reducible (first
        | apply ih | apply enqueue_admSame | apply modQp_admSame | apply AdmSame.refl | apply AdmSame.ite
        | (fail_if_no_progress apply AdmSame.keep))
      | split)

theorem releaseTags_admSame {a0 : State} (s : State) (qpn : Nat) (h0 : AdmSame a0 s) : AdmSame a0 (releaseTags s qpn) := by
  unfold releaseTags
  try dsimp only
  repeat' (first
    | with_reducible assumption
    | intro _
    | with_reducible (first
      | apply askReads_admSame | apply modQp_admSame | apply AdmSame.refl | apply AdmSame.ite | (fail_if_no_progress apply AdmSame.keep))
    | split)

theorem tpeMsgEnd_admSame {a0 : State} (inst : Nat) (s : State) (m : TpeMsg) (h0 : AdmSame a0 s) : AdmSame a0 (tpeMsgEnd inst s m) := by
  unfold tpeMsgEnd
  try dsimp only
  repeat' (first
    | with_reducible assumption
    | intro _
    | with_reducible (first
      | apply endMessage_admSame | apply endWork_admSame | apply AdmSame.refl | apply AdmSame.ite
      | (fail_if_no_progress apply AdmSame.keep))
    | split)

theorem tpeMsgBegin_admSame {a0 : State} (s : State) (ctx : Nat) (c : Ctx) (r : TpeRun) (m : TpeMsg) (h0 : AdmSame a0 s) : AdmSame a0
    (tpeMsgBegin s ctx c r m) := by
  unfold tpeMsgBegin
  try dsimp only
  repeat' (first
    | with_reducible assumption
    | intro _
    | with_reducible (first
      | apply addWork_admSame | apply askReads_admSame | apply beginMessage_admSame | apply enqueue_admSame | apply AdmSame.refl
      | apply AdmSame.ite | (fail_if_no_progress apply AdmSame.keep))
    | split)

theorem tpeIssue_admSame {a0 : State} (ctx slot : Nat) (s : State) (m : TpeMsg) (h0 : AdmSame a0 s) : AdmSame a0 (tpeIssue ctx slot s m)
    := by
  unfold tpeIssue
  try dsimp only
  repeat' (first
    | with_reducible assumption
    | intro _
    | with_reducible (first
      | apply modRun_admSame | apply tpeMsgBegin_admSame | apply AdmSame.refl | apply AdmSame.ite
      | (fail_if_no_progress apply AdmSame.keep))
    | split)

theorem tpeRetire_admSame {a0 : State} (s : State) (ctx inst : Nat) (r : TpeRun) (h0 : AdmSame a0 s) : AdmSame a0 (tpeRetire s ctx inst r)
    := by
  unfold tpeRetire
  try dsimp only
  repeat' (first
    | with_reducible assumption
    | intro _
    | with_reducible (first
      | apply modRun_admSame | apply tpeMsgEnd_admSame | apply AdmSame.refl | apply AdmSame.ite | apply AdmSame.foldl
      | apply AdmSame.foldl1 | apply AdmSame.foldl2 | (fail_if_no_progress apply AdmSame.keep))
    | split)

theorem pumpCtx_admSame {a0 : State} (s : State) (ctx : Nat) (h0 : AdmSame a0 s) : AdmSame a0 (pumpCtx s ctx) := by
  unfold pumpCtx
  try dsimp only
  repeat' (first
    | with_reducible assumption
    | intro _
    | with_reducible (first
      | apply modCtx_admSame | apply tpeIssue_admSame | apply tpeRetire_admSame | apply AdmSame.refl | apply AdmSame.ite
      | apply AdmSame.foldl | apply AdmSame.foldl1 | apply AdmSame.foldl2 | (fail_if_no_progress apply AdmSame.keep))
    | split)

theorem pumpAll_admSame {a0 : State} (s : State) (h0 : AdmSame a0 s) : AdmSame a0 (pumpAll s) := by
  unfold pumpAll
  try dsimp only
  repeat' (first
    | with_reducible assumption
    | intro _
    | with_reducible (first
      | apply pumpCtx_admSame | apply AdmSame.refl | apply AdmSame.ite | apply AdmSame.foldl | apply AdmSame.foldl1
      | apply AdmSame.foldl2 | (fail_if_no_progress apply AdmSame.keep))
    | split)

/-! ### Receive -/

theorem sendAckBody_admSame {a0 : State} (s : State) (qpn path : Nat) (b : AckBody) (h0 : AdmSame a0 s) : AdmSame a0 (sendAckBody s qpn
    path b) := by
  unfold sendAckBody
  try dsimp only
  repeat' (first
    | with_reducible assumption
    | intro _
    | with_reducible (first
      | apply modQp_admSame | apply queueControl_admSame | apply releaseTags_admSame | apply AdmSame.refl | apply AdmSame.ite
      | (fail_if_no_progress apply AdmSame.keep))
    | split)

theorem sendAck_admSame {a0 : State} (s : State) (qpn : Nat) (t : Trigger) (h0 : AdmSame a0 s) : AdmSame a0 (sendAck s qpn t) := by
  unfold sendAck
  try dsimp only
  repeat' (first
    | with_reducible assumption
    | intro _
    | with_reducible (first
      | apply sendAckBody_admSame | apply AdmSame.refl | apply AdmSame.ite | (fail_if_no_progress apply AdmSame.keep))
    | split)

theorem sendNak_admSame {a0 : State} (s : State) (qpn : Nat) (t : Trigger) (status : BitVec 8) (sub : Nat) (h0 : AdmSame a0 s) : AdmSame
    a0 (sendNak s qpn t status sub) := by
  unfold sendNak
  try dsimp only
  repeat' (first
    | with_reducible assumption
    | intro _
    | with_reducible (first
      | apply sendAckBody_admSame | apply AdmSame.refl | apply AdmSame.ite | (fail_if_no_progress apply AdmSame.keep))
    | split)

theorem sendResend_admSame {a0 : State} (s : State) (qpn : Nat) (t : Trigger) (h0 : AdmSame a0 s) : AdmSame a0 (sendResend s qpn t) := by
  unfold sendResend
  try dsimp only
  repeat' (first
    | with_reducible assumption
    | intro _
    | with_reducible (first
      | apply sendAckBody_admSame | apply AdmSame.refl | apply AdmSame.ite | (fail_if_no_progress apply AdmSame.keep))
    | split)

theorem askAck_admSame {a0 : State} (s : State) (qpn : Nat) (t : Trigger) (h0 : AdmSame a0 s) : AdmSame a0 (askAck s qpn t) := by
  unfold askAck
  try dsimp only
  repeat' (first
    | with_reducible assumption
    | intro _
    | with_reducible (first
      | apply issueFlushes_admSame | apply modQp_admSame | apply sendAck_admSame | apply AdmSame.refl | apply AdmSame.ite
      | (fail_if_no_progress apply AdmSame.keep))
    | split)

theorem notifyWaits_admSame {a0 : State} (s : State) (qpn : Nat) (h0 : AdmSame a0 s) : AdmSame a0 (notifyWaits s qpn) := by
  unfold notifyWaits
  try dsimp only
  repeat' (first
    | with_reducible assumption
    | intro _
    | with_reducible (first
      | apply askAck_admSame | apply modQp_admSame | apply AdmSame.refl | apply AdmSame.ite | (fail_if_no_progress apply AdmSame.keep))
    | split)

theorem ackFlushed_admSame {a0 : State} (s : State) (qpn id : Nat) (h0 : AdmSame a0 s) : AdmSame a0 (ackFlushed s qpn id) := by
  unfold ackFlushed
  try dsimp only
  repeat' (first
    | with_reducible assumption
    | intro _
    | with_reducible (first
      | apply askAck_admSame | apply modQp_admSame | apply notifyWaits_admSame | apply sendAck_admSame | apply AdmSame.refl
      | apply AdmSame.ite | (fail_if_no_progress apply AdmSame.keep))
    | split)

theorem slide_admSame {a0 : State} (s : State) (qpn : Nat) (h0 : AdmSame a0 s) : AdmSame a0 (slide s qpn) := by
  unfold slide
  try dsimp only
  repeat' (first
    | with_reducible assumption
    | intro _
    | with_reducible (first
      | apply modQp_admSame | apply notifyWaits_admSame | apply AdmSame.refl | apply AdmSame.ite
      | (fail_if_no_progress apply AdmSame.keep))
    | split)

theorem scheduleAck_admSame {a0 : State} (s : State) (qpn : Nat) (p : Pkt) (t : Trigger) (h0 : AdmSame a0 s) : AdmSame a0 (scheduleAck s
    qpn p t) := by
  unfold scheduleAck
  try dsimp only
  repeat' (first
    | with_reducible assumption
    | intro _
    | with_reducible (first
      | apply askAck_admSame | apply modQp_admSame | apply sendAck_admSame | apply AdmSame.refl | apply AdmSame.ite
      | (fail_if_no_progress apply AdmSame.keep))
    | split)

theorem finishRx_admSame {a0 : State} (s : State) (qpn : Nat) (psn : Word) (mark : RxMark) (ports : List Nat) (first : Bool) (h0 : AdmSame
    a0 s) : AdmSame a0 (finishRx s qpn psn mark ports first) := by
  unfold finishRx
  try dsimp only
  repeat' (first
    | with_reducible assumption
    | intro _
    | with_reducible (first
      | apply askAck_admSame | apply modQp_admSame | apply rxRelease_admSame | apply scheduleAck_admSame | apply sendNak_admSame
      | apply slide_admSame | apply AdmSame.refl | apply AdmSame.ite | (fail_if_no_progress apply AdmSame.keep))
    | split)

theorem unrecord_admSame {a0 : State} (s : State) (qpn : Nat) (r : RxRec) (h0 : AdmSame a0 s) : AdmSame a0 (unrecord s qpn r) := by
  unfold unrecord
  try dsimp only
  repeat' (first
    | with_reducible assumption
    | intro _
    | with_reducible (first
      | apply modQp_admSame | apply rxRelease_admSame | apply AdmSame.refl | apply AdmSame.ite
      | (fail_if_no_progress apply AdmSame.keep))
    | split)

theorem dropRx_admSame {a0 : State} (s : State) (qpn : Nat) (psn : Word) (h0 : AdmSame a0 s) : AdmSame a0 (dropRx s qpn psn) := by
  unfold dropRx
  try dsimp only
  repeat' (first
    | with_reducible assumption
    | intro _
    | with_reducible (first
      | apply unrecord_admSame | apply AdmSame.refl | apply AdmSame.ite | (fail_if_no_progress apply AdmSame.keep))
    | split)

theorem markDirty_admSame {a0 : State} (s : State) (inst : Nat) (p : Piece) (h0 : AdmSame a0 s) : AdmSame a0 (markDirty s inst p) := by
  unfold markDirty
  try dsimp only
  repeat' (first
    | with_reducible assumption
    | intro _
    | with_reducible (first
      | apply AdmSame.refl | apply AdmSame.ite | (fail_if_no_progress apply AdmSame.keep))
    | split)

theorem writePieces_admSame {a0 : State} (x0 : State) (x1 : Nat) (x2 : List Piece) (x3 : Bytes) (h0 : AdmSame a0 x0) : AdmSame a0
    (writePieces x0 x1 x2 x3).1 := by
  induction x2 generalizing x0 x1 x3 with
  | nil => simpa [writePieces] using h0
  | cons p l ih =>
    unfold writePieces
    try dsimp only
    repeat' (first
      | with_reducible assumption
      | intro _
      | with_reducible (first
        | apply ih | apply markDirty_admSame | apply poolWrite_admSame | apply writeData_admSame | apply AdmSame.refl
        | apply AdmSame.ite | (fail_if_no_progress apply AdmSame.keep))
      | split)

theorem noteXts_admSame {a0 : State} (s : State) (ps : List Piece) (h0 : AdmSame a0 s) : AdmSame a0 (noteXts s ps) := by
  unfold noteXts
  try dsimp only
  repeat' (first
    | with_reducible assumption
    | intro _
    | with_reducible (first
      | apply cipherMismatch_admSame | apply AdmSame.refl | apply AdmSame.ite | (fail_if_no_progress apply AdmSame.keep))
    | split)

theorem issueReads_admSame {a0 : State} (s : State) (inst id : Nat) (ps : List Piece) (p : Piece → Bool) (h0 : AdmSame a0 s) : AdmSame a0
    (issueReads s inst id ps p) := by
  unfold issueReads
  try dsimp only
  repeat' (first
    | with_reducible assumption
    | intro _
    | with_reducible (first
      | apply readData_admSame | apply AdmSame.refl | apply AdmSame.ite | apply AdmSame.foldl | apply AdmSame.foldl1
      | apply AdmSame.foldl2 | (fail_if_no_progress apply AdmSame.keep))
    | split)

theorem beginRead_admSame {a0 : State} (s : State) (inst : Nat) (owner : AccOwner) (ps : List Piece) (h0 : AdmSame a0 s) : AdmSame a0
    (beginRead s inst owner ps).1 := by
  unfold beginRead
  try dsimp only
  repeat' (first
    | with_reducible assumption
    | intro _
    | with_reducible (first
      | apply issueReads_admSame | apply takeFresh_admSame | apply AdmSame.refl | apply AdmSame.ite
      | (fail_if_no_progress apply AdmSame.keep))
    | split)

theorem modResp_admSame {a0 : State} (s : State) (qpn tag : Nat) (f : RespSlot → RespSlot) (h0 : AdmSame a0 s) : AdmSame a0 (modResp s qpn
    tag f) := by
  unfold modResp
  try dsimp only
  repeat' (first
    | with_reducible assumption
    | intro _
    | with_reducible (first
      | apply modQp_admSame | apply AdmSame.refl | apply AdmSame.ite | (fail_if_no_progress apply AdmSame.keep))
    | split)

theorem freeResp_admSame {a0 : State} (s : State) (qpn : Nat) (h0 : AdmSame a0 s) : AdmSame a0 (freeResp s qpn) := by
  unfold freeResp
  try dsimp only
  repeat' (first
    | with_reducible assumption
    | intro _
    | with_reducible (first
      | apply modQp_admSame | apply AdmSame.refl | apply AdmSame.ite | (fail_if_no_progress apply AdmSame.keep))
    | split)

theorem sendResponses_admSame {a0 : State} (s : State) (qpn tag : Nat) (bytes : Bytes) (h0 : AdmSame a0 s) : AdmSame a0 (sendResponses s
    qpn tag bytes) := by
  unfold sendResponses
  try dsimp only
  repeat' (first
    | with_reducible assumption
    | intro _
    | with_reducible (first
      | apply enqueue_admSame | apply freeResp_admSame | apply modResp_admSame | apply AdmSame.refl | apply AdmSame.ite
      | (fail_if_no_progress apply AdmSame.keep))
    | split)

theorem refuseRead_admSame {a0 : State} (s : State) (qpn tag : Nat) (status : BitVec 8) (sub : Nat) (first : Bool) (h0 : AdmSame a0 s) :
    AdmSame a0 (refuseRead s qpn tag status sub first) := by
  unfold refuseRead
  try dsimp only
  repeat' (first
    | with_reducible assumption
    | intro _
    | with_reducible (first
      | apply finishRx_admSame | apply freeResp_admSame | apply modResp_admSame | apply sendNak_admSame | apply AdmSame.refl
      | apply AdmSame.ite | (fail_if_no_progress apply AdmSame.keep))
    | split)

theorem respData_admSame {a0 : State} (s : State) (qpn tag : Nat) (ps : List Piece) (b : Option Bytes) (first : Bool) (h0 : AdmSame a0 s)
    : AdmSame a0 (respData s qpn tag ps b first) := by
  unfold respData
  try dsimp only
  repeat' (first
    | with_reducible assumption
    | intro _
    | with_reducible (first
      | apply noteXts_admSame | apply refuseRead_admSame | apply sendResponses_admSame | apply AdmSame.refl | apply AdmSame.ite
      | (fail_if_no_progress apply AdmSame.keep))
    | split)

theorem noteMissed_admSame {a0 : State} (s : State) (qpn : Nat) (psn : Word) (o : AccOwner) (pages : List Nat) (h0 : AdmSame a0 s) :
    AdmSame a0 (noteMissed s qpn psn o pages) := by
  unfold noteMissed
  try dsimp only
  repeat' (first
    | with_reducible assumption
    | intro _
    | with_reducible (first
      | apply modQp_admSame | apply AdmSame.refl | apply AdmSame.ite | (fail_if_no_progress apply AdmSame.keep))
    | split)

theorem rxMiss_admSame {a0 : State} (s : State) (qpn : Nat) (psn : Word) (o : AccOwner) (h0 : AdmSame a0 s) : AdmSame a0 (rxMiss s qpn psn
    o) := by
  unfold rxMiss
  try dsimp only
  repeat' (first
    | with_reducible assumption
    | intro _
    | with_reducible (first
      | apply dropWait_admSame | apply modQp_admSame | apply noteMissed_admSame | apply sendResend_admSame | apply unrecord_admSame
      | apply AdmSame.refl | apply AdmSame.ite | (fail_if_no_progress apply AdmSame.keep))
    | split)

theorem placeWrite_admSame {a0 : State} (s : State) (qpn : Nat) (psn : Word) (x : Xlat) (first : Bool) (h0 : AdmSame a0 s) : AdmSame a0
    (placeWrite s qpn psn x first) := by
  unfold placeWrite
  try dsimp only
  repeat' (first
    | with_reducible assumption
    | intro _
    | with_reducible (first
      | apply dropRx_admSame | apply finishRx_admSame | apply noteXts_admSame | apply rxMiss_admSame | apply scheduleAck_admSame
      | apply writePieces_admSame | apply AdmSame.refl | apply AdmSame.ite | (fail_if_no_progress apply AdmSame.keep))
    | split)

theorem placeReq_admSame {a0 : State} (s : State) (qpn tag : Nat) (x : Xlat) (first : Bool) (h0 : AdmSame a0 s) : AdmSame a0 (placeReq s
    qpn tag x first) := by
  unfold placeReq
  try dsimp only
  repeat' (first
    | with_reducible assumption
    | intro _
    | with_reducible (first
      | apply beginRead_admSame | apply finishRx_admSame | apply refuseRead_admSame | apply respData_admSame | apply rxMiss_admSame
      | apply scheduleAck_admSame | apply AdmSame.refl | apply AdmSame.ite | (fail_if_no_progress apply AdmSame.keep))
    | split)

theorem modWork_admSame {a0 : State} (s : State) (qpn slot : Nat) (f : SqWork → SqWork) (h0 : AdmSame a0 s) : AdmSame a0 (modWork s qpn
    slot f) := by
  unfold modWork
  try dsimp only
  repeat' (first
    | with_reducible assumption
    | intro _
    | with_reducible (first
      | apply modQp_admSame | apply AdmSame.refl | apply AdmSame.ite | (fail_if_no_progress apply AdmSame.keep))
    | split)

theorem tpeReadBytes_admSame {a0 : State} (s : State) (ctx slot msg off : Nat) (bs : Bytes) (h0 : AdmSame a0 s) : AdmSame a0 (tpeReadBytes
    s ctx slot msg off bs) := by
  unfold tpeReadBytes
  try dsimp only
  repeat' (first
    | with_reducible assumption
    | intro _
    | with_reducible (first
      | apply modRun_admSame | apply AdmSame.refl | apply AdmSame.ite | (fail_if_no_progress apply AdmSame.keep))
    | split)

theorem noteResp_admSame {a0 : State} (s : State) (qpn slot : Nat) (psn : Word) (h0 : AdmSame a0 s) : AdmSame a0 (noteResp s qpn slot psn)
    := by
  unfold noteResp
  try dsimp only
  repeat' (first
    | with_reducible assumption
    | intro _
    | with_reducible (first
      | apply modWork_admSame | apply AdmSame.refl | apply AdmSame.ite | (fail_if_no_progress apply AdmSame.keep))
    | split)

theorem recordHeld_admSame {a0 : State} (s : State) (qpn : Nat) (d : RxDgram) (share : Nat) (p : Pkt) (h0 : AdmSame a0 s) : AdmSame a0
    (recordHeld s qpn d share p) := by
  unfold recordHeld
  try dsimp only
  repeat' (first
    | with_reducible assumption
    | intro _
    | with_reducible (first
      | apply modQp_admSame | apply AdmSame.refl | apply AdmSame.ite | (fail_if_no_progress apply AdmSame.keep))
    | split)

theorem cancelResp_admSame {a0 : State} (s : State) (qpn tag : Nat) (h0 : AdmSame a0 s) : AdmSame a0 (cancelResp s qpn tag) := by
  unfold cancelResp
  try dsimp only
  repeat' (first
    | with_reducible assumption
    | intro _
    | with_reducible (first
      | apply modQp_admSame | apply pullTx_admSame | apply AdmSame.refl | apply AdmSame.ite | (fail_if_no_progress apply AdmSame.keep))
    | split)

theorem executeRead_admSame {a0 : State} (s : State) (qpn : Nat) (p : Pkt) (first : Bool) (again : List Nat) (held : Option (Nat × Nat))
    (h0 : AdmSame a0 s) : AdmSame a0 (executeRead s qpn p first again held) := by
  unfold executeRead
  try dsimp only
  repeat' (first
    | with_reducible assumption
    | intro _
    | with_reducible (first
      | apply beginAccess_admSame | apply cancelResp_admSame | apply modQp_admSame | apply placeReq_admSame | apply AdmSame.refl
      | apply AdmSame.ite | (fail_if_no_progress apply AdmSame.keep))
    | split)

theorem readAgainReq_admSame {a0 : State} (s : State) (qpn : Nat) (q : Qp) (p : Pkt) (t : Trigger) (h0 : AdmSame a0 s) : AdmSame a0
    (readAgainReq s qpn q p t) := by
  unfold readAgainReq
  try dsimp only
  repeat' (first
    | with_reducible assumption
    | intro _
    | with_reducible (first
      | apply executeRead_admSame | apply sendAck_admSame | apply sendNak_admSame | apply AdmSame.refl | apply AdmSame.ite
      | (fail_if_no_progress apply AdmSame.keep))
    | split)

theorem retryStaging_admSame {a0 : State} (x0 : Nat) (x1 : State) (h0 : AdmSame a0 x1) : AdmSame a0 (retryStaging x0 x1) := by
  induction x0 generalizing x1 with
  | zero => simpa [retryStaging] using h0
  | succ n ih =>
    unfold retryStaging
    try dsimp only
    repeat' (first
      | with_reducible assumption
      | intro _
      | with_reducible (first
        | apply ih | apply accAccept_admSame | apply finishRx_admSame | apply AdmSame.refl | apply AdmSame.ite
        | (fail_if_no_progress apply AdmSame.keep))
      | split)

theorem settleStaging_admSame {a0 : State} (s : State) (h0 : AdmSame a0 s) : AdmSame a0 (settleStaging s) := by
  unfold settleStaging
  try dsimp only
  repeat' (first
    | with_reducible assumption
    | intro _
    | with_reducible (first
      | apply retryStaging_admSame | apply AdmSame.refl | apply AdmSame.ite | (fail_if_no_progress apply AdmSame.keep))
    | split)

theorem tpeSettle_admSame {a0 : State} (s : State) (h0 : AdmSame a0 s) : AdmSame a0 (tpeSettle s) := by
  unfold tpeSettle
  try dsimp only
  repeat' (first
    | with_reducible assumption
    | intro _
    | with_reducible (first
      | apply pumpAll_admSame | apply settleStaging_admSame | apply AdmSame.refl | apply AdmSame.ite
      | (fail_if_no_progress apply AdmSame.keep))
    | split)

theorem nakStranger_admSame {a0 : State} (s : State) (d : RxDgram) (p : Pkt) (sub : Nat) (h0 : AdmSame a0 s) : AdmSame a0 (nakStranger s d
    p sub) := by
  unfold nakStranger
  try dsimp only
  repeat' (first
    | with_reducible assumption
    | intro _
    | with_reducible (first
      | apply queueControl_admSame | apply takeFresh_admSame | apply AdmSame.refl | apply AdmSame.ite
      | (fail_if_no_progress apply AdmSame.keep))
    | split)

theorem takenRx_admSame {a0 : State} (s : State) (d : RxDgram) (h0 : AdmSame a0 s) : AdmSame a0 (takenRx s d) := by
  unfold takenRx
  try dsimp only
  repeat' (first
    | with_reducible assumption
    | intro _
    | with_reducible (first
      | apply rxRelease_admSame | apply AdmSame.refl | apply AdmSame.ite | (fail_if_no_progress apply AdmSame.keep))
    | split)

theorem tagFails_admSame {a0 : State} (s : State) (id : Nat) (phase : Bool) (h0 : AdmSame a0 s) : AdmSame a0 (tagFails s id phase) := by
  unfold tagFails
  try dsimp only
  repeat' (first
    | with_reducible assumption
    | intro _
    | with_reducible (first
      | apply count_admSame | apply modSa_admSame | apply post_admSame | apply AdmSame.refl | apply AdmSame.ite
      | (fail_if_no_progress apply AdmSame.keep))
    | split)

theorem switchPhase_admSame {a0 : State} (s : State) (id : Nat) (phase : Bool) (h0 : AdmSame a0 s) : AdmSame a0 (switchPhase s id phase)
    := by
  unfold switchPhase
  try dsimp only
  repeat' (first
    | with_reducible assumption
    | intro _
    | with_reducible (first
      | apply modSa_admSame | apply AdmSame.refl | apply AdmSame.ite | (fail_if_no_progress apply AdmSame.keep))
    | split)

theorem checkPeerTime_admSame {a0 : State} (s : State) (port : Nat) (b : ConnBody) (h0 : AdmSame a0 s) : AdmSame a0 (checkPeerTime s port
    b) := by
  unfold checkPeerTime
  try dsimp only
  repeat' (first
    | with_reducible assumption
    | intro _
    | with_reducible (first
      | apply gateRefreshPort_admSame | apply modPort_admSame | apply AdmSame.refl | apply AdmSame.ite
      | (fail_if_no_progress apply AdmSame.keep))
    | split)

theorem notePeerTime_admSame {a0 : State} (s : State) (port : Nat) (x0 : RxBody) (h0 : AdmSame a0 s) : AdmSame a0 (notePeerTime s port x0)
    := by
  unfold notePeerTime
  try dsimp only
  repeat' (first
    | with_reducible assumption
    | intro _
    | with_reducible (first
      | apply checkPeerTime_admSame | apply gateTakeoversDue_admSame | apply AdmSame.refl | apply AdmSame.ite
      | (fail_if_no_progress apply AdmSame.keep))
    | split)

theorem openFrame_admSame {a0 : State} (s : State) (port src pcp dscp : Nat) (ce : Bool) (path len : Nat) (u : Bytes) (disagree : Bool)
    (h0 : AdmSame a0 s) : AdmSame a0 (openFrame s port src pcp dscp ce path len u disagree) := by
  unfold openFrame
  try dsimp only
  repeat' (first
    | with_reducible assumption
    | intro _
    | with_reducible (first
      | apply cipherMismatch_admSame | apply count_admSame | apply modSa_admSame | apply notePeerTime_admSame | apply rxDrop_admSame
      | apply rxTake_admSame | apply switchPhase_admSame | apply tagFails_admSame | apply AdmSame.refl | apply AdmSame.ite
      | (fail_if_no_progress apply AdmSame.keep))
    | split)

theorem relay_admSame {a0 : State} (s : State) (f : Forward) (pcp : Option Nat) (dscp ecn sport : Nat) (u : Bytes) (h0 : AdmSame a0 s) :
    AdmSame a0 (relay s f pcp dscp ecn sport u) := by
  unfold relay
  try dsimp only
  repeat' (first
    | with_reducible assumption
    | intro _
    | with_reducible (first
      | apply pushFrame_admSame | apply AdmSame.refl | apply AdmSame.ite | (fail_if_no_progress apply AdmSame.keep))
    | split)

theorem endReexecuted_admSame {a0 : State} (s : State) (qpn : Nat) (psn : Word) (h0 : AdmSame a0 s) : AdmSame a0 (endReexecuted s qpn psn)
    := by
  unfold endReexecuted
  try dsimp only
  repeat' (first
    | with_reducible assumption
    | intro _
    | with_reducible (first
      | apply cancelResp_admSame | apply modQp_admSame | apply sendNak_admSame | apply AdmSame.refl | apply AdmSame.ite
      | (fail_if_no_progress apply AdmSame.keep))
    | split)

/-! ### Repair -/

theorem probeAcked_admSame {a0 : State} (s : State) (coord path : Nat) (h0 : AdmSame a0 s) : AdmSame a0 (probeAcked s coord path) := by
  unfold probeAcked
  try dsimp only
  repeat' (first
    | with_reducible assumption
    | intro _
    | with_reducible (first
      | apply modDest_admSame | apply modPath_admSame | apply post_admSame | apply AdmSame.refl | apply AdmSame.ite
      | (fail_if_no_progress apply AdmSame.keep))
    | split)

theorem overtake_admSame {a0 : State} (s : State) (coord path order : Nat) (h0 : AdmSame a0 s) : AdmSame a0 (overtake s coord path order)
    := by
  unfold overtake
  try dsimp only
  repeat' (first
    | with_reducible assumption
    | intro _
    | with_reducible (first
      | apply AdmSame.refl | apply AdmSame.ite | (fail_if_no_progress apply AdmSame.keep))
    | split)

theorem ackOne_admSame {a0 : State} (qpn coord : Nat) (s : State) (t : TxPkt) (h0 : AdmSame a0 s) : AdmSame a0 (ackOne qpn coord s t) :=
    by
  unfold ackOne
  try dsimp only
  repeat' (first
    | with_reducible assumption
    | intro _
    | with_reducible (first
      | apply modDest_admSame | apply modQp_admSame | apply overtake_admSame | apply probeAcked_admSame | apply uncharge_admSame
      | apply AdmSame.refl | apply AdmSame.ite | (fail_if_no_progress apply AdmSame.keep))
    | split)

theorem clearProbe_admSame {a0 : State} (coord : Nat) (s : State) (t : TxPkt) (h0 : AdmSame a0 s) : AdmSame a0 (clearProbe coord s t) :=
    by
  unfold clearProbe
  try dsimp only
  repeat' (first
    | with_reducible assumption
    | intro _
    | with_reducible (first
      | apply modPath_admSame | apply AdmSame.refl | apply AdmSame.ite | (fail_if_no_progress apply AdmSame.keep))
    | split)

theorem requestAgain_admSame {a0 : State} (s : State) (qpn : Nat) (w : SqWork) (p : Pkt) (f : TxPkt → TxPkt) (h0 : AdmSame a0 s) : AdmSame
    a0 (requestAgain s qpn w p f) := by
  unfold requestAgain
  try dsimp only
  repeat' (first
    | with_reducible assumption
    | intro _
    | with_reducible (first
      | apply modQp_admSame | apply takeFresh_admSame | apply AdmSame.refl | apply AdmSame.ite
      | (fail_if_no_progress apply AdmSame.keep))
    | split)

theorem holdFrom_admSame {a0 : State} (s : State) (qpn : Nat) (q : Qp) (psn : Word) (h0 : AdmSame a0 s) : AdmSame a0 (holdFrom s qpn q
    psn) := by
  unfold holdFrom
  try dsimp only
  repeat' (first
    | with_reducible assumption
    | intro _
    | with_reducible (first
      | apply clearProbe_admSame | apply modQp_admSame | apply pullTx_admSame | apply AdmSame.refl | apply AdmSame.ite
      | apply AdmSame.foldl | apply AdmSame.foldl1 | apply AdmSame.foldl2 | (fail_if_no_progress apply AdmSame.keep))
    | split)

theorem resendFrom_admSame {a0 : State} (s : State) (qpn : Nat) (psn : Word) (h0 : AdmSame a0 s) : AdmSame a0 (resendFrom s qpn psn) := by
  unfold resendFrom
  try dsimp only
  repeat' (first
    | with_reducible assumption
    | intro _
    | with_reducible (first
      | apply holdFrom_admSame | apply requestAgain_admSame | apply AdmSame.refl | apply AdmSame.ite
      | (fail_if_no_progress apply AdmSame.keep))
    | split)

theorem heldAnswer_admSame {a0 : State} (s : State) (qpn : Nat) (q : Qp) (psn : Word) (h0 : AdmSame a0 s) : AdmSame a0 (heldAnswer s qpn q
    psn) := by
  unfold heldAnswer
  try dsimp only
  repeat' (first
    | with_reducible assumption
    | intro _
    | with_reducible (first
      | apply modTx_admSame | apply pullTx_admSame | apply withdrawLoss_admSame | apply AdmSame.refl | apply AdmSame.ite
      | apply AdmSame.foldl | apply AdmSame.foldl1 | apply AdmSame.foldl2 | (fail_if_no_progress apply AdmSame.keep))
    | split)

theorem redirect_admSame {a0 : State} (s : State) (qpn : Nat) (q : Qp) (b : MovedBody) (h0 : AdmSame a0 s) : AdmSame a0 (redirect s qpn q
    b) := by
  unfold redirect
  try dsimp only
  repeat' (first
    | with_reducible assumption
    | intro _
    | with_reducible (first
      | apply forgetPkt_admSame | apply modQp_admSame | apply pace_admSame | apply post_admSame | apply pullTx_admSame
      | apply AdmSame.refl | apply AdmSame.ite | apply AdmSame.foldl | apply AdmSame.foldl1 | apply AdmSame.foldl2
      | (fail_if_no_progress apply AdmSame.keep))
    | split)

theorem repeatReq_admSame {a0 : State} (s : State) (qpn : Nat) (q : Qp) (w : SqWork) (p : Pkt) (h0 : AdmSame a0 s) : AdmSame a0 (repeatReq
    s qpn q w p) := by
  unfold repeatReq
  try dsimp only
  repeat' (first
    | with_reducible assumption
    | intro _
    | with_reducible (first
      | apply clearProbe_admSame | apply modQp_admSame | apply modTx_admSame | apply pace_admSame | apply requestAgain_admSame
      | apply AdmSame.refl | apply AdmSame.ite | (fail_if_no_progress apply AdmSame.keep))
    | split)

theorem prunePaths_admSame {a0 : State} (s : State) (h0 : AdmSame a0 s) : AdmSame a0 (prunePaths s) := by
  unfold prunePaths
  try dsimp only
  repeat' (first
    | with_reducible assumption
    | intro _
    | with_reducible (first
      | apply AdmSame.refl | apply AdmSame.ite | (fail_if_no_progress apply AdmSame.keep))
    | split)

theorem pathsChanged_admSame {a0 : State} (s : State) (h0 : AdmSame a0 s) : AdmSame a0 (pathsChanged s) := by
  unfold pathsChanged
  try dsimp only
  repeat' (first
    | with_reducible assumption
    | intro _
    | with_reducible (first
      | apply exhaustCheck_admSame | apply prunePaths_admSame | apply AdmSame.refl | apply AdmSame.ite | apply AdmSame.foldl
      | apply AdmSame.foldl1 | apply AdmSame.foldl2 | (fail_if_no_progress apply AdmSame.keep))
    | split)

/-! ### Connect -/

theorem sendConn_admSame {a0 : State} (s : State) (qpn : Nat) (q : Qp) (mk : ConnBody → CtlBody) (reason : BitVec 16) (h0 : AdmSame a0 s)
    : AdmSame a0 (sendConn s qpn q mk reason) := by
  unfold sendConn
  try dsimp only
  repeat' (first
    | with_reducible assumption
    | intro _
    | with_reducible (first
      | apply queueControl_admSame | apply AdmSame.refl | apply AdmSame.ite | (fail_if_no_progress apply AdmSame.keep))
    | split)

theorem peerRefused_admSame {a0 : State} (s : State) (qpn : Nat) (q : Qp) (reason : BitVec 16) (byPeer : Bool) (h0 : AdmSame a0 s) :
    AdmSame a0 (peerRefused s qpn q reason byPeer) := by
  unfold peerRefused
  try dsimp only
  repeat' (first
    | with_reducible assumption
    | intro _
    | with_reducible (first
      | apply post_admSame | apply AdmSame.refl | apply AdmSame.ite | (fail_if_no_progress apply AdmSame.keep))
    | split)

theorem takeRecord_admSame {a0 : State} (s : State) (qpn : Nat) (b : ConnBody) (h0 : AdmSame a0 s) : AdmSame a0 (takeRecord s qpn b) := by
  unfold takeRecord
  try dsimp only
  repeat' (first
    | with_reducible assumption
    | intro _
    | with_reducible (first
      | apply modQp_admSame | apply AdmSame.refl | apply AdmSame.ite | (fail_if_no_progress apply AdmSame.keep))
    | split)

theorem qpReady_admSame {a0 : State} (s : State) (qpn : Nat) (h0 : AdmSame a0 s) : AdmSame a0 (qpReady s qpn) := by
  unfold qpReady
  try dsimp only
  repeat' (first
    | with_reducible assumption
    | intro _
    | with_reducible (first
      | apply enableRing_admSame | apply moveQp_admSame | apply ringDoorbell_admSame | apply AdmSame.refl | apply AdmSame.ite
      | (fail_if_no_progress apply AdmSame.keep))
    | split)

theorem qpReset_admSame {a0 : State} (s : State) (qpn : Nat) (status : BitVec 8) (h0 : AdmSame a0 s) : AdmSame a0 (qpReset s qpn status)
    := by
  unfold qpReset
  try dsimp only
  repeat' (first
    | with_reducible assumption
    | intro _
    | with_reducible (first
      | apply disableRing_admSame | apply modQp_admSame | apply moveQp_admSame | apply stopQp_admSame | apply AdmSame.refl
      | apply AdmSame.ite | (fail_if_no_progress apply AdmSame.keep))
    | split)

/-! ### Cipher -/

theorem modCipher_admSame {a0 : State} (s : State) (f : Cipher → Cipher) (h0 : AdmSame a0 s) : AdmSame a0 (modCipher s f) := by
  unfold modCipher
  try dsimp only
  repeat' (first
    | with_reducible assumption
    | intro _
    | with_reducible (first
      | apply AdmSame.refl | apply AdmSame.ite | (fail_if_no_progress apply AdmSame.keep))
    | split)

theorem purgeKeyMem_admSame {a0 : State} (s : State) (a n : Nat) (h0 : AdmSame a0 s) : AdmSame a0 (purgeKeyMem s a n) := by
  unfold purgeKeyMem
  try dsimp only
  repeat' (first
    | with_reducible assumption
    | intro _
    | with_reducible (first
      | apply AdmSame.refl | apply AdmSame.ite | (fail_if_no_progress apply AdmSame.keep))
    | split)

theorem loadKey_admSame {a0 : State} (s : State) (i : Nat) (e : Entry) (key : Bytes) (h0 : AdmSame a0 s) : AdmSame a0 (loadKey s i e key)
    := by
  unfold loadKey
  try dsimp only
  repeat' (first
    | with_reducible assumption
    | intro _
    | with_reducible (first
      | apply modCipher_admSame | apply purgeKeyMem_admSame | apply AdmSame.refl | apply AdmSame.ite
      | (fail_if_no_progress apply AdmSame.keep))
    | split)

theorem dropSa_admSame {a0 : State} (s : State) (id : Nat) (h0 : AdmSame a0 s) : AdmSame a0 (dropSa s id) := by
  unfold dropSa
  try dsimp only
  repeat' (first
    | with_reducible assumption
    | intro _
    | with_reducible (first
      | apply modCipher_admSame | apply AdmSame.refl | apply AdmSame.ite | (fail_if_no_progress apply AdmSame.keep))
    | split)

/-! ### Begin -/

theorem markStarted_admSame {a0 : State} (s : State) (k : RingKind) (id slot : Nat) (h0 : AdmSame a0 s) : AdmSame a0 (markStarted s k id
    slot) := by
  unfold markStarted
  try dsimp only
  repeat' (first
    | with_reducible assumption
    | intro _
    | with_reducible (first
      | apply setRing_admSame | apply AdmSame.refl | apply AdmSame.ite | (fail_if_no_progress apply AdmSame.keep))
    | split)

theorem cutEntry_admSame {a0 : State} (s : State) (qpn : Nat) (w : SqWork) (data : Bytes) (h0 : AdmSame a0 s) : AdmSame a0 (cutEntry s qpn
    w data) := by
  unfold cutEntry
  try dsimp only
  repeat' (first
    | with_reducible assumption
    | intro _
    | with_reducible (first
      | apply enqueue_admSame | apply modWork_admSame | apply AdmSame.refl | apply AdmSame.ite
      | (fail_if_no_progress apply AdmSame.keep))
    | split)

theorem startRead_admSame {a0 : State} (s : State) (qpn : Nat) (q : Qp) (w : SqWork) (h0 : AdmSame a0 s) : AdmSame a0 (startRead s qpn q
    w) := by
  unfold startRead
  try dsimp only
  repeat' (first
    | with_reducible assumption
    | intro _
    | with_reducible (first
      | apply addWork_admSame | apply askReads_admSame | apply AdmSame.refl | apply AdmSame.ite
      | (fail_if_no_progress apply AdmSame.keep))
    | split)

/-! ### Lookaside -/

theorem modLa_admSame {a0 : State} (s : State) (inst : Nat) (f : LaRun → LaRun) (h0 : AdmSame a0 s) : AdmSame a0 (modLa s inst f) := by
  unfold modLa
  try dsimp only
  repeat' (first
    | with_reducible assumption
    | intro _
    | with_reducible (first
      | apply modInst_admSame | apply AdmSame.refl | apply AdmSame.ite | (fail_if_no_progress apply AdmSame.keep))
    | split)

theorem laForget_admSame {a0 : State} (s : State) (inst : Nat) (h0 : AdmSame a0 s) : AdmSame a0 (laForget s inst) := by
  unfold laForget
  try dsimp only
  repeat' (first
    | with_reducible assumption
    | intro _
    | with_reducible (first
      | apply modInst_admSame | apply AdmSame.refl | apply AdmSame.ite | (fail_if_no_progress apply AdmSame.keep))
    | split)

theorem drainLa_admSame {a0 : State} (s : State) (inst : Nat) (h0 : AdmSame a0 s) : AdmSame a0 (drainLa s inst) := by
  unfold drainLa
  try dsimp only
  repeat' (first
    | with_reducible assumption
    | intro _
    | with_reducible (first
      | apply disableRing_admSame | apply drain_admSame | apply laForget_admSame | apply AdmSame.refl | apply AdmSame.ite
      | (fail_if_no_progress apply AdmSame.keep))
    | split)

theorem laEnd_admSame {a0 : State} (s : State) (inst : Nat) (status : BitVec 8) (sub : Nat) (h0 : AdmSame a0 s) : AdmSame a0 (laEnd s inst
    status sub) := by
  unfold laEnd
  try dsimp only
  repeat' (first
    | with_reducible assumption
    | intro _
    | with_reducible (first
      | apply drainLa_admSame | apply endSlot_admSame | apply fetchRing_admSame | apply laForget_admSame | apply AdmSame.refl
      | apply AdmSame.ite | (fail_if_no_progress apply AdmSame.keep))
    | split)

theorem tryWrites_admSame {a0 : State} (inst : Nat) (x0 : List (Nat × Nat × Bytes)) (x1 : List (List Piece × Bytes)) (x2 : State) (h0 :
    AdmSame a0 x2) : AdmSame a0 (tryWrites inst x0 x1 x2).1 := by
  induction x0 generalizing x1 x2 with
  | nil => simpa [tryWrites] using h0
  | cons p l ih =>
    obtain ⟨a, b, c⟩ := p
    unfold tryWrites
    try dsimp only
    repeat' (first
      | with_reducible assumption
      | intro _
      | with_reducible (first
        | apply ih | apply beginAccess_admSame | apply AdmSame.refl | apply AdmSame.ite | (fail_if_no_progress apply AdmSame.keep))
      | split)

theorem writeAll_admSame {a0 : State} (inst : Nat) (x0 : List (List Piece × Bytes)) (x1 : List Nat) (x2 : State) (h0 : AdmSame a0 x2) :
    AdmSame a0 (writeAll inst x0 x1 x2).1 := by
  induction x0 generalizing x1 x2 with
  | nil => simpa [writeAll] using h0
  | cons p l ih =>
    obtain ⟨a, b⟩ := p
    unfold writeAll
    try dsimp only
    repeat' (first
      | with_reducible assumption
      | intro _
      | with_reducible (first
        | apply ih | apply writePieces_admSame | apply AdmSame.refl | apply AdmSame.ite | (fail_if_no_progress apply AdmSame.keep))
      | split)

theorem laCommit_admSame {a0 : State} (s : State) (inst : Nat) (h0 : AdmSame a0 s) : AdmSame a0 (laCommit s inst) := by
  unfold laCommit
  try dsimp only
  repeat' (first
    | with_reducible assumption
    | intro _
    | with_reducible (first
      | apply issueFlushes_admSame | apply laEnd_admSame | apply modLa_admSame | apply noteXts_admSame | apply tryWrites_admSame
      | apply writeAll_admSame | apply AdmSame.refl | apply AdmSame.ite | (fail_if_no_progress apply AdmSame.keep))
    | split)

theorem laCompute_admSame {a0 : State} (s : State) (inst : Nat) (r : LaRun) (h0 : AdmSame a0 s) : AdmSame a0 (laCompute s inst r) := by
  unfold laCompute
  try dsimp only
  repeat' (first
    | with_reducible assumption
    | intro _
    | with_reducible (first
      | apply cipherMismatch_admSame | apply laCommit_admSame | apply laEnd_admSame | apply modCipher_admSame | apply modLa_admSame
      | apply AdmSame.refl | apply AdmSame.ite | (fail_if_no_progress apply AdmSame.keep))
    | split)

theorem laRandom_admSame {a0 : State} (x0 : Nat) (x1 : State) (x2 : Nat) (x3 : Bytes) (h0 : AdmSame a0 x1) : AdmSame a0 (laRandom x0 x1 x2
    x3).1 := by
  induction x0 generalizing x1 x2 x3 with
  | zero => simpa [laRandom] using h0
  | succ n ih =>
    unfold laRandom
    try dsimp only
    repeat' (first
      | with_reducible assumption
      | intro _
      | with_reducible (first
        | apply ih | apply drawRandom_admSame | apply AdmSame.refl | apply AdmSame.ite | (fail_if_no_progress apply AdmSame.keep))
      | split)

theorem laDraw_admSame {a0 : State} (s : State) (inst : Nat) (r : LaRun) (h0 : AdmSame a0 s) : AdmSame a0 (laDraw s inst r) := by
  unfold laDraw
  try dsimp only
  repeat' (first
    | with_reducible assumption
    | intro _
    | with_reducible (first
      | apply laCommit_admSame | apply laRandom_admSame | apply modLa_admSame | apply AdmSame.refl | apply AdmSame.ite
      | (fail_if_no_progress apply AdmSame.keep))
    | split)

theorem laData_admSame {a0 : State} (s : State) (inst part : Nat) (ps : List Piece) (b : Option Bytes) (h0 : AdmSame a0 s) : AdmSame a0
    (laData s inst part ps b) := by
  unfold laData
  try dsimp only
  repeat' (first
    | with_reducible assumption
    | intro _
    | with_reducible (first
      | apply laCompute_admSame | apply laEnd_admSame | apply modLa_admSame | apply noteXts_admSame | apply AdmSame.refl
      | apply AdmSame.ite | (fail_if_no_progress apply AdmSame.keep))
    | split)

theorem laAccess_admSame {a0 : State} (s : State) (inst part : Nat) (x : Xlat) (h0 : AdmSame a0 s) : AdmSame a0 (laAccess s inst part x)
    := by
  unfold laAccess
  try dsimp only
  repeat' (first
    | with_reducible assumption
    | intro _
    | with_reducible (first
      | apply beginRead_admSame | apply laCommit_admSame | apply laData_admSame | apply laEnd_admSame | apply AdmSame.refl
      | apply AdmSame.ite | (fail_if_no_progress apply AdmSame.keep))
    | split)

theorem laRead_admSame {a0 : State} (inst slot : Nat) (s : State) (p : Nat × Nat × Nat) (h0 : AdmSame a0 s) : AdmSame a0 (laRead inst slot
    s p) := by
  unfold laRead
  try dsimp only
  repeat' (first
    | with_reducible assumption
    | intro _
    | with_reducible (first
      | apply beginAccess_admSame | apply laAccess_admSame | apply AdmSame.refl | apply AdmSame.ite
      | (fail_if_no_progress apply AdmSame.keep))
    | split)

theorem laBegin_admSame {a0 : State} (s : State) (inst slot : Nat) (e : Entry) (bad : Bool) (h0 : AdmSame a0 s) : AdmSame a0 (laBegin s
    inst slot e bad) := by
  unfold laBegin
  try dsimp only
  repeat' (first
    | with_reducible assumption
    | intro _
    | with_reducible (first
      | apply laDraw_admSame | apply laEnd_admSame | apply laRead_admSame | apply modInst_admSame | apply AdmSame.refl
      | apply AdmSame.ite | apply AdmSame.foldl | apply AdmSame.foldl1 | apply AdmSame.foldl2 | (fail_if_no_progress apply AdmSame.keep))
    | split)

theorem laDoorbell_admSame {a0 : State} (s : State) (inst : Nat) (h0 : AdmSame a0 s) : AdmSame a0 (laDoorbell s inst) := by
  unfold laDoorbell
  try dsimp only
  repeat' (first
    | with_reducible assumption
    | intro _
    | with_reducible (first
      | apply ringDoorbell_admSame | apply AdmSame.refl | apply AdmSame.ite | (fail_if_no_progress apply AdmSame.keep))
    | split)

theorem seedDrbg_admSame {a0 : State} (s : State) (h0 : AdmSame a0 s) : AdmSame a0 (seedDrbg s) := by
  unfold seedDrbg
  try dsimp only
  repeat' (first
    | with_reducible assumption
    | intro _
    | with_reducible (first
      | apply modCipher_admSame | apply AdmSame.refl | apply AdmSame.ite | (fail_if_no_progress apply AdmSame.keep))
    | split)

/-! ### Mailbox -/

theorem alertRefresh_admSame {a0 : State} (s : State) (h0 : AdmSame a0 s) : AdmSame a0 (alertRefresh s) := by
  unfold alertRefresh
  try dsimp only
  repeat' (first
    | with_reducible assumption
    | intro _
    | with_reducible (first
      | apply AdmSame.refl | apply AdmSame.ite | (fail_if_no_progress apply AdmSame.keep))
    | split)

theorem modChan_admSame {a0 : State} (s : State) (r : ChanRef) (f : Channel → Channel) (h0 : AdmSame a0 s) : AdmSame a0 (modChan s r f) :=
    by
  unfold modChan
  try dsimp only
  repeat' (first
    | with_reducible assumption
    | intro _
    | with_reducible (first
      | apply alertRefresh_admSame | apply modInst_admSame | apply AdmSame.refl | apply AdmSame.ite
      | (fail_if_no_progress apply AdmSame.keep))
    | split)

theorem heardMbx_admSame {a0 : State} (r : ChanRef) (s : State) (h0 : AdmSame a0 s) : AdmSame a0 (heardMbx r s) := by
  unfold heardMbx
  try dsimp only
  repeat' (first
    | with_reducible assumption
    | intro _
    | with_reducible (first
      | apply heardBell_admSame | apply AdmSame.refl | apply AdmSame.ite | (fail_if_no_progress apply AdmSame.keep))
    | split)

theorem chanIrq_admSame {a0 : State} (s : State) (x0 : ChanRef) (h0 : AdmSame a0 s) : AdmSame a0 (chanIrq s x0) := by
  cases x0 <;> unfold chanIrq
  all_goals try dsimp only
  repeat' (first
    | with_reducible assumption
    | intro _
    | with_reducible (first
      | apply alertRefresh_admSame | apply msixRaise_admSame | apply raiseVector_admSame | apply AdmSame.refl | apply AdmSame.ite
      | (fail_if_no_progress apply AdmSame.keep))
    | split)

theorem endNotice_admSame {a0 : State} (s : State) (r : ChanRef) (n : Nat) (code : BitVec 16) (ack : Bool) (h0 : AdmSame a0 s) : AdmSame
    a0 (endNotice s r n code ack) := by
  unfold endNotice
  try dsimp only
  repeat' (first
    | with_reducible assumption
    | intro _
    | with_reducible (first
      | apply chanIrq_admSame | apply modChan_admSame | apply AdmSame.refl | apply AdmSame.ite
      | (fail_if_no_progress apply AdmSame.keep))
    | split)

theorem deliver_admSame {a0 : State} (s : State) (r : ChanRef) (n : Nat) (words : BitVec 128) (seq : BitVec 16) (sender : Option (Nat ×
    Nat)) (h0 : AdmSame a0 s) : AdmSame a0 (deliver s r n words seq sender) := by
  unfold deliver
  try dsimp only
  repeat' (first
    | with_reducible assumption
    | intro _
    | with_reducible (first
      | apply chanIrq_admSame | apply modChan_admSame | apply AdmSame.refl | apply AdmSame.ite
      | (fail_if_no_progress apply AdmSame.keep))
    | split)

theorem mbxSend_admSame {a0 : State} (s : State) (r : ChanRef) (n : Nat) (h0 : AdmSame a0 s) : AdmSame a0 (mbxSend s r n) := by
  unfold mbxSend
  try dsimp only
  repeat' (first
    | with_reducible assumption
    | intro _
    | with_reducible (first
      | apply endNotice_admSame | apply laDoorbell_admSame | apply modChan_admSame | apply AdmSame.refl | apply AdmSame.ite
      | (fail_if_no_progress apply AdmSame.keep))
    | split)

theorem outDoorbell_admSame {a0 : State} (s : State) (r : ChanRef) (w : Word) (h0 : AdmSame a0 s) : AdmSame a0 (outDoorbell s r w) := by
  unfold outDoorbell
  try dsimp only
  repeat' (first
    | with_reducible assumption
    | intro _
    | with_reducible (first
      | apply mbxSend_admSame | apply AdmSame.refl | apply AdmSame.ite | apply AdmSame.foldl | apply AdmSame.foldl1
      | apply AdmSame.foldl2 | (fail_if_no_progress apply AdmSame.keep))
    | split)

theorem endIn_admSame {a0 : State} (s : State) (r : ChanRef) (n : Nat) (code : BitVec 16) (h0 : AdmSame a0 s) : AdmSame a0 (endIn s r n
    code) := by
  unfold endIn
  try dsimp only
  repeat' (first
    | with_reducible assumption
    | intro _
    | with_reducible (first
      | apply endNotice_admSame | apply modChan_admSame | apply AdmSame.refl | apply AdmSame.ite
      | (fail_if_no_progress apply AdmSame.keep))
    | split)

theorem inAck_admSame {a0 : State} (s : State) (r : ChanRef) (n : Nat) (code : BitVec 16) (h0 : AdmSame a0 s) : AdmSame a0 (inAck s r n
    code) := by
  unfold inAck
  try dsimp only
  repeat' (first
    | with_reducible assumption
    | intro _
    | with_reducible (first
      | apply endIn_admSame | apply AdmSame.refl | apply AdmSame.ite | (fail_if_no_progress apply AdmSame.keep))
    | split)

theorem inClear_admSame {a0 : State} (r : ChanRef) (s : State) (n : Nat) (h0 : AdmSame a0 s) : AdmSame a0 (inClear r s n) := by
  unfold inClear
  try dsimp only
  repeat' (first
    | with_reducible assumption
    | intro _
    | with_reducible (first
      | apply endIn_admSame | apply modChan_admSame | apply AdmSame.refl | apply AdmSame.ite | (fail_if_no_progress apply AdmSame.keep))
    | split)

theorem inDoorbell_admSame {a0 : State} (s : State) (r : ChanRef) (w : Word) (h0 : AdmSame a0 s) : AdmSame a0 (inDoorbell s r w) := by
  unfold inDoorbell
  try dsimp only
  repeat' (first
    | with_reducible assumption
    | intro _
    | with_reducible (first
      | apply inClear_admSame | apply AdmSame.refl | apply AdmSame.ite | apply AdmSame.foldl | apply AdmSame.foldl1
      | apply AdmSame.foldl2 | (fail_if_no_progress apply AdmSame.keep))
    | split)

theorem unmaskIrq_admSame {a0 : State} (s : State) (r : ChanRef) (fires : Bool) (h0 : AdmSame a0 s) : AdmSame a0 (unmaskIrq s r fires) :=
    by
  unfold unmaskIrq
  try dsimp only
  repeat' (first
    | with_reducible assumption
    | intro _
    | with_reducible (first
      | apply chanIrq_admSame | apply AdmSame.refl | apply AdmSame.ite | (fail_if_no_progress apply AdmSame.keep))
    | split)

theorem maskWrite_admSame {a0 : State} (s : State) (r : ChanRef) (off : Nat) (w : Word) (h0 : AdmSame a0 s) : AdmSame a0 (maskWrite s r
    off w) := by
  unfold maskWrite
  try dsimp only
  repeat' (first
    | with_reducible assumption
    | intro _
    | with_reducible (first
      | apply modChan_admSame | apply unmaskIrq_admSame | apply AdmSame.refl | apply AdmSame.ite
      | (fail_if_no_progress apply AdmSame.keep))
    | split)

theorem chanWrite_admSame {a0 : State} (s : State) (r : ChanRef) (off : Nat) (w : Word) (h0 : AdmSame a0 s) : AdmSame a0 (chanWrite s r
    off w) := by
  unfold chanWrite
  try dsimp only
  repeat' (first
    | with_reducible assumption
    | intro _
    | with_reducible (first
      | apply inAck_admSame | apply inDoorbell_admSame | apply maskWrite_admSame | apply modChan_admSame | apply outDoorbell_admSame
      | apply AdmSame.refl | apply AdmSame.ite | (fail_if_no_progress apply AdmSame.keep))
    | split)

theorem mbxInstReset_admSame {a0 : State} (s : State) (i : Nat) (h0 : AdmSame a0 s) : AdmSame a0 (mbxInstReset s i) := by
  unfold mbxInstReset
  try dsimp only
  repeat' (first
    | with_reducible assumption
    | intro _
    | with_reducible (first
      | apply endNotice_admSame | apply modInst_admSame | apply AdmSame.refl | apply AdmSame.ite | apply AdmSame.foldl
      | apply AdmSame.foldl1 | apply AdmSame.foldl2 | (fail_if_no_progress apply AdmSame.keep))
    | split)

theorem mbxPfReset_admSame {a0 : State} (s : State) (h0 : AdmSame a0 s) : AdmSame a0 (mbxPfReset s) := by
  unfold mbxPfReset
  try dsimp only
  repeat' (first
    | with_reducible assumption
    | intro _
    | with_reducible (first
      | apply AdmSame.refl | apply AdmSame.ite | (fail_if_no_progress apply AdmSame.keep))
    | split)

theorem relaysAgain_admSame {a0 : State} (s : State) (h0 : AdmSame a0 s) : AdmSame a0 (relaysAgain s) := by
  unfold relaysAgain
  try dsimp only
  repeat' (first
    | with_reducible assumption
    | intro _
    | with_reducible (first
      | apply AdmSame.refl | apply AdmSame.ite | (fail_if_no_progress apply AdmSame.keep))
    | split)

/-! ### Tpe -/

theorem endRun_admSame {a0 : State} (s : State) (ctx : Nat) (c : Ctx) (r : TpeRun) (h0 : AdmSame a0 s) : AdmSame a0 (endRun s ctx c r) :=
    by
  unfold endRun
  try dsimp only
  repeat' (first
    | with_reducible assumption
    | intro _
    | with_reducible (first
      | apply modCtx_admSame | apply tpeMsgEnd_admSame | apply AdmSame.refl | apply AdmSame.ite | apply AdmSame.foldl
      | apply AdmSame.foldl1 | apply AdmSame.foldl2 | (fail_if_no_progress apply AdmSame.keep))
    | split)

theorem ctxError_admSame {a0 : State} (s : State) (ctx : Nat) (dead : Option Nat) (status : BitVec 8) (h0 : AdmSame a0 s) : AdmSame a0
    (ctxError s ctx dead status) := by
  unfold ctxError
  try dsimp only
  repeat' (first
    | with_reducible assumption
    | intro _
    | with_reducible (first
      | apply disableRing_admSame | apply endRun_admSame | apply modCtx_admSame | apply settleStaging_admSame | apply AdmSame.refl
      | apply AdmSame.ite | apply AdmSame.foldl | apply AdmSame.foldl1 | apply AdmSame.foldl2 | (fail_if_no_progress apply AdmSame.keep))
    | split)

theorem drainTpe_admSame {a0 : State} (s : State) (ctx : Nat) (h0 : AdmSame a0 s) : AdmSame a0 (drainTpe s ctx) := by
  unfold drainTpe
  try dsimp only
  repeat' (first
    | with_reducible assumption
    | intro _
    | with_reducible (first
      | apply ctxError_admSame | apply drain_admSame | apply AdmSame.refl | apply AdmSame.ite | (fail_if_no_progress apply AdmSame.keep))
    | split)

theorem finishStep_admSame {a0 : State} (s : State) (ctx : Nat) (c : Ctx) (r : TpeRun) (h0 : AdmSame a0 s) : AdmSame a0 (finishStep s ctx
    c r) := by
  unfold finishStep
  try dsimp only
  repeat' (first
    | with_reducible assumption
    | intro _
    | with_reducible (first
      | apply ctxError_admSame | apply drainTpe_admSame | apply endRun_admSame | apply endSlot_admSame | apply fetchRing_admSame
      | apply AdmSame.refl | apply AdmSame.ite | (fail_if_no_progress apply AdmSame.keep))
    | split)

theorem failStep_admSame {a0 : State} (s : State) (ctx slot : Nat) (status : BitVec 8) (sub : Nat) (h0 : AdmSame a0 s) : AdmSame a0
    (failStep s ctx slot status sub) := by
  unfold failStep
  try dsimp only
  repeat' (first
    | with_reducible assumption
    | intro _
    | with_reducible (first
      | apply modRun_admSame | apply AdmSame.refl | apply AdmSame.ite | (fail_if_no_progress apply AdmSame.keep))
    | split)

theorem dropAcc_admSame {a0 : State} (s : State) (ctx slot part : Nat) (h0 : AdmSame a0 s) : AdmSame a0 (dropAcc s ctx slot part) := by
  unfold dropAcc
  try dsimp only
  repeat' (first
    | with_reducible assumption
    | intro _
    | with_reducible (first
      | apply modRun_admSame | apply AdmSame.refl | apply AdmSame.ite | (fail_if_no_progress apply AdmSame.keep))
    | split)

theorem tpeData_admSame {a0 : State} (s : State) (ctx slot part : Nat) (ps : List Piece) (b : Option Bytes) (h0 : AdmSame a0 s) : AdmSame
    a0 (tpeData s ctx slot part ps b) := by
  unfold tpeData
  try dsimp only
  repeat' (first
    | with_reducible assumption
    | intro _
    | with_reducible (first
      | apply dropAcc_admSame | apply failStep_admSame | apply modRun_admSame | apply noteXts_admSame | apply AdmSame.refl
      | apply AdmSame.ite | (fail_if_no_progress apply AdmSame.keep))
    | split)

theorem tpeAccess_admSame {a0 : State} (s : State) (ctx slot part : Nat) (x : Xlat) (h0 : AdmSame a0 s) : AdmSame a0 (tpeAccess s ctx slot
    part x) := by
  unfold tpeAccess
  try dsimp only
  repeat' (first
    | with_reducible assumption
    | intro _
    | with_reducible (first
      | apply beginRead_admSame | apply dropAcc_admSame | apply failStep_admSame | apply modRun_admSame | apply noteXts_admSame
      | apply tpeData_admSame | apply writePieces_admSame | apply AdmSame.refl | apply AdmSame.ite
      | (fail_if_no_progress apply AdmSame.keep))
    | split)

theorem startAcc_admSame {a0 : State} (ctx slot : Nat) (s : State) (a : TpeAcc) (h0 : AdmSame a0 s) : AdmSame a0 (startAcc ctx slot s a)
    := by
  unfold startAcc
  try dsimp only
  repeat' (first
    | with_reducible assumption
    | intro _
    | with_reducible (first
      | apply beginAccess_admSame | apply modRun_admSame | apply tpeAccess_admSame | apply AdmSame.refl | apply AdmSame.ite
      | (fail_if_no_progress apply AdmSame.keep))
    | split)

theorem addMsg_admSame {a0 : State} (ctx slot : Nat) (s : State) (m : TpeMsg) (h0 : AdmSame a0 s) : AdmSame a0 (addMsg ctx slot s m) := by
  unfold addMsg
  try dsimp only
  repeat' (first
    | with_reducible assumption
    | intro _
    | with_reducible (first
      | apply modRun_admSame | apply takeFresh_admSame | apply AdmSame.refl | apply AdmSame.ite
      | (fail_if_no_progress apply AdmSame.keep))
    | split)

theorem makeShares_admSame {a0 : State} (s : State) (ctx : Nat) (c : Ctx) (r : TpeRun) (k : Kettle) (h0 : AdmSame a0 s) : AdmSame a0
    (makeShares s ctx c r k) := by
  unfold makeShares
  try dsimp only
  repeat' (first
    | with_reducible assumption
    | intro _
    | with_reducible (first
      | apply addMsg_admSame | apply failStep_admSame | apply modRun_admSame | apply AdmSame.refl | apply AdmSame.ite
      | apply AdmSame.foldl | apply AdmSame.foldl1 | apply AdmSame.foldl2 | (fail_if_no_progress apply AdmSame.keep))
    | split)

theorem makeStore_admSame {a0 : State} (s : State) (ctx : Nat) (c : Ctx) (r : TpeRun) (h0 : AdmSame a0 s) : AdmSame a0 (makeStore s ctx c
    r) := by
  unfold makeStore
  try dsimp only
  repeat' (first
    | with_reducible assumption
    | intro _
    | with_reducible (first
      | apply addMsg_admSame | apply failStep_admSame | apply modRun_admSame | apply startAcc_admSame | apply AdmSame.refl
      | apply AdmSame.ite | apply AdmSame.foldl | apply AdmSame.foldl1 | apply AdmSame.foldl2 | (fail_if_no_progress apply AdmSame.keep))
    | split)

theorem makeDispatch_admSame {a0 : State} (s : State) (ctx : Nat) (c : Ctx) (r : TpeRun) (k : Kettle) (h0 : AdmSame a0 s) : AdmSame a0
    (makeDispatch s ctx c r k) := by
  unfold makeDispatch
  try dsimp only
  repeat' (first
    | with_reducible assumption
    | intro _
    | with_reducible (first
      | apply addMsg_admSame | apply failStep_admSame | apply modRun_admSame | apply startAcc_admSame | apply AdmSame.refl
      | apply AdmSame.ite | apply AdmSame.foldl | apply AdmSame.foldl1 | apply AdmSame.foldl2 | (fail_if_no_progress apply AdmSame.keep))
    | split)

theorem makeStream_admSame {a0 : State} (s : State) (ctx : Nat) (r : TpeRun) (h0 : AdmSame a0 s) : AdmSame a0 (makeStream s ctx r) := by
  unfold makeStream
  try dsimp only
  repeat' (first
    | with_reducible assumption
    | intro _
    | with_reducible (first
      | apply modCtx_admSame | apply modRun_admSame | apply startAcc_admSame | apply AdmSame.refl | apply AdmSame.ite
      | (fail_if_no_progress apply AdmSame.keep))
    | split)

theorem makeStep_admSame {a0 : State} (s : State) (ctx : Nat) (c : Ctx) (r : TpeRun) (h0 : AdmSame a0 s) : AdmSame a0 (makeStep s ctx c r)
    := by
  unfold makeStep
  try dsimp only
  repeat' (first
    | with_reducible assumption
    | intro _
    | with_reducible (first
      | apply makeDispatch_admSame | apply makeShares_admSame | apply makeStore_admSame | apply makeStream_admSame
      | apply modCtx_admSame | apply modRun_admSame | apply AdmSame.refl | apply AdmSame.ite | (fail_if_no_progress apply AdmSame.keep))
    | split)

theorem tpeAdvance_admSame {a0 : State} (s : State) (ctx slot : Nat) (h0 : AdmSame a0 s) : AdmSame a0 (tpeAdvance s ctx slot) := by
  unfold tpeAdvance
  try dsimp only
  repeat' (first
    | with_reducible assumption
    | intro _
    | with_reducible (first
      | apply issueFlushes_admSame | apply makeStep_admSame | apply modRun_admSame | apply AdmSame.refl | apply AdmSame.ite
      | (fail_if_no_progress apply AdmSame.keep))
    | split)

theorem stepBegin_admSame {a0 : State} (s : State) (ctx : Nat) (r : TpeRun) (h0 : AdmSame a0 s) : AdmSame a0 (stepBegin s ctx r) := by
  unfold stepBegin
  try dsimp only
  repeat' (first
    | with_reducible assumption
    | intro _
    | with_reducible (first
      | apply addMsg_admSame | apply modCtx_admSame | apply settleStaging_admSame | apply startAcc_admSame | apply AdmSame.refl
      | apply AdmSame.ite | apply AdmSame.foldl | apply AdmSame.foldl1 | apply AdmSame.foldl2 | (fail_if_no_progress apply AdmSame.keep))
    | split)

theorem takeTile_admSame {a0 : State} (s : State) (ctx slot : Nat) (h0 : AdmSame a0 s) : AdmSame a0 (takeTile s ctx slot) := by
  unfold takeTile
  try dsimp only
  repeat' (first
    | with_reducible assumption
    | intro _
    | with_reducible (first
      | apply AdmSame.refl | apply AdmSame.ite | (fail_if_no_progress apply AdmSame.keep))
    | split)

theorem stepArray_admSame {a0 : State} (s : State) (ctx : Nat) (h0 : AdmSame a0 s) : AdmSame a0 (stepArray s ctx) := by
  unfold stepArray
  try dsimp only
  repeat' (first
    | with_reducible assumption
    | intro _
    | with_reducible (first
      | apply modCtx_admSame | apply takeTile_admSame | apply AdmSame.refl | apply AdmSame.ite
      | (fail_if_no_progress apply AdmSame.keep))
    | split)

theorem dropCtx_admSame {a0 : State} (s : State) (n : Nat) (h0 : AdmSame a0 s) : AdmSame a0 (dropCtx s n) := by
  unfold dropCtx
  try dsimp only
  repeat' (first
    | with_reducible assumption
    | intro _
    | with_reducible (first
      | apply AdmSame.refl | apply AdmSame.ite | (fail_if_no_progress apply AdmSame.keep))
    | split)

theorem epochAtCtx_admSame {a0 : State} (epoch : Nat) (s : State) (ctx : Nat) (h0 : AdmSame a0 s) : AdmSame a0 (epochAtCtx epoch s ctx) :=
    by
  unfold epochAtCtx
  try dsimp only
  repeat' (first
    | with_reducible assumption
    | intro _
    | with_reducible (first
      | apply finishStep_admSame | apply modCtx_admSame | apply AdmSame.refl | apply AdmSame.ite
      | (fail_if_no_progress apply AdmSame.keep))
    | split)

theorem dropKettle_admSame {a0 : State} (s : State) (n : Nat) (h0 : AdmSame a0 s) : AdmSame a0 (dropKettle s n) := by
  unfold dropKettle
  try dsimp only
  repeat' (first
    | with_reducible assumption
    | intro _
    | with_reducible (first
      | apply AdmSame.refl | apply AdmSame.ite | (fail_if_no_progress apply AdmSame.keep))
    | split)

/-! ### Instances -/

theorem postInst_admSame {a0 : State} (s : State) (i state cause noRecord : Nat) (h0 : AdmSame a0 s) : AdmSame a0 (postInst s i state
    cause noRecord) := by
  unfold postInst
  try dsimp only
  repeat' (first
    | with_reducible assumption
    | intro _
    | with_reducible (first
      | apply post_admSame | apply AdmSame.refl | apply AdmSame.ite | (fail_if_no_progress apply AdmSame.keep))
    | split)

theorem moveInst_admSame {a0 : State} (s : State) (i : Nat) (st : InstState) (cause noRecord : Nat) (h0 : AdmSame a0 s) : AdmSame a0
    (moveInst s i st cause noRecord) := by
  unfold moveInst
  try dsimp only
  repeat' (first
    | with_reducible assumption
    | intro _
    | with_reducible (first
      | apply modInst_admSame | apply postInst_admSame | apply AdmSame.refl | apply AdmSame.ite
      | (fail_if_no_progress apply AdmSame.keep))
    | split)

theorem reloadVecs_admSame {a0 : State} (s : State) (i : Nat) (new : List VecEntry) (h0 : AdmSame a0 s) : AdmSame a0 (reloadVecs s i new)
    := by
  unfold reloadVecs
  try dsimp only
  repeat' (first
    | with_reducible assumption
    | intro _
    | with_reducible (first
      | apply emit_admSame | apply modInst_admSame | apply AdmSame.refl | apply AdmSame.ite | apply AdmSame.foldl | apply AdmSame.foldl1
      | apply AdmSame.foldl2 | (fail_if_no_progress apply AdmSame.keep))
    | split)

theorem resetCtx_admSame {a0 : State} (s : State) (n : Nat) (h0 : AdmSame a0 s) : AdmSame a0 (resetCtx s n) := by
  unfold resetCtx
  try dsimp only
  repeat' (first
    | with_reducible assumption
    | intro _
    | with_reducible (first
      | apply ctxError_admSame | apply modCtx_admSame | apply AdmSame.refl | apply AdmSame.ite
      | (fail_if_no_progress apply AdmSame.keep))
    | split)

theorem resetLa_admSame {a0 : State} (s : State) (i : Nat) (h0 : AdmSame a0 s) : AdmSame a0 (resetLa s i) := by
  unfold resetLa
  try dsimp only
  repeat' (first
    | with_reducible assumption
    | intro _
    | with_reducible (first
      | apply disableRing_admSame | apply laForget_admSame | apply AdmSame.refl | apply AdmSame.ite
      | (fail_if_no_progress apply AdmSame.keep))
    | split)

theorem beginInstDrain_admSame {a0 : State} (s : State) (i : Nat) (h0 : AdmSame a0 s) : AdmSame a0 (beginInstDrain s i) := by
  unfold beginInstDrain
  try dsimp only
  repeat' (first
    | with_reducible assumption
    | intro _
    | with_reducible (first
      | apply drain_admSame | apply issueFlushes_admSame | apply modInst_admSame | apply AdmSame.refl | apply AdmSame.ite
      | (fail_if_no_progress apply AdmSame.keep))
    | split)

theorem removeObjects_admSame {a0 : State} (s : State) (i : Nat) (h0 : AdmSame a0 s) : AdmSame a0 (removeObjects s i) := by
  unfold removeObjects
  try dsimp only
  repeat' (first
    | with_reducible assumption
    | intro _
    | with_reducible (first
      | apply dropKettle_admSame | apply dropQp_admSame | apply dropSa_admSame | apply modCipher_admSame | apply modInst_admSame
      | apply AdmSame.refl | apply AdmSame.ite | apply AdmSame.foldl | apply AdmSame.foldl1 | apply AdmSame.foldl2
      | (fail_if_no_progress apply AdmSame.keep))
    | split)

theorem endForward_admSame {a0 : State} (s : State) (f : Forward) (h0 : AdmSame a0 s) : AdmSame a0 (endForward s f) := by
  unfold endForward
  try dsimp only
  repeat' (first
    | with_reducible assumption
    | intro _
    | with_reducible (first
      | apply post_admSame | apply AdmSame.refl | apply AdmSame.ite | (fail_if_no_progress apply AdmSame.keep))
    | split)

theorem forgetSlots_admSame {a0 : State} (s : State) (h0 : AdmSame a0 s) : AdmSame a0 (forgetSlots s) := by
  unfold forgetSlots
  try dsimp only
  repeat' (first
    | with_reducible assumption
    | intro _
    | with_reducible (first
      | apply AdmSame.refl | apply AdmSame.ite | (fail_if_no_progress apply AdmSame.keep))
    | split)

theorem sendOwed_admSame {a0 : State} (s : State) (qpn : Nat) (h0 : AdmSame a0 s) : AdmSame a0 (sendOwed s qpn) := by
  unfold sendOwed
  try dsimp only
  repeat' (first
    | with_reducible assumption
    | intro _
    | with_reducible (first
      | apply askAck_admSame | apply AdmSame.refl | apply AdmSame.ite | (fail_if_no_progress apply AdmSame.keep))
    | split)

theorem freezeQp_admSame {a0 : State} (s : State) (qpn : Nat) (h0 : AdmSame a0 s) : AdmSame a0 (freezeQp s qpn) := by
  unfold freezeQp
  try dsimp only
  repeat' (first
    | with_reducible assumption
    | intro _
    | with_reducible (first
      | apply modQp_admSame | apply moveQp_admSame | apply AdmSame.refl | apply AdmSame.ite | (fail_if_no_progress apply AdmSame.keep))
    | split)

/-! ### Time -/

theorem setTime_admSame {a0 : State} (s : State) (st : TimeState) (trusted : Bool) (guardEnd trustEnd : Option Nat) (h0 : AdmSame a0 s) :
    AdmSame a0 (setTime s st trusted guardEnd trustEnd) := by
  unfold setTime
  try dsimp only
  repeat' (first
    | with_reducible assumption
    | intro _
    | with_reducible (first
      | apply gateRefresh_admSame | apply post_admSame | apply AdmSame.refl | apply AdmSame.ite
      | (fail_if_no_progress apply AdmSame.keep))
    | split)

theorem toFreerun_admSame {a0 : State} (s : State) (h0 : AdmSame a0 s) : AdmSame a0 (toFreerun s) := by
  unfold toFreerun
  try dsimp only
  repeat' (first
    | with_reducible assumption
    | intro _
    | with_reducible (first
      | apply setTime_admSame | apply AdmSame.refl | apply AdmSame.ite | (fail_if_no_progress apply AdmSame.keep))
    | split)

theorem stepTime_admSame {a0 : State} (s : State) (d : Int) (h0 : AdmSame a0 s) : AdmSame a0 (stepTime s d) := by
  unfold stepTime
  try dsimp only
  repeat' (first
    | with_reducible assumption
    | intro _
    | with_reducible (first
      | apply post_admSame | apply AdmSame.refl | apply AdmSame.ite | (fail_if_no_progress apply AdmSame.keep))
    | split)

theorem ptpTick_admSame {a0 : State} (s : State) (h0 : AdmSame a0 s) : AdmSame a0 (ptpTick s) := by
  unfold ptpTick
  try dsimp only
  repeat' (first
    | with_reducible assumption
    | intro _
    | with_reducible (first
      | apply emit_admSame | apply AdmSame.refl | apply AdmSame.ite | (fail_if_no_progress apply AdmSame.keep))
    | split)

theorem timeTrefLost_admSame {a0 : State} (s : State) (h0 : AdmSame a0 s) : AdmSame a0 (timeTrefLost s) := by
  unfold timeTrefLost
  try dsimp only
  repeat' (first
    | with_reducible assumption
    | intro _
    | with_reducible (first
      | apply setTime_admSame | apply AdmSame.refl | apply AdmSame.ite | (fail_if_no_progress apply AdmSame.keep))
    | split)

theorem timeTrefBack_admSame {a0 : State} (s : State) (h0 : AdmSame a0 s) : AdmSame a0 (timeTrefBack s) := by
  unfold timeTrefBack
  try dsimp only
  repeat' (first
    | with_reducible assumption
    | intro _
    | with_reducible (first
      | apply setTime_admSame | apply AdmSame.refl | apply AdmSame.ite | (fail_if_no_progress apply AdmSame.keep))
    | split)

theorem readTimeLo_admSame {a0 : State} (s : State) (h0 : AdmSame a0 s) : AdmSame a0 (readTimeLo s) := by
  unfold readTimeLo
  try dsimp only
  repeat' (first
    | with_reducible assumption
    | intro _
    | with_reducible (first
      | apply AdmSame.refl | apply AdmSame.ite | (fail_if_no_progress apply AdmSame.keep))
    | split)

theorem tickTime_admSame {a0 : State} (s : State) (h0 : AdmSame a0 s) : AdmSame a0 (tickTime s) := by
  unfold tickTime
  try dsimp only
  repeat' (first
    | with_reducible assumption
    | intro _
    | with_reducible (first
      | apply count_admSame | apply AdmSame.refl | apply AdmSame.ite | (fail_if_no_progress apply AdmSame.keep))
    | split)

theorem tick_admSame {a0 : State} (s : State) (h0 : AdmSame a0 s) : AdmSame a0 (tick s) := by
  unfold tick
  try dsimp only
  repeat' (first
    | with_reducible assumption
    | intro _
    | with_reducible (first
      | apply ptpTick_admSame | apply tickTime_admSame | apply AdmSame.refl | apply AdmSame.ite
      | (fail_if_no_progress apply AdmSame.keep))
    | split)

/-! ### PowerStates -/

theorem areaWrite_admSame {a0 : State} (s : State) (k off : Nat) (bs : Bytes) (h0 : AdmSame a0 s) : AdmSame a0 (areaWrite s k off bs) :=
    by
  unfold areaWrite
  try dsimp only
  repeat' (first
    | with_reducible assumption
    | intro _
    | with_reducible (first
      | apply modChan_admSame | apply AdmSame.refl | apply AdmSame.ite | (fail_if_no_progress apply AdmSame.keep))
    | split)

theorem secureEnd_admSame {a0 : State} (s : State) (k b : Nat) (status : BitVec 8) (reason : Nat) (res : Entry) (h0 : AdmSame a0 s) :
    AdmSame a0 (secureEnd s k b status reason res) := by
  unfold secureEnd
  try dsimp only
  repeat' (first
    | with_reducible assumption
    | intro _
    | with_reducible (first
      | apply areaWrite_admSame | apply endNotice_admSame | apply AdmSame.refl | apply AdmSame.ite
      | (fail_if_no_progress apply AdmSame.keep))
    | split)

theorem refWrite_admSame {a0 : State} (s : State) (r : CmdRef) (dst : Nat) (bs : Bytes) (h0 : AdmSame a0 s) : AdmSame a0 (refWrite s r dst
    bs) := by
  unfold refWrite
  try dsimp only
  repeat' (first
    | with_reducible assumption
    | intro _
    | with_reducible (first
      | apply areaWrite_admSame | apply writeResult_admSame | apply AdmSame.refl | apply AdmSame.ite
      | (fail_if_no_progress apply AdmSame.keep))
    | split)

theorem notePower_admSame {a0 : State} (s : State) (old new cause : Nat) (h0 : AdmSame a0 s) : AdmSame a0 (notePower s old new cause) :=
    by
  unfold notePower
  try dsimp only
  repeat' (first
    | with_reducible assumption
    | intro _
    | with_reducible (first
      | apply owlPut_admSame | apply post_admSame | apply trace_admSame | apply AdmSame.refl | apply AdmSame.ite
      | (fail_if_no_progress apply AdmSame.keep))
    | split)

theorem movePower_admSame {a0 : State} (s : State) (new cause : Nat) (h0 : AdmSame a0 s) : AdmSame a0 (movePower s new cause) := by
  unfold movePower
  try dsimp only
  repeat' (first
    | with_reducible assumption
    | intro _
    | with_reducible (first
      | apply notePower_admSame | apply AdmSame.refl | apply AdmSame.ite | (fail_if_no_progress apply AdmSame.keep))
    | split)

theorem askState_admSame {a0 : State} (s : State) (target cause : Nat) (h0 : AdmSame a0 s) : AdmSame a0 (askState s target cause) := by
  unfold askState
  try dsimp only
  repeat' (first
    | with_reducible assumption
    | intro _
    | with_reducible (first
      | apply movePower_admSame | apply AdmSame.refl | apply AdmSame.ite | (fail_if_no_progress apply AdmSame.keep))
    | split)

theorem enterRoost_admSame {a0 : State} (s : State) (cause : Nat) (h0 : AdmSame a0 s) : AdmSame a0 (enterRoost s cause) := by
  unfold enterRoost
  try dsimp only
  repeat' (first
    | with_reducible assumption
    | intro _
    | with_reducible (first
      | apply holdPort_admSame | apply notePower_admSame | apply toFreerun_admSame | apply trace_admSame | apply AdmSame.refl
      | apply AdmSame.ite | apply AdmSame.foldl | apply AdmSame.foldl1 | apply AdmSame.foldl2 | (fail_if_no_progress apply AdmSame.keep))
    | split)

theorem nextWindow_admSame {a0 : State} (s : State) (h0 : AdmSame a0 s) : AdmSame a0 (nextWindow s) := by
  unfold nextWindow
  try dsimp only
  repeat' (first
    | with_reducible assumption
    | intro _
    | with_reducible (first
      | apply AdmSame.refl | apply AdmSame.ite | (fail_if_no_progress apply AdmSame.keep))
    | split)

theorem noteRule_admSame {a0 : State} (s : State) (n : Nat) (r : OwlRule) (on : Bool) (y : Int) (h0 : AdmSame a0 s) : AdmSame a0 (noteRule
    s n r on y) := by
  unfold noteRule
  try dsimp only
  repeat' (first
    | with_reducible assumption
    | intro _
    | with_reducible (first
      | apply deliver_admSame | apply modChan_admSame | apply owlPut_admSame | apply post_admSame | apply trace_admSame
      | apply AdmSame.refl | apply AdmSame.ite | (fail_if_no_progress apply AdmSame.keep))
    | split)

theorem ruleAt_admSame {a0 : State} (i : Image) (ys : List Int) (a : State × List (OwlRule × Bool)) (n : Nat) (h0 : AdmSame a0 a.1) :
    AdmSame a0 (ruleAt i ys a n).1 := by
  unfold ruleAt
  try dsimp only
  repeat' (first
    | with_reducible assumption
    | intro _
    | with_reducible (first
      | apply noteRule_admSame | apply AdmSame.refl | apply AdmSame.ite | (fail_if_no_progress apply AdmSame.keep))
    | split)

theorem portShutdowns_admSame {a0 : State} (s : State) (i : Image) (h0 : AdmSame a0 s) : AdmSame a0 (portShutdowns s i) := by
  unfold portShutdowns
  try dsimp only
  repeat' (first
    | with_reducible assumption
    | intro _
    | with_reducible (first
      | apply holdPort_admSame | apply modPort_admSame | apply AdmSame.refl | apply AdmSame.ite | apply AdmSame.foldl
      | apply AdmSame.foldl1 | apply AdmSame.foldl2 | (fail_if_no_progress apply AdmSame.keep))
    | split)

theorem throttleRules_admSame {a0 : State} (s : State) (i : Image) (h0 : AdmSame a0 s) : AdmSame a0 (throttleRules s i) := by
  unfold throttleRules
  try dsimp only
  repeat' (first
    | with_reducible assumption
    | intro _
    | with_reducible (first
      | apply movePower_admSame | apply AdmSame.refl | apply AdmSame.ite | (fail_if_no_progress apply AdmSame.keep))
    | split)

theorem wakeRules_admSame {a0 : State} (s : State) (acts : List (OwlRule × Bool)) (h0 : AdmSame a0 s) : AdmSame a0 (wakeRules s acts) :=
    by
  unfold wakeRules
  try dsimp only
  repeat' (first
    | with_reducible assumption
    | intro _
    | with_reducible (first
      | apply AdmSame.refl | apply AdmSame.ite | (fail_if_no_progress apply AdmSame.keep))
    | split)

theorem sampleTaken_admSame {a0 : State} (s : State) (hist : List (Option OwlHist)) (h0 : AdmSame a0 s) : AdmSame a0 (sampleTaken s hist)
    := by
  unfold sampleTaken
  try dsimp only
  repeat' (first
    | with_reducible assumption
    | intro _
    | with_reducible (first
      | apply AdmSame.refl | apply AdmSame.ite | (fail_if_no_progress apply AdmSame.keep))
    | split)

theorem traceStart_admSame {a0 : State} (s : State) (e : Entry) (base : Nat) (h0 : AdmSame a0 s) : AdmSame a0 (traceStart s e base) := by
  unfold traceStart
  try dsimp only
  repeat' (first
    | with_reducible assumption
    | intro _
    | with_reducible (first
      | apply trace_admSame | apply AdmSame.refl | apply AdmSame.ite | (fail_if_no_progress apply AdmSame.keep))
    | split)

/-! ### Control -/

theorem wdtWrite_admSame {a0 : State} (s : State) (w : Word) (h0 : AdmSame a0 s) : AdmSame a0 (wdtWrite s w) := by
  unfold wdtWrite
  try dsimp only
  repeat' (first
    | with_reducible assumption
    | intro _
    | with_reducible (first
      | apply AdmSame.refl | apply AdmSame.ite | (fail_if_no_progress apply AdmSame.keep))
    | split)

/-! ### Secure -/

theorem vendorRun_admSame {a0 : State} (s : State) (m : Bytes) (h0 : AdmSame a0 s) : AdmSame a0 (vendorRun s m).1 := by
  unfold vendorRun
  try dsimp only
  repeat' (first
    | with_reducible assumption
    | intro _
    | with_reducible (first
      | apply chanWrite_admSame | apply AdmSame.refl | apply AdmSame.ite | apply AdmSame.foldl | apply AdmSame.foldl1
      | apply AdmSame.foldl2 | (fail_if_no_progress apply AdmSame.keep))
    | split)

/-! ### Clocks -/

theorem clockRestored_admSame {a0 : State} (s : State) (clk : Nat) (h0 : AdmSame a0 s) : AdmSame a0 (clockRestored s clk) := by
  unfold clockRestored
  try dsimp only
  repeat' (first
    | with_reducible assumption
    | intro _
    | with_reducible (first
      | apply post_admSame | apply timeTrefBack_admSame | apply AdmSame.refl | apply AdmSame.ite
      | (fail_if_no_progress apply AdmSame.keep))
    | split)

theorem restoreClock_admSame {a0 : State} (s : State) (clk : Nat) (ppb : Int) (h0 : AdmSame a0 s) : AdmSame a0 (restoreClock s clk ppb) :=
    by
  unfold restoreClock
  try dsimp only
  repeat' (first
    | with_reducible assumption
    | intro _
    | with_reducible (first
      | apply clockRestored_admSame | apply AdmSame.refl | apply AdmSame.ite | (fail_if_no_progress apply AdmSame.keep))
    | split)

theorem newWindow_admSame {a0 : State} (s : State) (clk : Nat) (h0 : AdmSame a0 s) : AdmSame a0 (newWindow s clk) := by
  unfold newWindow
  try dsimp only
  repeat' (first
    | with_reducible assumption
    | intro _
    | with_reducible (first
      | apply AdmSame.refl | apply AdmSame.ite | (fail_if_no_progress apply AdmSame.keep))
    | split)

/-! ### Fetch -/

theorem kickRings_admSame {a0 : State} (s : State) (h0 : AdmSame a0 s) : AdmSame a0 (kickRings s) := by
  unfold kickRings
  try dsimp only
  repeat' (first
    | with_reducible assumption
    | intro _
    | with_reducible (first
      | apply fetchRing_admSame | apply AdmSame.refl | apply AdmSame.ite | apply AdmSame.foldl | apply AdmSame.foldl1
      | apply AdmSame.foldl2 | (fail_if_no_progress apply AdmSame.keep))
    | split)

theorem noteMiss_admSame {a0 : State} (s : State) (w : Waiting) (h0 : AdmSame a0 s) : AdmSame a0 (noteMiss s w) := by
  unfold noteMiss
  try dsimp only
  repeat' (first
    | with_reducible assumption
    | intro _
    | with_reducible (first
      | apply rxMiss_admSame | apply AdmSame.refl | apply AdmSame.ite | (fail_if_no_progress apply AdmSame.keep))
    | split)

theorem readAgain_admSame {a0 : State} (s : State) (r : DataRead) (h0 : AdmSame a0 s) : AdmSame a0 (readAgain s r) := by
  unfold readAgain
  try dsimp only
  repeat' (first
    | with_reducible assumption
    | intro _
    | with_reducible (first
      | apply addWait_admSame | apply takeFresh_admSame | apply AdmSame.refl | apply AdmSame.ite
      | (fail_if_no_progress apply AdmSame.keep))
    | split)

theorem releaseReports_admSame {a0 : State} (x0 : Nat) (x1 : State) (x2 : Nat) (h0 : AdmSame a0 x1) : AdmSame a0 (releaseReports x0 x1 x2)
    := by
  induction x0 generalizing x1 x2 with
  | zero => simpa [releaseReports] using h0
  | succ n ih =>
    unfold releaseReports
    try dsimp only
    repeat' (first
      | with_reducible assumption
      | intro _
      | with_reducible (first
        | apply ih | apply releaseReport_admSame | apply AdmSame.refl | apply AdmSame.ite | (fail_if_no_progress apply AdmSame.keep))
      | split)

/-! ### Registers -/

theorem dbgHalt_admSame {a0 : State} (s : State) (h0 : AdmSame a0 s) : AdmSame a0 (dbgHalt s) := by
  unfold dbgHalt
  try dsimp only
  repeat' (first
    | with_reducible assumption
    | intro _
    | with_reducible (first
      | apply AdmSame.refl | apply AdmSame.ite | (fail_if_no_progress apply AdmSame.keep))
    | split)

theorem placeRead_admSame {a0 : State} (s : State) (x0 : RegPlace) (h0 : AdmSame a0 s) : AdmSame a0 (placeRead s x0).2 := by
  cases x0 <;> unfold placeRead
  all_goals try dsimp only
  repeat' (first
    | with_reducible assumption
    | intro _
    | with_reducible (first
      | apply readTimeLo_admSame | apply AdmSame.refl | apply AdmSame.ite | (fail_if_no_progress apply AdmSame.keep))
    | split)

theorem regRead_admSame {a0 : State} (s : State) (src : AccessSrc) (off : Nat) (h0 : AdmSame a0 s) : AdmSame a0 (regRead s src off).2 :=
    by
  unfold regRead
  try dsimp only
  repeat' (first
    | with_reducible assumption
    | intro _
    | with_reducible (first
      | apply placeRead_admSame | apply AdmSame.refl | apply AdmSame.ite | (fail_if_no_progress apply AdmSame.keep))
    | split)

theorem mmioRead_admSame {a0 : State} (s : State) (src : AccessSrc) (off size : Nat) (h0 : AdmSame a0 s) : AdmSame a0 (mmioRead s src off
    size).2 := by
  unfold mmioRead
  try dsimp only
  repeat' (first
    | with_reducible assumption
    | intro _
    | with_reducible (first
      | apply regRead_admSame | apply AdmSame.refl | apply AdmSame.ite | (fail_if_no_progress apply AdmSame.keep))
    | split)

theorem gctlWrite_admSame {a0 : State} (s : State) (off : Nat) (w : Word) (h0 : AdmSame a0 s) : AdmSame a0 (gctlWrite s off w) := by
  unfold gctlWrite
  try dsimp only
  repeat' (first
    | with_reducible assumption
    | intro _
    | with_reducible (first
      | apply wdtWrite_admSame | apply AdmSame.refl | apply AdmSame.ite | (fail_if_no_progress apply AdmSame.keep))
    | split)

theorem sqDoorbell_admSame {a0 : State} (s : State) (inst qpn : Nat) (h0 : AdmSame a0 s) : AdmSame a0 (sqDoorbell s inst qpn) := by
  unfold sqDoorbell
  try dsimp only
  repeat' (first
    | with_reducible assumption
    | intro _
    | with_reducible (first
      | apply ringDoorbell_admSame | apply AdmSame.refl | apply AdmSame.ite | (fail_if_no_progress apply AdmSame.keep))
    | split)

theorem rqDoorbell_admSame {a0 : State} (s : State) (inst qpn : Nat) (h0 : AdmSame a0 s) : AdmSame a0 (rqDoorbell s inst qpn) := by
  unfold rqDoorbell
  try dsimp only
  repeat' (first
    | with_reducible assumption
    | intro _
    | with_reducible (first
      | apply ringDoorbell_admSame | apply AdmSame.refl | apply AdmSame.ite | (fail_if_no_progress apply AdmSame.keep))
    | split)

theorem tpeDoorbell_admSame {a0 : State} (s : State) (inst ctx : Nat) (h0 : AdmSame a0 s) : AdmSame a0 (tpeDoorbell s inst ctx) := by
  unfold tpeDoorbell
  try dsimp only
  repeat' (first
    | with_reducible assumption
    | intro _
    | with_reducible (first
      | apply ringDoorbell_admSame | apply AdmSame.refl | apply AdmSame.ite | (fail_if_no_progress apply AdmSame.keep))
    | split)

theorem heardAccess_admSame {a0 : State} (s : State) (src : AccessSrc) (off : Nat) (h0 : AdmSame a0 s) : AdmSame a0 (heardAccess s src
    off) := by
  unfold heardAccess
  try dsimp only
  repeat' (first
    | with_reducible assumption
    | intro _
    | with_reducible (first
      | apply heardBells_admSame | apply heardTlp_admSame | apply AdmSame.refl | apply AdmSame.ite
      | (fail_if_no_progress apply AdmSame.keep))
    | split)

theorem msixFlush_admSame {a0 : State} (s : State) (n : Nat) (h0 : AdmSame a0 s) : AdmSame a0 (msixFlush s n) := by
  unfold msixFlush
  try dsimp only
  repeat' (first
    | with_reducible assumption
    | intro _
    | with_reducible (first
      | apply emit_admSame | apply modFn_admSame | apply AdmSame.refl | apply AdmSame.ite | apply AdmSame.foldl | apply AdmSame.foldl1
      | apply AdmSame.foldl2 | (fail_if_no_progress apply AdmSame.keep))
    | split)

theorem writeBar_admSame {a0 : State} (s : State) (vf : Bool) (n : Nat) (w : Word) (h0 : AdmSame a0 s) : AdmSame a0 (writeBar s vf n w) :=
    by
  unfold writeBar
  try dsimp only
  repeat' (first
    | with_reducible assumption
    | intro _
    | with_reducible (first
      | apply AdmSame.refl | apply AdmSame.ite | (fail_if_no_progress apply AdmSame.keep))
    | split)

/-! ### Debug -/

theorem poolPoke_admSame {a0 : State} (s : State) (a : Nat) (w : Word) (h0 : AdmSame a0 s) : AdmSame a0 (poolPoke s a w) := by
  unfold poolPoke
  try dsimp only
  repeat' (first
    | with_reducible assumption
    | intro _
    | with_reducible (first
      | apply AdmSame.refl | apply AdmSame.ite | (fail_if_no_progress apply AdmSame.keep))
    | split)

theorem dapPool_admSame {a0 : State} (s : State) (r : DapReq) (h0 : AdmSame a0 s) : AdmSame a0 (dapPool s r) := by
  unfold dapPool
  try dsimp only
  repeat' (first
    | with_reducible assumption
    | intro _
    | with_reducible (first
      | apply emit_admSame | apply poolPoke_admSame | apply AdmSame.refl | apply AdmSame.ite | (fail_if_no_progress apply AdmSame.keep))
    | split)

theorem keyMemPoke_admSame {a0 : State} (s : State) (a : Nat) (w : Word) (h0 : AdmSame a0 s) : AdmSame a0 (keyMemPoke s a w) := by
  unfold keyMemPoke
  try dsimp only
  repeat' (first
    | with_reducible assumption
    | intro _
    | with_reducible (first
      | apply AdmSame.refl | apply AdmSame.ite | (fail_if_no_progress apply AdmSame.keep))
    | split)

theorem storePoke_admSame {a0 : State} (s : State) (a : Nat) (w : Word) (h0 : AdmSame a0 s) : AdmSame a0 (storePoke s a w) := by
  unfold storePoke
  try dsimp only
  repeat' (first
    | with_reducible assumption
    | intro _
    | with_reducible (first
      | apply keyMemPoke_admSame | apply modCipher_admSame | apply AdmSame.refl | apply AdmSame.ite | apply AdmSame.foldl
      | apply AdmSame.foldl1 | apply AdmSame.foldl2 | (fail_if_no_progress apply AdmSame.keep))
    | split)

/-! ### Faults -/

theorem strikeCtx_admSame {a0 : State} (s : State) (n : Nat) (h0 : AdmSame a0 s) : AdmSame a0 (strikeCtx s n) := by
  unfold strikeCtx
  try dsimp only
  repeat' (first
    | with_reducible assumption
    | intro _
    | with_reducible (first
      | apply ctxError_admSame | apply endSlot_admSame | apply AdmSame.refl | apply AdmSame.ite
      | (fail_if_no_progress apply AdmSame.keep))
    | split)

/-! ### Migration -/

theorem fillRegion_admSame {a0 : State} (i : Nat) (entries : Tab (BitVec 128)) (s : State) (r : MigRegion) (h0 : AdmSame a0 s) : AdmSame
    a0 (fillRegion i entries s r) := by
  unfold fillRegion
  try dsimp only
  repeat' (first
    | with_reducible assumption
    | intro _
    | with_reducible (first
      | apply poolStore_admSame | apply AdmSame.refl | apply AdmSame.ite | apply AdmSame.foldl | apply AdmSame.foldl1
      | apply AdmSame.foldl2 | (fail_if_no_progress apply AdmSame.keep))
    | split)

theorem jumpEvents_admSame {a0 : State} (s : State) (r : Nat × Sa) (h0 : AdmSame a0 s) : AdmSame a0 (jumpEvents s r) := by
  unfold jumpEvents
  try dsimp only
  repeat' (first
    | with_reducible assumption
    | intro _
    | with_reducible (first
      | apply post_admSame | apply AdmSame.refl | apply AdmSame.ite | (fail_if_no_progress apply AdmSame.keep))
    | split)

theorem buildRest_admSame {a0 : State} (s : State) (i src : Nat) (b : MigBody) (h0 : AdmSame a0 s) : AdmSame a0 (buildRest s i src b) :=
    by
  unfold buildRest
  try dsimp only
  repeat' (first
    | with_reducible assumption
    | intro _
    | with_reducible (first
      | apply fillRegion_admSame | apply modCipher_admSame | apply purgeKeyMem_admSame | apply AdmSame.refl | apply AdmSame.ite
      | apply AdmSame.foldl | apply AdmSame.foldl1 | apply AdmSame.foldl2 | (fail_if_no_progress apply AdmSame.keep))
    | split)

/-! ### Completions -/

theorem AdmSame.admCmd_eq {s t : State} (h : AdmSame s t) (slot : Nat) : admCmd t slot = admCmd s slot := by
  unfold admCmd; rw [h.cmds]

/-- A command whose meaning ends with `completeWith` completes with those results. -/
theorem completes_with {i : Instr} {s t : State} {slot op : Nat} {c : AdminCmd} {f : Entry → Entry} (hs : CanStart s slot op c)
    (h : exec i s = .next (completeWith t slot f)) (k : AdmSame s t) : Completes i s slot (f c.entry) stOk rsNone t := by
  have hc : admCmd t slot = some c := by rw [k.admCmd_eq, admCmd_of_mayStart hs.1]
  exact completes_of (by rw [h, completeWith_eq hc]) (.refl _) k.base k.epoch

/-- A command whose meaning ends with `complete` completes with the entry as it stands. -/
theorem completes_plain {i : Instr} {s t : State} {slot op : Nat} {c : AdminCmd} (hs : CanStart s slot op c)
    (h : exec i s = .next (complete t slot)) (k : AdmSame s t) : Completes i s slot c.entry stOk rsNone t := by
  have hc : admCmd t slot = some c := by rw [k.admCmd_eq, admCmd_of_mayStart hs.1]
  exact completes_of (by rw [h, complete_eq hc]) (.refl _) k.base k.epoch

/-- A command whose meaning ends with `refuse` completes with that status and reason. -/
theorem completes_refused {i : Instr} {s t : State} {slot op : Nat} {c : AdminCmd} {status : BitVec 8} {reason : Nat}
    (hs : CanStart s slot op c) (h : exec i s = .next (refuse t slot status reason)) (k : AdmSame s t) :
    Completes i s slot c.entry status reason t := by
  have hc : admCmd t slot = some c := by rw [k.admCmd_eq, admCmd_of_mayStart hs.1]
  exact completes_of (by rw [h, refuse_eq hc]) (.refl _) k.base k.epoch

end Sys2Proof.Machine
end

