-- ==== Sys2Proof/Laws/Crypto.lean ====
section
/-!
SUPPORT. What the ciphers undo: a sealed message opens to its plaintext, and a migration image of one chunk to its records.
-/

namespace Sys2Proof.Machine

theorem xorBytes_length (a b : Bytes) : (xorBytes a b).length = min a.length b.length := by simp [xorBytes]

theorem xorBytes_xorBytes (a k : Bytes) (h : a.length ≤ k.length) : xorBytes (xorBytes a k) k = a := by
  induction a generalizing k with
  | nil => simp [xorBytes]
  | cons x a ih =>
    cases k with
    | nil => simp at h
    | cons y k =>
      have := ih k (by simpa using h)
      simp only [xorBytes, List.zipWith_cons_cons] at this ⊢
      rw [this]
      simp

theorem shiftRows_length (b : Bytes) : (shiftRows b).length = 16 := rfl

/-- AES answers whole blocks, whatever it is given, if its last round key is whole. -/
theorem aesRounds_length (ks : List Bytes) (hne : ks ≠ []) (hl : (ks.getLast hne).length = 16) (b : Bytes) : (aesRounds ks b).length = 16 := by
  induction ks generalizing b with
  | nil => exact absurd rfl hne
  | cons k ks ih =>
    cases ks with
    | nil =>
      have hk : k.length = 16 := hl
      simp [aesRounds, xorBytes_length, shiftRows_length, hk]
    | cons k' ks => exact ih (by simp) (by simpa using hl) _

/-- One block of GCTR. -/
def gctrStep (rks : List Bytes) (r : Bytes × Bytes) (b : Bytes) : Bytes × Bytes :=
  (r.1 ++ xorBytes b ((aesBlock rks r.2).take b.length), incCounter r.2)

theorem gctr_fold_acc (rks : List Bytes) (l : List Bytes) (acc cb : Bytes) :
    (l.foldl (gctrStep rks) (acc, cb)).1 = acc ++ (l.foldl (gctrStep rks) ([], cb)).1 := by
  induction l generalizing acc cb with
  | nil => simp
  | cons b l ih =>
    simp only [List.foldl_cons, gctrStep, List.nil_append]
    rw [ih, ih (xorBytes _ _)]
    simp

/-- GCTR keeps the length and undoes itself. -/
theorem gctr_fold_undo (rks : List Bytes) (hk : ∀ b, (aesBlock rks b).length = 16) (n : Nat) (cb bs : Bytes) (h : bs.length < 16 * n) :
    let r := ((chunks 16 n bs).foldl (gctrStep rks) ([], cb)).1
    r.length = bs.length ∧ ((chunks 16 n r).foldl (gctrStep rks) ([], cb)).1 = bs := by
  induction n generalizing cb bs with
  | zero => omega
  | succ n ih =>
    cases bs with
    | nil => simp [chunks]
    | cons x xs =>
      generalize hbs : x :: xs = bs at h
      have hne : bs.isEmpty = false := by subst hbs; rfl
      have hpos : 0 < bs.length := by subst hbs; simp
      let k := (aesBlock rks cb).take (bs.take 16).length
      have hklen : k.length = (bs.take 16).length := by simp [k, hk]
      let y := xorBytes (bs.take 16) k
      have hy : y.length = (bs.take 16).length := by simp only [y, xorBytes_length, hklen, Nat.min_self]
      let r' := ((chunks 16 n (bs.drop 16)).foldl (gctrStep rks) ([], incCounter cb)).1
      have hr' : r'.length = (bs.drop 16).length ∧ ((chunks 16 n r').foldl (gctrStep rks) ([], incCounter cb)).1 = bs.drop 16 := by
        by_cases hd : bs.length ≤ 16
        · have hz : bs.drop 16 = [] := List.drop_eq_nil_of_le hd
          have hc : ∀ m, chunks 16 m ([] : Bytes) = [] := fun m => by cases m <;> rfl
          simp [r', hz, hc]
        · exact ih (incCounter cb) (bs.drop 16) (by simp; omega)
      have hr : ((chunks 16 (n + 1) bs).foldl (gctrStep rks) ([], cb)).1 = y ++ r' := by
        simp only [chunks, hne, Bool.false_eq_true, if_false, List.foldl_cons]
        rw [show gctrStep rks ([], cb) (bs.take 16) = (y, incCounter cb) by simp [gctrStep, y, k]]
        exact gctr_fold_acc _ _ _ _
      rw [hr]
      refine ⟨by rw [List.length_append, hy, hr'.1, List.length_take, List.length_drop]; omega, ?_⟩
      have hyr : (y ++ r').isEmpty = false := by
        cases hc : y ++ r' with
        | nil =>
          have := congrArg List.length hc
          rw [List.length_append, hy, List.length_take, List.length_nil] at this
          omega
        | cons _ _ => rfl
      have htake : (y ++ r').take 16 = y := by
        by_cases hd : bs.length ≤ 16
        · have : r' = [] := by
            apply List.eq_nil_of_length_eq_zero
            rw [hr'.1]; simp [hd]
          rw [this, List.append_nil, List.take_of_length_le]
          rw [hy]; simp
        · rw [List.take_append_of_le_length (by rw [hy]; simp; omega), List.take_of_length_le (by rw [hy]; simp)]
      have hdrop : (y ++ r').drop 16 = r' := by
        by_cases hd : bs.length ≤ 16
        · have : r' = [] := by
            apply List.eq_nil_of_length_eq_zero
            rw [hr'.1]; simp [hd]
          rw [this, List.append_nil, List.drop_eq_nil_of_le]
          rw [hy]; simp
        · rw [show (16 : Nat) = y.length by rw [hy]; simp; omega, List.drop_left]
      simp only [chunks, hyr, Bool.false_eq_true, if_false, List.foldl_cons, htake, hdrop]
      have hback : xorBytes y ((aesBlock rks cb).take y.length) = bs.take 16 := by
        rw [hy]; exact xorBytes_xorBytes _ _ (by rw [hklen])
      rw [show gctrStep rks ([], cb) y = (bs.take 16, incCounter cb) by simp [gctrStep, hback]]
      rw [gctr_fold_acc, hr'.2, List.take_append_drop]

theorem gctr_undo (rks : List Bytes) (hk : ∀ b, (aesBlock rks b).length = 16) (cb bs : Bytes) :
    (gctr rks cb bs).1.length = bs.length ∧ (gctr rks cb (gctr rks cb bs).1).1 = bs := by
  have h := gctr_fold_undo rks hk (bs.length / 16 + 1) cb bs (by omega)
  have hd : ∀ b, gctr rks cb b = (chunks 16 (b.length / 16 + 1) b).foldl (gctrStep rks) ([], cb) := fun _ => rfl
  rw [← hd] at h
  refine ⟨h.1, ?_⟩
  rw [hd (gctr rks cb bs).1, h.1]
  exact h.2

/-- What was sealed opens, under the same key, IV and additional data. -/
theorem gcmOpen_gcmSeal (key iv aad pt : Bytes) (hk : ∀ b, (aesBlock (roundKeys key) b).length = 16) :
    (gcmSeal key iv aad pt).1.length = pt.length ∧ (gcmSeal key iv aad pt).2.length = 16 ∧
    gcmOpen key iv aad (gcmSeal key iv aad pt).1 (gcmSeal key iv aad pt).2 = some pt := by
  have hg := gctr_undo (roundKeys key) hk (incCounter (gcmJ0 iv)) pt
  refine ⟨hg.1, ?_, ?_⟩
  · simp [gcmSeal, gcmTag, xorBytes_length, hk, beBytes, leBytes]
  · simp [gcmSeal, gcmOpen, hg.2]

/-- The chunks of an image whose plaintext is one chunk. -/
theorem openChunks_sealChunks (key : BitVec 256) (header pt : Bytes) (hk : ∀ b, (aesBlock (roundKeys (migKeyBytes key)) b).length = 16)
    (h0 : 0 < pt.length) (h1 : pt.length < 1048576) :
    (sealChunks key header pt).length = pt.length + 16 ∧ openChunks key header 1 0 (sealChunks key header pt) = some pt := by
  have hc : chunks 1048576 (pt.length / 1048576 + 1) pt = [pt] := by
    have he : pt.isEmpty = false := by cases pt with
      | nil => simp at h0
      | cons _ _ => rfl
    have hz : pt.length / 1048576 = 0 := by omega
    rw [hz]
    simp [chunks, he, List.take_of_length_le (Nat.le_of_lt h1)]
  have hg := gcmOpen_gcmSeal (migKeyBytes key) (chunkIv header 0) header pt hk
  have hs : sealChunks key header pt =
      (gcmSeal (migKeyBytes key) (chunkIv header 0) header pt).1 ++ (gcmSeal (migKeyBytes key) (chunkIv header 0) header pt).2 := by
    simp [sealChunks, hc]
  generalize hq : gcmSeal (migKeyBytes key) (chunkIv header 0) header pt = q at hg hs
  obtain ⟨ha, hb, ho⟩ := hg
  have hl : (q.1 ++ q.2).length = pt.length + 16 := by simp [ha, hb]
  rw [hs]
  refine ⟨hl, ?_⟩
  have ht : (q.1 ++ q.2).take (1048576 + 16) = q.1 ++ q.2 := List.take_of_length_le (by omega)
  have hd : (q.1 ++ q.2).drop (1048576 + 16) = [] := List.drop_eq_nil_of_le (by omega)
  have hx : (q.1 ++ q.2).take ((q.1 ++ q.2).length - 16) = q.1 := by
    rw [hl, ← ha]; simp
  have hy : (q.1 ++ q.2).drop ((q.1 ++ q.2).length - 16) = q.2 := by
    rw [hl, ← ha]; simp
  simp only [openChunks, ht, hd, hx, hy, ho]
  simp

end Sys2Proof.Machine
end

