-- ==== Sys2Proof/Laws/Frame.lean ====
section
/-!
SUPPORT. The frame of every operation, one lemma each: what stays as it was between `s` and the state an operation answers. `f_same` says
that an operation applied to a state that is still `Same` as `s` gives another such state, so the lemmas chain.
-/

set_option Elab.async false
set_option linter.unusedTactic false
set_option linter.unreachableTactic false

namespace Sys2Proof.Machine

/-- What nearly every operation leaves as it was: the phase of the supply, CORE, whether the watchdog runs with a legal period, STAGE, the
cause of Perch, PERCH_N, and the canonical form of pool memory. -/
structure Same (s t : State) : Prop where
  phase : t.power.phase = s.power.phase
  coreMv : t.power.coreMv = s.power.coreMv
  wdt : (s.wdt.enabled = true → 1 ≤ s.wdt.periodMs.toNat ∧ s.wdt.periodMs.toNat ≤ 16000) → t.wdt.enabled = true → 1 ≤
      t.wdt.periodMs.toNat ∧ t.wdt.periodMs.toNat ≤ 16000
  stage : t.start.stage = s.start.stage
  cause : t.start.perchCause = s.start.perchCause
  info : t.start.perchInfo = s.start.perchInfo
  perchN : t.pins.perchN = s.pins.perchN
  mem : memWf s.pool.mem = true → memWf t.pool.mem = true

theorem Same.refl (s : State) : Same s s := ⟨rfl, rfl, id, rfl, rfl, rfl, rfl, id⟩

theorem Same.trans {s t u : State} (h : Same s t) (k : Same t u) : Same s u :=
  ⟨k.phase.trans h.phase, k.coreMv.trans h.coreMv, fun x => k.wdt (h.wdt x), k.stage.trans h.stage,
   k.cause.trans h.cause, k.info.trans h.info, k.perchN.trans h.perchN, fun x => k.mem (h.mem x)⟩

theorem Same.keep {s t : State} (h : Same s t) (pins_pwrOk : Bool) (pins_brdRstN : Bool) (pins_hPerstN : Bool) (pins_smba : BitVec 2)
    (pins_imgsel : BitVec 1) (pins_test : BitVec 2) (pins_aPerstN : BitVec 4) (pins_thermtripN : Drive) (pins_smbAlert : Bool)
    (pins_nTxEnable : BitVec 8) (power_railsUp : Bool) (power_owlTest : Option Bool) (power_marginPct : BitVec 8) (power_atCeiling : Bool)
    (power_glideTarget : Bool) (power_hLinkUp : Bool) (power_hTraining : Bool) (clocks : Clocks) (time : TimeBase) (start_copyAlt : Bool)
    (start_fallback : Bool) (start_scrubDone : Bool) (start_fwRunning : Bool) (start_seeded : Bool) (start_entropyFailed : Bool)
    (start_coreOk : BitVec 16) (start_stackOk : BitVec 6) (start_nportOk : BitVec 4) (start_aportOk : BitVec 4) (start_image : Option
    Image) (start_reasonPri : Option (BitVec 8)) (start_reasonAlt : Option (BitVec 8)) (start_coreTested : Bool) (start_nportSelf : BitVec
    4) (start_trained : Bool) (start_entropyRuns : Nat) (start_railsAt : Option Nat) (start_imageAt : Option Nat) (start_fwDeadline :
    Option Nat) (start_aports : List APort) (start_flash : Option FlashJob) (start_flashMode : Option FlashMode) (adm : Adm) (epoch :
    BitVec 16) (ctlReset : Bool) (pm : Pm) (trace : Trace) (wdt_since : Nat) (vfEnable : Bool) (numVfs : Nat) (fns : Tab FnState) (payload
    : BitVec 3) (readReq : BitVec 3) (relaxed : Bool) (aspmL1 : Bool) (pfBar : BitVec 64) (vfBar : BitVec 64) (pages : Tab Page) (cqs :
    Tab Cq) (qps : Tab Qp) (msgOut : Nat) (dests : Tab Dest) (pathConf : Tab PathConf) (pathDef : PathConf) (cong : CongParams) (ports :
    List Port) (classes : List ClassConf) (limiters : Tab Limiter) (trains : List Train) (txq : List TxDgram) (rxq : List RxDgram)
    (mirrors : Tab Mirror) (tcache : List CacheEntry) (ats : List AtsEntry) (waits : List Waiting) (pageReqs : List PageReq) (prgHeld :
    List (Nat × Nat × PrgCode)) (reads : List DataRead) (flushes : List Flush) (drains : List Drain) (pool_written : List Nat)
    (pool_failed : List Nat) (pool_stackOut : BitVec 6) (pool_regions : List Region) (pool_zeroing : List Zeroing) (pool_corrected : List
    (Nat × Nat)) (pool_rateAt : Tab Nat) (insts : Tab Inst) (ctxs : Tab Ctx) (kettles : Tab Kettle) (array : ArrayUnit) (forwards : List
    Forward) (counters : Tab Nat) (cipher : Cipher) (pfMbx : List Channel) (secMbx : List Channel) (relays : List Relay) (secLast : Nat)
    (secRuns : List (Nat × Nat)) (owl : Owl) (traffic : Traffic) (eid : BitVec 8) (a1 : Bool) (halted : Bool) (dbg : Dbg) (out : List
    Output) (heldOut : List Output) (portHeld : List Output) (pending : List Instr) (now : Nat) (fresh : Nat) :
    Same s (State.mk (Pins.mk pins_pwrOk pins_brdRstN pins_hPerstN pins_smba pins_imgsel pins_test pins_aPerstN pins_thermtripN
        t.pins.perchN pins_smbAlert pins_nTxEnable) (Power.mk t.power.phase power_railsUp power_owlTest t.power.coreMv power_marginPct
        power_atCeiling power_glideTarget power_hLinkUp power_hTraining) clocks time (Start.mk t.start.stage start_copyAlt start_fallback
        start_scrubDone start_fwRunning start_seeded start_entropyFailed start_coreOk start_stackOk start_nportOk start_aportOk
        t.start.perchCause t.start.perchInfo start_image start_reasonPri start_reasonAlt start_coreTested start_nportSelf start_trained
        start_entropyRuns start_railsAt start_imageAt start_fwDeadline start_aports start_flash start_flashMode) adm epoch ctlReset pm
        trace (Watchdog.mk t.wdt.periodMs t.wdt.enabled wdt_since) vfEnable numVfs fns payload readReq relaxed aspmL1 pfBar vfBar pages
        cqs qps msgOut dests pathConf pathDef cong ports classes limiters trains txq rxq mirrors tcache ats waits pageReqs prgHeld reads
        flushes drains (Pool.mk t.pool.mem pool_written pool_failed pool_stackOut pool_regions pool_zeroing pool_corrected pool_rateAt)
        insts ctxs kettles array forwards counters cipher pfMbx secMbx relays secLast secRuns owl traffic eid a1 halted dbg out heldOut
        portHeld pending now fresh) :=
  ⟨h.phase, h.coreMv, h.wdt, h.stage, h.cause, h.info, h.perchN, h.mem⟩

theorem Same.keepMem {s t : State} (h : Same s t) {m : List (Nat × Byte)} (clocks : Clocks) (time : TimeBase) (adm : Adm) (epoch : BitVec
    16) (ctlReset : Bool) (pm : Pm) (trace : Trace) (vfEnable : Bool) (numVfs : Nat) (fns : Tab FnState) (payload : BitVec 3) (readReq :
    BitVec 3) (relaxed : Bool) (aspmL1 : Bool) (pfBar : BitVec 64) (vfBar : BitVec 64) (pages : Tab Page) (cqs : Tab Cq) (qps : Tab Qp)
    (msgOut : Nat) (dests : Tab Dest) (pathConf : Tab PathConf) (pathDef : PathConf) (cong : CongParams) (ports : List Port) (classes :
    List ClassConf) (limiters : Tab Limiter) (trains : List Train) (txq : List TxDgram) (rxq : List RxDgram) (mirrors : Tab Mirror)
    (tcache : List CacheEntry) (ats : List AtsEntry) (waits : List Waiting) (pageReqs : List PageReq) (prgHeld : List (Nat × Nat ×
    PrgCode)) (reads : List DataRead) (flushes : List Flush) (drains : List Drain) (pool_written : List Nat) (pool_failed : List Nat)
    (pool_stackOut : BitVec 6) (pool_regions : List Region) (pool_zeroing : List Zeroing) (pool_corrected : List (Nat × Nat)) (pool_rateAt
    : Tab Nat) (insts : Tab Inst) (ctxs : Tab Ctx) (kettles : Tab Kettle) (array : ArrayUnit) (forwards : List Forward) (counters : Tab
    Nat) (cipher : Cipher) (pfMbx : List Channel) (secMbx : List Channel) (relays : List Relay) (secLast : Nat) (secRuns : List (Nat ×
    Nat)) (owl : Owl) (traffic : Traffic) (eid : BitVec 8) (a1 : Bool) (halted : Bool) (dbg : Dbg) (out : List Output) (heldOut : List
    Output) (portHeld : List Output) (pending : List Instr) (now : Nat) (fresh : Nat) (hm : memWf t.pool.mem = true → memWf m = true) :
    Same s (State.mk t.pins t.power clocks time t.start adm epoch ctlReset pm trace t.wdt vfEnable numVfs fns payload readReq relaxed
        aspmL1 pfBar vfBar pages cqs qps msgOut dests pathConf pathDef cong ports classes limiters trains txq rxq mirrors tcache ats waits
        pageReqs prgHeld reads flushes drains (Pool.mk m pool_written pool_failed pool_stackOut pool_regions pool_zeroing pool_corrected
        pool_rateAt) insts ctxs kettles array forwards counters cipher pfMbx secMbx relays secLast secRuns owl traffic eid a1 halted dbg
        out heldOut portHeld pending now fresh) :=
  ⟨h.phase, h.coreMv, h.wdt, h.stage, h.cause, h.info, h.perchN, fun x => hm (h.mem x)⟩

theorem Same.setWdt {s t : State} (h : Same s t) {p : BitVec 14} {b : Bool} (clocks : Clocks) (time : TimeBase) (adm : Adm) (epoch :
    BitVec 16) (ctlReset : Bool) (pm : Pm) (trace : Trace) (wdt_since : Nat) (vfEnable : Bool) (numVfs : Nat) (fns : Tab FnState) (payload
    : BitVec 3) (readReq : BitVec 3) (relaxed : Bool) (aspmL1 : Bool) (pfBar : BitVec 64) (vfBar : BitVec 64) (pages : Tab Page) (cqs :
    Tab Cq) (qps : Tab Qp) (msgOut : Nat) (dests : Tab Dest) (pathConf : Tab PathConf) (pathDef : PathConf) (cong : CongParams) (ports :
    List Port) (classes : List ClassConf) (limiters : Tab Limiter) (trains : List Train) (txq : List TxDgram) (rxq : List RxDgram)
    (mirrors : Tab Mirror) (tcache : List CacheEntry) (ats : List AtsEntry) (waits : List Waiting) (pageReqs : List PageReq) (prgHeld :
    List (Nat × Nat × PrgCode)) (reads : List DataRead) (flushes : List Flush) (drains : List Drain) (insts : Tab Inst) (ctxs : Tab Ctx)
    (kettles : Tab Kettle) (array : ArrayUnit) (forwards : List Forward) (counters : Tab Nat) (cipher : Cipher) (pfMbx : List Channel)
    (secMbx : List Channel) (relays : List Relay) (secLast : Nat) (secRuns : List (Nat × Nat)) (owl : Owl) (traffic : Traffic) (eid :
    BitVec 8) (a1 : Bool) (halted : Bool) (dbg : Dbg) (out : List Output) (heldOut : List Output) (portHeld : List Output) (pending : List
    Instr) (now : Nat) (fresh : Nat) (hm : (t.wdt.enabled = true → 1 ≤ t.wdt.periodMs.toNat ∧ t.wdt.periodMs.toNat ≤ 16000) → b = true → 1
    ≤ p.toNat ∧ p.toNat ≤ 16000) :
    Same s (State.mk t.pins t.power clocks time t.start adm epoch ctlReset pm trace (Watchdog.mk p b wdt_since) vfEnable numVfs fns
        payload readReq relaxed aspmL1 pfBar vfBar pages cqs qps msgOut dests pathConf pathDef cong ports classes limiters trains txq rxq
        mirrors tcache ats waits pageReqs prgHeld reads flushes drains t.pool insts ctxs kettles array forwards counters cipher pfMbx
        secMbx relays secLast secRuns owl traffic eid a1 halted dbg out heldOut portHeld pending now fresh) :=
  ⟨h.phase, h.coreMv, fun x => hm (h.wdt x), h.stage, h.cause, h.info, h.perchN, h.mem⟩

theorem Same.ite {s t u : State} {c : Prop} [Decidable c] (h : Same s t) (k : Same s u) : Same s (if c then t else u) := by
  split <;> assumption

theorem Same.foldl {α : Type} {s t : State} (h : Same s t) (f : State → α → State) (l : List α) (hf : ∀ u a, Same s u → Same s (f u a)) :
    Same s (l.foldl f t) := by
  induction l generalizing t with
  | nil => exact h
  | cons a l ih => exact ih (hf t a h)

theorem Same.foldl1 {α β : Type} {s t : State} (h : Same s t) (b : β) (f : State × β → α → State × β) (l : List α) (hf : ∀ u a, Same s u.1
    → Same s (f u a).1) : Same s (l.foldl f (t, b)).1 := by
  suffices ∀ x : State × β, Same s x.1 → Same s (l.foldl f x).1 from this _ h
  intro x hx
  induction l generalizing x with
  | nil => exact hx
  | cons a l ih => exact ih _ (hf _ a hx)

theorem Same.foldl2 {α β : Type} {s t : State} (h : Same s t) (b : β) (f : β × State → α → β × State) (l : List α) (hf : ∀ u a, Same s u.2
    → Same s (f u a).2) : Same s (l.foldl f (b, t)).2 := by
  suffices ∀ x : β × State, Same s x.2 → Same s (l.foldl f x).2 from this _ h
  intro x hx
  induction l generalizing x with
  | nil => exact hx
  | cons a l ih => exact ih _ (hf _ a hx)

/-! ### Ops -/

theorem sendOut_same {a0 : State} (s : State) (o : Output) (h0 : Same a0 s) : Same a0 (sendOut s o) := by
  unfold sendOut
  try dsimp only
  repeat' (first
    | with_reducible assumption
    | intro _
    | with_reducible (first
      | apply Same.refl | apply Same.ite | (fail_if_no_progress apply Same.keep))
    | split)

theorem emit_same {a0 : State} (s : State) (o : Output) (h0 : Same a0 s) : Same a0 (emit s o) := by
  unfold emit
  try dsimp only
  repeat' (first
    | with_reducible assumption
    | intro _
    | with_reducible (first
      | apply sendOut_same | apply Same.refl | apply Same.ite | (fail_if_no_progress apply Same.keep))
    | split)

theorem releasePort_same {a0 : State} (s : State) (n : Nat) (h0 : Same a0 s) : Same a0 (releasePort s n) := by
  unfold releasePort
  try dsimp only
  repeat' (first
    | with_reducible assumption
    | intro _
    | with_reducible (first
      | apply emit_same | apply Same.refl | apply Same.ite | apply Same.foldl | apply Same.foldl1 | apply Same.foldl2
      | (fail_if_no_progress apply Same.keep))
    | split)

theorem writeData_same {a0 : State} (s : State) (dst : Target) (addr : Nat) (bs : Bytes) (h0 : Same a0 s) : Same a0 (writeData s dst addr
    bs) := by
  unfold writeData
  try dsimp only
  repeat' (first
    | with_reducible assumption
    | intro _
    | with_reducible (first
      | apply emit_same | apply Same.refl | apply Same.ite | apply Same.foldl | apply Same.foldl1 | apply Same.foldl2
      | (fail_if_no_progress apply Same.keep))
    | split)

theorem readData_same {a0 : State} (s : State) (src : Target) (addr len id : Nat) (h0 : Same a0 s) : Same a0 (readData s src addr len id)
    := by
  unfold readData
  try dsimp only
  repeat' (first
    | with_reducible assumption
    | intro _
    | with_reducible (first
      | apply emit_same | apply Same.refl | apply Same.ite | apply Same.foldl | apply Same.foldl1 | apply Same.foldl2
      | (fail_if_no_progress apply Same.keep))
    | split)

theorem writeResult_same {a0 : State} (s : State) (dst : Target) (addr : Nat) (bs : Bytes) (h0 : Same a0 s) : Same a0 (writeResult s dst
    addr bs) := by
  unfold writeResult
  try dsimp only
  repeat' (first
    | with_reducible assumption
    | intro _
    | with_reducible (first
      | apply emit_same | apply Same.refl | apply Same.ite | apply Same.foldl | apply Same.foldl1 | apply Same.foldl2
      | (fail_if_no_progress apply Same.keep))
    | split)

theorem takeFresh_same {a0 : State} (s : State) (h0 : Same a0 s) : Same a0 (takeFresh s).2 := by
  unfold takeFresh
  try dsimp only
  repeat' (first
    | with_reducible assumption
    | intro _
    | with_reducible (first
      | apply Same.refl | apply Same.ite | (fail_if_no_progress apply Same.keep))
    | split)

theorem writeOwned_same {a0 : State} (s : State) (dst : Target) (addr : Nat) (bs : Bytes) (h0 : Same a0 s) : Same a0 (writeOwned s dst
    addr bs) := by
  unfold writeOwned
  try dsimp only
  repeat' (first
    | with_reducible assumption
    | intro _
    | with_reducible (first
      | apply emit_same | apply Same.refl | apply Same.ite | (fail_if_no_progress apply Same.keep))
    | split)

theorem count_same {a0 : State} (s : State) (group index n k : Nat) (h0 : Same a0 s) : Same a0 (count s group index n k) := by
  unfold count
  try dsimp only
  repeat' (first
    | with_reducible assumption
    | intro _
    | with_reducible (first
      | apply Same.refl | apply Same.ite | (fail_if_no_progress apply Same.keep))
    | split)

theorem heardTlp_same {a0 : State} (s : State) (h0 : Same a0 s) : Same a0 (heardTlp s) := by
  unfold heardTlp
  try dsimp only
  repeat' (first
    | with_reducible assumption
    | intro _
    | with_reducible (first
      | apply Same.refl | apply Same.ite | (fail_if_no_progress apply Same.keep))
    | split)

theorem heardAt_same {a0 : State} (s : State) (port : Nat) (h0 : Same a0 s) : Same a0 (heardAt s port) := by
  unfold heardAt
  try dsimp only
  repeat' (first
    | with_reducible assumption
    | intro _
    | with_reducible (first
      | apply heardTlp_same | apply Same.refl | apply Same.ite | (fail_if_no_progress apply Same.keep))
    | split)

theorem heardBells_same {a0 : State} (s : State) (n : Nat) (h0 : Same a0 s) : Same a0 (heardBells s n) := by
  unfold heardBells
  try dsimp only
  repeat' (first
    | with_reducible assumption
    | intro _
    | with_reducible (first
      | apply Same.refl | apply Same.ite | (fail_if_no_progress apply Same.keep))
    | split)

theorem heardBell_same {a0 : State} (s : State) (h0 : Same a0 s) : Same a0 (heardBell s) := by
  unfold heardBell
  try dsimp only
  repeat' (first
    | with_reducible assumption
    | intro _
    | with_reducible (first
      | apply heardBells_same | apply heardTlp_same | apply Same.refl | apply Same.ite | (fail_if_no_progress apply Same.keep))
    | split)

theorem heardFrame_same {a0 : State} (s : State) (n k : Nat) (h0 : Same a0 s) : Same a0 (heardFrame s n k) := by
  unfold heardFrame
  try dsimp only
  repeat' (first
    | with_reducible assumption
    | intro _
    | with_reducible (first
      | apply Same.refl | apply Same.ite | (fail_if_no_progress apply Same.keep))
    | split)

theorem sentFrame_same {a0 : State} (s : State) (n k : Nat) (h0 : Same a0 s) : Same a0 (sentFrame s n k) := by
  unfold sentFrame
  try dsimp only
  repeat' (first
    | with_reducible assumption
    | intro _
    | with_reducible (first
      | apply Same.refl | apply Same.ite | (fail_if_no_progress apply Same.keep))
    | split)

theorem msixSend_same {a0 : State} (s : State) (fn v : Nat) (h0 : Same a0 s) : Same a0 (msixSend s fn v) := by
  unfold msixSend
  try dsimp only
  repeat' (first
    | with_reducible assumption
    | intro _
    | with_reducible (first
      | apply emit_same | apply Same.refl | apply Same.ite | (fail_if_no_progress apply Same.keep))
    | split)

theorem msixRaise_same {a0 : State} (s : State) (fn v : Nat) (h0 : Same a0 s) : Same a0 (msixRaise s fn v) := by
  unfold msixRaise
  try dsimp only
  repeat' (first
    | with_reducible assumption
    | intro _
    | with_reducible (first
      | apply msixSend_same | apply Same.refl | apply Same.ite | (fail_if_no_progress apply Same.keep))
    | split)

theorem putLine_same {a0 : State} (s : State) (a : Nat) (bs : Bytes) (h0 : Same a0 s) : Same a0 (putLine s a bs) := by
  unfold putLine
  dsimp only
  split
  · exact h0
  · apply Same.keepMem h0
    intro m
    apply memWf_memWrite
    split
    · exact memWf_memZero m _ _
    · exact m

theorem tracePut_same {a0 : State} (s : State) (type source : Nat) (data : BitVec 96) (h0 : Same a0 s) : Same a0 (tracePut s type source
    data) := by
  unfold tracePut
  try dsimp only
  repeat' (first
    | with_reducible assumption
    | intro _
    | with_reducible (first
      | apply msixRaise_same | apply putLine_same | apply Same.refl | apply Same.ite | (fail_if_no_progress apply Same.keep))
    | split)

theorem traceLose_same {a0 : State} (s : State) (full : Bool) (h0 : Same a0 s) : Same a0 (traceLose s full) := by
  unfold traceLose
  try dsimp only
  repeat' (first
    | with_reducible assumption
    | intro _
    | with_reducible (first
      | apply Same.refl | apply Same.ite | (fail_if_no_progress apply Same.keep))
    | split)

theorem traceRaw_same {a0 : State} (s : State) (cls : Option Nat) (type source : Nat) (data : BitVec 96) (h0 : Same a0 s) : Same a0
    (traceRaw s cls type source data).1 := by
  unfold traceRaw
  try dsimp only
  repeat' (first
    | with_reducible assumption
    | intro _
    | with_reducible (first
      | apply traceLose_same | apply tracePut_same | apply Same.refl | apply Same.ite | (fail_if_no_progress apply Same.keep))
    | split)

theorem putEventRaw_same {a0 : State} (s : State) (code : BitVec 16) (time : BitVec 64) (data : BitVec 96) (h0 : Same a0 s) : Same a0
    (putEventRaw s code time data).1 := by
  unfold putEventRaw
  try dsimp only
  repeat' (first
    | with_reducible assumption
    | intro _
    | with_reducible (first
      | apply msixRaise_same | apply traceRaw_same | apply writeOwned_same | apply Same.refl | apply Same.ite
      | (fail_if_no_progress apply Same.keep))
    | split)

theorem putEvent_same {a0 : State} (s : State) (code : BitVec 16) (time : BitVec 64) (data : BitVec 96) (h0 : Same a0 s) : Same a0
    (putEvent s code time data) := by
  unfold putEvent
  try dsimp only
  repeat' (first
    | with_reducible assumption
    | intro _
    | with_reducible (first
      | apply putEventRaw_same | apply Same.refl | apply Same.ite | (fail_if_no_progress apply Same.keep))
    | split)

theorem putOrHold_same {a0 : State} (s : State) (code : BitVec 16) (time : BitVec 64) (data : BitVec 96) (h0 : Same a0 s) : Same a0
    (putOrHold s code time data) := by
  unfold putOrHold
  try dsimp only
  repeat' (first
    | with_reducible assumption
    | intro _
    | with_reducible (first
      | apply putEvent_same | apply Same.refl | apply Same.ite | (fail_if_no_progress apply Same.keep))
    | split)

theorem post_same {a0 : State} (s : State) (code : BitVec 16) (data : BitVec 96) (h0 : Same a0 s) : Same a0 (post s code data) := by
  unfold post
  try dsimp only
  repeat' (first
    | with_reducible assumption
    | intro _
    | with_reducible (first
      | apply putOrHold_same | apply Same.refl | apply Same.ite | (fail_if_no_progress apply Same.keep))
    | split)

theorem trace_same {a0 : State} (s : State) (cls : Option Nat) (type source : Nat) (data : BitVec 96) (h0 : Same a0 s) : Same a0 (trace s
    cls type source data) := by
  unfold trace
  try dsimp only
  repeat' (first
    | with_reducible assumption
    | intro _
    | with_reducible (first
      | apply post_same | apply traceRaw_same | apply Same.refl | apply Same.ite | (fail_if_no_progress apply Same.keep))
    | split)

theorem owlPut_same {a0 : State} (s : State) (type : Nat) (data : BitVec 96) (h0 : Same a0 s) : Same a0 (owlPut s type data) := by
  unfold owlPut
  try dsimp only
  repeat' (first
    | with_reducible assumption
    | intro _
    | with_reducible (first
      | apply Same.refl | apply Same.ite | (fail_if_no_progress apply Same.keep))
    | split)

theorem notePerch_same {a0 : State} (s : State) (h0 : Same a0 s) : Same a0 (notePerch s) := by
  unfold notePerch
  try dsimp only
  repeat' (first
    | with_reducible assumption
    | intro _
    | with_reducible (first
      | apply owlPut_same | apply takeFresh_same | apply trace_same | apply Same.refl | apply Same.ite
      | (fail_if_no_progress apply Same.keep))
    | split)

theorem admFetch_same {a0 : State} (s : State) (h0 : Same a0 s) : Same a0 (admFetch s) := by
  unfold admFetch
  try dsimp only
  repeat' (first
    | with_reducible assumption
    | intro _
    | with_reducible (first
      | apply emit_same | apply Same.refl | apply Same.ite | (fail_if_no_progress apply Same.keep))
    | split)

theorem admSettle_same {a0 : State} (s : State) (h0 : Same a0 s) : Same a0 (admSettle s) := by
  unfold admSettle
  try dsimp only
  repeat' (first
    | with_reducible assumption
    | intro _
    | with_reducible (first
      | apply admFetch_same | apply Same.refl | apply Same.ite | (fail_if_no_progress apply Same.keep))
    | split)

theorem completeEntry_same {a0 : State} (s : State) (slot : Nat) (res : Entry) (status : BitVec 8) (reason : Nat) (h0 : Same a0 s) : Same
    a0 (completeEntry s slot res status reason) := by
  unfold completeEntry
  try dsimp only
  repeat' (first
    | with_reducible assumption
    | intro _
    | with_reducible (first
      | apply admSettle_same | apply msixRaise_same | apply trace_same | apply writeOwned_same | apply Same.refl | apply Same.ite
      | (fail_if_no_progress apply Same.keep))
    | split)

theorem completeWith_same {a0 : State} (s : State) (slot : Nat) (f : Entry → Entry) (h0 : Same a0 s) : Same a0 (completeWith s slot f) :=
    by
  unfold completeWith
  try dsimp only
  repeat' (first
    | with_reducible assumption
    | intro _
    | with_reducible (first
      | apply completeEntry_same | apply Same.refl | apply Same.ite | (fail_if_no_progress apply Same.keep))
    | split)

theorem refuse_same {a0 : State} (s : State) (slot : Nat) (status : BitVec 8) (reason : Nat) (h0 : Same a0 s) : Same a0 (refuse s slot
    status reason) := by
  unfold refuse
  try dsimp only
  repeat' (first
    | with_reducible assumption
    | intro _
    | with_reducible (first
      | apply completeEntry_same | apply Same.refl | apply Same.ite | (fail_if_no_progress apply Same.keep))
    | split)

theorem complete_same {a0 : State} (s : State) (slot : Nat) (h0 : Same a0 s) : Same a0 (complete s slot) := by
  unfold complete
  try dsimp only
  repeat' (first
    | with_reducible assumption
    | intro _
    | with_reducible (first
      | apply completeWith_same | apply Same.refl | apply Same.ite | (fail_if_no_progress apply Same.keep))
    | split)

theorem keepRunning_same {a0 : State} (s : State) (slot : Nat) (h0 : Same a0 s) : Same a0 (keepRunning s slot) := by
  unfold keepRunning
  try dsimp only
  repeat' (first
    | with_reducible assumption
    | intro _
    | with_reducible (first
      | apply Same.refl | apply Same.ite | (fail_if_no_progress apply Same.keep))
    | split)

theorem holdCmd_same {a0 : State} (s : State) (slot : Nat) (h0 : Same a0 s) : Same a0 (holdCmd s slot) := by
  unfold holdCmd
  try dsimp only
  repeat' (first
    | with_reducible assumption
    | intro _
    | with_reducible (first
      | apply Same.refl | apply Same.ite | (fail_if_no_progress apply Same.keep))
    | split)

theorem startAdmin_same {a0 : State} (s : State) (slot opcode : Nat) (f : AdminCmd → State → State) (h0 : Same a0 s) (h_f : ∀ y0 y1, Same
    a0 y1 → Same a0 (f y0 y1)) : Same a0 (startAdmin s slot opcode f) := by
  unfold startAdmin
  try dsimp only
  repeat' (first
    | with_reducible assumption
    | intro _
    | with_reducible (first
      | apply h_f | apply holdCmd_same | apply Same.refl | apply Same.ite | (fail_if_no_progress apply Same.keep))
    | split)

/-! ### Power -/

theorem stopLinks_same {a0 : State} (s : State) (h0 : Same a0 s) : Same a0 (stopLinks s) := by
  unfold stopLinks
  try dsimp only
  repeat' (first
    | with_reducible assumption
    | intro _
    | with_reducible (first
      | apply Same.refl | apply Same.ite | (fail_if_no_progress apply Same.keep))
    | split)

theorem setResetPin_same {a0 : State} (s : State) (pin : ResetPin) (high : Bool) (h0 : Same a0 s) : Same a0 (setResetPin s pin high) := by
  unfold setResetPin
  try dsimp only
  repeat' (first
    | with_reducible assumption
    | intro _
    | with_reducible (first
      | apply Same.refl | apply Same.ite | (fail_if_no_progress apply Same.keep))
    | split)

/-! ### Startup -/

theorem acceptImage_same {a0 : State} (s : State) (alt : Bool) (c : Bytes) (h0 : Same a0 s) : Same a0 (acceptImage s alt c) := by
  unfold acceptImage
  try dsimp only
  repeat' (first
    | with_reducible assumption
    | intro _
    | with_reducible (first
      | apply Same.refl | apply Same.ite | apply Same.foldl | apply Same.foldl1 | apply Same.foldl2
      | (fail_if_no_progress apply Same.keep))
    | split)

theorem readFlash_same {a0 : State} (s : State) (alt : Bool) (sfdp : Option Sfdp) (h0 : Same a0 s) : Same a0 (readFlash s alt sfdp) := by
  unfold readFlash
  try dsimp only
  repeat' (first
    | with_reducible assumption
    | intro _
    | with_reducible (first
      | apply emit_same | apply Same.refl | apply Same.ite | (fail_if_no_progress apply Same.keep))
    | split)

theorem setAport_same {a0 : State} (s : State) (n : Nat) (f : APort → APort) (h0 : Same a0 s) : Same a0 (setAport s n f) := by
  unfold setAport
  try dsimp only
  repeat' (first
    | with_reducible assumption
    | intro _
    | with_reducible (first
      | apply Same.refl | apply Same.ite | (fail_if_no_progress apply Same.keep))
    | split)

theorem postAport_same {a0 : State} (s : State) (n : Nat) (ok : Bool) (step : Nat) (h0 : Same a0 s) : Same a0 (postAport s n ok step) :=
    by
  unfold postAport
  try dsimp only
  repeat' (first
    | with_reducible assumption
    | intro _
    | with_reducible (first
      | apply post_same | apply Same.refl | apply Same.ite | (fail_if_no_progress apply Same.keep))
    | split)

theorem aportFail_same {a0 : State} (s : State) (n step : Nat) (h0 : Same a0 s) : Same a0 (aportFail s n step) := by
  unfold aportFail
  try dsimp only
  repeat' (first
    | with_reducible assumption
    | intro _
    | with_reducible (first
      | apply postAport_same | apply setAport_same | apply Same.refl | apply Same.ite | (fail_if_no_progress apply Same.keep))
    | split)

/-! ### Rings -/

theorem setRing_same {a0 : State} (s : State) (k : RingKind) (id : Nat) (r : Ring) (h0 : Same a0 s) : Same a0 (setRing s k id r) := by
  unfold setRing
  try dsimp only
  repeat' (first
    | with_reducible assumption
    | intro _
    | with_reducible (first
      | apply Same.refl | apply Same.ite | (fail_if_no_progress apply Same.keep))
    | split)

theorem modInst_same {a0 : State} (s : State) (i : Nat) (f : Inst → Inst) (h0 : Same a0 s) : Same a0 (modInst s i f) := by
  unfold modInst
  try dsimp only
  repeat' (first
    | with_reducible assumption
    | intro _
    | with_reducible (first
      | apply Same.refl | apply Same.ite | (fail_if_no_progress apply Same.keep))
    | split)

theorem modPage_same {a0 : State} (s : State) (i : Nat) (f : Page → Page) (h0 : Same a0 s) : Same a0 (modPage s i f) := by
  unfold modPage
  try dsimp only
  repeat' (first
    | with_reducible assumption
    | intro _
    | with_reducible (first
      | apply Same.refl | apply Same.ite | (fail_if_no_progress apply Same.keep))
    | split)

theorem raiseVector_same {a0 : State} (s : State) (inst v : Nat) (h0 : Same a0 s) : Same a0 (raiseVector s inst v) := by
  unfold raiseVector
  try dsimp only
  repeat' (first
    | with_reducible assumption
    | intro _
    | with_reducible (first
      | apply emit_same | apply modInst_same | apply modPage_same | apply msixRaise_same | apply Same.refl | apply Same.ite
      | (fail_if_no_progress apply Same.keep))
    | split)

theorem raiseSignal_same {a0 : State} (s : State) (inst : Nat) (h0 : Same a0 s) : Same a0 (raiseSignal s inst) := by
  unfold raiseSignal
  try dsimp only
  repeat' (first
    | with_reducible assumption
    | intro _
    | with_reducible (first
      | apply modInst_same | apply raiseVector_same | apply Same.refl | apply Same.ite | (fail_if_no_progress apply Same.keep))
    | split)

theorem issueFlush_same {a0 : State} (s : State) (port inst : Nat) (why : FlushFor) (h0 : Same a0 s) : Same a0 (issueFlush s port inst
    why).2 := by
  unfold issueFlush
  try dsimp only
  repeat' (first
    | with_reducible assumption
    | intro _
    | with_reducible (first
      | apply emit_same | apply takeFresh_same | apply Same.refl | apply Same.ite | (fail_if_no_progress apply Same.keep))
    | split)

theorem issueFlushes_same {a0 : State} (s : State) (ports : List Nat) (inst : Nat) (why : FlushFor) (h0 : Same a0 s) : Same a0
    (issueFlushes s ports inst why).2 := by
  unfold issueFlushes
  try dsimp only
  repeat' (first
    | with_reducible assumption
    | intro _
    | with_reducible (first
      | apply issueFlush_same | apply Same.refl | apply Same.ite | apply Same.foldl | apply Same.foldl1 | apply Same.foldl2
      | (fail_if_no_progress apply Same.keep))
    | split)

theorem modCq_same {a0 : State} (s : State) (n : Nat) (f : Cq → Cq) (h0 : Same a0 s) : Same a0 (modCq s n f) := by
  unfold modCq
  try dsimp only
  repeat' (first
    | with_reducible assumption
    | intro _
    | with_reducible (first
      | apply Same.refl | apply Same.ite | (fail_if_no_progress apply Same.keep))
    | split)

theorem cqMessage_same {a0 : State} (s : State) (n : Nat) (c : Cq) (h0 : Same a0 s) : Same a0 (cqMessage s n c) := by
  unfold cqMessage
  try dsimp only
  repeat' (first
    | with_reducible assumption
    | intro _
    | with_reducible (first
      | apply issueFlush_same | apply raiseVector_same | apply Same.refl | apply Same.ite | (fail_if_no_progress apply Same.keep))
    | split)

theorem cqInterrupt_same {a0 : State} (s : State) (n : Nat) (h0 : Same a0 s) : Same a0 (cqInterrupt s n) := by
  unfold cqInterrupt
  try dsimp only
  repeat' (first
    | with_reducible assumption
    | intro _
    | with_reducible (first
      | apply cqMessage_same | apply modCq_same | apply Same.refl | apply Same.ite | (fail_if_no_progress apply Same.keep))
    | split)

theorem cqFail_same {a0 : State} (s : State) (n : Nat) (h0 : Same a0 s) : Same a0 (cqFail s n) := by
  unfold cqFail
  try dsimp only
  repeat' (first
    | with_reducible assumption
    | intro _
    | with_reducible (first
      | apply modCq_same | apply modPage_same | apply raiseVector_same | apply Same.refl | apply Same.ite
      | (fail_if_no_progress apply Same.keep))
    | split)

theorem writeReport_same {a0 : State} (s : State) (n : Nat) (r : Report) (h0 : Same a0 s) : Same a0 (writeReport s n r) := by
  unfold writeReport
  try dsimp only
  repeat' (first
    | with_reducible assumption
    | intro _
    | with_reducible (first
      | apply cqFail_same | apply cqInterrupt_same | apply modCq_same | apply writeOwned_same | apply Same.refl | apply Same.ite
      | (fail_if_no_progress apply Same.keep))
    | split)

theorem queueReport_same {a0 : State} (s : State) (n : Nat) (r : Report) (h0 : Same a0 s) : Same a0 (queueReport s n r) := by
  unfold queueReport
  try dsimp only
  repeat' (first
    | with_reducible assumption
    | intro _
    | with_reducible (first
      | apply modCq_same | apply writeReport_same | apply Same.refl | apply Same.ite | (fail_if_no_progress apply Same.keep))
    | split)

theorem releaseReport_same {a0 : State} (s : State) (n : Nat) (h0 : Same a0 s) : Same a0 (releaseReport s n) := by
  unfold releaseReport
  try dsimp only
  repeat' (first
    | with_reducible assumption
    | intro _
    | with_reducible (first
      | apply modCq_same | apply writeReport_same | apply Same.refl | apply Same.ite | (fail_if_no_progress apply Same.keep))
    | split)

theorem cqReturn_same {a0 : State} (s : State) (inst cqn count : Nat) (h0 : Same a0 s) : Same a0 (cqReturn s inst cqn count) := by
  unfold cqReturn
  try dsimp only
  repeat' (first
    | with_reducible assumption
    | intro _
    | with_reducible (first
      | apply count_same | apply modCq_same | apply Same.refl | apply Same.ite | (fail_if_no_progress apply Same.keep))
    | split)

theorem cqArm_same {a0 : State} (s : State) (inst cqn : Nat) (h0 : Same a0 s) : Same a0 (cqArm s inst cqn) := by
  unfold cqArm
  try dsimp only
  repeat' (first
    | with_reducible assumption
    | intro _
    | with_reducible (first
      | apply cqInterrupt_same | apply modCq_same | apply Same.refl | apply Same.ite | (fail_if_no_progress apply Same.keep))
    | split)

theorem modQp_same {a0 : State} (s : State) (n : Nat) (f : Qp → Qp) (h0 : Same a0 s) : Same a0 (modQp s n f) := by
  unfold modQp
  try dsimp only
  repeat' (first
    | with_reducible assumption
    | intro _
    | with_reducible (first
      | apply Same.refl | apply Same.ite | (fail_if_no_progress apply Same.keep))
    | split)

theorem endMessage_same {a0 : State} (s : State) (inst : Nat) (h0 : Same a0 s) : Same a0 (endMessage s inst) := by
  unfold endMessage
  try dsimp only
  repeat' (first
    | with_reducible assumption
    | intro _
    | with_reducible (first
      | apply modInst_same | apply Same.refl | apply Same.ite | (fail_if_no_progress apply Same.keep))
    | split)

theorem beginMessage_same {a0 : State} (s : State) (inst : Nat) (h0 : Same a0 s) : Same a0 (beginMessage s inst) := by
  unfold beginMessage
  try dsimp only
  repeat' (first
    | with_reducible assumption
    | intro _
    | with_reducible (first
      | apply modInst_same | apply Same.refl | apply Same.ite | (fail_if_no_progress apply Same.keep))
    | split)

theorem endWork_same {a0 : State} (s : State) (qpn slot : Nat) (h0 : Same a0 s) : Same a0 (endWork s qpn slot) := by
  unfold endWork
  try dsimp only
  repeat' (first
    | with_reducible assumption
    | intro _
    | with_reducible (first
      | apply endMessage_same | apply modQp_same | apply Same.refl | apply Same.ite | (fail_if_no_progress apply Same.keep))
    | split)

theorem gateEntry_same {a0 : State} (s : State) (k : RingKind) (id slot : Nat) (h0 : Same a0 s) : Same a0 (gateEntry s k id slot).2 := by
  unfold gateEntry
  try dsimp only
  repeat' (first
    | with_reducible assumption
    | intro _
    | with_reducible (first
      | apply issueFlushes_same | apply Same.refl | apply Same.ite | (fail_if_no_progress apply Same.keep))
    | split)

theorem handBack_same {a0 : State} (s : State) (k : RingKind) (id : Nat) (t : Taken) (o : Outcome) (h0 : Same a0 s) : Same a0 (handBack s
    k id t o) := by
  unfold handBack
  try dsimp only
  repeat' (first
    | with_reducible assumption
    | intro _
    | with_reducible (first
      | apply count_same | apply emit_same | apply endWork_same | apply modInst_same | apply queueReport_same | apply raiseSignal_same
      | apply setRing_same | apply Same.refl | apply Same.ite | (fail_if_no_progress apply Same.keep))
    | split)

theorem drainRing_same {a0 : State} (x0 : Nat) (x1 : State) (x2 : RingKind) (x3 : Nat) (h0 : Same a0 x1) : Same a0 (drainRing x0 x1 x2 x3)
    := by
  induction x0 generalizing x1 x2 x3 with
  | zero => simpa [drainRing] using h0
  | succ n ih =>
    unfold drainRing
    try dsimp only
    repeat' (first
      | with_reducible assumption
      | intro _
      | with_reducible (first
        | apply ih | apply handBack_same | apply Same.refl | apply Same.ite | (fail_if_no_progress apply Same.keep))
      | split)

theorem drain_same {a0 : State} (s : State) (k : RingKind) (id : Nat) (h0 : Same a0 s) : Same a0 (drain s k id) := by
  unfold drain
  try dsimp only
  repeat' (first
    | with_reducible assumption
    | intro _
    | with_reducible (first
      | apply drainRing_same | apply Same.refl | apply Same.ite | (fail_if_no_progress apply Same.keep))
    | split)

theorem decideSlot_same {a0 : State} (s : State) (k : RingKind) (id slot : Nat) (o : Outcome) (gate : List Nat) (h0 : Same a0 s) : Same a0
    (decideSlot s k id slot o gate) := by
  unfold decideSlot
  try dsimp only
  repeat' (first
    | with_reducible assumption
    | intro _
    | with_reducible (first
      | apply setRing_same | apply Same.refl | apply Same.ite | (fail_if_no_progress apply Same.keep))
    | split)

theorem endSlot_same {a0 : State} (s : State) (k : RingKind) (id slot : Nat) (o : Outcome) (h0 : Same a0 s) : Same a0 (endSlot s k id slot
    o) := by
  unfold endSlot
  try dsimp only
  repeat' (first
    | with_reducible assumption
    | intro _
    | with_reducible (first
      | apply decideSlot_same | apply gateEntry_same | apply Same.refl | apply Same.ite | (fail_if_no_progress apply Same.keep))
    | split)

theorem disableRing_same {a0 : State} (s : State) (k : RingKind) (id : Nat) (status : BitVec 8) (h0 : Same a0 s) : Same a0 (disableRing s
    k id status) := by
  unfold disableRing
  try dsimp only
  repeat' (first
    | with_reducible assumption
    | intro _
    | with_reducible (first
      | apply drain_same | apply endSlot_same | apply modPage_same | apply setRing_same | apply Same.refl | apply Same.ite
      | apply Same.foldl | apply Same.foldl1 | apply Same.foldl2 | (fail_if_no_progress apply Same.keep))
    | split)

theorem fetchRing_same {a0 : State} (s : State) (k : RingKind) (id : Nat) (h0 : Same a0 s) : Same a0 (fetchRing s k id) := by
  unfold fetchRing
  try dsimp only
  repeat' (first
    | with_reducible assumption
    | intro _
    | with_reducible (first
      | apply emit_same | apply setRing_same | apply Same.refl | apply Same.ite | (fail_if_no_progress apply Same.keep))
    | split)

theorem ringDoorbell_same {a0 : State} (s : State) (k : RingKind) (id : Nat) (h0 : Same a0 s) : Same a0 (ringDoorbell s k id) := by
  unfold ringDoorbell
  try dsimp only
  repeat' (first
    | with_reducible assumption
    | intro _
    | with_reducible (first
      | apply fetchRing_same | apply setRing_same | apply Same.refl | apply Same.ite | (fail_if_no_progress apply Same.keep))
    | split)

theorem enableRing_same {a0 : State} (s : State) (k : RingKind) (id : Nat) (h0 : Same a0 s) : Same a0 (enableRing s k id) := by
  unfold enableRing
  try dsimp only
  repeat' (first
    | with_reducible assumption
    | intro _
    | with_reducible (first
      | apply ringDoorbell_same | apply setRing_same | apply Same.refl | apply Same.ite | (fail_if_no_progress apply Same.keep))
    | split)

theorem recallStop_same {a0 : State} (s : State) (k : RingKind) (id first n : Nat) (h0 : Same a0 s) : Same a0 (recallStop s k id first n)
    := by
  unfold recallStop
  try dsimp only
  repeat' (first
    | with_reducible assumption
    | intro _
    | with_reducible (first
      | apply modPage_same | apply setRing_same | apply Same.refl | apply Same.ite | (fail_if_no_progress apply Same.keep))
    | split)

theorem recallEnd_same {a0 : State} (s : State) (k : RingKind) (id first n : Nat) (h0 : Same a0 s) : Same a0 (recallEnd s k id first n) :=
    by
  unfold recallEnd
  try dsimp only
  repeat' (first
    | with_reducible assumption
    | intro _
    | with_reducible (first
      | apply fetchRing_same | apply recallStop_same | apply Same.refl | apply Same.ite | (fail_if_no_progress apply Same.keep))
    | split)

theorem recallOne_same {a0 : State} (s : State) (k : RingKind) (id : Nat) (t : Taken) (h0 : Same a0 s) : Same a0 (recallOne s k id t) :=
    by
  unfold recallOne
  try dsimp only
  repeat' (first
    | with_reducible assumption
    | intro _
    | with_reducible (first
      | apply handBack_same | apply Same.refl | apply Same.ite | (fail_if_no_progress apply Same.keep))
    | split)

theorem recallLoop_same {a0 : State} (x0 : Nat) (x1 : State) (x2 : RingKind) (x3 x4 x5 x6 : Nat) (h0 : Same a0 x1) : Same a0 (recallLoop
    x0 x1 x2 x3 x4 x5 x6) := by
  induction x0 generalizing x1 x2 x3 x4 x5 x6 with
  | zero => simpa [recallLoop] using recallEnd_same _ _ _ _ _ h0
  | succ n ih =>
    unfold recallLoop
    try dsimp only
    repeat' (first
      | with_reducible assumption
      | intro _
      | with_reducible (first
        | apply ih | apply emit_same | apply recallEnd_same | apply recallOne_same | apply recallStop_same | apply setRing_same
        | apply Same.refl | apply Same.ite | (fail_if_no_progress apply Same.keep))
      | split)

theorem recallGo_same {a0 : State} (s : State) (k : RingKind) (id : Nat) (h0 : Same a0 s) : Same a0 (recallGo s k id) := by
  unfold recallGo
  try dsimp only
  repeat' (first
    | with_reducible assumption
    | intro _
    | with_reducible (first
      | apply recallLoop_same | apply Same.refl | apply Same.ite | (fail_if_no_progress apply Same.keep))
    | split)

theorem recallFirst_same {a0 : State} (s : State) (inst first : Nat) (h0 : Same a0 s) : Same a0 (recallFirst s inst first) := by
  unfold recallFirst
  try dsimp only
  repeat' (first
    | with_reducible assumption
    | intro _
    | with_reducible (first
      | apply modPage_same | apply recallLoop_same | apply setRing_same | apply Same.refl | apply Same.ite
      | (fail_if_no_progress apply Same.keep))
    | split)

theorem recallThaw_same {a0 : State} (s : State) (inst : Nat) (h0 : Same a0 s) : Same a0 (recallThaw s inst) := by
  unfold recallThaw
  try dsimp only
  repeat' (first
    | with_reducible assumption
    | intro _
    | with_reducible (first
      | apply modPage_same | apply recallFirst_same | apply Same.refl | apply Same.ite | (fail_if_no_progress apply Same.keep))
    | split)

/-! ### Admin -/

theorem postReport_same {a0 : State} (s : State) (h0 : Same a0 s) : Same a0 (postReport s) := by
  unfold postReport
  try dsimp only
  repeat' (first
    | with_reducible assumption
    | intro _
    | with_reducible (first
      | apply putEvent_same | apply Same.refl | apply Same.ite | apply Same.foldl | apply Same.foldl1 | apply Same.foldl2
      | (fail_if_no_progress apply Same.keep))
    | split)

theorem payReport_same {a0 : State} (s : State) (h0 : Same a0 s) : Same a0 (payReport s) := by
  unfold payReport
  try dsimp only
  repeat' (first
    | with_reducible assumption
    | intro _
    | with_reducible (first
      | apply postReport_same | apply Same.refl | apply Same.ite | (fail_if_no_progress apply Same.keep))
    | split)

theorem admEnable_same {a0 : State} (s : State) (h0 : Same a0 s) : Same a0 (admEnable s) := by
  unfold admEnable
  try dsimp only
  repeat' (first
    | with_reducible assumption
    | intro _
    | with_reducible (first
      | apply payReport_same | apply Same.refl | apply Same.ite | (fail_if_no_progress apply Same.keep))
    | split)

theorem admCtrlWrite_same {a0 : State} (s : State) (w : Word) (h0 : Same a0 s) : Same a0 (admCtrlWrite s w) := by
  unfold admCtrlWrite
  try dsimp only
  repeat' (first
    | with_reducible assumption
    | intro _
    | with_reducible (first
      | apply admEnable_same | apply admSettle_same | apply Same.refl | apply Same.ite | (fail_if_no_progress apply Same.keep))
    | split)

theorem admConfig_same {a0 : State} (s : State) (f : Adm → Adm) (h0 : Same a0 s) : Same a0 (admConfig s f) := by
  unfold admConfig
  try dsimp only
  repeat' (first
    | with_reducible assumption
    | intro _
    | with_reducible (first
      | apply Same.refl | apply Same.ite | (fail_if_no_progress apply Same.keep))
    | split)

theorem admDoorbell_same {a0 : State} (s : State) (h0 : Same a0 s) : Same a0 (admDoorbell s) := by
  unfold admDoorbell
  try dsimp only
  repeat' (first
    | with_reducible assumption
    | intro _
    | with_reducible (first
      | apply admFetch_same | apply Same.refl | apply Same.ite | (fail_if_no_progress apply Same.keep))
    | split)

theorem evtReturn_same {a0 : State} (s : State) (count : Nat) (h0 : Same a0 s) : Same a0 (evtReturn s count) := by
  unfold evtReturn
  try dsimp only
  repeat' (first
    | with_reducible assumption
    | intro _
    | with_reducible (first
      | apply count_same | apply Same.refl | apply Same.ite | (fail_if_no_progress apply Same.keep))
    | split)

theorem admFlr_same {a0 : State} (s : State) (h0 : Same a0 s) : Same a0 (admFlr s) := by
  unfold admFlr
  try dsimp only
  repeat' (first
    | with_reducible assumption
    | intro _
    | with_reducible (first
      | apply Same.refl | apply Same.ite | (fail_if_no_progress apply Same.keep))
    | split)

theorem settle_same {a0 : State} (s : State) (slot : Nat) (r : Option (BitVec 8 × Nat)) (f : State → State) (h0 : Same a0 s) (h_f : ∀ y0,
    Same a0 y0 → Same a0 (f y0)) : Same a0 (settle s slot r f) := by
  unfold settle
  try dsimp only
  repeat' (first
    | with_reducible assumption
    | intro _
    | with_reducible (first
      | apply h_f | apply refuse_same | apply Same.refl | apply Same.ite | (fail_if_no_progress apply Same.keep))
    | split)

/-! ### Gates -/

theorem gateRefreshPort_same {a0 : State} (s : State) (n : Nat) (h0 : Same a0 s) : Same a0 (gateRefreshPort s n) := by
  unfold gateRefreshPort
  try dsimp only
  repeat' (first
    | with_reducible assumption
    | intro _
    | with_reducible (first
      | apply post_same | apply Same.refl | apply Same.ite | (fail_if_no_progress apply Same.keep))
    | split)

theorem gateRefresh_same {a0 : State} (s : State) (h0 : Same a0 s) : Same a0 (gateRefresh s) := by
  unfold gateRefresh
  try dsimp only
  repeat' (first
    | with_reducible assumption
    | intro _
    | with_reducible (first
      | apply gateRefreshPort_same | apply Same.refl | apply Same.ite | apply Same.foldl | apply Same.foldl1 | apply Same.foldl2
      | (fail_if_no_progress apply Same.keep))
    | split)

theorem gateTakeover_same {a0 : State} (s : State) (n : Nat) (h0 : Same a0 s) : Same a0 (gateTakeover s n) := by
  unfold gateTakeover
  try dsimp only
  repeat' (first
    | with_reducible assumption
    | intro _
    | with_reducible (first
      | apply gateRefreshPort_same | apply post_same | apply Same.refl | apply Same.ite | (fail_if_no_progress apply Same.keep))
    | split)

theorem gateTakeoversDue_same {a0 : State} (s : State) (h0 : Same a0 s) : Same a0 (gateTakeoversDue s) := by
  unfold gateTakeoversDue
  try dsimp only
  repeat' (first
    | with_reducible assumption
    | intro _
    | with_reducible (first
      | apply gateTakeover_same | apply Same.refl | apply Same.ite | apply Same.foldl | apply Same.foldl1 | apply Same.foldl2
      | (fail_if_no_progress apply Same.keep))
    | split)

/-! ### Ports -/

theorem modPort_same {a0 : State} (s : State) (n : Nat) (f : Port → Port) (h0 : Same a0 s) : Same a0 (modPort s n f) := by
  unfold modPort
  try dsimp only
  repeat' (first
    | with_reducible assumption
    | intro _
    | with_reducible (first
      | apply Same.refl | apply Same.ite | (fail_if_no_progress apply Same.keep))
    | split)

theorem modClass_same {a0 : State} (s : State) (n c : Nat) (f : PortClass → PortClass) (h0 : Same a0 s) : Same a0 (modClass s n c f) := by
  unfold modClass
  try dsimp only
  repeat' (first
    | with_reducible assumption
    | intro _
    | with_reducible (first
      | apply modPort_same | apply Same.refl | apply Same.ite | (fail_if_no_progress apply Same.keep))
    | split)

theorem movePort_same {a0 : State} (s : State) (n : Nat) (st : PortState) (h0 : Same a0 s) : Same a0 (movePort s n st) := by
  unfold movePort
  try dsimp only
  repeat' (first
    | with_reducible assumption
    | intro _
    | with_reducible (first
      | apply modPort_same | apply post_same | apply Same.refl | apply Same.ite | (fail_if_no_progress apply Same.keep))
    | split)

theorem holdPort_same {a0 : State} (s : State) (n : Nat) (h0 : Same a0 s) : Same a0 (holdPort s n) := by
  unfold holdPort
  try dsimp only
  repeat' (first
    | with_reducible assumption
    | intro _
    | with_reducible (first
      | apply movePort_same | apply Same.refl | apply Same.ite | (fail_if_no_progress apply Same.keep))
    | split)

theorem unholdPort_same {a0 : State} (s : State) (n : Nat) (h0 : Same a0 s) : Same a0 (unholdPort s n) := by
  unfold unholdPort
  try dsimp only
  repeat' (first
    | with_reducible assumption
    | intro _
    | with_reducible (first
      | apply movePort_same | apply Same.refl | apply Same.ite | (fail_if_no_progress apply Same.keep))
    | split)

theorem portsLoseClock_same {a0 : State} (s : State) (h0 : Same a0 s) : Same a0 (portsLoseClock s) := by
  unfold portsLoseClock
  try dsimp only
  repeat' (first
    | with_reducible assumption
    | intro _
    | with_reducible (first
      | apply Same.refl | apply Same.ite | (fail_if_no_progress apply Same.keep))
    | split)

theorem pauseClass_same {a0 : State} (s : State) (n c q : Nat) (h0 : Same a0 s) : Same a0 (pauseClass s n c q) := by
  unfold pauseClass
  try dsimp only
  repeat' (first
    | with_reducible assumption
    | intro _
    | with_reducible (first
      | apply count_same | apply modClass_same | apply Same.refl | apply Same.ite | (fail_if_no_progress apply Same.keep))
    | split)

theorem macControl_same {a0 : State} (s : State) (port : Nat) (f : Bytes) (fcsOk : Bool) (h0 : Same a0 s) : Same a0 (macControl s port f
    fcsOk) := by
  unfold macControl
  try dsimp only
  repeat' (first
    | with_reducible assumption
    | intro _
    | with_reducible (first
      | apply count_same | apply pauseClass_same | apply Same.refl | apply Same.ite | apply Same.foldl | apply Same.foldl1
      | apply Same.foldl2 | (fail_if_no_progress apply Same.keep))
    | split)

theorem heardOn_same {a0 : State} (s : State) (port : Nat) (bytes : Bytes) (k : Nat) (h0 : Same a0 s) : Same a0 (heardOn s port bytes k)
    := by
  unfold heardOn
  try dsimp only
  repeat' (first
    | with_reducible assumption
    | intro _
    | with_reducible (first
      | apply heardFrame_same | apply Same.refl | apply Same.ite | (fail_if_no_progress apply Same.keep))
    | split)

theorem sendCtlFrame_same {a0 : State} (s : State) (port : Nat) (f : Bytes) (h0 : Same a0 s) : Same a0 (sendCtlFrame s port f) := by
  unfold sendCtlFrame
  try dsimp only
  repeat' (first
    | with_reducible assumption
    | intro _
    | with_reducible (first
      | apply modPort_same | apply Same.refl | apply Same.ite | (fail_if_no_progress apply Same.keep))
    | split)

theorem sendPause_same {a0 : State} (s : State) (port c q : Nat) (h0 : Same a0 s) : Same a0 (sendPause s port c q) := by
  unfold sendPause
  try dsimp only
  repeat' (first
    | with_reducible assumption
    | intro _
    | with_reducible (first
      | apply count_same | apply sendCtlFrame_same | apply Same.refl | apply Same.ite | (fail_if_no_progress apply Same.keep))
    | split)

theorem pauseRule_same {a0 : State} (s : State) (port c : Nat) (h0 : Same a0 s) : Same a0 (pauseRule s port c) := by
  unfold pauseRule
  try dsimp only
  repeat' (first
    | with_reducible assumption
    | intro _
    | with_reducible (first
      | apply modClass_same | apply sendPause_same | apply Same.refl | apply Same.ite | (fail_if_no_progress apply Same.keep))
    | split)

theorem rxTake_same {a0 : State} (s : State) (port c len : Nat) (h0 : Same a0 s) : Same a0 (rxTake s port c len) := by
  unfold rxTake
  try dsimp only
  repeat' (first
    | with_reducible assumption
    | intro _
    | with_reducible (first
      | apply modClass_same | apply pauseRule_same | apply Same.refl | apply Same.ite | (fail_if_no_progress apply Same.keep))
    | split)

theorem rxRelease_same {a0 : State} (s : State) (port c len : Nat) (h0 : Same a0 s) : Same a0 (rxRelease s port c len) := by
  unfold rxRelease
  try dsimp only
  repeat' (first
    | with_reducible assumption
    | intro _
    | with_reducible (first
      | apply modClass_same | apply pauseRule_same | apply Same.refl | apply Same.ite | (fail_if_no_progress apply Same.keep))
    | split)

theorem rxDrop_same {a0 : State} (s : State) (port c : Nat) (h0 : Same a0 s) : Same a0 (rxDrop s port c) := by
  unfold rxDrop
  try dsimp only
  repeat' (first
    | with_reducible assumption
    | intro _
    | with_reducible (first
      | apply count_same | apply modClass_same | apply post_same | apply Same.refl | apply Same.ite
      | (fail_if_no_progress apply Same.keep))
    | split)

theorem endPauses_same {a0 : State} (s : State) (c : Nat) (h0 : Same a0 s) : Same a0 (endPauses s c) := by
  unfold endPauses
  try dsimp only
  repeat' (first
    | with_reducible assumption
    | intro _
    | with_reducible (first
      | apply modClass_same | apply sendPause_same | apply Same.refl | apply Same.ite | apply Same.foldl | apply Same.foldl1
      | apply Same.foldl2 | (fail_if_no_progress apply Same.keep))
    | split)

/-! ### Qp -/

theorem drawRandom_same {a0 : State} (s : State) (h0 : Same a0 s) : Same a0 (drawRandom s).2 := by
  unfold drawRandom
  try dsimp only
  repeat' (first
    | with_reducible assumption
    | intro _
    | with_reducible (first
      | apply Same.refl | apply Same.ite | (fail_if_no_progress apply Same.keep))
    | split)

theorem tpeQpLost_same {a0 : State} (s : State) (qpn : Nat) (h0 : Same a0 s) : Same a0 (tpeQpLost s qpn) := by
  unfold tpeQpLost
  try dsimp only
  repeat' (first
    | with_reducible assumption
    | intro _
    | with_reducible (first
      | apply Same.refl | apply Same.ite | (fail_if_no_progress apply Same.keep))
    | split)

theorem moveQp_same {a0 : State} (s : State) (n : Nat) (st : QpState) (h0 : Same a0 s) : Same a0 (moveQp s n st) := by
  unfold moveQp
  try dsimp only
  repeat' (first
    | with_reducible assumption
    | intro _
    | with_reducible (first
      | apply modQp_same | apply tpeQpLost_same | apply trace_same | apply Same.refl | apply Same.ite
      | (fail_if_no_progress apply Same.keep))
    | split)

theorem modDest_same {a0 : State} (s : State) (coord : Nat) (f : Dest → Dest) (h0 : Same a0 s) : Same a0 (modDest s coord f) := by
  unfold modDest
  try dsimp only
  repeat' (first
    | with_reducible assumption
    | intro _
    | with_reducible (first
      | apply Same.refl | apply Same.ite | (fail_if_no_progress apply Same.keep))
    | split)

theorem uncharge_same {a0 : State} (s : State) (coord charge : Nat) (h0 : Same a0 s) : Same a0 (uncharge s coord charge) := by
  unfold uncharge
  try dsimp only
  repeat' (first
    | with_reducible assumption
    | intro _
    | with_reducible (first
      | apply modDest_same | apply Same.refl | apply Same.ite | (fail_if_no_progress apply Same.keep))
    | split)

theorem modPath_same {a0 : State} (s : State) (coord p : Nat) (f : Path → Path) (h0 : Same a0 s) : Same a0 (modPath s coord p f) := by
  unfold modPath
  try dsimp only
  repeat' (first
    | with_reducible assumption
    | intro _
    | with_reducible (first
      | apply modDest_same | apply Same.refl | apply Same.ite | (fail_if_no_progress apply Same.keep))
    | split)

theorem forgetPkt_same {a0 : State} (coord : Nat) (s : State) (t : TxPkt) (h0 : Same a0 s) : Same a0 (forgetPkt coord s t) := by
  unfold forgetPkt
  try dsimp only
  repeat' (first
    | with_reducible assumption
    | intro _
    | with_reducible (first
      | apply modDest_same | apply modPath_same | apply uncharge_same | apply Same.refl | apply Same.ite
      | (fail_if_no_progress apply Same.keep))
    | split)

theorem pullTx_same {a0 : State} (s : State) (keep : Nat × Nat → Bool) (h0 : Same a0 s) : Same a0 (pullTx s keep) := by
  unfold pullTx
  try dsimp only
  repeat' (first
    | with_reducible assumption
    | intro _
    | with_reducible (first
      | apply Same.refl | apply Same.ite | (fail_if_no_progress apply Same.keep))
    | split)

theorem dropTx_same {a0 : State} (s : State) (qpn : Nat) (h0 : Same a0 s) : Same a0 (dropTx s qpn) := by
  unfold dropTx
  try dsimp only
  repeat' (first
    | with_reducible assumption
    | intro _
    | with_reducible (first
      | apply forgetPkt_same | apply modQp_same | apply pullTx_same | apply Same.refl | apply Same.ite | apply Same.foldl
      | apply Same.foldl1 | apply Same.foldl2 | (fail_if_no_progress apply Same.keep))
    | split)

theorem dropHeld_same {a0 : State} (s : State) (qpn : Nat) (h0 : Same a0 s) : Same a0 (dropHeld s qpn) := by
  unfold dropHeld
  try dsimp only
  repeat' (first
    | with_reducible assumption
    | intro _
    | with_reducible (first
      | apply modQp_same | apply rxRelease_same | apply Same.refl | apply Same.ite | apply Same.foldl | apply Same.foldl1
      | apply Same.foldl2 | (fail_if_no_progress apply Same.keep))
    | split)

theorem stopQp_same {a0 : State} (s : State) (qpn : Nat) (h0 : Same a0 s) : Same a0 (stopQp s qpn) := by
  unfold stopQp
  try dsimp only
  repeat' (first
    | with_reducible assumption
    | intro _
    | with_reducible (first
      | apply dropHeld_same | apply dropTx_same | apply endWork_same | apply modQp_same | apply Same.refl | apply Same.ite
      | apply Same.foldl | apply Same.foldl1 | apply Same.foldl2 | (fail_if_no_progress apply Same.keep))
    | split)

theorem dropQp_same {a0 : State} (s : State) (qpn : Nat) (h0 : Same a0 s) : Same a0 (dropQp s qpn) := by
  unfold dropQp
  try dsimp only
  repeat' (first
    | with_reducible assumption
    | intro _
    | with_reducible (first
      | apply endWork_same | apply stopQp_same | apply Same.refl | apply Same.ite | apply Same.foldl | apply Same.foldl1
      | apply Same.foldl2 | (fail_if_no_progress apply Same.keep))
    | split)

theorem endHandshake_same {a0 : State} (s : State) (qpn : Nat) (status : BitVec 8) (reason : Nat) (h0 : Same a0 s) : Same a0 (endHandshake
    s qpn status reason) := by
  unfold endHandshake
  try dsimp only
  repeat' (first
    | with_reducible assumption
    | intro _
    | with_reducible (first
      | apply complete_same | apply modQp_same | apply refuse_same | apply Same.refl | apply Same.ite
      | (fail_if_no_progress apply Same.keep))
    | split)

theorem qpError_same {a0 : State} (s : State) (qpn : Nat) (status : BitVec 8) (index : Nat) (h0 : Same a0 s) : Same a0 (qpError s qpn
    status index) := by
  unfold qpError
  try dsimp only
  repeat' (first
    | with_reducible assumption
    | intro _
    | with_reducible (first
      | apply disableRing_same | apply endHandshake_same | apply modQp_same | apply moveQp_same | apply stopQp_same | apply Same.refl
      | apply Same.ite | (fail_if_no_progress apply Same.keep))
    | split)

theorem drainQp_same {a0 : State} (s : State) (k : RingKind) (qpn : Nat) (h0 : Same a0 s) : Same a0 (drainQp s k qpn) := by
  unfold drainQp
  try dsimp only
  repeat' (first
    | with_reducible assumption
    | intro _
    | with_reducible (first
      | apply drain_same | apply qpError_same | apply Same.refl | apply Same.ite | (fail_if_no_progress apply Same.keep))
    | split)

theorem endEntry_same {a0 : State} (s : State) (k : RingKind) (qpn slot : Nat) (status : BitVec 8) (sub bytes : Nat) (h0 : Same a0 s) :
    Same a0 (endEntry s k qpn slot status sub bytes) := by
  unfold endEntry
  try dsimp only
  repeat' (first
    | with_reducible assumption
    | intro _
    | with_reducible (first
      | apply drainQp_same | apply endSlot_same | apply modQp_same | apply qpError_same | apply Same.refl | apply Same.ite
      | (fail_if_no_progress apply Same.keep))
    | split)

theorem awaitSeed_same {a0 : State} (s : State) (slot : Nat) (h0 : Same a0 s) : Same a0 (awaitSeed s slot) := by
  unfold awaitSeed
  try dsimp only
  repeat' (first
    | with_reducible assumption
    | intro _
    | with_reducible (first
      | apply keepRunning_same | apply refuse_same | apply Same.refl | apply Same.ite | (fail_if_no_progress apply Same.keep))
    | split)

theorem qpCreate_same {a0 : State} (c : AdminCmd) (s : State) (h0 : Same a0 s) : Same a0 (qpCreate c s) := by
  unfold qpCreate
  try dsimp only
  repeat' (first
    | with_reducible assumption
    | intro _
    | with_reducible (first
      | apply awaitSeed_same | apply completeWith_same | apply drawRandom_same | apply settle_same | apply Same.refl | apply Same.ite
      | (fail_if_no_progress apply Same.keep))
    | split)

/-! ### Send -/

theorem ensureDest_same {a0 s t : State} {c : Nat} (h : ensureDest s c = some t) (h0 : Same a0 s) : Same a0 t := by
  unfold ensureDest at h
  (repeat' split at h) <;> simp at h <;> subst h <;> first | exact h0 | (apply Same.keep h0)

theorem exhaustCheck_same {a0 : State} (s : State) (coord : Nat) (h0 : Same a0 s) : Same a0 (exhaustCheck s coord) := by
  unfold exhaustCheck
  try dsimp only
  repeat' (first
    | with_reducible assumption
    | intro _
    | with_reducible (first
      | apply modDest_same | apply modPath_same | apply post_same | apply Same.refl | apply Same.ite | apply Same.foldl
      | apply Same.foldl1 | apply Same.foldl2 | (fail_if_no_progress apply Same.keep))
    | split)

theorem queueControl_same {a0 : State} (s : State) (qpn coord saId tc : Nat) (path : Option Nat) (dstQpn : Nat) (b : CtlBody) (h0 : Same
    a0 s) : Same a0 (queueControl s qpn coord saId tc path dstQpn b) := by
  unfold queueControl
  try dsimp only
  repeat' (first
    | with_reducible assumption
    | intro _
    | with_reducible (first
      | apply takeFresh_same | apply Same.refl | apply Same.ite | (fail_if_no_progress apply Same.keep))
    | split)

theorem modTx_same {a0 : State} (s : State) (qpn id : Nat) (f : TxPkt → TxPkt) (h0 : Same a0 s) : Same a0 (modTx s qpn id f) := by
  unfold modTx
  try dsimp only
  repeat' (first
    | with_reducible assumption
    | intro _
    | with_reducible (first
      | apply modQp_same | apply Same.refl | apply Same.ite | (fail_if_no_progress apply Same.keep))
    | split)

theorem closeTrain_same {a0 : State} (s : State) (t : Train) (h0 : Same a0 s) : Same a0 (closeTrain s t) := by
  unfold closeTrain
  try dsimp only
  repeat' (first
    | with_reducible assumption
    | intro _
    | with_reducible (first
      | apply takeFresh_same | apply Same.refl | apply Same.ite | (fail_if_no_progress apply Same.keep))
    | split)

theorem joinTrain_same {a0 : State} (s : State) (coord saId tc qpn id : Nat) (last : Bool) (h0 : Same a0 s) : Same a0 (joinTrain s coord
    saId tc qpn id last) := by
  unfold joinTrain
  try dsimp only
  repeat' (first
    | with_reducible assumption
    | intro _
    | with_reducible (first
      | apply closeTrain_same | apply Same.refl | apply Same.ite | (fail_if_no_progress apply Same.keep))
    | split)

theorem offerPkt_same {a0 : State} (s : State) (qpn id : Nat) (h0 : Same a0 s) : Same a0 (offerPkt s qpn id) := by
  unfold offerPkt
  try dsimp only
  repeat' (first
    | with_reducible assumption
    | intro _
    | with_reducible (first
      | apply joinTrain_same | apply modTx_same | apply takeFresh_same | apply Same.refl | apply Same.ite
      | (fail_if_no_progress apply Same.keep))
    | split)

theorem closeLast_same {a0 : State} (s : State) (h0 : Same a0 s) : Same a0 (closeLast s) := by
  unfold closeLast
  try dsimp only
  repeat' (first
    | with_reducible assumption
    | intro _
    | with_reducible (first
      | apply closeTrain_same | apply Same.refl | apply Same.ite | apply Same.foldl | apply Same.foldl1 | apply Same.foldl2
      | (fail_if_no_progress apply Same.keep))
    | split)

theorem serveLimiter_same {a0 : State} (x0 : Nat) (x1 : State) (x2 x3 : Nat) (h0 : Same a0 x1) : Same a0 (serveLimiter x0 x1 x2 x3) := by
  induction x0 generalizing x1 x2 x3 with
  | zero => simpa [serveLimiter] using h0
  | succ n ih =>
    unfold serveLimiter
    try dsimp only
    repeat' (first
      | with_reducible assumption
      | intro _
      | with_reducible (first
        | apply ih | apply offerPkt_same | apply Same.refl | apply Same.ite | (fail_if_no_progress apply Same.keep))
      | split)

theorem paceClass_same {a0 : State} (s : State) (inst tc : Nat) (h0 : Same a0 s) : Same a0 (paceClass s inst tc) := by
  unfold paceClass
  try dsimp only
  repeat' (first
    | with_reducible assumption
    | intro _
    | with_reducible (first
      | apply closeLast_same | apply serveLimiter_same | apply Same.refl | apply Same.ite | (fail_if_no_progress apply Same.keep))
    | split)

theorem pace_same {a0 : State} (s : State) (qpn : Nat) (h0 : Same a0 s) : Same a0 (pace s qpn) := by
  unfold pace
  try dsimp only
  repeat' (first
    | with_reducible assumption
    | intro _
    | with_reducible (first
      | apply paceClass_same | apply Same.refl | apply Same.ite | (fail_if_no_progress apply Same.keep))
    | split)

theorem enqueue_same {a0 : State} (s : State) (qpn : Nat) (owner : TxOwner) (ps : List Pkt) (h0 : Same a0 s) : Same a0 (enqueue s qpn
    owner ps) := by
  unfold enqueue
  try dsimp only
  repeat' (first
    | with_reducible assumption
    | intro _
    | with_reducible (first
      | apply modQp_same | apply pace_same | apply takeFresh_same | apply Same.refl | apply Same.ite | apply Same.foldl
      | apply Same.foldl1 | apply Same.foldl2 | (fail_if_no_progress apply Same.keep))
    | split)

theorem modSa_same {a0 : State} (s : State) (id : Nat) (f : Sa → Sa) (h0 : Same a0 s) : Same a0 (modSa s id f) := by
  unfold modSa
  try dsimp only
  repeat' (first
    | with_reducible assumption
    | intro _
    | with_reducible (first
      | apply Same.refl | apply Same.ite | (fail_if_no_progress apply Same.keep))
    | split)

theorem drawSeal_same {a0 : State} (s : State) (id : Nat) (a : Sa) (h0 : Same a0 s) : Same a0 (drawSeal s id a) := by
  unfold drawSeal
  try dsimp only
  repeat' (first
    | with_reducible assumption
    | intro _
    | with_reducible (first
      | apply modSa_same | apply post_same | apply Same.refl | apply Same.ite | (fail_if_no_progress apply Same.keep))
    | split)

theorem cipherMismatch_same {a0 : State} (s : State) (kind : Nat) (h0 : Same a0 s) : Same a0 (cipherMismatch s kind) := by
  unfold cipherMismatch
  try dsimp only
  repeat' (first
    | with_reducible assumption
    | intro _
    | with_reducible (first
      | apply count_same | apply post_same | apply Same.refl | apply Same.ite | (fail_if_no_progress apply Same.keep))
    | split)

theorem sealUnder_same {a0 : State} (s : State) (id : Nat) (a : Sa) (kind cells : Nat) (parts : Parts) (disagree : Nat) (h0 : Same a0 s) :
    Same a0 (sealUnder s id a kind cells parts disagree).1 := by
  unfold sealUnder
  try dsimp only
  repeat' (first
    | with_reducible assumption
    | intro _
    | with_reducible (first
      | apply cipherMismatch_same | apply count_same | apply drawSeal_same | apply Same.refl | apply Same.ite
      | (fail_if_no_progress apply Same.keep))
    | split)

theorem noteSent_same {a0 : State} (coord path order : Nat) (probe : Bool) (s : State) (c : Nat × TxPkt) (h0 : Same a0 s) : Same a0
    (noteSent coord path order probe s c) := by
  unfold noteSent
  try dsimp only
  repeat' (first
    | with_reducible assumption
    | intro _
    | with_reducible (first
      | apply modDest_same | apply modQp_same | apply Same.refl | apply Same.ite | (fail_if_no_progress apply Same.keep))
    | split)

theorem pushFrame_same {a0 : State} (s : State) (port c : Nat) (f : TxFrame) (h0 : Same a0 s) : Same a0 (pushFrame s port c f) := by
  unfold pushFrame
  try dsimp only
  repeat' (first
    | with_reducible assumption
    | intro _
    | with_reducible (first
      | apply modClass_same | apply Same.refl | apply Same.ite | (fail_if_no_progress apply Same.keep))
    | split)

theorem queueFrame_same {a0 : State} (s : State) (src coord tc path : Nat) (ect : Bool) (u : Bytes) (pkts : List (Nat × Nat)) (h0 : Same
    a0 s) : Same a0 (queueFrame s src coord tc path ect u pkts) := by
  unfold queueFrame
  try dsimp only
  repeat' (first
    | with_reducible assumption
    | intro _
    | with_reducible (first
      | apply pushFrame_same | apply Same.refl | apply Same.ite | (fail_if_no_progress apply Same.keep))
    | split)

theorem keepRest_same {a0 : State} (s : State) (d : TxDgram) (sent : List Nat) (h0 : Same a0 s) : Same a0 (keepRest s d sent) := by
  unfold keepRest
  try dsimp only
  repeat' (first
    | with_reducible assumption
    | intro _
    | with_reducible (first
      | apply Same.refl | apply Same.ite | (fail_if_no_progress apply Same.keep))
    | split)

theorem sealFailed_same {a0 : State} (s : State) (l : List (Nat × TxPkt)) (h0 : Same a0 s) : Same a0 (sealFailed s l) := by
  unfold sealFailed
  try dsimp only
  repeat' (first
    | with_reducible assumption
    | intro _
    | with_reducible (first
      | apply endEntry_same | apply endSlot_same | apply qpError_same | apply Same.refl | apply Same.ite | apply Same.foldl
      | apply Same.foldl1 | apply Same.foldl2 | (fail_if_no_progress apply Same.keep))
    | split)

theorem sendData_same {a0 : State} (s : State) (d : TxDgram) (disagree : Nat) (h0 : Same a0 s) : Same a0 (sendData s d disagree) := by
  unfold sendData
  try dsimp only
  repeat' (first
    | with_reducible assumption
    | intro _
    | with_reducible (first
      | apply ensureDest_same (by assumption) | apply exhaustCheck_same | apply keepRest_same | apply modDest_same | apply modPath_same
      | apply noteSent_same | apply queueFrame_same | apply sealFailed_same | apply sealUnder_same | apply takeFresh_same
      | apply Same.refl | apply Same.ite | apply Same.foldl | apply Same.foldl1 | apply Same.foldl2
      | (fail_if_no_progress apply Same.keep))
    | split)

theorem sendCtl_same {a0 : State} (s : State) (d : TxDgram) (qpn dstQpn : Nat) (b : CtlBody) (disagree : Nat) (h0 : Same a0 s) : Same a0
    (sendCtl s d qpn dstQpn b disagree) := by
  unfold sendCtl
  try dsimp only
  repeat' (first
    | with_reducible assumption
    | intro _
    | with_reducible (first
      | apply ensureDest_same (by assumption) | apply exhaustCheck_same | apply modDest_same | apply qpError_same
      | apply queueFrame_same | apply sealUnder_same | apply Same.refl | apply Same.ite | (fail_if_no_progress apply Same.keep))
    | split)

theorem drr.earn_same {a0 : State} (s : State) (n c : Nat) (h0 : Same a0 s) : Same a0 (drr.earn s n c) := by
  unfold drr.earn
  try dsimp only
  repeat' (first
    | with_reducible assumption
    | intro _
    | with_reducible (first
      | apply modClass_same | apply Same.refl | apply Same.ite | (fail_if_no_progress apply Same.keep))
    | split)

theorem startTimer_same {a0 : State} (s : State) (c : Nat × Nat) (h0 : Same a0 s) : Same a0 (startTimer s c) := by
  unfold startTimer
  try dsimp only
  repeat' (first
    | with_reducible assumption
    | intro _
    | with_reducible (first
      | apply modQp_same | apply modTx_same | apply Same.refl | apply Same.ite | (fail_if_no_progress apply Same.keep))
    | split)

theorem tpeFail_same {a0 : State} (s : State) (ctx slot msg : Nat) (status : BitVec 8) (sub : Nat) (h0 : Same a0 s) : Same a0 (tpeFail s
    ctx slot msg status sub) := by
  unfold tpeFail
  try dsimp only
  repeat' (first
    | with_reducible assumption
    | intro _
    | with_reducible (first
      | apply Same.refl | apply Same.ite | (fail_if_no_progress apply Same.keep))
    | split)

theorem ownerFails_same {a0 : State} (s : State) (qpn : Nat) (o : TxOwner) (status : BitVec 8) (sub : Nat) (h0 : Same a0 s) : Same a0
    (ownerFails s qpn o status sub) := by
  unfold ownerFails
  try dsimp only
  repeat' (first
    | with_reducible assumption
    | intro _
    | with_reducible (first
      | apply endEntry_same | apply qpError_same | apply Same.refl | apply Same.ite | (fail_if_no_progress apply Same.keep))
    | split)

theorem failByNak_same {a0 : State} (s : State) (qpn : Nat) (o : TxOwner) (status : BitVec 8) (sub : Nat) (h0 : Same a0 s) : Same a0
    (failByNak s qpn o status sub) := by
  unfold failByNak
  try dsimp only
  repeat' (first
    | with_reducible assumption
    | intro _
    | with_reducible (first
      | apply ownerFails_same | apply tpeFail_same | apply Same.refl | apply Same.ite | (fail_if_no_progress apply Same.keep))
    | split)

theorem loseOne_same {a0 : State} (s : State) (qpn id : Nat) (h0 : Same a0 s) : Same a0 (loseOne s qpn id) := by
  unfold loseOne
  try dsimp only
  repeat' (first
    | with_reducible assumption
    | intro _
    | with_reducible (first
      | apply modDest_same | apply modPath_same | apply modTx_same | apply ownerFails_same | apply uncharge_same | apply Same.refl
      | apply Same.ite | (fail_if_no_progress apply Same.keep))
    | split)

theorem downPath_same {a0 : State} (s : State) (coord p holdUs cause : Nat) (prev : Health) (h0 : Same a0 s) : Same a0 (downPath s coord p
    holdUs cause prev) := by
  unfold downPath
  try dsimp only
  repeat' (first
    | with_reducible assumption
    | intro _
    | with_reducible (first
      | apply modPath_same | apply Same.refl | apply Same.ite | (fail_if_no_progress apply Same.keep))
    | split)

theorem attributeLoss_same {a0 : State} (s : State) (coord p id : Nat) (h0 : Same a0 s) : Same a0 (attributeLoss s coord p id) := by
  unfold attributeLoss
  try dsimp only
  repeat' (first
    | with_reducible assumption
    | intro _
    | with_reducible (first
      | apply downPath_same | apply exhaustCheck_same | apply loseOne_same | apply modPath_same | apply post_same | apply Same.refl
      | apply Same.ite | apply Same.foldl | apply Same.foldl1 | apply Same.foldl2 | (fail_if_no_progress apply Same.keep))
    | split)

theorem declareLost_same {a0 : State} (s : State) (qpn id : Nat) (h0 : Same a0 s) : Same a0 (declareLost s qpn id) := by
  unfold declareLost
  try dsimp only
  repeat' (first
    | with_reducible assumption
    | intro _
    | with_reducible (first
      | apply attributeLoss_same | apply loseOne_same | apply pace_same | apply Same.refl | apply Same.ite | apply Same.foldl
      | apply Same.foldl1 | apply Same.foldl2 | (fail_if_no_progress apply Same.keep))
    | split)

theorem expiryCut_same {a0 : State} (s : State) (coord : Nat) (h0 : Same a0 s) : Same a0 (expiryCut s coord) := by
  unfold expiryCut
  try dsimp only
  repeat' (first
    | with_reducible assumption
    | intro _
    | with_reducible (first
      | apply modDest_same | apply Same.refl | apply Same.ite | (fail_if_no_progress apply Same.keep))
    | split)

theorem withdrawLoss_same {a0 : State} (id coord : Nat) (s : State) (p : Nat) (h0 : Same a0 s) : Same a0 (withdrawLoss id coord s p) := by
  unfold withdrawLoss
  try dsimp only
  repeat' (first
    | with_reducible assumption
    | intro _
    | with_reducible (first
      | apply exhaustCheck_same | apply modPath_same | apply Same.refl | apply Same.ite | (fail_if_no_progress apply Same.keep))
    | split)

/-! ### Pool -/

theorem storeBlock_same {a0 : State} (s : State) (inst ksel blk off : Nat) (bs : Bytes) (h0 : Same a0 s) : Same a0 (storeBlock s inst ksel
    blk off bs) := by
  unfold storeBlock; dsimp only; apply Same.keepMem h0; exact fun m => memWf_memWrite m _ _

theorem storeSpan_same {a0 : State} (x0 : Nat) (x1 : State) (x2 x3 x4 : Nat) (x5 : Bytes) (h0 : Same a0 x1) : Same a0 (storeSpan x0 x1 x2
    x3 x4 x5) := by
  induction x0 generalizing x1 x2 x3 x4 x5 with
  | zero => simpa [storeSpan] using h0
  | succ n ih =>
    unfold storeSpan
    try dsimp only
    repeat' (first
      | with_reducible assumption
      | intro _
      | with_reducible (first
        | apply ih | apply storeBlock_same | apply Same.refl | apply Same.ite | (fail_if_no_progress apply Same.keep))
      | split)

theorem poolStore_same {a0 : State} (s : State) (inst ksel a : Nat) (bs : Bytes) (h0 : Same a0 s) : Same a0 (poolStore s inst ksel a bs)
    := by
  unfold poolStore
  try dsimp only
  repeat' (first
    | with_reducible assumption
    | intro _
    | with_reducible (first
      | apply storeSpan_same | apply Same.refl | apply Same.ite | (fail_if_no_progress apply Same.keep))
    | split)

theorem poolWrite_same {a0 : State} (s : State) (inst ksel a : Nat) (bs : Bytes) (h0 : Same a0 s) : Same a0 (poolWrite s inst ksel a bs).1
    := by
  unfold poolWrite
  try dsimp only
  repeat' (first
    | with_reducible assumption
    | intro _
    | with_reducible (first
      | apply poolStore_same | apply takeFresh_same | apply Same.refl | apply Same.ite | apply Same.foldl | apply Same.foldl1
      | apply Same.foldl2 | (fail_if_no_progress apply Same.keep))
    | split)

theorem poolZero_same {a0 : State} (s : State) (base size : Nat) (h0 : Same a0 s) : Same a0 (poolZero s base size) := by
  unfold poolZero; apply Same.keepMem h0; exact fun m => memWf_memZero m _ _

theorem corrected_same {a0 : State} (s : State) (stack : Nat) (h0 : Same a0 s) : Same a0 (corrected s stack) := by
  unfold corrected
  try dsimp only
  repeat' (first
    | with_reducible assumption
    | intro _
    | with_reducible (first
      | apply count_same | apply post_same | apply Same.refl | apply Same.ite | (fail_if_no_progress apply Same.keep))
    | split)

theorem lineLost_same {a0 : State} (s : State) (line stack : Nat) (h0 : Same a0 s) : Same a0 (lineLost s line stack) := by
  unfold lineLost
  try dsimp only
  repeat' (first
    | with_reducible assumption
    | intro _
    | with_reducible (first
      | apply count_same | apply post_same | apply Same.refl | apply Same.ite | (fail_if_no_progress apply Same.keep))
    | split)

theorem foundLine_same {a0 : State} (s : State) (x : Nat × LineFault) (h0 : Same a0 s) : Same a0 (foundLine s x) := by
  unfold foundLine
  try dsimp only
  repeat' (first
    | with_reducible assumption
    | intro _
    | with_reducible (first
      | apply corrected_same | apply lineLost_same | apply Same.refl | apply Same.ite | (fail_if_no_progress apply Same.keep))
    | split)

theorem foundWord_same {a0 : State} (s : State) (x : StoreWord) (h0 : Same a0 s) : Same a0 (foundWord s x) := by
  unfold foundWord
  try dsimp only
  repeat' (first
    | with_reducible assumption
    | intro _
    | with_reducible (first
      | apply count_same | apply Same.refl | apply Same.ite | (fail_if_no_progress apply Same.keep))
    | split)

theorem underMeets_same {a0 : State} (m : Meets) (s : State) (f : State → State) (h0 : Same a0 s) (h_f : ∀ y0, Same a0 y0 → Same a0 (f
    y0)) : Same a0 (underMeets m s f) := by
  unfold underMeets
  try dsimp only
  repeat' (first
    | with_reducible assumption
    | intro _
    | with_reducible (first
      | apply h_f | apply foundLine_same | apply foundWord_same | apply Same.refl | apply Same.ite | apply Same.foldl
      | apply Same.foldl1 | apply Same.foldl2 | (fail_if_no_progress apply Same.keep))
    | split)

/-! ### Translate -/

theorem cachePut_same {a0 : State} (s : State) (e : CacheEntry) (h0 : Same a0 s) : Same a0 (cachePut s e) := by
  unfold cachePut
  try dsimp only
  repeat' (first
    | with_reducible assumption
    | intro _
    | with_reducible (first
      | apply Same.refl | apply Same.ite | (fail_if_no_progress apply Same.keep))
    | split)

theorem modFn_same {a0 : State} (s : State) (n : Nat) (f : FnState → FnState) (h0 : Same a0 s) : Same a0 (modFn s n f) := by
  unfold modFn
  try dsimp only
  repeat' (first
    | with_reducible assumption
    | intro _
    | with_reducible (first
      | apply Same.refl | apply Same.ite | (fail_if_no_progress apply Same.keep))
    | split)

theorem dropAts_same {a0 : State} (s : State) (inst va size : Nat) (h0 : Same a0 s) : Same a0 (dropAts s inst va size) := by
  unfold dropAts
  try dsimp only
  repeat' (first
    | with_reducible assumption
    | intro _
    | with_reducible (first
      | apply Same.refl | apply Same.ite | (fail_if_no_progress apply Same.keep))
    | split)

theorem raiseReq_same {a0 : State} (inst : Nat) (need : Need) (fresh : List Nat) (s : State) (page : Nat) (h0 : Same a0 s) : Same a0
    (raiseReq inst need fresh s page) := by
  unfold raiseReq
  try dsimp only
  repeat' (first
    | with_reducible assumption
    | intro _
    | with_reducible (first
      | apply Same.refl | apply Same.ite | (fail_if_no_progress apply Same.keep))
    | split)

theorem addWait_same {a0 : State} (s : State) (w : Waiting) (h0 : Same a0 s) : Same a0 (addWait s w) := by
  unfold addWait
  try dsimp only
  repeat' (first
    | with_reducible assumption
    | intro _
    | with_reducible (first
      | apply Same.refl | apply Same.ite | (fail_if_no_progress apply Same.keep))
    | split)

theorem dropWait_same {a0 : State} (s : State) (id : Nat) (h0 : Same a0 s) : Same a0 (dropWait s id) := by
  unfold dropWait
  try dsimp only
  repeat' (first
    | with_reducible assumption
    | intro _
    | with_reducible (first
      | apply Same.refl | apply Same.ite | (fail_if_no_progress apply Same.keep))
    | split)

theorem askAts_same {a0 : State} (s : State) (w : Waiting) (page : Nat) (h0 : Same a0 s) : Same a0 (askAts s w page) := by
  unfold askAts
  try dsimp only
  repeat' (first
    | with_reducible assumption
    | intro _
    | with_reducible (first
      | apply emit_same | apply Same.refl | apply Same.ite | (fail_if_no_progress apply Same.keep))
    | split)

theorem missAccess_same {a0 : State} (s : State) (w : Waiting) (pages : List Nat) (h0 : Same a0 s) : Same a0 (missAccess s w pages).1 :=
    by
  unfold missAccess
  try dsimp only
  repeat' (first
    | with_reducible assumption
    | intro _
    | with_reducible (first
      | apply addWait_same | apply raiseReq_same | apply Same.refl | apply Same.ite | apply Same.foldl | apply Same.foldl1
      | apply Same.foldl2 | (fail_if_no_progress apply Same.keep))
    | split)

theorem tryAccess_same {a0 : State} (s : State) (w : Waiting) (h0 : Same a0 s) : Same a0 (tryAccess s w).1 := by
  unfold tryAccess
  try dsimp only
  repeat' (first
    | with_reducible assumption
    | intro _
    | with_reducible (first
      | apply addWait_same | apply askAts_same | apply missAccess_same | apply Same.refl | apply Same.ite
      | (fail_if_no_progress apply Same.keep))
    | split)

theorem beginAccess_same {a0 : State} (s : State) (inst : Nat) (owner : AccOwner) (need : Need) (va len : Nat) (again : optParam (List
    Nat) []) (h0 : Same a0 s) : Same a0 (beginAccess s inst owner need va len again).1 := by
  unfold beginAccess
  try dsimp only
  repeat' (first
    | with_reducible assumption
    | intro _
    | with_reducible (first
      | apply addWait_same | apply takeFresh_same | apply tryAccess_same | apply Same.refl | apply Same.ite
      | (fail_if_no_progress apply Same.keep))
    | split)

theorem fillCache_same {a0 : State} (s : State) (w : Waiting) (h0 : Same a0 s) : Same a0 (fillCache s w) := by
  unfold fillCache
  try dsimp only
  repeat' (first
    | with_reducible assumption
    | intro _
    | with_reducible (first
      | apply cachePut_same | apply Same.refl | apply Same.ite | apply Same.foldl | apply Same.foldl1 | apply Same.foldl2
      | (fail_if_no_progress apply Same.keep))
    | split)

theorem retry_same {a0 : State} (s : State) (w : Waiting) (h0 : Same a0 s) : Same a0 (retry s w).1 := by
  unfold retry
  try dsimp only
  repeat' (first
    | with_reducible assumption
    | intro _
    | with_reducible (first
      | apply dropWait_same | apply tryAccess_same | apply Same.refl | apply Same.ite | (fail_if_no_progress apply Same.keep))
    | split)

theorem retryAll_same {a0 : State} (s : State) (ws : List Waiting) (h0 : Same a0 s) : Same a0 (retryAll s ws).1 := by
  unfold retryAll
  try dsimp only
  repeat' (first
    | with_reducible assumption
    | intro _
    | with_reducible (first
      | apply retry_same | apply Same.refl | apply Same.ite | apply Same.foldl | apply Same.foldl1 | apply Same.foldl2
      | (fail_if_no_progress apply Same.keep))
    | split)

theorem endAll_same {a0 : State} (s : State) (ws : List Waiting) (x : Xlat) (h0 : Same a0 s) : Same a0 (endAll s ws x).1 := by
  unfold endAll
  try dsimp only
  repeat' (first
    | with_reducible assumption
    | intro _
    | with_reducible (first
      | apply dropWait_same | apply Same.refl | apply Same.ite | apply Same.foldl | apply Same.foldl1 | apply Same.foldl2
      | (fail_if_no_progress apply Same.keep))
    | split)

theorem walkDone_same {a0 : State} (s : State) (id : Nat) (h0 : Same a0 s) : Same a0 (walkDone s id).1 := by
  unfold walkDone
  try dsimp only
  repeat' (first
    | with_reducible assumption
    | intro _
    | with_reducible (first
      | apply fillCache_same | apply retry_same | apply Same.refl | apply Same.ite | (fail_if_no_progress apply Same.keep))
    | split)

theorem atsDone_same {a0 : State} (s : State) (id : Nat) (res : AtsResult) (h0 : Same a0 s) : Same a0 (atsDone s id res).1 := by
  unfold atsDone
  try dsimp only
  repeat' (first
    | with_reducible assumption
    | intro _
    | with_reducible (first
      | apply dropWait_same | apply missAccess_same | apply retry_same | apply Same.refl | apply Same.ite
      | (fail_if_no_progress apply Same.keep))
    | split)

theorem markMissed_same {a0 : State} (s : State) (inst page code : Nat) (h0 : Same a0 s) : Same a0 (markMissed s inst page code) := by
  unfold markMissed
  try dsimp only
  repeat' (first
    | with_reducible assumption
    | intro _
    | with_reducible (first
      | apply Same.refl | apply Same.ite | (fail_if_no_progress apply Same.keep))
    | split)

theorem prgResponse_same {a0 : State} (s : State) (fn index : Nat) (code : PrgCode) (h0 : Same a0 s) : Same a0 (prgResponse s fn index
    code).1 := by
  unfold prgResponse
  try dsimp only
  repeat' (first
    | with_reducible assumption
    | intro _
    | with_reducible (first
      | apply dropAts_same | apply endAll_same | apply markMissed_same | apply modFn_same | apply post_same | apply retryAll_same
      | apply Same.refl | apply Same.ite | (fail_if_no_progress apply Same.keep))
    | split)

theorem pageTimeout_same {a0 : State} (s : State) (inst page : Nat) (h0 : Same a0 s) : Same a0 (pageTimeout s inst page).1 := by
  unfold pageTimeout
  try dsimp only
  repeat' (first
    | with_reducible assumption
    | intro _
    | with_reducible (first
      | apply endAll_same | apply markMissed_same | apply Same.refl | apply Same.ite | (fail_if_no_progress apply Same.keep))
    | split)

theorem removeRange_same {a0 : State} (s : State) (inst va size : Nat) (h0 : Same a0 s) : Same a0 (removeRange s inst va size).1 := by
  unfold removeRange
  try dsimp only
  repeat' (first
    | with_reducible assumption
    | intro _
    | with_reducible (first
      | apply count_same | apply dropAts_same | apply Same.refl | apply Same.ite | apply Same.foldl | apply Same.foldl1
      | apply Same.foldl2 | (fail_if_no_progress apply Same.keep))
    | split)

theorem beginDrain_same {a0 : State} (s : State) (slot removed : Nat) (reads ports : List Nat) (inst : Nat) (fin : State → State) (h0 :
    Same a0 s) (h_fin : ∀ y0, Same a0 y0 → Same a0 (fin y0)) : Same a0 (beginDrain s slot removed reads ports inst fin) := by
  unfold beginDrain
  try dsimp only
  repeat' (first
    | with_reducible assumption
    | intro _
    | with_reducible (first
      | apply h_fin | apply issueFlushes_same | apply keepRunning_same | apply Same.refl | apply Same.ite
      | (fail_if_no_progress apply Same.keep))
    | split)

theorem endDrains_same {a0 : State} (s : State) (h0 : Same a0 s) : Same a0 (endDrains s) := by
  unfold endDrains
  try dsimp only
  repeat' (first
    | with_reducible assumption
    | intro _
    | with_reducible (first
      | apply completeWith_same | apply emit_same | apply Same.refl | apply Same.ite | apply Same.foldl | apply Same.foldl1
      | apply Same.foldl2 | (fail_if_no_progress apply Same.keep))
    | split)

theorem drainStep_same {a0 : State} (s : State) (id : Nat) (h0 : Same a0 s) : Same a0 (drainStep s id) := by
  unfold drainStep
  try dsimp only
  repeat' (first
    | with_reducible assumption
    | intro _
    | with_reducible (first
      | apply endDrains_same | apply Same.refl | apply Same.ite | (fail_if_no_progress apply Same.keep))
    | split)

theorem applyRecord_same {a0 : State} (i : Nat) (a : State × Removed) (r : BitVec 256) (h0 : Same a0 a.1) : Same a0 (applyRecord i a r).1
    := by
  unfold applyRecord
  try dsimp only
  repeat' (first
    | with_reducible assumption
    | intro _
    | with_reducible (first
      | apply count_same | apply removeRange_same | apply Same.refl | apply Same.ite | (fail_if_no_progress apply Same.keep))
    | split)

theorem applyRecords_same {a0 : State} (s : State) (i : Nat) (rs : List (BitVec 256)) (h0 : Same a0 s) : Same a0 (applyRecords s i rs).1
    := by
  unfold applyRecords
  try dsimp only
  repeat' (first
    | with_reducible assumption
    | intro _
    | with_reducible (first
      | apply applyRecord_same | apply count_same | apply Same.refl | apply Same.ite | apply Same.foldl | apply Same.foldl1
      | apply Same.foldl2 | (fail_if_no_progress apply Same.keep))
    | split)

theorem resolveReqs_same {a0 : State} (s : State) (i : Nat) (rs : List (BitVec 256)) (h0 : Same a0 s) : Same a0 (resolveReqs s i rs).1 :=
    by
  unfold resolveReqs
  try dsimp only
  repeat' (first
    | with_reducible assumption
    | intro _
    | with_reducible (first
      | apply dropAts_same | apply retryAll_same | apply Same.refl | apply Same.ite | apply Same.foldl | apply Same.foldl1
      | apply Same.foldl2 | (fail_if_no_progress apply Same.keep))
    | split)

theorem ptUpdate_same {a0 : State} (c : AdminCmd) (buf : Option Bytes) (s : State) (h0 : Same a0 s) : Same a0 (ptUpdate c buf s).1 := by
  unfold ptUpdate
  try dsimp only
  repeat' (first
    | with_reducible assumption
    | intro _
    | with_reducible (first
      | apply applyRecords_same | apply beginDrain_same | apply completeWith_same | apply refuse_same | apply resolveReqs_same
      | apply Same.refl | apply Same.ite | (fail_if_no_progress apply Same.keep))
    | split)

/-! ### Accum -/

theorem modCtx_same {a0 : State} (s : State) (n : Nat) (f : Ctx → Ctx) (h0 : Same a0 s) : Same a0 (modCtx s n f) := by
  unfold modCtx
  try dsimp only
  repeat' (first
    | with_reducible assumption
    | intro _
    | with_reducible (first
      | apply Same.refl | apply Same.ite | (fail_if_no_progress apply Same.keep))
    | split)

theorem modRun_same {a0 : State} (s : State) (ctx slot : Nat) (f : TpeRun → TpeRun) (h0 : Same a0 s) : Same a0 (modRun s ctx slot f) := by
  unfold modRun
  try dsimp only
  repeat' (first
    | with_reducible assumption
    | intro _
    | with_reducible (first
      | apply modCtx_same | apply Same.refl | apply Same.ite | (fail_if_no_progress apply Same.keep))
    | split)

theorem accAccept_same {a0 : State} (s : State) (inst qpn : Nat) (p : Pkt) (h0 : Same a0 s) : Same a0 (accAccept s inst qpn p).1 := by
  unfold accAccept
  try dsimp only
  repeat' (first
    | with_reducible assumption
    | intro _
    | with_reducible (first
      | apply modCtx_same | apply Same.refl | apply Same.ite | (fail_if_no_progress apply Same.keep))
    | split)

/-! ### Issue -/

theorem addWork_same {a0 : State} (s : State) (qpn : Nat) (q : Qp) (w : SqWork) (h0 : Same a0 s) : Same a0 (addWork s qpn q w) := by
  unfold addWork
  try dsimp only
  repeat' (first
    | with_reducible assumption
    | intro _
    | with_reducible (first
      | apply beginMessage_same | apply modQp_same | apply Same.refl | apply Same.ite | (fail_if_no_progress apply Same.keep))
    | split)

theorem askReads_same {a0 : State} (x0 : Nat) (x1 : State) (x2 : Nat) (h0 : Same a0 x1) : Same a0 (askReads x0 x1 x2) := by
  induction x0 generalizing x1 x2 with
  | zero => simpa [askReads] using h0
  | succ n ih =>
    unfold askReads
    try dsimp only
    repeat' (first
      | with_reducible assumption
      | intro _
      | with_reducible (first
        | apply ih | apply enqueue_same | apply modQp_same | apply Same.refl | apply Same.ite | (fail_if_no_progress apply Same.keep))
      | split)

theorem releaseTags_same {a0 : State} (s : State) (qpn : Nat) (h0 : Same a0 s) : Same a0 (releaseTags s qpn) := by
  unfold releaseTags
  try dsimp only
  repeat' (first
    | with_reducible assumption
    | intro _
    | with_reducible (first
      | apply askReads_same | apply modQp_same | apply Same.refl | apply Same.ite | (fail_if_no_progress apply Same.keep))
    | split)

theorem tpeMsgEnd_same {a0 : State} (inst : Nat) (s : State) (m : TpeMsg) (h0 : Same a0 s) : Same a0 (tpeMsgEnd inst s m) := by
  unfold tpeMsgEnd
  try dsimp only
  repeat' (first
    | with_reducible assumption
    | intro _
    | with_reducible (first
      | apply endMessage_same | apply endWork_same | apply Same.refl | apply Same.ite | (fail_if_no_progress apply Same.keep))
    | split)

theorem tpeMsgBegin_same {a0 : State} (s : State) (ctx : Nat) (c : Ctx) (r : TpeRun) (m : TpeMsg) (h0 : Same a0 s) : Same a0 (tpeMsgBegin
    s ctx c r m) := by
  unfold tpeMsgBegin
  try dsimp only
  repeat' (first
    | with_reducible assumption
    | intro _
    | with_reducible (first
      | apply addWork_same | apply askReads_same | apply beginMessage_same | apply enqueue_same | apply Same.refl | apply Same.ite
      | (fail_if_no_progress apply Same.keep))
    | split)

theorem tpeIssue_same {a0 : State} (ctx slot : Nat) (s : State) (m : TpeMsg) (h0 : Same a0 s) : Same a0 (tpeIssue ctx slot s m) := by
  unfold tpeIssue
  try dsimp only
  repeat' (first
    | with_reducible assumption
    | intro _
    | with_reducible (first
      | apply modRun_same | apply tpeMsgBegin_same | apply Same.refl | apply Same.ite | (fail_if_no_progress apply Same.keep))
    | split)

theorem tpeRetire_same {a0 : State} (s : State) (ctx inst : Nat) (r : TpeRun) (h0 : Same a0 s) : Same a0 (tpeRetire s ctx inst r) := by
  unfold tpeRetire
  try dsimp only
  repeat' (first
    | with_reducible assumption
    | intro _
    | with_reducible (first
      | apply modRun_same | apply tpeMsgEnd_same | apply Same.refl | apply Same.ite | apply Same.foldl | apply Same.foldl1
      | apply Same.foldl2 | (fail_if_no_progress apply Same.keep))
    | split)

theorem pumpCtx_same {a0 : State} (s : State) (ctx : Nat) (h0 : Same a0 s) : Same a0 (pumpCtx s ctx) := by
  unfold pumpCtx
  try dsimp only
  repeat' (first
    | with_reducible assumption
    | intro _
    | with_reducible (first
      | apply modCtx_same | apply tpeIssue_same | apply tpeRetire_same | apply Same.refl | apply Same.ite | apply Same.foldl
      | apply Same.foldl1 | apply Same.foldl2 | (fail_if_no_progress apply Same.keep))
    | split)

theorem pumpAll_same {a0 : State} (s : State) (h0 : Same a0 s) : Same a0 (pumpAll s) := by
  unfold pumpAll
  try dsimp only
  repeat' (first
    | with_reducible assumption
    | intro _
    | with_reducible (first
      | apply pumpCtx_same | apply Same.refl | apply Same.ite | apply Same.foldl | apply Same.foldl1 | apply Same.foldl2
      | (fail_if_no_progress apply Same.keep))
    | split)

/-! ### Receive -/

theorem sendAckBody_same {a0 : State} (s : State) (qpn path : Nat) (b : AckBody) (h0 : Same a0 s) : Same a0 (sendAckBody s qpn path b) :=
    by
  unfold sendAckBody
  try dsimp only
  repeat' (first
    | with_reducible assumption
    | intro _
    | with_reducible (first
      | apply modQp_same | apply queueControl_same | apply releaseTags_same | apply Same.refl | apply Same.ite
      | (fail_if_no_progress apply Same.keep))
    | split)

theorem sendAck_same {a0 : State} (s : State) (qpn : Nat) (t : Trigger) (h0 : Same a0 s) : Same a0 (sendAck s qpn t) := by
  unfold sendAck
  try dsimp only
  repeat' (first
    | with_reducible assumption
    | intro _
    | with_reducible (first
      | apply sendAckBody_same | apply Same.refl | apply Same.ite | (fail_if_no_progress apply Same.keep))
    | split)

theorem sendNak_same {a0 : State} (s : State) (qpn : Nat) (t : Trigger) (status : BitVec 8) (sub : Nat) (h0 : Same a0 s) : Same a0
    (sendNak s qpn t status sub) := by
  unfold sendNak
  try dsimp only
  repeat' (first
    | with_reducible assumption
    | intro _
    | with_reducible (first
      | apply sendAckBody_same | apply Same.refl | apply Same.ite | (fail_if_no_progress apply Same.keep))
    | split)

theorem sendResend_same {a0 : State} (s : State) (qpn : Nat) (t : Trigger) (h0 : Same a0 s) : Same a0 (sendResend s qpn t) := by
  unfold sendResend
  try dsimp only
  repeat' (first
    | with_reducible assumption
    | intro _
    | with_reducible (first
      | apply sendAckBody_same | apply Same.refl | apply Same.ite | (fail_if_no_progress apply Same.keep))
    | split)

theorem askAck_same {a0 : State} (s : State) (qpn : Nat) (t : Trigger) (h0 : Same a0 s) : Same a0 (askAck s qpn t) := by
  unfold askAck
  try dsimp only
  repeat' (first
    | with_reducible assumption
    | intro _
    | with_reducible (first
      | apply issueFlushes_same | apply modQp_same | apply sendAck_same | apply Same.refl | apply Same.ite
      | (fail_if_no_progress apply Same.keep))
    | split)

theorem notifyWaits_same {a0 : State} (s : State) (qpn : Nat) (h0 : Same a0 s) : Same a0 (notifyWaits s qpn) := by
  unfold notifyWaits
  try dsimp only
  repeat' (first
    | with_reducible assumption
    | intro _
    | with_reducible (first
      | apply askAck_same | apply modQp_same | apply Same.refl | apply Same.ite | (fail_if_no_progress apply Same.keep))
    | split)

theorem ackFlushed_same {a0 : State} (s : State) (qpn id : Nat) (h0 : Same a0 s) : Same a0 (ackFlushed s qpn id) := by
  unfold ackFlushed
  try dsimp only
  repeat' (first
    | with_reducible assumption
    | intro _
    | with_reducible (first
      | apply askAck_same | apply modQp_same | apply notifyWaits_same | apply sendAck_same | apply Same.refl | apply Same.ite
      | (fail_if_no_progress apply Same.keep))
    | split)

theorem slide_same {a0 : State} (s : State) (qpn : Nat) (h0 : Same a0 s) : Same a0 (slide s qpn) := by
  unfold slide
  try dsimp only
  repeat' (first
    | with_reducible assumption
    | intro _
    | with_reducible (first
      | apply modQp_same | apply notifyWaits_same | apply Same.refl | apply Same.ite | (fail_if_no_progress apply Same.keep))
    | split)

theorem scheduleAck_same {a0 : State} (s : State) (qpn : Nat) (p : Pkt) (t : Trigger) (h0 : Same a0 s) : Same a0 (scheduleAck s qpn p t)
    := by
  unfold scheduleAck
  try dsimp only
  repeat' (first
    | with_reducible assumption
    | intro _
    | with_reducible (first
      | apply askAck_same | apply modQp_same | apply sendAck_same | apply Same.refl | apply Same.ite
      | (fail_if_no_progress apply Same.keep))
    | split)

theorem finishRx_same {a0 : State} (s : State) (qpn : Nat) (psn : Word) (mark : RxMark) (ports : List Nat) (first : Bool) (h0 : Same a0 s)
    : Same a0 (finishRx s qpn psn mark ports first) := by
  unfold finishRx
  try dsimp only
  repeat' (first
    | with_reducible assumption
    | intro _
    | with_reducible (first
      | apply askAck_same | apply modQp_same | apply rxRelease_same | apply scheduleAck_same | apply sendNak_same | apply slide_same
      | apply Same.refl | apply Same.ite | (fail_if_no_progress apply Same.keep))
    | split)

theorem unrecord_same {a0 : State} (s : State) (qpn : Nat) (r : RxRec) (h0 : Same a0 s) : Same a0 (unrecord s qpn r) := by
  unfold unrecord
  try dsimp only
  repeat' (first
    | with_reducible assumption
    | intro _
    | with_reducible (first
      | apply modQp_same | apply rxRelease_same | apply Same.refl | apply Same.ite | (fail_if_no_progress apply Same.keep))
    | split)

theorem dropRx_same {a0 : State} (s : State) (qpn : Nat) (psn : Word) (h0 : Same a0 s) : Same a0 (dropRx s qpn psn) := by
  unfold dropRx
  try dsimp only
  repeat' (first
    | with_reducible assumption
    | intro _
    | with_reducible (first
      | apply unrecord_same | apply Same.refl | apply Same.ite | (fail_if_no_progress apply Same.keep))
    | split)

theorem markDirty_same {a0 : State} (s : State) (inst : Nat) (p : Piece) (h0 : Same a0 s) : Same a0 (markDirty s inst p) := by
  unfold markDirty
  try dsimp only
  repeat' (first
    | with_reducible assumption
    | intro _
    | with_reducible (first
      | apply Same.refl | apply Same.ite | (fail_if_no_progress apply Same.keep))
    | split)

theorem writePieces_same {a0 : State} (x0 : State) (x1 : Nat) (x2 : List Piece) (x3 : Bytes) (h0 : Same a0 x0) : Same a0 (writePieces x0
    x1 x2 x3).1 := by
  induction x2 generalizing x0 x1 x3 with
  | nil => simpa [writePieces] using h0
  | cons p l ih =>
    unfold writePieces
    try dsimp only
    repeat' (first
      | with_reducible assumption
      | intro _
      | with_reducible (first
        | apply ih | apply markDirty_same | apply poolWrite_same | apply writeData_same | apply Same.refl | apply Same.ite
        | (fail_if_no_progress apply Same.keep))
      | split)

theorem noteXts_same {a0 : State} (s : State) (ps : List Piece) (h0 : Same a0 s) : Same a0 (noteXts s ps) := by
  unfold noteXts
  try dsimp only
  repeat' (first
    | with_reducible assumption
    | intro _
    | with_reducible (first
      | apply cipherMismatch_same | apply Same.refl | apply Same.ite | (fail_if_no_progress apply Same.keep))
    | split)

theorem issueReads_same {a0 : State} (s : State) (inst id : Nat) (ps : List Piece) (p : Piece → Bool) (h0 : Same a0 s) : Same a0
    (issueReads s inst id ps p) := by
  unfold issueReads
  try dsimp only
  repeat' (first
    | with_reducible assumption
    | intro _
    | with_reducible (first
      | apply readData_same | apply Same.refl | apply Same.ite | apply Same.foldl | apply Same.foldl1 | apply Same.foldl2
      | (fail_if_no_progress apply Same.keep))
    | split)

theorem beginRead_same {a0 : State} (s : State) (inst : Nat) (owner : AccOwner) (ps : List Piece) (h0 : Same a0 s) : Same a0 (beginRead s
    inst owner ps).1 := by
  unfold beginRead
  try dsimp only
  repeat' (first
    | with_reducible assumption
    | intro _
    | with_reducible (first
      | apply issueReads_same | apply takeFresh_same | apply Same.refl | apply Same.ite | (fail_if_no_progress apply Same.keep))
    | split)

theorem modResp_same {a0 : State} (s : State) (qpn tag : Nat) (f : RespSlot → RespSlot) (h0 : Same a0 s) : Same a0 (modResp s qpn tag f)
    := by
  unfold modResp
  try dsimp only
  repeat' (first
    | with_reducible assumption
    | intro _
    | with_reducible (first
      | apply modQp_same | apply Same.refl | apply Same.ite | (fail_if_no_progress apply Same.keep))
    | split)

theorem freeResp_same {a0 : State} (s : State) (qpn : Nat) (h0 : Same a0 s) : Same a0 (freeResp s qpn) := by
  unfold freeResp
  try dsimp only
  repeat' (first
    | with_reducible assumption
    | intro _
    | with_reducible (first
      | apply modQp_same | apply Same.refl | apply Same.ite | (fail_if_no_progress apply Same.keep))
    | split)

theorem sendResponses_same {a0 : State} (s : State) (qpn tag : Nat) (bytes : Bytes) (h0 : Same a0 s) : Same a0 (sendResponses s qpn tag
    bytes) := by
  unfold sendResponses
  try dsimp only
  repeat' (first
    | with_reducible assumption
    | intro _
    | with_reducible (first
      | apply enqueue_same | apply freeResp_same | apply modResp_same | apply Same.refl | apply Same.ite
      | (fail_if_no_progress apply Same.keep))
    | split)

theorem refuseRead_same {a0 : State} (s : State) (qpn tag : Nat) (status : BitVec 8) (sub : Nat) (first : Bool) (h0 : Same a0 s) : Same a0
    (refuseRead s qpn tag status sub first) := by
  unfold refuseRead
  try dsimp only
  repeat' (first
    | with_reducible assumption
    | intro _
    | with_reducible (first
      | apply finishRx_same | apply freeResp_same | apply modResp_same | apply sendNak_same | apply Same.refl | apply Same.ite
      | (fail_if_no_progress apply Same.keep))
    | split)

theorem respData_same {a0 : State} (s : State) (qpn tag : Nat) (ps : List Piece) (b : Option Bytes) (first : Bool) (h0 : Same a0 s) : Same
    a0 (respData s qpn tag ps b first) := by
  unfold respData
  try dsimp only
  repeat' (first
    | with_reducible assumption
    | intro _
    | with_reducible (first
      | apply noteXts_same | apply refuseRead_same | apply sendResponses_same | apply Same.refl | apply Same.ite
      | (fail_if_no_progress apply Same.keep))
    | split)

theorem noteMissed_same {a0 : State} (s : State) (qpn : Nat) (psn : Word) (o : AccOwner) (pages : List Nat) (h0 : Same a0 s) : Same a0
    (noteMissed s qpn psn o pages) := by
  unfold noteMissed
  try dsimp only
  repeat' (first
    | with_reducible assumption
    | intro _
    | with_reducible (first
      | apply modQp_same | apply Same.refl | apply Same.ite | (fail_if_no_progress apply Same.keep))
    | split)

theorem rxMiss_same {a0 : State} (s : State) (qpn : Nat) (psn : Word) (o : AccOwner) (h0 : Same a0 s) : Same a0 (rxMiss s qpn psn o) := by
  unfold rxMiss
  try dsimp only
  repeat' (first
    | with_reducible assumption
    | intro _
    | with_reducible (first
      | apply dropWait_same | apply modQp_same | apply noteMissed_same | apply sendResend_same | apply unrecord_same | apply Same.refl
      | apply Same.ite | (fail_if_no_progress apply Same.keep))
    | split)

theorem placeWrite_same {a0 : State} (s : State) (qpn : Nat) (psn : Word) (x : Xlat) (first : Bool) (h0 : Same a0 s) : Same a0 (placeWrite
    s qpn psn x first) := by
  unfold placeWrite
  try dsimp only
  repeat' (first
    | with_reducible assumption
    | intro _
    | with_reducible (first
      | apply dropRx_same | apply finishRx_same | apply noteXts_same | apply rxMiss_same | apply scheduleAck_same
      | apply writePieces_same | apply Same.refl | apply Same.ite | (fail_if_no_progress apply Same.keep))
    | split)

theorem placeReq_same {a0 : State} (s : State) (qpn tag : Nat) (x : Xlat) (first : Bool) (h0 : Same a0 s) : Same a0 (placeReq s qpn tag x
    first) := by
  unfold placeReq
  try dsimp only
  repeat' (first
    | with_reducible assumption
    | intro _
    | with_reducible (first
      | apply beginRead_same | apply finishRx_same | apply refuseRead_same | apply respData_same | apply rxMiss_same
      | apply scheduleAck_same | apply Same.refl | apply Same.ite | (fail_if_no_progress apply Same.keep))
    | split)

theorem finishRead_same {a0 : State} (s : State) (qpn : Nat) (w : SqWork) (h0 : Same a0 s) : Same a0 (finishRead s qpn w) := by
  unfold finishRead
  try dsimp only
  repeat' (first
    | with_reducible assumption
    | intro _
    | with_reducible (first
      | apply endEntry_same | apply Same.refl | apply Same.ite | (fail_if_no_progress apply Same.keep))
    | split)

theorem modWork_same {a0 : State} (s : State) (qpn slot : Nat) (f : SqWork → SqWork) (h0 : Same a0 s) : Same a0 (modWork s qpn slot f) :=
    by
  unfold modWork
  try dsimp only
  repeat' (first
    | with_reducible assumption
    | intro _
    | with_reducible (first
      | apply modQp_same | apply Same.refl | apply Same.ite | (fail_if_no_progress apply Same.keep))
    | split)

theorem readPlaced_same {a0 : State} (s : State) (qpn slot off len : Nat) (ports : List Nat) (h0 : Same a0 s) : Same a0 (readPlaced s qpn
    slot off len ports) := by
  unfold readPlaced
  try dsimp only
  repeat' (first
    | with_reducible assumption
    | intro _
    | with_reducible (first
      | apply finishRead_same | apply modWork_same | apply releaseTags_same | apply Same.refl | apply Same.ite
      | (fail_if_no_progress apply Same.keep))
    | split)

theorem tpeReadBytes_same {a0 : State} (s : State) (ctx slot msg off : Nat) (bs : Bytes) (h0 : Same a0 s) : Same a0 (tpeReadBytes s ctx
    slot msg off bs) := by
  unfold tpeReadBytes
  try dsimp only
  repeat' (first
    | with_reducible assumption
    | intro _
    | with_reducible (first
      | apply modRun_same | apply Same.refl | apply Same.ite | (fail_if_no_progress apply Same.keep))
    | split)

theorem noteResp_same {a0 : State} (s : State) (qpn slot : Nat) (psn : Word) (h0 : Same a0 s) : Same a0 (noteResp s qpn slot psn) := by
  unfold noteResp
  try dsimp only
  repeat' (first
    | with_reducible assumption
    | intro _
    | with_reducible (first
      | apply modWork_same | apply Same.refl | apply Same.ite | (fail_if_no_progress apply Same.keep))
    | split)

theorem placeResp_same {a0 : State} (s : State) (qpn : Nat) (psn : Word) (x : Xlat) (first : Bool) (h0 : Same a0 s) : Same a0 (placeResp s
    qpn psn x first) := by
  unfold placeResp
  try dsimp only
  repeat' (first
    | with_reducible assumption
    | intro _
    | with_reducible (first
      | apply dropRx_same | apply endEntry_same | apply finishRx_same | apply modWork_same | apply noteXts_same | apply readPlaced_same
      | apply scheduleAck_same | apply writePieces_same | apply Same.refl | apply Same.ite | (fail_if_no_progress apply Same.keep))
    | split)

theorem acceptResp_same {a0 : State} (s0 : State) (qpn : Nat) (q : Qp) (p : Pkt) (h0 : Same a0 s0) : Same a0 (acceptResp s0 qpn q p) := by
  unfold acceptResp
  try dsimp only
  repeat' (first
    | with_reducible assumption
    | intro _
    | with_reducible (first
      | apply beginAccess_same | apply finishRx_same | apply noteResp_same | apply placeResp_same | apply readPlaced_same
      | apply tpeReadBytes_same | apply Same.refl | apply Same.ite | (fail_if_no_progress apply Same.keep))
    | split)

theorem recordHeld_same {a0 : State} (s : State) (qpn : Nat) (d : RxDgram) (share : Nat) (p : Pkt) (h0 : Same a0 s) : Same a0 (recordHeld
    s qpn d share p) := by
  unfold recordHeld
  try dsimp only
  repeat' (first
    | with_reducible assumption
    | intro _
    | with_reducible (first
      | apply modQp_same | apply Same.refl | apply Same.ite | (fail_if_no_progress apply Same.keep))
    | split)

theorem cancelResp_same {a0 : State} (s : State) (qpn tag : Nat) (h0 : Same a0 s) : Same a0 (cancelResp s qpn tag) := by
  unfold cancelResp
  try dsimp only
  repeat' (first
    | with_reducible assumption
    | intro _
    | with_reducible (first
      | apply modQp_same | apply pullTx_same | apply Same.refl | apply Same.ite | (fail_if_no_progress apply Same.keep))
    | split)

theorem executeRead_same {a0 : State} (s : State) (qpn : Nat) (p : Pkt) (first : Bool) (again : List Nat) (held : Option (Nat × Nat)) (h0
    : Same a0 s) : Same a0 (executeRead s qpn p first again held) := by
  unfold executeRead
  try dsimp only
  repeat' (first
    | with_reducible assumption
    | intro _
    | with_reducible (first
      | apply beginAccess_same | apply cancelResp_same | apply modQp_same | apply placeReq_same | apply Same.refl | apply Same.ite
      | (fail_if_no_progress apply Same.keep))
    | split)

theorem acceptPkt_same {a0 : State} (s : State) (qpn : Nat) (p : Pkt) (h0 : Same a0 s) : Same a0 (acceptPkt s qpn p) := by
  unfold acceptPkt
  try dsimp only
  repeat' (first
    | with_reducible assumption
    | intro _
    | with_reducible (first
      | apply accAccept_same | apply acceptResp_same | apply beginAccess_same | apply executeRead_same | apply finishRx_same
      | apply modQp_same | apply notifyWaits_same | apply placeWrite_same | apply scheduleAck_same | apply Same.refl | apply Same.ite
      | (fail_if_no_progress apply Same.keep))
    | split)

theorem readAgainReq_same {a0 : State} (s : State) (qpn : Nat) (q : Qp) (p : Pkt) (t : Trigger) (h0 : Same a0 s) : Same a0 (readAgainReq s
    qpn q p t) := by
  unfold readAgainReq
  try dsimp only
  repeat' (first
    | with_reducible assumption
    | intro _
    | with_reducible (first
      | apply executeRead_same | apply sendAck_same | apply sendNak_same | apply Same.refl | apply Same.ite
      | (fail_if_no_progress apply Same.keep))
    | split)

theorem retryStaging_same {a0 : State} (x0 : Nat) (x1 : State) (h0 : Same a0 x1) : Same a0 (retryStaging x0 x1) := by
  induction x0 generalizing x1 with
  | zero => simpa [retryStaging] using h0
  | succ n ih =>
    unfold retryStaging
    try dsimp only
    repeat' (first
      | with_reducible assumption
      | intro _
      | with_reducible (first
        | apply ih | apply accAccept_same | apply finishRx_same | apply Same.refl | apply Same.ite
        | (fail_if_no_progress apply Same.keep))
      | split)

theorem settleStaging_same {a0 : State} (s : State) (h0 : Same a0 s) : Same a0 (settleStaging s) := by
  unfold settleStaging
  try dsimp only
  repeat' (first
    | with_reducible assumption
    | intro _
    | with_reducible (first
      | apply retryStaging_same | apply Same.refl | apply Same.ite | (fail_if_no_progress apply Same.keep))
    | split)

theorem tpeSettle_same {a0 : State} (s : State) (h0 : Same a0 s) : Same a0 (tpeSettle s) := by
  unfold tpeSettle
  try dsimp only
  repeat' (first
    | with_reducible assumption
    | intro _
    | with_reducible (first
      | apply pumpAll_same | apply settleStaging_same | apply Same.refl | apply Same.ite | (fail_if_no_progress apply Same.keep))
    | split)

theorem nakStranger_same {a0 : State} (s : State) (d : RxDgram) (p : Pkt) (sub : Nat) (h0 : Same a0 s) : Same a0 (nakStranger s d p sub)
    := by
  unfold nakStranger
  try dsimp only
  repeat' (first
    | with_reducible assumption
    | intro _
    | with_reducible (first
      | apply queueControl_same | apply takeFresh_same | apply Same.refl | apply Same.ite | (fail_if_no_progress apply Same.keep))
    | split)

theorem onData_same {a0 : State} (s : State) (qpn : Nat) (d : RxDgram) (share : Nat) (p : Pkt) (h0 : Same a0 s) : Same a0 (onData s qpn d
    share p) := by
  unfold onData
  try dsimp only
  repeat' (first
    | with_reducible assumption
    | intro _
    | with_reducible (first
      | apply acceptPkt_same | apply askAck_same | apply count_same | apply modQp_same | apply readAgainReq_same | apply recordHeld_same
      | apply rxRelease_same | apply sendAck_same | apply sendNak_same | apply settleStaging_same | apply Same.refl | apply Same.ite
      | (fail_if_no_progress apply Same.keep))
    | split)

theorem rxPacket_same {a0 : State} (s : State) (d : RxDgram) (share : Nat) (p : Pkt) (h0 : Same a0 s) : Same a0 (rxPacket s d share p) :=
    by
  unfold rxPacket
  try dsimp only
  repeat' (first
    | with_reducible assumption
    | intro _
    | with_reducible (first
      | apply nakStranger_same | apply onData_same | apply rxRelease_same | apply sendAckBody_same | apply sendNak_same
      | apply takeFresh_same | apply Same.refl | apply Same.ite | (fail_if_no_progress apply Same.keep))
    | split)

theorem rxPackets_same {a0 : State} (s : State) (d : RxDgram) (ps : List Pkt) (h0 : Same a0 s) : Same a0 (rxPackets s d ps) := by
  unfold rxPackets
  try dsimp only
  repeat' (first
    | with_reducible assumption
    | intro _
    | with_reducible (first
      | apply rxPacket_same | apply Same.refl | apply Same.ite | apply Same.foldl | apply Same.foldl1 | apply Same.foldl2
      | (fail_if_no_progress apply Same.keep))
    | split)

theorem takenRx_same {a0 : State} (s : State) (d : RxDgram) (h0 : Same a0 s) : Same a0 (takenRx s d) := by
  unfold takenRx
  try dsimp only
  repeat' (first
    | with_reducible assumption
    | intro _
    | with_reducible (first
      | apply rxRelease_same | apply Same.refl | apply Same.ite | (fail_if_no_progress apply Same.keep))
    | split)

theorem tagFails_same {a0 : State} (s : State) (id : Nat) (phase : Bool) (h0 : Same a0 s) : Same a0 (tagFails s id phase) := by
  unfold tagFails
  try dsimp only
  repeat' (first
    | with_reducible assumption
    | intro _
    | with_reducible (first
      | apply count_same | apply modSa_same | apply post_same | apply Same.refl | apply Same.ite | (fail_if_no_progress apply Same.keep))
    | split)

theorem switchPhase_same {a0 : State} (s : State) (id : Nat) (phase : Bool) (h0 : Same a0 s) : Same a0 (switchPhase s id phase) := by
  unfold switchPhase
  try dsimp only
  repeat' (first
    | with_reducible assumption
    | intro _
    | with_reducible (first
      | apply modSa_same | apply Same.refl | apply Same.ite | (fail_if_no_progress apply Same.keep))
    | split)

theorem checkPeerTime_same {a0 : State} (s : State) (port : Nat) (b : ConnBody) (h0 : Same a0 s) : Same a0 (checkPeerTime s port b) := by
  unfold checkPeerTime
  try dsimp only
  repeat' (first
    | with_reducible assumption
    | intro _
    | with_reducible (first
      | apply gateRefreshPort_same | apply modPort_same | apply Same.refl | apply Same.ite | (fail_if_no_progress apply Same.keep))
    | split)

theorem notePeerTime_same {a0 : State} (s : State) (port : Nat) (x0 : RxBody) (h0 : Same a0 s) : Same a0 (notePeerTime s port x0) := by
  unfold notePeerTime
  try dsimp only
  repeat' (first
    | with_reducible assumption
    | intro _
    | with_reducible (first
      | apply checkPeerTime_same | apply gateTakeoversDue_same | apply Same.refl | apply Same.ite
      | (fail_if_no_progress apply Same.keep))
    | split)

theorem openFrame_same {a0 : State} (s : State) (port src pcp dscp : Nat) (ce : Bool) (path len : Nat) (u : Bytes) (disagree : Bool) (h0 :
    Same a0 s) : Same a0 (openFrame s port src pcp dscp ce path len u disagree) := by
  unfold openFrame
  try dsimp only
  repeat' (first
    | with_reducible assumption
    | intro _
    | with_reducible (first
      | apply cipherMismatch_same | apply count_same | apply modSa_same | apply notePeerTime_same | apply rxDrop_same
      | apply rxTake_same | apply switchPhase_same | apply tagFails_same | apply Same.refl | apply Same.ite
      | (fail_if_no_progress apply Same.keep))
    | split)

theorem relay_same {a0 : State} (s : State) (f : Forward) (pcp : Option Nat) (dscp ecn sport : Nat) (u : Bytes) (h0 : Same a0 s) : Same a0
    (relay s f pcp dscp ecn sport u) := by
  unfold relay
  try dsimp only
  repeat' (first
    | with_reducible assumption
    | intro _
    | with_reducible (first
      | apply pushFrame_same | apply Same.refl | apply Same.ite | (fail_if_no_progress apply Same.keep))
    | split)

theorem endReexecuted_same {a0 : State} (s : State) (qpn : Nat) (psn : Word) (h0 : Same a0 s) : Same a0 (endReexecuted s qpn psn) := by
  unfold endReexecuted
  try dsimp only
  repeat' (first
    | with_reducible assumption
    | intro _
    | with_reducible (first
      | apply cancelResp_same | apply modQp_same | apply sendNak_same | apply Same.refl | apply Same.ite
      | (fail_if_no_progress apply Same.keep))
    | split)

/-! ### Repair -/

theorem probeAcked_same {a0 : State} (s : State) (coord path : Nat) (h0 : Same a0 s) : Same a0 (probeAcked s coord path) := by
  unfold probeAcked
  try dsimp only
  repeat' (first
    | with_reducible assumption
    | intro _
    | with_reducible (first
      | apply modDest_same | apply modPath_same | apply post_same | apply Same.refl | apply Same.ite
      | (fail_if_no_progress apply Same.keep))
    | split)

theorem overtake_same {a0 : State} (s : State) (coord path order : Nat) (h0 : Same a0 s) : Same a0 (overtake s coord path order) := by
  unfold overtake
  try dsimp only
  repeat' (first
    | with_reducible assumption
    | intro _
    | with_reducible (first
      | apply Same.refl | apply Same.ite | (fail_if_no_progress apply Same.keep))
    | split)

theorem ackOne_same {a0 : State} (qpn coord : Nat) (s : State) (t : TxPkt) (h0 : Same a0 s) : Same a0 (ackOne qpn coord s t) := by
  unfold ackOne
  try dsimp only
  repeat' (first
    | with_reducible assumption
    | intro _
    | with_reducible (first
      | apply modDest_same | apply modQp_same | apply overtake_same | apply probeAcked_same | apply uncharge_same | apply Same.refl
      | apply Same.ite | (fail_if_no_progress apply Same.keep))
    | split)

theorem finishWire_same {a0 : State} (s : State) (qpn : Nat) (skip : Option TxOwner) (h0 : Same a0 s) : Same a0 (finishWire s qpn skip) :=
    by
  unfold finishWire
  try dsimp only
  repeat' (first
    | with_reducible assumption
    | intro _
    | with_reducible (first
      | apply endEntry_same | apply freeResp_same | apply Same.refl | apply Same.ite | apply Same.foldl | apply Same.foldl1
      | apply Same.foldl2 | (fail_if_no_progress apply Same.keep))
    | split)

theorem clearProbe_same {a0 : State} (coord : Nat) (s : State) (t : TxPkt) (h0 : Same a0 s) : Same a0 (clearProbe coord s t) := by
  unfold clearProbe
  try dsimp only
  repeat' (first
    | with_reducible assumption
    | intro _
    | with_reducible (first
      | apply modPath_same | apply Same.refl | apply Same.ite | (fail_if_no_progress apply Same.keep))
    | split)

theorem requestAgain_same {a0 : State} (s : State) (qpn : Nat) (w : SqWork) (p : Pkt) (f : TxPkt → TxPkt) (h0 : Same a0 s) : Same a0
    (requestAgain s qpn w p f) := by
  unfold requestAgain
  try dsimp only
  repeat' (first
    | with_reducible assumption
    | intro _
    | with_reducible (first
      | apply modQp_same | apply takeFresh_same | apply Same.refl | apply Same.ite | (fail_if_no_progress apply Same.keep))
    | split)

theorem holdFrom_same {a0 : State} (s : State) (qpn : Nat) (q : Qp) (psn : Word) (h0 : Same a0 s) : Same a0 (holdFrom s qpn q psn) := by
  unfold holdFrom
  try dsimp only
  repeat' (first
    | with_reducible assumption
    | intro _
    | with_reducible (first
      | apply clearProbe_same | apply modQp_same | apply pullTx_same | apply Same.refl | apply Same.ite | apply Same.foldl
      | apply Same.foldl1 | apply Same.foldl2 | (fail_if_no_progress apply Same.keep))
    | split)

theorem resendFrom_same {a0 : State} (s : State) (qpn : Nat) (psn : Word) (h0 : Same a0 s) : Same a0 (resendFrom s qpn psn) := by
  unfold resendFrom
  try dsimp only
  repeat' (first
    | with_reducible assumption
    | intro _
    | with_reducible (first
      | apply holdFrom_same | apply requestAgain_same | apply Same.refl | apply Same.ite | (fail_if_no_progress apply Same.keep))
    | split)

theorem heldAnswer_same {a0 : State} (s : State) (qpn : Nat) (q : Qp) (psn : Word) (h0 : Same a0 s) : Same a0 (heldAnswer s qpn q psn) :=
    by
  unfold heldAnswer
  try dsimp only
  repeat' (first
    | with_reducible assumption
    | intro _
    | with_reducible (first
      | apply modTx_same | apply pullTx_same | apply withdrawLoss_same | apply Same.refl | apply Same.ite | apply Same.foldl
      | apply Same.foldl1 | apply Same.foldl2 | (fail_if_no_progress apply Same.keep))
    | split)

theorem onAck_same {a0 : State} (s : State) (qpn : Nat) (q : Qp) (b : AckBody) (h0 : Same a0 s) : Same a0 (onAck s qpn q b) := by
  unfold onAck
  try dsimp only
  repeat' (first
    | with_reducible assumption
    | intro _
    | with_reducible (first
      | apply ackOne_same | apply declareLost_same | apply failByNak_same | apply finishWire_same | apply heldAnswer_same
      | apply modDest_same | apply resendFrom_same | apply Same.refl | apply Same.ite | apply Same.foldl | apply Same.foldl1
      | apply Same.foldl2 | (fail_if_no_progress apply Same.keep))
    | split)

theorem redirect_same {a0 : State} (s : State) (qpn : Nat) (q : Qp) (b : MovedBody) (h0 : Same a0 s) : Same a0 (redirect s qpn q b) := by
  unfold redirect
  try dsimp only
  repeat' (first
    | with_reducible assumption
    | intro _
    | with_reducible (first
      | apply forgetPkt_same | apply modQp_same | apply pace_same | apply post_same | apply pullTx_same | apply Same.refl
      | apply Same.ite | apply Same.foldl | apply Same.foldl1 | apply Same.foldl2 | (fail_if_no_progress apply Same.keep))
    | split)

theorem onMoved_same {a0 : State} (s : State) (qpn : Nat) (q : Qp) (b : MovedBody) (h0 : Same a0 s) : Same a0 (onMoved s qpn q b) := by
  unfold onMoved
  try dsimp only
  repeat' (first
    | with_reducible assumption
    | intro _
    | with_reducible (first
      | apply ownerFails_same | apply redirect_same | apply Same.refl | apply Same.ite | (fail_if_no_progress apply Same.keep))
    | split)

theorem repeatReq_same {a0 : State} (s : State) (qpn : Nat) (q : Qp) (w : SqWork) (p : Pkt) (h0 : Same a0 s) : Same a0 (repeatReq s qpn q
    w p) := by
  unfold repeatReq
  try dsimp only
  repeat' (first
    | with_reducible assumption
    | intro _
    | with_reducible (first
      | apply clearProbe_same | apply modQp_same | apply modTx_same | apply pace_same | apply requestAgain_same | apply Same.refl
      | apply Same.ite | (fail_if_no_progress apply Same.keep))
    | split)

theorem prunePaths_same {a0 : State} (s : State) (h0 : Same a0 s) : Same a0 (prunePaths s) := by
  unfold prunePaths
  try dsimp only
  repeat' (first
    | with_reducible assumption
    | intro _
    | with_reducible (first
      | apply Same.refl | apply Same.ite | (fail_if_no_progress apply Same.keep))
    | split)

theorem pathsChanged_same {a0 : State} (s : State) (h0 : Same a0 s) : Same a0 (pathsChanged s) := by
  unfold pathsChanged
  try dsimp only
  repeat' (first
    | with_reducible assumption
    | intro _
    | with_reducible (first
      | apply exhaustCheck_same | apply prunePaths_same | apply Same.refl | apply Same.ite | apply Same.foldl | apply Same.foldl1
      | apply Same.foldl2 | (fail_if_no_progress apply Same.keep))
    | split)

/-! ### Connect -/

theorem sendConn_same {a0 : State} (s : State) (qpn : Nat) (q : Qp) (mk : ConnBody → CtlBody) (reason : BitVec 16) (h0 : Same a0 s) : Same
    a0 (sendConn s qpn q mk reason) := by
  unfold sendConn
  try dsimp only
  repeat' (first
    | with_reducible assumption
    | intro _
    | with_reducible (first
      | apply queueControl_same | apply Same.refl | apply Same.ite | (fail_if_no_progress apply Same.keep))
    | split)

theorem peerRefused_same {a0 : State} (s : State) (qpn : Nat) (q : Qp) (reason : BitVec 16) (byPeer : Bool) (h0 : Same a0 s) : Same a0
    (peerRefused s qpn q reason byPeer) := by
  unfold peerRefused
  try dsimp only
  repeat' (first
    | with_reducible assumption
    | intro _
    | with_reducible (first
      | apply post_same | apply Same.refl | apply Same.ite | (fail_if_no_progress apply Same.keep))
    | split)

theorem takeRecord_same {a0 : State} (s : State) (qpn : Nat) (b : ConnBody) (h0 : Same a0 s) : Same a0 (takeRecord s qpn b) := by
  unfold takeRecord
  try dsimp only
  repeat' (first
    | with_reducible assumption
    | intro _
    | with_reducible (first
      | apply modQp_same | apply Same.refl | apply Same.ite | (fail_if_no_progress apply Same.keep))
    | split)

theorem qpReady_same {a0 : State} (s : State) (qpn : Nat) (h0 : Same a0 s) : Same a0 (qpReady s qpn) := by
  unfold qpReady
  try dsimp only
  repeat' (first
    | with_reducible assumption
    | intro _
    | with_reducible (first
      | apply enableRing_same | apply moveQp_same | apply ringDoorbell_same | apply Same.refl | apply Same.ite
      | (fail_if_no_progress apply Same.keep))
    | split)

theorem qpReset_same {a0 : State} (s : State) (qpn : Nat) (status : BitVec 8) (h0 : Same a0 s) : Same a0 (qpReset s qpn status) := by
  unfold qpReset
  try dsimp only
  repeat' (first
    | with_reducible assumption
    | intro _
    | with_reducible (first
      | apply disableRing_same | apply modQp_same | apply moveQp_same | apply stopQp_same | apply Same.refl | apply Same.ite
      | (fail_if_no_progress apply Same.keep))
    | split)

theorem qpInit_same {a0 : State} (s : State) (slot : Nat) (e : Entry) (n : Nat) (q : Qp) (h0 : Same a0 s) : Same a0 (qpInit s slot e n q)
    := by
  unfold qpInit
  try dsimp only
  repeat' (first
    | with_reducible assumption
    | intro _
    | with_reducible (first
      | apply awaitSeed_same | apply complete_same | apply drawRandom_same | apply enableRing_same | apply modQp_same
      | apply moveQp_same | apply settle_same | apply Same.refl | apply Same.ite | (fail_if_no_progress apply Same.keep))
    | split)

theorem qpModify_same {a0 : State} (c : AdminCmd) (s : State) (h0 : Same a0 s) : Same a0 (qpModify c s) := by
  unfold qpModify
  try dsimp only
  repeat' (first
    | with_reducible assumption
    | intro _
    | with_reducible (first
      | apply complete_same | apply keepRunning_same | apply modQp_same | apply moveQp_same | apply qpInit_same | apply qpReady_same
      | apply qpReset_same | apply refuse_same | apply sendConn_same | apply Same.refl | apply Same.ite
      | (fail_if_no_progress apply Same.keep))
    | split)

theorem refusePeer_same {a0 : State} (s : State) (qpn : Nat) (q : Qp) (reason : BitVec 16) (h0 : Same a0 s) : Same a0 (refusePeer s qpn q
    reason) := by
  unfold refusePeer
  try dsimp only
  repeat' (first
    | with_reducible assumption
    | intro _
    | with_reducible (first
      | apply endHandshake_same | apply peerRefused_same | apply sendConn_same | apply Same.refl | apply Same.ite
      | (fail_if_no_progress apply Same.keep))
    | split)

theorem onConnReq_same {a0 : State} (s : State) (d : RxDgram) (qpn : Nat) (b : ConnBody) (h0 : Same a0 s) : Same a0 (onConnReq s d qpn b)
    := by
  unfold onConnReq
  try dsimp only
  repeat' (first
    | with_reducible assumption
    | intro _
    | with_reducible (first
      | apply refusePeer_same | apply sendConn_same | apply takeRecord_same | apply Same.refl | apply Same.ite
      | (fail_if_no_progress apply Same.keep))
    | split)

theorem onConnAccept_same {a0 : State} (s : State) (d : RxDgram) (qpn : Nat) (b : ConnBody) (h0 : Same a0 s) : Same a0 (onConnAccept s d
    qpn b) := by
  unfold onConnAccept
  try dsimp only
  repeat' (first
    | with_reducible assumption
    | intro _
    | with_reducible (first
      | apply endHandshake_same | apply qpReady_same | apply refusePeer_same | apply takeRecord_same | apply Same.refl | apply Same.ite
      | (fail_if_no_progress apply Same.keep))
    | split)

theorem onConnRefuse_same {a0 : State} (s : State) (d : RxDgram) (qpn : Nat) (b : ConnBody) (h0 : Same a0 s) : Same a0 (onConnRefuse s d
    qpn b) := by
  unfold onConnRefuse
  try dsimp only
  repeat' (first
    | with_reducible assumption
    | intro _
    | with_reducible (first
      | apply endHandshake_same | apply peerRefused_same | apply Same.refl | apply Same.ite | (fail_if_no_progress apply Same.keep))
    | split)

/-! ### Cipher -/

theorem modCipher_same {a0 : State} (s : State) (f : Cipher → Cipher) (h0 : Same a0 s) : Same a0 (modCipher s f) := by
  unfold modCipher
  try dsimp only
  repeat' (first
    | with_reducible assumption
    | intro _
    | with_reducible (first
      | apply Same.refl | apply Same.ite | (fail_if_no_progress apply Same.keep))
    | split)

theorem purgeKeyMem_same {a0 : State} (s : State) (a n : Nat) (h0 : Same a0 s) : Same a0 (purgeKeyMem s a n) := by
  unfold purgeKeyMem
  try dsimp only
  repeat' (first
    | with_reducible assumption
    | intro _
    | with_reducible (first
      | apply Same.refl | apply Same.ite | (fail_if_no_progress apply Same.keep))
    | split)

theorem loadKey_same {a0 : State} (s : State) (i : Nat) (e : Entry) (key : Bytes) (h0 : Same a0 s) : Same a0 (loadKey s i e key) := by
  unfold loadKey
  try dsimp only
  repeat' (first
    | with_reducible assumption
    | intro _
    | with_reducible (first
      | apply modCipher_same | apply purgeKeyMem_same | apply Same.refl | apply Same.ite | (fail_if_no_progress apply Same.keep))
    | split)

theorem keySlotGenerate_same {a0 : State} (c : AdminCmd) (s : State) (h0 : Same a0 s) : Same a0 (keySlotGenerate c s) := by
  unfold keySlotGenerate
  try dsimp only
  repeat' (first
    | with_reducible assumption
    | intro _
    | with_reducible (first
      | apply awaitSeed_same | apply complete_same | apply drawRandom_same | apply loadKey_same | apply settle_same | apply Same.refl
      | apply Same.ite | (fail_if_no_progress apply Same.keep))
    | split)

theorem dropSa_same {a0 : State} (s : State) (id : Nat) (h0 : Same a0 s) : Same a0 (dropSa s id) := by
  unfold dropSa
  try dsimp only
  repeat' (first
    | with_reducible assumption
    | intro _
    | with_reducible (first
      | apply modCipher_same | apply Same.refl | apply Same.ite | (fail_if_no_progress apply Same.keep))
    | split)

/-! ### Begin -/

theorem markStarted_same {a0 : State} (s : State) (k : RingKind) (id slot : Nat) (h0 : Same a0 s) : Same a0 (markStarted s k id slot) :=
    by
  unfold markStarted
  try dsimp only
  repeat' (first
    | with_reducible assumption
    | intro _
    | with_reducible (first
      | apply setRing_same | apply Same.refl | apply Same.ite | (fail_if_no_progress apply Same.keep))
    | split)

theorem cutEntry_same {a0 : State} (s : State) (qpn : Nat) (w : SqWork) (data : Bytes) (h0 : Same a0 s) : Same a0 (cutEntry s qpn w data)
    := by
  unfold cutEntry
  try dsimp only
  repeat' (first
    | with_reducible assumption
    | intro _
    | with_reducible (first
      | apply enqueue_same | apply modWork_same | apply Same.refl | apply Same.ite | (fail_if_no_progress apply Same.keep))
    | split)

theorem sqData_same {a0 : State} (s : State) (qpn slot : Nat) (ps : List Piece) (b : Option Bytes) (h0 : Same a0 s) : Same a0 (sqData s
    qpn slot ps b) := by
  unfold sqData
  try dsimp only
  repeat' (first
    | with_reducible assumption
    | intro _
    | with_reducible (first
      | apply cutEntry_same | apply endEntry_same | apply noteXts_same | apply Same.refl | apply Same.ite
      | (fail_if_no_progress apply Same.keep))
    | split)

theorem sqSource_same {a0 : State} (s : State) (qpn slot : Nat) (x : Xlat) (h0 : Same a0 s) : Same a0 (sqSource s qpn slot x) := by
  unfold sqSource
  try dsimp only
  repeat' (first
    | with_reducible assumption
    | intro _
    | with_reducible (first
      | apply beginRead_same | apply endEntry_same | apply sqData_same | apply Same.refl | apply Same.ite
      | (fail_if_no_progress apply Same.keep))
    | split)

theorem startRead_same {a0 : State} (s : State) (qpn : Nat) (q : Qp) (w : SqWork) (h0 : Same a0 s) : Same a0 (startRead s qpn q w) := by
  unfold startRead
  try dsimp only
  repeat' (first
    | with_reducible assumption
    | intro _
    | with_reducible (first
      | apply addWork_same | apply askReads_same | apply Same.refl | apply Same.ite | (fail_if_no_progress apply Same.keep))
    | split)

theorem startEntry_same {a0 : State} (s : State) (qpn : Nat) (q : Qp) (t : Taken) (h0 : Same a0 s) : Same a0 (startEntry s qpn q t) := by
  unfold startEntry
  try dsimp only
  repeat' (first
    | with_reducible assumption
    | intro _
    | with_reducible (first
      | apply addWork_same | apply beginAccess_same | apply cutEntry_same | apply endEntry_same | apply markStarted_same
      | apply sqSource_same | apply startRead_same | apply Same.refl | apply Same.ite | (fail_if_no_progress apply Same.keep))
    | split)

/-! ### Lookaside -/

theorem modLa_same {a0 : State} (s : State) (inst : Nat) (f : LaRun → LaRun) (h0 : Same a0 s) : Same a0 (modLa s inst f) := by
  unfold modLa
  try dsimp only
  repeat' (first
    | with_reducible assumption
    | intro _
    | with_reducible (first
      | apply modInst_same | apply Same.refl | apply Same.ite | (fail_if_no_progress apply Same.keep))
    | split)

theorem laForget_same {a0 : State} (s : State) (inst : Nat) (h0 : Same a0 s) : Same a0 (laForget s inst) := by
  unfold laForget
  try dsimp only
  repeat' (first
    | with_reducible assumption
    | intro _
    | with_reducible (first
      | apply modInst_same | apply Same.refl | apply Same.ite | (fail_if_no_progress apply Same.keep))
    | split)

theorem drainLa_same {a0 : State} (s : State) (inst : Nat) (h0 : Same a0 s) : Same a0 (drainLa s inst) := by
  unfold drainLa
  try dsimp only
  repeat' (first
    | with_reducible assumption
    | intro _
    | with_reducible (first
      | apply disableRing_same | apply drain_same | apply laForget_same | apply Same.refl | apply Same.ite
      | (fail_if_no_progress apply Same.keep))
    | split)

theorem laEnd_same {a0 : State} (s : State) (inst : Nat) (status : BitVec 8) (sub : Nat) (h0 : Same a0 s) : Same a0 (laEnd s inst status
    sub) := by
  unfold laEnd
  try dsimp only
  repeat' (first
    | with_reducible assumption
    | intro _
    | with_reducible (first
      | apply drainLa_same | apply endSlot_same | apply fetchRing_same | apply laForget_same | apply Same.refl | apply Same.ite
      | (fail_if_no_progress apply Same.keep))
    | split)

theorem tryWrites_same {a0 : State} (inst : Nat) (x0 : List (Nat × Nat × Bytes)) (x1 : List (List Piece × Bytes)) (x2 : State) (h0 : Same
    a0 x2) : Same a0 (tryWrites inst x0 x1 x2).1 := by
  induction x0 generalizing x1 x2 with
  | nil => simpa [tryWrites] using h0
  | cons p l ih =>
    obtain ⟨a, b, c⟩ := p
    unfold tryWrites
    try dsimp only
    repeat' (first
      | with_reducible assumption
      | intro _
      | with_reducible (first
        | apply ih | apply beginAccess_same | apply Same.refl | apply Same.ite | (fail_if_no_progress apply Same.keep))
      | split)

theorem writeAll_same {a0 : State} (inst : Nat) (x0 : List (List Piece × Bytes)) (x1 : List Nat) (x2 : State) (h0 : Same a0 x2) : Same a0
    (writeAll inst x0 x1 x2).1 := by
  induction x0 generalizing x1 x2 with
  | nil => simpa [writeAll] using h0
  | cons p l ih =>
    obtain ⟨a, b⟩ := p
    unfold writeAll
    try dsimp only
    repeat' (first
      | with_reducible assumption
      | intro _
      | with_reducible (first
        | apply ih | apply writePieces_same | apply Same.refl | apply Same.ite | (fail_if_no_progress apply Same.keep))
      | split)

theorem laCommit_same {a0 : State} (s : State) (inst : Nat) (h0 : Same a0 s) : Same a0 (laCommit s inst) := by
  unfold laCommit
  try dsimp only
  repeat' (first
    | with_reducible assumption
    | intro _
    | with_reducible (first
      | apply issueFlushes_same | apply laEnd_same | apply modLa_same | apply noteXts_same | apply tryWrites_same | apply writeAll_same
      | apply Same.refl | apply Same.ite | (fail_if_no_progress apply Same.keep))
    | split)

theorem laCompute_same {a0 : State} (s : State) (inst : Nat) (r : LaRun) (h0 : Same a0 s) : Same a0 (laCompute s inst r) := by
  unfold laCompute
  try dsimp only
  repeat' (first
    | with_reducible assumption
    | intro _
    | with_reducible (first
      | apply cipherMismatch_same | apply laCommit_same | apply laEnd_same | apply modCipher_same | apply modLa_same | apply Same.refl
      | apply Same.ite | (fail_if_no_progress apply Same.keep))
    | split)

theorem laRandom_same {a0 : State} (x0 : Nat) (x1 : State) (x2 : Nat) (x3 : Bytes) (h0 : Same a0 x1) : Same a0 (laRandom x0 x1 x2 x3).1 :=
    by
  induction x0 generalizing x1 x2 x3 with
  | zero => simpa [laRandom] using h0
  | succ n ih =>
    unfold laRandom
    try dsimp only
    repeat' (first
      | with_reducible assumption
      | intro _
      | with_reducible (first
        | apply ih | apply drawRandom_same | apply Same.refl | apply Same.ite | (fail_if_no_progress apply Same.keep))
      | split)

theorem laDraw_same {a0 : State} (s : State) (inst : Nat) (r : LaRun) (h0 : Same a0 s) : Same a0 (laDraw s inst r) := by
  unfold laDraw
  try dsimp only
  repeat' (first
    | with_reducible assumption
    | intro _
    | with_reducible (first
      | apply laCommit_same | apply laRandom_same | apply modLa_same | apply Same.refl | apply Same.ite
      | (fail_if_no_progress apply Same.keep))
    | split)

theorem laData_same {a0 : State} (s : State) (inst part : Nat) (ps : List Piece) (b : Option Bytes) (h0 : Same a0 s) : Same a0 (laData s
    inst part ps b) := by
  unfold laData
  try dsimp only
  repeat' (first
    | with_reducible assumption
    | intro _
    | with_reducible (first
      | apply laCompute_same | apply laEnd_same | apply modLa_same | apply noteXts_same | apply Same.refl | apply Same.ite
      | (fail_if_no_progress apply Same.keep))
    | split)

theorem laAccess_same {a0 : State} (s : State) (inst part : Nat) (x : Xlat) (h0 : Same a0 s) : Same a0 (laAccess s inst part x) := by
  unfold laAccess
  try dsimp only
  repeat' (first
    | with_reducible assumption
    | intro _
    | with_reducible (first
      | apply beginRead_same | apply laCommit_same | apply laData_same | apply laEnd_same | apply Same.refl | apply Same.ite
      | (fail_if_no_progress apply Same.keep))
    | split)

theorem laRead_same {a0 : State} (inst slot : Nat) (s : State) (p : Nat × Nat × Nat) (h0 : Same a0 s) : Same a0 (laRead inst slot s p) :=
    by
  unfold laRead
  try dsimp only
  repeat' (first
    | with_reducible assumption
    | intro _
    | with_reducible (first
      | apply beginAccess_same | apply laAccess_same | apply Same.refl | apply Same.ite | (fail_if_no_progress apply Same.keep))
    | split)

theorem laBegin_same {a0 : State} (s : State) (inst slot : Nat) (e : Entry) (bad : Bool) (h0 : Same a0 s) : Same a0 (laBegin s inst slot e
    bad) := by
  unfold laBegin
  try dsimp only
  repeat' (first
    | with_reducible assumption
    | intro _
    | with_reducible (first
      | apply laDraw_same | apply laEnd_same | apply laRead_same | apply modInst_same | apply Same.refl | apply Same.ite
      | apply Same.foldl | apply Same.foldl1 | apply Same.foldl2 | (fail_if_no_progress apply Same.keep))
    | split)

theorem laDoorbell_same {a0 : State} (s : State) (inst : Nat) (h0 : Same a0 s) : Same a0 (laDoorbell s inst) := by
  unfold laDoorbell
  try dsimp only
  repeat' (first
    | with_reducible assumption
    | intro _
    | with_reducible (first
      | apply ringDoorbell_same | apply Same.refl | apply Same.ite | (fail_if_no_progress apply Same.keep))
    | split)

theorem seedCommand_same {a0 : State} (s : State) (c : AdminCmd) (h0 : Same a0 s) : Same a0 (seedCommand s c) := by
  unfold seedCommand
  try dsimp only
  repeat' (first
    | with_reducible assumption
    | intro _
    | with_reducible (first
      | apply keySlotGenerate_same | apply qpCreate_same | apply qpModify_same | apply Same.refl | apply Same.ite
      | (fail_if_no_progress apply Same.keep))
    | split)

theorem seedCome_same {a0 : State} (s : State) (h0 : Same a0 s) : Same a0 (seedCome s) := by
  unfold seedCome
  try dsimp only
  repeat' (first
    | with_reducible assumption
    | intro _
    | with_reducible (first
      | apply laDraw_same | apply laEnd_same | apply seedCommand_same | apply Same.refl | apply Same.ite | apply Same.foldl
      | apply Same.foldl1 | apply Same.foldl2 | (fail_if_no_progress apply Same.keep))
    | split)

theorem seedDrbg_same {a0 : State} (s : State) (h0 : Same a0 s) : Same a0 (seedDrbg s) := by
  unfold seedDrbg
  try dsimp only
  repeat' (first
    | with_reducible assumption
    | intro _
    | with_reducible (first
      | apply modCipher_same | apply Same.refl | apply Same.ite | (fail_if_no_progress apply Same.keep))
    | split)

/-! ### Mailbox -/

theorem alertRefresh_same {a0 : State} (s : State) (h0 : Same a0 s) : Same a0 (alertRefresh s) := by
  unfold alertRefresh
  try dsimp only
  repeat' (first
    | with_reducible assumption
    | intro _
    | with_reducible (first
      | apply Same.refl | apply Same.ite | (fail_if_no_progress apply Same.keep))
    | split)

theorem modChan_same {a0 : State} (s : State) (r : ChanRef) (f : Channel → Channel) (h0 : Same a0 s) : Same a0 (modChan s r f) := by
  unfold modChan
  try dsimp only
  repeat' (first
    | with_reducible assumption
    | intro _
    | with_reducible (first
      | apply alertRefresh_same | apply modInst_same | apply Same.refl | apply Same.ite | (fail_if_no_progress apply Same.keep))
    | split)

theorem heardMbx_same {a0 : State} (r : ChanRef) (s : State) (h0 : Same a0 s) : Same a0 (heardMbx r s) := by
  unfold heardMbx
  try dsimp only
  repeat' (first
    | with_reducible assumption
    | intro _
    | with_reducible (first
      | apply heardBell_same | apply Same.refl | apply Same.ite | (fail_if_no_progress apply Same.keep))
    | split)

theorem chanIrq_same {a0 : State} (s : State) (x0 : ChanRef) (h0 : Same a0 s) : Same a0 (chanIrq s x0) := by
  cases x0 <;> unfold chanIrq
  all_goals try dsimp only
  repeat' (first
    | with_reducible assumption
    | intro _
    | with_reducible (first
      | apply alertRefresh_same | apply msixRaise_same | apply raiseVector_same | apply Same.refl | apply Same.ite
      | (fail_if_no_progress apply Same.keep))
    | split)

theorem endNotice_same {a0 : State} (s : State) (r : ChanRef) (n : Nat) (code : BitVec 16) (ack : Bool) (h0 : Same a0 s) : Same a0
    (endNotice s r n code ack) := by
  unfold endNotice
  try dsimp only
  repeat' (first
    | with_reducible assumption
    | intro _
    | with_reducible (first
      | apply chanIrq_same | apply modChan_same | apply Same.refl | apply Same.ite | (fail_if_no_progress apply Same.keep))
    | split)

theorem deliver_same {a0 : State} (s : State) (r : ChanRef) (n : Nat) (words : BitVec 128) (seq : BitVec 16) (sender : Option (Nat × Nat))
    (h0 : Same a0 s) : Same a0 (deliver s r n words seq sender) := by
  unfold deliver
  try dsimp only
  repeat' (first
    | with_reducible assumption
    | intro _
    | with_reducible (first
      | apply chanIrq_same | apply modChan_same | apply Same.refl | apply Same.ite | (fail_if_no_progress apply Same.keep))
    | split)

theorem mbxSend_same {a0 : State} (s : State) (r : ChanRef) (n : Nat) (h0 : Same a0 s) : Same a0 (mbxSend s r n) := by
  unfold mbxSend
  try dsimp only
  repeat' (first
    | with_reducible assumption
    | intro _
    | with_reducible (first
      | apply endNotice_same | apply laDoorbell_same | apply modChan_same | apply Same.refl | apply Same.ite
      | (fail_if_no_progress apply Same.keep))
    | split)

theorem outDoorbell_same {a0 : State} (s : State) (r : ChanRef) (w : Word) (h0 : Same a0 s) : Same a0 (outDoorbell s r w) := by
  unfold outDoorbell
  try dsimp only
  repeat' (first
    | with_reducible assumption
    | intro _
    | with_reducible (first
      | apply mbxSend_same | apply Same.refl | apply Same.ite | apply Same.foldl | apply Same.foldl1 | apply Same.foldl2
      | (fail_if_no_progress apply Same.keep))
    | split)

theorem endIn_same {a0 : State} (s : State) (r : ChanRef) (n : Nat) (code : BitVec 16) (h0 : Same a0 s) : Same a0 (endIn s r n code) := by
  unfold endIn
  try dsimp only
  repeat' (first
    | with_reducible assumption
    | intro _
    | with_reducible (first
      | apply endNotice_same | apply modChan_same | apply Same.refl | apply Same.ite | (fail_if_no_progress apply Same.keep))
    | split)

theorem inAck_same {a0 : State} (s : State) (r : ChanRef) (n : Nat) (code : BitVec 16) (h0 : Same a0 s) : Same a0 (inAck s r n code) := by
  unfold inAck
  try dsimp only
  repeat' (first
    | with_reducible assumption
    | intro _
    | with_reducible (first
      | apply endIn_same | apply Same.refl | apply Same.ite | (fail_if_no_progress apply Same.keep))
    | split)

theorem inClear_same {a0 : State} (r : ChanRef) (s : State) (n : Nat) (h0 : Same a0 s) : Same a0 (inClear r s n) := by
  unfold inClear
  try dsimp only
  repeat' (first
    | with_reducible assumption
    | intro _
    | with_reducible (first
      | apply endIn_same | apply modChan_same | apply Same.refl | apply Same.ite | (fail_if_no_progress apply Same.keep))
    | split)

theorem inDoorbell_same {a0 : State} (s : State) (r : ChanRef) (w : Word) (h0 : Same a0 s) : Same a0 (inDoorbell s r w) := by
  unfold inDoorbell
  try dsimp only
  repeat' (first
    | with_reducible assumption
    | intro _
    | with_reducible (first
      | apply inClear_same | apply Same.refl | apply Same.ite | apply Same.foldl | apply Same.foldl1 | apply Same.foldl2
      | (fail_if_no_progress apply Same.keep))
    | split)

theorem unmaskIrq_same {a0 : State} (s : State) (r : ChanRef) (fires : Bool) (h0 : Same a0 s) : Same a0 (unmaskIrq s r fires) := by
  unfold unmaskIrq
  try dsimp only
  repeat' (first
    | with_reducible assumption
    | intro _
    | with_reducible (first
      | apply chanIrq_same | apply Same.refl | apply Same.ite | (fail_if_no_progress apply Same.keep))
    | split)

theorem maskWrite_same {a0 : State} (s : State) (r : ChanRef) (off : Nat) (w : Word) (h0 : Same a0 s) : Same a0 (maskWrite s r off w) :=
    by
  unfold maskWrite
  try dsimp only
  repeat' (first
    | with_reducible assumption
    | intro _
    | with_reducible (first
      | apply modChan_same | apply unmaskIrq_same | apply Same.refl | apply Same.ite | (fail_if_no_progress apply Same.keep))
    | split)

theorem chanWrite_same {a0 : State} (s : State) (r : ChanRef) (off : Nat) (w : Word) (h0 : Same a0 s) : Same a0 (chanWrite s r off w) :=
    by
  unfold chanWrite
  try dsimp only
  repeat' (first
    | with_reducible assumption
    | intro _
    | with_reducible (first
      | apply inAck_same | apply inDoorbell_same | apply maskWrite_same | apply modChan_same | apply outDoorbell_same | apply Same.refl
      | apply Same.ite | (fail_if_no_progress apply Same.keep))
    | split)

theorem mbxInstReset_same {a0 : State} (s : State) (i : Nat) (h0 : Same a0 s) : Same a0 (mbxInstReset s i) := by
  unfold mbxInstReset
  try dsimp only
  repeat' (first
    | with_reducible assumption
    | intro _
    | with_reducible (first
      | apply endNotice_same | apply modInst_same | apply Same.refl | apply Same.ite | apply Same.foldl | apply Same.foldl1
      | apply Same.foldl2 | (fail_if_no_progress apply Same.keep))
    | split)

theorem mbxPfReset_same {a0 : State} (s : State) (h0 : Same a0 s) : Same a0 (mbxPfReset s) := by
  unfold mbxPfReset
  try dsimp only
  repeat' (first
    | with_reducible assumption
    | intro _
    | with_reducible (first
      | apply Same.refl | apply Same.ite | (fail_if_no_progress apply Same.keep))
    | split)

theorem relaysAgain_same {a0 : State} (s : State) (h0 : Same a0 s) : Same a0 (relaysAgain s) := by
  unfold relaysAgain
  try dsimp only
  repeat' (first
    | with_reducible assumption
    | intro _
    | with_reducible (first
      | apply Same.refl | apply Same.ite | (fail_if_no_progress apply Same.keep))
    | split)

/-! ### Tpe -/

theorem endRun_same {a0 : State} (s : State) (ctx : Nat) (c : Ctx) (r : TpeRun) (h0 : Same a0 s) : Same a0 (endRun s ctx c r) := by
  unfold endRun
  try dsimp only
  repeat' (first
    | with_reducible assumption
    | intro _
    | with_reducible (first
      | apply modCtx_same | apply tpeMsgEnd_same | apply Same.refl | apply Same.ite | apply Same.foldl | apply Same.foldl1
      | apply Same.foldl2 | (fail_if_no_progress apply Same.keep))
    | split)

theorem ctxError_same {a0 : State} (s : State) (ctx : Nat) (dead : Option Nat) (status : BitVec 8) (h0 : Same a0 s) : Same a0 (ctxError s
    ctx dead status) := by
  unfold ctxError
  try dsimp only
  repeat' (first
    | with_reducible assumption
    | intro _
    | with_reducible (first
      | apply disableRing_same | apply endRun_same | apply modCtx_same | apply settleStaging_same | apply Same.refl | apply Same.ite
      | apply Same.foldl | apply Same.foldl1 | apply Same.foldl2 | (fail_if_no_progress apply Same.keep))
    | split)

theorem drainTpe_same {a0 : State} (s : State) (ctx : Nat) (h0 : Same a0 s) : Same a0 (drainTpe s ctx) := by
  unfold drainTpe
  try dsimp only
  repeat' (first
    | with_reducible assumption
    | intro _
    | with_reducible (first
      | apply ctxError_same | apply drain_same | apply Same.refl | apply Same.ite | (fail_if_no_progress apply Same.keep))
    | split)

theorem finishStep_same {a0 : State} (s : State) (ctx : Nat) (c : Ctx) (r : TpeRun) (h0 : Same a0 s) : Same a0 (finishStep s ctx c r) :=
    by
  unfold finishStep
  try dsimp only
  repeat' (first
    | with_reducible assumption
    | intro _
    | with_reducible (first
      | apply ctxError_same | apply drainTpe_same | apply endRun_same | apply endSlot_same | apply fetchRing_same | apply Same.refl
      | apply Same.ite | (fail_if_no_progress apply Same.keep))
    | split)

theorem failStep_same {a0 : State} (s : State) (ctx slot : Nat) (status : BitVec 8) (sub : Nat) (h0 : Same a0 s) : Same a0 (failStep s ctx
    slot status sub) := by
  unfold failStep
  try dsimp only
  repeat' (first
    | with_reducible assumption
    | intro _
    | with_reducible (first
      | apply modRun_same | apply Same.refl | apply Same.ite | (fail_if_no_progress apply Same.keep))
    | split)

theorem dropAcc_same {a0 : State} (s : State) (ctx slot part : Nat) (h0 : Same a0 s) : Same a0 (dropAcc s ctx slot part) := by
  unfold dropAcc
  try dsimp only
  repeat' (first
    | with_reducible assumption
    | intro _
    | with_reducible (first
      | apply modRun_same | apply Same.refl | apply Same.ite | (fail_if_no_progress apply Same.keep))
    | split)

theorem tpeData_same {a0 : State} (s : State) (ctx slot part : Nat) (ps : List Piece) (b : Option Bytes) (h0 : Same a0 s) : Same a0
    (tpeData s ctx slot part ps b) := by
  unfold tpeData
  try dsimp only
  repeat' (first
    | with_reducible assumption
    | intro _
    | with_reducible (first
      | apply dropAcc_same | apply failStep_same | apply modRun_same | apply noteXts_same | apply Same.refl | apply Same.ite
      | (fail_if_no_progress apply Same.keep))
    | split)

theorem tpeAccess_same {a0 : State} (s : State) (ctx slot part : Nat) (x : Xlat) (h0 : Same a0 s) : Same a0 (tpeAccess s ctx slot part x)
    := by
  unfold tpeAccess
  try dsimp only
  repeat' (first
    | with_reducible assumption
    | intro _
    | with_reducible (first
      | apply beginRead_same | apply dropAcc_same | apply failStep_same | apply modRun_same | apply noteXts_same | apply tpeData_same
      | apply writePieces_same | apply Same.refl | apply Same.ite | (fail_if_no_progress apply Same.keep))
    | split)

theorem startAcc_same {a0 : State} (ctx slot : Nat) (s : State) (a : TpeAcc) (h0 : Same a0 s) : Same a0 (startAcc ctx slot s a) := by
  unfold startAcc
  try dsimp only
  repeat' (first
    | with_reducible assumption
    | intro _
    | with_reducible (first
      | apply beginAccess_same | apply modRun_same | apply tpeAccess_same | apply Same.refl | apply Same.ite
      | (fail_if_no_progress apply Same.keep))
    | split)

theorem addMsg_same {a0 : State} (ctx slot : Nat) (s : State) (m : TpeMsg) (h0 : Same a0 s) : Same a0 (addMsg ctx slot s m) := by
  unfold addMsg
  try dsimp only
  repeat' (first
    | with_reducible assumption
    | intro _
    | with_reducible (first
      | apply modRun_same | apply takeFresh_same | apply Same.refl | apply Same.ite | (fail_if_no_progress apply Same.keep))
    | split)

theorem makeShares_same {a0 : State} (s : State) (ctx : Nat) (c : Ctx) (r : TpeRun) (k : Kettle) (h0 : Same a0 s) : Same a0 (makeShares s
    ctx c r k) := by
  unfold makeShares
  try dsimp only
  repeat' (first
    | with_reducible assumption
    | intro _
    | with_reducible (first
      | apply addMsg_same | apply failStep_same | apply modRun_same | apply Same.refl | apply Same.ite | apply Same.foldl
      | apply Same.foldl1 | apply Same.foldl2 | (fail_if_no_progress apply Same.keep))
    | split)

theorem makeStore_same {a0 : State} (s : State) (ctx : Nat) (c : Ctx) (r : TpeRun) (h0 : Same a0 s) : Same a0 (makeStore s ctx c r) := by
  unfold makeStore
  try dsimp only
  repeat' (first
    | with_reducible assumption
    | intro _
    | with_reducible (first
      | apply addMsg_same | apply failStep_same | apply modRun_same | apply startAcc_same | apply Same.refl | apply Same.ite
      | apply Same.foldl | apply Same.foldl1 | apply Same.foldl2 | (fail_if_no_progress apply Same.keep))
    | split)

theorem makeDispatch_same {a0 : State} (s : State) (ctx : Nat) (c : Ctx) (r : TpeRun) (k : Kettle) (h0 : Same a0 s) : Same a0
    (makeDispatch s ctx c r k) := by
  unfold makeDispatch
  try dsimp only
  repeat' (first
    | with_reducible assumption
    | intro _
    | with_reducible (first
      | apply addMsg_same | apply failStep_same | apply modRun_same | apply startAcc_same | apply Same.refl | apply Same.ite
      | apply Same.foldl | apply Same.foldl1 | apply Same.foldl2 | (fail_if_no_progress apply Same.keep))
    | split)

theorem makeStream_same {a0 : State} (s : State) (ctx : Nat) (r : TpeRun) (h0 : Same a0 s) : Same a0 (makeStream s ctx r) := by
  unfold makeStream
  try dsimp only
  repeat' (first
    | with_reducible assumption
    | intro _
    | with_reducible (first
      | apply modCtx_same | apply modRun_same | apply startAcc_same | apply Same.refl | apply Same.ite
      | (fail_if_no_progress apply Same.keep))
    | split)

theorem makeStep_same {a0 : State} (s : State) (ctx : Nat) (c : Ctx) (r : TpeRun) (h0 : Same a0 s) : Same a0 (makeStep s ctx c r) := by
  unfold makeStep
  try dsimp only
  repeat' (first
    | with_reducible assumption
    | intro _
    | with_reducible (first
      | apply makeDispatch_same | apply makeShares_same | apply makeStore_same | apply makeStream_same | apply modCtx_same
      | apply modRun_same | apply Same.refl | apply Same.ite | (fail_if_no_progress apply Same.keep))
    | split)

theorem tpeAdvance_same {a0 : State} (s : State) (ctx slot : Nat) (h0 : Same a0 s) : Same a0 (tpeAdvance s ctx slot) := by
  unfold tpeAdvance
  try dsimp only
  repeat' (first
    | with_reducible assumption
    | intro _
    | with_reducible (first
      | apply issueFlushes_same | apply makeStep_same | apply modRun_same | apply Same.refl | apply Same.ite
      | (fail_if_no_progress apply Same.keep))
    | split)

theorem stepBegin_same {a0 : State} (s : State) (ctx : Nat) (r : TpeRun) (h0 : Same a0 s) : Same a0 (stepBegin s ctx r) := by
  unfold stepBegin
  try dsimp only
  repeat' (first
    | with_reducible assumption
    | intro _
    | with_reducible (first
      | apply addMsg_same | apply modCtx_same | apply settleStaging_same | apply startAcc_same | apply Same.refl | apply Same.ite
      | apply Same.foldl | apply Same.foldl1 | apply Same.foldl2 | (fail_if_no_progress apply Same.keep))
    | split)

theorem takeTile_same {a0 : State} (s : State) (ctx slot : Nat) (h0 : Same a0 s) : Same a0 (takeTile s ctx slot) := by
  unfold takeTile
  try dsimp only
  repeat' (first
    | with_reducible assumption
    | intro _
    | with_reducible (first
      | apply Same.refl | apply Same.ite | (fail_if_no_progress apply Same.keep))
    | split)

theorem stepArray_same {a0 : State} (s : State) (ctx : Nat) (h0 : Same a0 s) : Same a0 (stepArray s ctx) := by
  unfold stepArray
  try dsimp only
  repeat' (first
    | with_reducible assumption
    | intro _
    | with_reducible (first
      | apply modCtx_same | apply takeTile_same | apply Same.refl | apply Same.ite | (fail_if_no_progress apply Same.keep))
    | split)

theorem dropCtx_same {a0 : State} (s : State) (n : Nat) (h0 : Same a0 s) : Same a0 (dropCtx s n) := by
  unfold dropCtx
  try dsimp only
  repeat' (first
    | with_reducible assumption
    | intro _
    | with_reducible (first
      | apply Same.refl | apply Same.ite | (fail_if_no_progress apply Same.keep))
    | split)

theorem epochAtCtx_same {a0 : State} (epoch : Nat) (s : State) (ctx : Nat) (h0 : Same a0 s) : Same a0 (epochAtCtx epoch s ctx) := by
  unfold epochAtCtx
  try dsimp only
  repeat' (first
    | with_reducible assumption
    | intro _
    | with_reducible (first
      | apply finishStep_same | apply modCtx_same | apply Same.refl | apply Same.ite | (fail_if_no_progress apply Same.keep))
    | split)

theorem dropKettle_same {a0 : State} (s : State) (n : Nat) (h0 : Same a0 s) : Same a0 (dropKettle s n) := by
  unfold dropKettle
  try dsimp only
  repeat' (first
    | with_reducible assumption
    | intro _
    | with_reducible (first
      | apply Same.refl | apply Same.ite | (fail_if_no_progress apply Same.keep))
    | split)

/-! ### Instances -/

theorem settleRing_same {a0 : State} (s : State) (k : RingKind) (id : Nat) (h0 : Same a0 s) : Same a0 (settleRing s k id) := by
  unfold settleRing
  try dsimp only
  repeat' (first
    | with_reducible assumption
    | intro _
    | with_reducible (first
      | apply drainLa_same | apply drainQp_same | apply drainTpe_same | apply Same.refl | apply Same.ite
      | (fail_if_no_progress apply Same.keep))
    | split)

theorem thawRecalls_same {a0 : State} (s : State) (i : Nat) (h0 : Same a0 s) : Same a0 (thawRecalls s i) := by
  unfold thawRecalls
  try dsimp only
  repeat' (first
    | with_reducible assumption
    | intro _
    | with_reducible (first
      | apply modPage_same | apply recallGo_same | apply recallThaw_same | apply settleRing_same | apply Same.refl | apply Same.ite
      | apply Same.foldl | apply Same.foldl1 | apply Same.foldl2 | (fail_if_no_progress apply Same.keep))
    | split)

theorem postInst_same {a0 : State} (s : State) (i state cause noRecord : Nat) (h0 : Same a0 s) : Same a0 (postInst s i state cause
    noRecord) := by
  unfold postInst
  try dsimp only
  repeat' (first
    | with_reducible assumption
    | intro _
    | with_reducible (first
      | apply post_same | apply Same.refl | apply Same.ite | (fail_if_no_progress apply Same.keep))
    | split)

theorem moveInst_same {a0 : State} (s : State) (i : Nat) (st : InstState) (cause noRecord : Nat) (h0 : Same a0 s) : Same a0 (moveInst s i
    st cause noRecord) := by
  unfold moveInst
  try dsimp only
  repeat' (first
    | with_reducible assumption
    | intro _
    | with_reducible (first
      | apply modInst_same | apply postInst_same | apply Same.refl | apply Same.ite | (fail_if_no_progress apply Same.keep))
    | split)

theorem reloadVecs_same {a0 : State} (s : State) (i : Nat) (new : List VecEntry) (h0 : Same a0 s) : Same a0 (reloadVecs s i new) := by
  unfold reloadVecs
  try dsimp only
  repeat' (first
    | with_reducible assumption
    | intro _
    | with_reducible (first
      | apply emit_same | apply modInst_same | apply Same.refl | apply Same.ite | apply Same.foldl | apply Same.foldl1
      | apply Same.foldl2 | (fail_if_no_progress apply Same.keep))
    | split)

theorem resetQp_same {a0 : State} (s : State) (qpn : Nat) (h0 : Same a0 s) : Same a0 (resetQp s qpn) := by
  unfold resetQp
  try dsimp only
  repeat' (first
    | with_reducible assumption
    | intro _
    | with_reducible (first
      | apply endHandshake_same | apply qpReset_same | apply Same.refl | apply Same.ite | (fail_if_no_progress apply Same.keep))
    | split)

theorem resetCtx_same {a0 : State} (s : State) (n : Nat) (h0 : Same a0 s) : Same a0 (resetCtx s n) := by
  unfold resetCtx
  try dsimp only
  repeat' (first
    | with_reducible assumption
    | intro _
    | with_reducible (first
      | apply ctxError_same | apply modCtx_same | apply Same.refl | apply Same.ite | (fail_if_no_progress apply Same.keep))
    | split)

theorem resetLa_same {a0 : State} (s : State) (i : Nat) (h0 : Same a0 s) : Same a0 (resetLa s i) := by
  unfold resetLa
  try dsimp only
  repeat' (first
    | with_reducible assumption
    | intro _
    | with_reducible (first
      | apply disableRing_same | apply laForget_same | apply Same.refl | apply Same.ite | (fail_if_no_progress apply Same.keep))
    | split)

theorem beginInstDrain_same {a0 : State} (s : State) (i : Nat) (h0 : Same a0 s) : Same a0 (beginInstDrain s i) := by
  unfold beginInstDrain
  try dsimp only
  repeat' (first
    | with_reducible assumption
    | intro _
    | with_reducible (first
      | apply drain_same | apply issueFlushes_same | apply modInst_same | apply Same.refl | apply Same.ite
      | (fail_if_no_progress apply Same.keep))
    | split)

theorem abandonCmds_same {a0 : State} (s : State) (i : Nat) (slot : Option Nat) (h0 : Same a0 s) : Same a0 (abandonCmds s i slot) := by
  unfold abandonCmds
  try dsimp only
  repeat' (first
    | with_reducible assumption
    | intro _
    | with_reducible (first
      | apply refuse_same | apply Same.refl | apply Same.ite | apply Same.foldl | apply Same.foldl1 | apply Same.foldl2
      | (fail_if_no_progress apply Same.keep))
    | split)

theorem resetInst_same {a0 : State} (s : State) (i : Nat) (why : ResetWhy) (mute : Bool) (h0 : Same a0 s) : Same a0 (resetInst s i why
    mute) := by
  unfold resetInst
  try dsimp only
  repeat' (first
    | with_reducible assumption
    | intro _
    | with_reducible (first
      | apply abandonCmds_same | apply beginInstDrain_same | apply modInst_same | apply moveInst_same | apply resetCtx_same
      | apply resetLa_same | apply resetQp_same | apply tpeSettle_same | apply Same.refl | apply Same.ite | apply Same.foldl
      | apply Same.foldl1 | apply Same.foldl2 | (fail_if_no_progress apply Same.keep))
    | split)

theorem removeObjects_same {a0 : State} (s : State) (i : Nat) (h0 : Same a0 s) : Same a0 (removeObjects s i) := by
  unfold removeObjects
  try dsimp only
  repeat' (first
    | with_reducible assumption
    | intro _
    | with_reducible (first
      | apply dropKettle_same | apply dropQp_same | apply dropSa_same | apply modCipher_same | apply modInst_same | apply Same.refl
      | apply Same.ite | apply Same.foldl | apply Same.foldl1 | apply Same.foldl2 | (fail_if_no_progress apply Same.keep))
    | split)

theorem finishDestroy_same {a0 : State} (s : State) (i : Nat) (h0 : Same a0 s) : Same a0 (finishDestroy s i) := by
  unfold finishDestroy
  try dsimp only
  repeat' (first
    | with_reducible assumption
    | intro _
    | with_reducible (first
      | apply complete_same | apply postInst_same | apply Same.refl | apply Same.ite | (fail_if_no_progress apply Same.keep))
    | split)

theorem redirectReset_same {a0 : State} (s : State) (i cause : Nat) (keepSlot : Bool) (h0 : Same a0 s) : Same a0 (redirectReset s i cause
    keepSlot) := by
  unfold redirectReset
  try dsimp only
  repeat' (first
    | with_reducible assumption
    | intro _
    | with_reducible (first
      | apply modInst_same | apply refuse_same | apply Same.refl | apply Same.ite | (fail_if_no_progress apply Same.keep))
    | split)

theorem destroyMuted_same {a0 : State} (s : State) (i cause : Nat) (keepSlot : Bool) (h0 : Same a0 s) : Same a0 (destroyMuted s i cause
    keepSlot) := by
  unfold destroyMuted
  try dsimp only
  repeat' (first
    | with_reducible assumption
    | intro _
    | with_reducible (first
      | apply redirectReset_same | apply resetInst_same | apply Same.refl | apply Same.ite | (fail_if_no_progress apply Same.keep))
    | split)

theorem vfFlr_same {a0 : State} (s : State) (vf : Nat) (h0 : Same a0 s) : Same a0 (vfFlr s vf) := by
  unfold vfFlr
  try dsimp only
  repeat' (first
    | with_reducible assumption
    | intro _
    | with_reducible (first
      | apply modInst_same | apply resetInst_same | apply Same.refl | apply Same.ite | apply Same.foldl | apply Same.foldl1
      | apply Same.foldl2 | (fail_if_no_progress apply Same.keep))
    | split)

theorem vfEnableClear_same {a0 : State} (s : State) (h0 : Same a0 s) : Same a0 (vfEnableClear s) := by
  unfold vfEnableClear
  try dsimp only
  repeat' (first
    | with_reducible assumption
    | intro _
    | with_reducible (first
      | apply destroyMuted_same | apply Same.refl | apply Same.ite | apply Same.foldl | apply Same.foldl1 | apply Same.foldl2
      | (fail_if_no_progress apply Same.keep))
    | split)

theorem endForward_same {a0 : State} (s : State) (f : Forward) (h0 : Same a0 s) : Same a0 (endForward s f) := by
  unfold endForward
  try dsimp only
  repeat' (first
    | with_reducible assumption
    | intro _
    | with_reducible (first
      | apply post_same | apply Same.refl | apply Same.ite | (fail_if_no_progress apply Same.keep))
    | split)

theorem forgetSlots_same {a0 : State} (s : State) (h0 : Same a0 s) : Same a0 (forgetSlots s) := by
  unfold forgetSlots
  try dsimp only
  repeat' (first
    | with_reducible assumption
    | intro _
    | with_reducible (first
      | apply Same.refl | apply Same.ite | (fail_if_no_progress apply Same.keep))
    | split)

theorem pfFlr_same {a0 : State} (s : State) (h0 : Same a0 s) : Same a0 (pfFlr s) := by
  unfold pfFlr
  try dsimp only
  repeat' (first
    | with_reducible assumption
    | intro _
    | with_reducible (first
      | apply admFlr_same | apply destroyMuted_same | apply endForward_same | apply forgetSlots_same | apply mbxPfReset_same
      | apply modCipher_same | apply trace_same | apply Same.refl | apply Same.ite | apply Same.foldl | apply Same.foldl1
      | apply Same.foldl2 | (fail_if_no_progress apply Same.keep))
    | split)

theorem sendOwed_same {a0 : State} (s : State) (qpn : Nat) (h0 : Same a0 s) : Same a0 (sendOwed s qpn) := by
  unfold sendOwed
  try dsimp only
  repeat' (first
    | with_reducible assumption
    | intro _
    | with_reducible (first
      | apply askAck_same | apply Same.refl | apply Same.ite | (fail_if_no_progress apply Same.keep))
    | split)

theorem freezeQp_same {a0 : State} (s : State) (qpn : Nat) (h0 : Same a0 s) : Same a0 (freezeQp s qpn) := by
  unfold freezeQp
  try dsimp only
  repeat' (first
    | with_reducible assumption
    | intro _
    | with_reducible (first
      | apply modQp_same | apply moveQp_same | apply Same.refl | apply Same.ite | (fail_if_no_progress apply Same.keep))
    | split)

/-! ### Time -/

theorem setTime_same {a0 : State} (s : State) (st : TimeState) (trusted : Bool) (guardEnd trustEnd : Option Nat) (h0 : Same a0 s) : Same
    a0 (setTime s st trusted guardEnd trustEnd) := by
  unfold setTime
  try dsimp only
  repeat' (first
    | with_reducible assumption
    | intro _
    | with_reducible (first
      | apply gateRefresh_same | apply post_same | apply Same.refl | apply Same.ite | (fail_if_no_progress apply Same.keep))
    | split)

theorem toFreerun_same {a0 : State} (s : State) (h0 : Same a0 s) : Same a0 (toFreerun s) := by
  unfold toFreerun
  try dsimp only
  repeat' (first
    | with_reducible assumption
    | intro _
    | with_reducible (first
      | apply setTime_same | apply Same.refl | apply Same.ite | (fail_if_no_progress apply Same.keep))
    | split)

theorem stepTime_same {a0 : State} (s : State) (d : Int) (h0 : Same a0 s) : Same a0 (stepTime s d) := by
  unfold stepTime
  try dsimp only
  repeat' (first
    | with_reducible assumption
    | intro _
    | with_reducible (first
      | apply post_same | apply Same.refl | apply Same.ite | (fail_if_no_progress apply Same.keep))
    | split)

theorem ptpTick_same {a0 : State} (s : State) (h0 : Same a0 s) : Same a0 (ptpTick s) := by
  unfold ptpTick
  try dsimp only
  repeat' (first
    | with_reducible assumption
    | intro _
    | with_reducible (first
      | apply emit_same | apply Same.refl | apply Same.ite | (fail_if_no_progress apply Same.keep))
    | split)

theorem timeTrefLost_same {a0 : State} (s : State) (h0 : Same a0 s) : Same a0 (timeTrefLost s) := by
  unfold timeTrefLost
  try dsimp only
  repeat' (first
    | with_reducible assumption
    | intro _
    | with_reducible (first
      | apply setTime_same | apply Same.refl | apply Same.ite | (fail_if_no_progress apply Same.keep))
    | split)

theorem timeTrefBack_same {a0 : State} (s : State) (h0 : Same a0 s) : Same a0 (timeTrefBack s) := by
  unfold timeTrefBack
  try dsimp only
  repeat' (first
    | with_reducible assumption
    | intro _
    | with_reducible (first
      | apply setTime_same | apply Same.refl | apply Same.ite | (fail_if_no_progress apply Same.keep))
    | split)

theorem readTimeLo_same {a0 : State} (s : State) (h0 : Same a0 s) : Same a0 (readTimeLo s) := by
  unfold readTimeLo
  try dsimp only
  repeat' (first
    | with_reducible assumption
    | intro _
    | with_reducible (first
      | apply Same.refl | apply Same.ite | (fail_if_no_progress apply Same.keep))
    | split)

theorem tickTime_same {a0 : State} (s : State) (h0 : Same a0 s) : Same a0 (tickTime s) := by
  unfold tickTime
  try dsimp only
  repeat' (first
    | with_reducible assumption
    | intro _
    | with_reducible (first
      | apply count_same | apply Same.refl | apply Same.ite | (fail_if_no_progress apply Same.keep))
    | split)

theorem tick_same {a0 : State} (s : State) (h0 : Same a0 s) : Same a0 (tick s) := by
  unfold tick
  try dsimp only
  repeat' (first
    | with_reducible assumption
    | intro _
    | with_reducible (first
      | apply ptpTick_same | apply tickTime_same | apply Same.refl | apply Same.ite | (fail_if_no_progress apply Same.keep))
    | split)

/-! ### PowerStates -/

theorem areaWrite_same {a0 : State} (s : State) (k off : Nat) (bs : Bytes) (h0 : Same a0 s) : Same a0 (areaWrite s k off bs) := by
  unfold areaWrite
  try dsimp only
  repeat' (first
    | with_reducible assumption
    | intro _
    | with_reducible (first
      | apply modChan_same | apply Same.refl | apply Same.ite | (fail_if_no_progress apply Same.keep))
    | split)

theorem secureEnd_same {a0 : State} (s : State) (k b : Nat) (status : BitVec 8) (reason : Nat) (res : Entry) (h0 : Same a0 s) : Same a0
    (secureEnd s k b status reason res) := by
  unfold secureEnd
  try dsimp only
  repeat' (first
    | with_reducible assumption
    | intro _
    | with_reducible (first
      | apply areaWrite_same | apply endNotice_same | apply Same.refl | apply Same.ite | (fail_if_no_progress apply Same.keep))
    | split)

theorem refDone_same {a0 : State} (s : State) (r : CmdRef) (f : Entry → Entry) (h0 : Same a0 s) : Same a0 (refDone s r f) := by
  unfold refDone
  try dsimp only
  repeat' (first
    | with_reducible assumption
    | intro _
    | with_reducible (first
      | apply completeWith_same | apply secureEnd_same | apply Same.refl | apply Same.ite | (fail_if_no_progress apply Same.keep))
    | split)

theorem refRefuse_same {a0 : State} (s : State) (r : CmdRef) (status : BitVec 8) (reason : Nat) (h0 : Same a0 s) : Same a0 (refRefuse s r
    status reason) := by
  unfold refRefuse
  try dsimp only
  repeat' (first
    | with_reducible assumption
    | intro _
    | with_reducible (first
      | apply refuse_same | apply secureEnd_same | apply Same.refl | apply Same.ite | (fail_if_no_progress apply Same.keep))
    | split)

theorem refWrite_same {a0 : State} (s : State) (r : CmdRef) (dst : Nat) (bs : Bytes) (h0 : Same a0 s) : Same a0 (refWrite s r dst bs) :=
    by
  unfold refWrite
  try dsimp only
  repeat' (first
    | with_reducible assumption
    | intro _
    | with_reducible (first
      | apply areaWrite_same | apply writeResult_same | apply Same.refl | apply Same.ite | (fail_if_no_progress apply Same.keep))
    | split)

theorem owlLogRead_same {a0 : State} (s : State) (r : CmdRef) (e : Entry) (ok : Bool) (h0 : Same a0 s) : Same a0 (owlLogRead s r e ok) :=
    by
  unfold owlLogRead
  try dsimp only
  repeat' (first
    | with_reducible assumption
    | intro _
    | with_reducible (first
      | apply refDone_same | apply refRefuse_same | apply refWrite_same | apply takeFresh_same | apply Same.refl | apply Same.ite
      | (fail_if_no_progress apply Same.keep))
    | split)

theorem notePower_same {a0 : State} (s : State) (old new cause : Nat) (h0 : Same a0 s) : Same a0 (notePower s old new cause) := by
  unfold notePower
  try dsimp only
  repeat' (first
    | with_reducible assumption
    | intro _
    | with_reducible (first
      | apply owlPut_same | apply post_same | apply trace_same | apply Same.refl | apply Same.ite
      | (fail_if_no_progress apply Same.keep))
    | split)

theorem movePower_same {a0 : State} (s : State) (new cause : Nat) (h0 : Same a0 s) : Same a0 (movePower s new cause) := by
  unfold movePower
  try dsimp only
  repeat' (first
    | with_reducible assumption
    | intro _
    | with_reducible (first
      | apply notePower_same | apply Same.refl | apply Same.ite | (fail_if_no_progress apply Same.keep))
    | split)

theorem askState_same {a0 : State} (s : State) (target cause : Nat) (h0 : Same a0 s) : Same a0 (askState s target cause) := by
  unfold askState
  try dsimp only
  repeat' (first
    | with_reducible assumption
    | intro _
    | with_reducible (first
      | apply movePower_same | apply Same.refl | apply Same.ite | (fail_if_no_progress apply Same.keep))
    | split)

theorem powerRequest_same {a0 : State} (s : State) (r : CmdRef) (target : Nat) (h0 : Same a0 s) : Same a0 (powerRequest s r target) := by
  unfold powerRequest
  try dsimp only
  repeat' (first
    | with_reducible assumption
    | intro _
    | with_reducible (first
      | apply askState_same | apply keepRunning_same | apply refDone_same | apply refRefuse_same | apply Same.refl | apply Same.ite
      | (fail_if_no_progress apply Same.keep))
    | split)

theorem enterRoost_same {a0 : State} (s : State) (cause : Nat) (h0 : Same a0 s) : Same a0 (enterRoost s cause) := by
  unfold enterRoost
  try dsimp only
  repeat' (first
    | with_reducible assumption
    | intro _
    | with_reducible (first
      | apply holdPort_same | apply notePower_same | apply toFreerun_same | apply trace_same | apply Same.refl | apply Same.ite
      | apply Same.foldl | apply Same.foldl1 | apply Same.foldl2 | (fail_if_no_progress apply Same.keep))
    | split)

theorem nextWindow_same {a0 : State} (s : State) (h0 : Same a0 s) : Same a0 (nextWindow s) := by
  unfold nextWindow
  try dsimp only
  repeat' (first
    | with_reducible assumption
    | intro _
    | with_reducible (first
      | apply Same.refl | apply Same.ite | (fail_if_no_progress apply Same.keep))
    | split)

theorem noteRule_same {a0 : State} (s : State) (n : Nat) (r : OwlRule) (on : Bool) (y : Int) (h0 : Same a0 s) : Same a0 (noteRule s n r on
    y) := by
  unfold noteRule
  try dsimp only
  repeat' (first
    | with_reducible assumption
    | intro _
    | with_reducible (first
      | apply deliver_same | apply modChan_same | apply owlPut_same | apply post_same | apply trace_same | apply Same.refl
      | apply Same.ite | (fail_if_no_progress apply Same.keep))
    | split)

theorem ruleAt_same {a0 : State} (i : Image) (ys : List Int) (a : State × List (OwlRule × Bool)) (n : Nat) (h0 : Same a0 a.1) : Same a0
    (ruleAt i ys a n).1 := by
  unfold ruleAt
  try dsimp only
  repeat' (first
    | with_reducible assumption
    | intro _
    | with_reducible (first
      | apply noteRule_same | apply Same.refl | apply Same.ite | (fail_if_no_progress apply Same.keep))
    | split)

theorem portShutdowns_same {a0 : State} (s : State) (i : Image) (h0 : Same a0 s) : Same a0 (portShutdowns s i) := by
  unfold portShutdowns
  try dsimp only
  repeat' (first
    | with_reducible assumption
    | intro _
    | with_reducible (first
      | apply holdPort_same | apply modPort_same | apply Same.refl | apply Same.ite | apply Same.foldl | apply Same.foldl1
      | apply Same.foldl2 | (fail_if_no_progress apply Same.keep))
    | split)

theorem throttleRules_same {a0 : State} (s : State) (i : Image) (h0 : Same a0 s) : Same a0 (throttleRules s i) := by
  unfold throttleRules
  try dsimp only
  repeat' (first
    | with_reducible assumption
    | intro _
    | with_reducible (first
      | apply movePower_same | apply Same.refl | apply Same.ite | (fail_if_no_progress apply Same.keep))
    | split)

theorem wakeRules_same {a0 : State} (s : State) (acts : List (OwlRule × Bool)) (h0 : Same a0 s) : Same a0 (wakeRules s acts) := by
  unfold wakeRules
  try dsimp only
  repeat' (first
    | with_reducible assumption
    | intro _
    | with_reducible (first
      | apply Same.refl | apply Same.ite | (fail_if_no_progress apply Same.keep))
    | split)

theorem sampleTaken_same {a0 : State} (s : State) (hist : List (Option OwlHist)) (h0 : Same a0 s) : Same a0 (sampleTaken s hist) := by
  unfold sampleTaken
  try dsimp only
  repeat' (first
    | with_reducible assumption
    | intro _
    | with_reducible (first
      | apply Same.refl | apply Same.ite | (fail_if_no_progress apply Same.keep))
    | split)

theorem traceStart_same {a0 : State} (s : State) (e : Entry) (base : Nat) (h0 : Same a0 s) : Same a0 (traceStart s e base) := by
  unfold traceStart
  try dsimp only
  repeat' (first
    | with_reducible assumption
    | intro _
    | with_reducible (first
      | apply trace_same | apply Same.refl | apply Same.ite | (fail_if_no_progress apply Same.keep))
    | split)

/-! ### Control -/

theorem countersRead_same {a0 : State} (s : State) (r : CmdRef) (e : Entry) (ok : Bool) (h0 : Same a0 s) : Same a0 (countersRead s r e ok)
    := by
  unfold countersRead
  try dsimp only
  repeat' (first
    | with_reducible assumption
    | intro _
    | with_reducible (first
      | apply refDone_same | apply refRefuse_same | apply refWrite_same | apply Same.refl | apply Same.ite
      | (fail_if_no_progress apply Same.keep))
    | split)

theorem wdtWrite_same {a0 : State} (s : State) (w : Word) (h0 : Same a0 s) : Same a0 (wdtWrite s w) := by
  unfold wdtWrite
  dsimp only
  split
  · exact h0
  · rename_i hp
    apply Same.setWdt h0
    intro _ _
    have : fld w 0 13 0 % 2 ^ 14 = fld w 0 13 0 := by simp at hp; omega
    simp at hp ⊢; omega

theorem controlReset_same {a0 : State} (s : State) (h0 : Same a0 s) : Same a0 (controlReset s) := by
  unfold controlReset
  try dsimp only
  repeat' (first
    | with_reducible assumption
    | intro _
    | with_reducible (first
      | apply Same.refl | apply Same.ite | (fail_if_no_progress apply Same.keep))
    | split)

/-! ### Secure -/

theorem service_same {a0 : State} (s : State) (k b : Nat) (e : Entry) (h0 : Same a0 s) : Same a0 (service s k b e) := by
  unfold service
  try dsimp only
  repeat' (first
    | with_reducible assumption
    | intro _
    | with_reducible (first
      | apply countersRead_same | apply owlLogRead_same | apply powerRequest_same | apply refDone_same | apply refRefuse_same
      | apply Same.refl | apply Same.ite | (fail_if_no_progress apply Same.keep))
    | split)

theorem vendorRun_same {a0 : State} (s : State) (m : Bytes) (h0 : Same a0 s) : Same a0 (vendorRun s m).1 := by
  unfold vendorRun
  try dsimp only
  repeat' (first
    | with_reducible assumption
    | intro _
    | with_reducible (first
      | apply chanWrite_same | apply Same.refl | apply Same.ite | apply Same.foldl | apply Same.foldl1 | apply Same.foldl2
      | (fail_if_no_progress apply Same.keep))
    | split)

/-! ### Clocks -/

theorem wdtTrip_same {a0 : State} (s : State) (h0 : Same a0 s) : Same a0 (wdtTrip s) := by
  unfold wdtTrip
  try dsimp only
  repeat' (first
    | with_reducible assumption
    | intro _
    | with_reducible (first
      | apply controlReset_same | apply Same.refl | apply Same.ite | (fail_if_no_progress apply Same.keep))
    | split)

theorem clockLost_same {a0 : State} (s : State) (clk : Nat) (h0 : Same a0 s) : Same a0 (clockLost s clk) := by
  unfold clockLost
  try dsimp only
  repeat' (first
    | with_reducible assumption
    | intro _
    | with_reducible (first
      | apply pfFlr_same | apply portsLoseClock_same | apply post_same | apply setAport_same | apply timeTrefLost_same
      | apply wdtTrip_same | apply Same.refl | apply Same.ite | (fail_if_no_progress apply Same.keep))
    | split)

theorem clockRestored_same {a0 : State} (s : State) (clk : Nat) (h0 : Same a0 s) : Same a0 (clockRestored s clk) := by
  unfold clockRestored
  try dsimp only
  repeat' (first
    | with_reducible assumption
    | intro _
    | with_reducible (first
      | apply post_same | apply timeTrefBack_same | apply Same.refl | apply Same.ite | (fail_if_no_progress apply Same.keep))
    | split)

theorem loseClock_same {a0 : State} (s : State) (clk : Nat) (h0 : Same a0 s) : Same a0 (loseClock s clk) := by
  unfold loseClock
  try dsimp only
  repeat' (first
    | with_reducible assumption
    | intro _
    | with_reducible (first
      | apply clockLost_same | apply Same.refl | apply Same.ite | (fail_if_no_progress apply Same.keep))
    | split)

theorem restoreClock_same {a0 : State} (s : State) (clk : Nat) (ppb : Int) (h0 : Same a0 s) : Same a0 (restoreClock s clk ppb) := by
  unfold restoreClock
  try dsimp only
  repeat' (first
    | with_reducible assumption
    | intro _
    | with_reducible (first
      | apply clockRestored_same | apply Same.refl | apply Same.ite | (fail_if_no_progress apply Same.keep))
    | split)

theorem newWindow_same {a0 : State} (s : State) (clk : Nat) (h0 : Same a0 s) : Same a0 (newWindow s clk) := by
  unfold newWindow
  try dsimp only
  repeat' (first
    | with_reducible assumption
    | intro _
    | with_reducible (first
      | apply Same.refl | apply Same.ite | (fail_if_no_progress apply Same.keep))
    | split)

/-! ### Fetch -/

theorem failSlot_same {a0 : State} (s : State) (k : RingKind) (id slot : Nat) (h0 : Same a0 s) : Same a0 (failSlot s k id slot) := by
  unfold failSlot
  try dsimp only
  repeat' (first
    | with_reducible assumption
    | intro _
    | with_reducible (first
      | apply ctxError_same | apply disableRing_same | apply endEntry_same | apply endSlot_same | apply laForget_same | apply Same.refl
      | apply Same.ite | (fail_if_no_progress apply Same.keep))
    | split)

theorem kickRings_same {a0 : State} (s : State) (h0 : Same a0 s) : Same a0 (kickRings s) := by
  unfold kickRings
  try dsimp only
  repeat' (first
    | with_reducible assumption
    | intro _
    | with_reducible (first
      | apply fetchRing_same | apply Same.refl | apply Same.ite | apply Same.foldl | apply Same.foldl1 | apply Same.foldl2
      | (fail_if_no_progress apply Same.keep))
    | split)

theorem slotFailed_same {a0 : State} (s : State) (k : RingKind) (id slot : Nat) (r : Ring) (h0 : Same a0 s) : Same a0 (slotFailed s k id
    slot r) := by
  unfold slotFailed
  try dsimp only
  repeat' (first
    | with_reducible assumption
    | intro _
    | with_reducible (first
      | apply failSlot_same | apply setRing_same | apply takeFresh_same | apply Same.refl | apply Same.ite
      | (fail_if_no_progress apply Same.keep))
    | split)

theorem recallRead_same {a0 : State} (s : State) (k : RingKind) (id : Nat) (r : Ring) (h i n : Nat) (x : SlotRead) (h0 : Same a0 s) : Same
    a0 (recallRead s k id r h i n x) := by
  unfold recallRead
  try dsimp only
  repeat' (first
    | with_reducible assumption
    | intro _
    | with_reducible (first
      | apply recallEnd_same | apply recallGo_same | apply recallLoop_same | apply recallOne_same | apply recallStop_same
      | apply setRing_same | apply settleRing_same | apply slotFailed_same | apply Same.refl | apply Same.ite
      | (fail_if_no_progress apply Same.keep))
    | split)

theorem headRead_same {a0 : State} (s : State) (k : RingKind) (id : Nat) (r : Ring) (h : Nat) (x : SlotRead) (h0 : Same a0 s) : Same a0
    (headRead s k id r h x) := by
  unfold headRead
  try dsimp only
  repeat' (first
    | with_reducible assumption
    | intro _
    | with_reducible (first
      | apply fetchRing_same | apply setRing_same | apply slotFailed_same | apply Same.refl | apply Same.ite
      | (fail_if_no_progress apply Same.keep))
    | split)

theorem recallWrite_same {a0 : State} (s : State) (inst first : Nat) (h0 : Same a0 s) : Same a0 (recallWrite s inst first) := by
  unfold recallWrite
  try dsimp only
  repeat' (first
    | with_reducible assumption
    | intro _
    | with_reducible (first
      | apply recallFirst_same | apply settleRing_same | apply tpeSettle_same | apply Same.refl | apply Same.ite
      | (fail_if_no_progress apply Same.keep))
    | split)

theorem resumeOne_same {a0 : State} (s : State) (r : Waiting × Xlat) (h0 : Same a0 s) : Same a0 (resumeOne s r) := by
  unfold resumeOne
  try dsimp only
  repeat' (first
    | with_reducible assumption
    | intro _
    | with_reducible (first
      | apply laAccess_same | apply placeReq_same | apply placeResp_same | apply placeWrite_same | apply sqSource_same
      | apply tpeAccess_same | apply tpeAdvance_same | apply Same.refl | apply Same.ite | (fail_if_no_progress apply Same.keep))
    | split)

theorem noteMiss_same {a0 : State} (s : State) (w : Waiting) (h0 : Same a0 s) : Same a0 (noteMiss s w) := by
  unfold noteMiss
  try dsimp only
  repeat' (first
    | with_reducible assumption
    | intro _
    | with_reducible (first
      | apply rxMiss_same | apply Same.refl | apply Same.ite | (fail_if_no_progress apply Same.keep))
    | split)

theorem resume_same {a0 : State} (r : State × Settled) (h0 : Same a0 r.1) : Same a0 (resume r) := by
  unfold resume
  try dsimp only
  repeat' (first
    | with_reducible assumption
    | intro _
    | with_reducible (first
      | apply noteMiss_same | apply resumeOne_same | apply tpeSettle_same | apply Same.refl | apply Same.ite | apply Same.foldl
      | apply Same.foldl1 | apply Same.foldl2 | (fail_if_no_progress apply Same.keep))
    | split)

theorem waitEnded_same {a0 : State} (s : State) (id : Nat) (h0 : Same a0 s) : Same a0 (waitEnded s id) := by
  unfold waitEnded
  try dsimp only
  repeat' (first
    | with_reducible assumption
    | intro _
    | with_reducible (first
      | apply drainStep_same | apply Same.refl | apply Same.ite | (fail_if_no_progress apply Same.keep))
    | split)

theorem handData_same {a0 : State} (s : State) (r : DataRead) (b : Option Bytes) (h0 : Same a0 s) : Same a0 (handData s r b) := by
  unfold handData
  try dsimp only
  repeat' (first
    | with_reducible assumption
    | intro _
    | with_reducible (first
      | apply laData_same | apply respData_same | apply sqData_same | apply tpeAdvance_same | apply tpeData_same | apply Same.refl
      | apply Same.ite | (fail_if_no_progress apply Same.keep))
    | split)

theorem readAgain_same {a0 : State} (s : State) (r : DataRead) (h0 : Same a0 s) : Same a0 (readAgain s r) := by
  unfold readAgain
  try dsimp only
  repeat' (first
    | with_reducible assumption
    | intro _
    | with_reducible (first
      | apply addWait_same | apply takeFresh_same | apply Same.refl | apply Same.ite | (fail_if_no_progress apply Same.keep))
    | split)

theorem flushEnded_same {a0 : State} (s : State) (f : Flush) (h0 : Same a0 s) : Same a0 (flushEnded s f) := by
  unfold flushEnded
  try dsimp only
  repeat' (first
    | with_reducible assumption
    | intro _
    | with_reducible (first
      | apply ackFlushed_same | apply drain_same | apply fetchRing_same | apply handBack_same | apply laEnd_same | apply modLa_same
      | apply modRun_same | apply raiseVector_same | apply setRing_same | apply settleRing_same | apply Same.refl | apply Same.ite
      | (fail_if_no_progress apply Same.keep))
    | split)

theorem releaseReports_same {a0 : State} (x0 : Nat) (x1 : State) (x2 : Nat) (h0 : Same a0 x1) : Same a0 (releaseReports x0 x1 x2) := by
  induction x0 generalizing x1 x2 with
  | zero => simpa [releaseReports] using h0
  | succ n ih =>
    unfold releaseReports
    try dsimp only
    repeat' (first
      | with_reducible assumption
      | intro _
      | with_reducible (first
        | apply ih | apply releaseReport_same | apply Same.refl | apply Same.ite | (fail_if_no_progress apply Same.keep))
      | split)

theorem resumePort_same {a0 : State} (s : State) (n : Nat) (h0 : Same a0 s) : Same a0 (resumePort s n) := by
  unfold resumePort
  try dsimp only
  repeat' (first
    | with_reducible assumption
    | intro _
    | with_reducible (first
      | apply kickRings_same | apply recallGo_same | apply releasePort_same | apply releaseReports_same | apply settleRing_same
      | apply tpeSettle_same | apply Same.refl | apply Same.ite | apply Same.foldl | apply Same.foldl1 | apply Same.foldl2
      | (fail_if_no_progress apply Same.keep))
    | split)

theorem payResponses_same {a0 : State} (s : State) (h0 : Same a0 s) : Same a0 (payResponses s) := by
  unfold payResponses
  try dsimp only
  repeat' (first
    | with_reducible assumption
    | intro _
    | with_reducible (first
      | apply prgResponse_same | apply resume_same | apply Same.refl | apply Same.ite | apply Same.foldl | apply Same.foldl1
      | apply Same.foldl2 | (fail_if_no_progress apply Same.keep))
    | split)

/-! ### Registers -/

theorem dbgHalt_same {a0 : State} (s : State) (h0 : Same a0 s) : Same a0 (dbgHalt s) := by
  unfold dbgHalt
  try dsimp only
  repeat' (first
    | with_reducible assumption
    | intro _
    | with_reducible (first
      | apply Same.refl | apply Same.ite | (fail_if_no_progress apply Same.keep))
    | split)

theorem payClock_same {a0 : State} (s : State) (o : Nat × Bool) (h0 : Same a0 s) : Same a0 (payClock s o) := by
  unfold payClock
  try dsimp only
  repeat' (first
    | with_reducible assumption
    | intro _
    | with_reducible (first
      | apply clockLost_same | apply clockRestored_same | apply Same.refl | apply Same.ite | (fail_if_no_progress apply Same.keep))
    | split)

theorem dbgResume_same {a0 : State} (s : State) (h0 : Same a0 s) : Same a0 (dbgResume s) := by
  unfold dbgResume
  try dsimp only
  repeat' (first
    | with_reducible assumption
    | intro _
    | with_reducible (first
      | apply admFetch_same | apply kickRings_same | apply payClock_same | apply sendOut_same | apply Same.refl | apply Same.ite
      | apply Same.foldl | apply Same.foldl1 | apply Same.foldl2 | (fail_if_no_progress apply Same.keep))
    | split)

theorem placeRead_same {a0 : State} (s : State) (x0 : RegPlace) (h0 : Same a0 s) : Same a0 (placeRead s x0).2 := by
  cases x0 <;> unfold placeRead
  all_goals try dsimp only
  repeat' (first
    | with_reducible assumption
    | intro _
    | with_reducible (first
      | apply readTimeLo_same | apply Same.refl | apply Same.ite | (fail_if_no_progress apply Same.keep))
    | split)

theorem regRead_same {a0 : State} (s : State) (src : AccessSrc) (off : Nat) (h0 : Same a0 s) : Same a0 (regRead s src off).2 := by
  unfold regRead
  try dsimp only
  repeat' (first
    | with_reducible assumption
    | intro _
    | with_reducible (first
      | apply placeRead_same | apply Same.refl | apply Same.ite | (fail_if_no_progress apply Same.keep))
    | split)

theorem mmioRead_same {a0 : State} (s : State) (src : AccessSrc) (off size : Nat) (h0 : Same a0 s) : Same a0 (mmioRead s src off size).2
    := by
  unfold mmioRead
  try dsimp only
  repeat' (first
    | with_reducible assumption
    | intro _
    | with_reducible (first
      | apply regRead_same | apply Same.refl | apply Same.ite | (fail_if_no_progress apply Same.keep))
    | split)

theorem gctlWrite_same {a0 : State} (s : State) (off : Nat) (w : Word) (h0 : Same a0 s) : Same a0 (gctlWrite s off w) := by
  unfold gctlWrite
  try dsimp only
  repeat' (first
    | with_reducible assumption
    | intro _
    | with_reducible (first
      | apply wdtWrite_same | apply Same.refl | apply Same.ite | (fail_if_no_progress apply Same.keep))
    | split)

theorem admWrite_same {a0 : State} (s : State) (off : Nat) (w : Word) (h0 : Same a0 s) : Same a0 (admWrite s off w) := by
  unfold admWrite
  try dsimp only
  repeat' (first
    | with_reducible assumption
    | intro _
    | with_reducible (first
      | apply admConfig_same | apply admCtrlWrite_same | apply admDoorbell_same | apply evtReturn_same | apply Same.refl
      | apply Same.ite | (fail_if_no_progress apply Same.keep))
    | split)

theorem dbgWrite_same {a0 : State} (s : State) (off : Nat) (w : Word) (h0 : Same a0 s) : Same a0 (dbgWrite s off w) := by
  unfold dbgWrite
  try dsimp only
  repeat' (first
    | with_reducible assumption
    | intro _
    | with_reducible (first
      | apply dbgHalt_same | apply dbgResume_same | apply Same.refl | apply Same.ite | (fail_if_no_progress apply Same.keep))
    | split)

theorem sqDoorbell_same {a0 : State} (s : State) (inst qpn : Nat) (h0 : Same a0 s) : Same a0 (sqDoorbell s inst qpn) := by
  unfold sqDoorbell
  try dsimp only
  repeat' (first
    | with_reducible assumption
    | intro _
    | with_reducible (first
      | apply ringDoorbell_same | apply Same.refl | apply Same.ite | (fail_if_no_progress apply Same.keep))
    | split)

theorem rqDoorbell_same {a0 : State} (s : State) (inst qpn : Nat) (h0 : Same a0 s) : Same a0 (rqDoorbell s inst qpn) := by
  unfold rqDoorbell
  try dsimp only
  repeat' (first
    | with_reducible assumption
    | intro _
    | with_reducible (first
      | apply ringDoorbell_same | apply Same.refl | apply Same.ite | (fail_if_no_progress apply Same.keep))
    | split)

theorem tpeDoorbell_same {a0 : State} (s : State) (inst ctx : Nat) (h0 : Same a0 s) : Same a0 (tpeDoorbell s inst ctx) := by
  unfold tpeDoorbell
  try dsimp only
  repeat' (first
    | with_reducible assumption
    | intro _
    | with_reducible (first
      | apply ringDoorbell_same | apply Same.refl | apply Same.ite | (fail_if_no_progress apply Same.keep))
    | split)

theorem pageWrite_same {a0 : State} (s : State) (i off : Nat) (w : Word) (h0 : Same a0 s) : Same a0 (pageWrite s i off w) := by
  unfold pageWrite
  try dsimp only
  repeat' (first
    | with_reducible assumption
    | intro _
    | with_reducible (first
      | apply chanWrite_same | apply cqArm_same | apply cqReturn_same | apply modPage_same | apply recallWrite_same
      | apply rqDoorbell_same | apply sqDoorbell_same | apply tpeDoorbell_same | apply Same.refl | apply Same.ite
      | (fail_if_no_progress apply Same.keep))
    | split)

theorem regPlaceWrite_same {a0 : State} (s : State) (w : Word) (x0 : RegPlace) (h0 : Same a0 s) : Same a0 (regPlaceWrite s w x0) := by
  cases x0 <;> unfold regPlaceWrite
  all_goals try dsimp only
  repeat' (first
    | with_reducible assumption
    | intro _
    | with_reducible (first
      | apply admWrite_same | apply chanWrite_same | apply dbgWrite_same | apply gctlWrite_same | apply pageWrite_same | apply Same.refl
      | apply Same.ite | (fail_if_no_progress apply Same.keep))
    | split)

theorem regWrite_same {a0 : State} (s : State) (src : AccessSrc) (off : Nat) (w : Word) (h0 : Same a0 s) : Same a0 (regWrite s src off w)
    := by
  unfold regWrite
  try dsimp only
  repeat' (first
    | with_reducible assumption
    | intro _
    | with_reducible (first
      | apply regPlaceWrite_same | apply Same.refl | apply Same.ite | (fail_if_no_progress apply Same.keep))
    | split)

theorem heardAccess_same {a0 : State} (s : State) (src : AccessSrc) (off : Nat) (h0 : Same a0 s) : Same a0 (heardAccess s src off) := by
  unfold heardAccess
  try dsimp only
  repeat' (first
    | with_reducible assumption
    | intro _
    | with_reducible (first
      | apply heardBells_same | apply heardTlp_same | apply Same.refl | apply Same.ite | (fail_if_no_progress apply Same.keep))
    | split)

theorem msixFlush_same {a0 : State} (s : State) (n : Nat) (h0 : Same a0 s) : Same a0 (msixFlush s n) := by
  unfold msixFlush
  try dsimp only
  repeat' (first
    | with_reducible assumption
    | intro _
    | with_reducible (first
      | apply emit_same | apply modFn_same | apply Same.refl | apply Same.ite | apply Same.foldl | apply Same.foldl1 | apply Same.foldl2
      | (fail_if_no_progress apply Same.keep))
    | split)

theorem writeBar_same {a0 : State} (s : State) (vf : Bool) (n : Nat) (w : Word) (h0 : Same a0 s) : Same a0 (writeBar s vf n w) := by
  unfold writeBar
  try dsimp only
  repeat' (first
    | with_reducible assumption
    | intro _
    | with_reducible (first
      | apply Same.refl | apply Same.ite | (fail_if_no_progress apply Same.keep))
    | split)

theorem configure_same {a0 : State} (s : State) (x0 : ConfigReq) (h0 : Same a0 s) : Same a0 (configure s x0) := by
  cases x0 <;> unfold configure
  all_goals try dsimp only
  repeat' (first
    | with_reducible assumption
    | intro _
    | with_reducible (first
      | apply modFn_same | apply msixFlush_same | apply vfEnableClear_same | apply writeBar_same | apply Same.refl | apply Same.ite
      | (fail_if_no_progress apply Same.keep))
    | split)

/-! ### Debug -/

theorem poolPoke_same {a0 : State} (s : State) (a : Nat) (w : Word) (h0 : Same a0 s) : Same a0 (poolPoke s a w) := by
  unfold poolPoke
  dsimp only
  apply Same.keepMem h0
  intro m
  apply memWf_memWrite
  split
  · exact memWf_memZero m _ _
  · exact m

theorem dapPool_same {a0 : State} (s : State) (r : DapReq) (h0 : Same a0 s) : Same a0 (dapPool s r) := by
  unfold dapPool
  try dsimp only
  repeat' (first
    | with_reducible assumption
    | intro _
    | with_reducible (first
      | apply emit_same | apply poolPoke_same | apply Same.refl | apply Same.ite | (fail_if_no_progress apply Same.keep))
    | split)

theorem keyMemPoke_same {a0 : State} (s : State) (a : Nat) (w : Word) (h0 : Same a0 s) : Same a0 (keyMemPoke s a w) := by
  unfold keyMemPoke
  try dsimp only
  repeat' (first
    | with_reducible assumption
    | intro _
    | with_reducible (first
      | apply Same.refl | apply Same.ite | (fail_if_no_progress apply Same.keep))
    | split)

theorem storePoke_same {a0 : State} (s : State) (a : Nat) (w : Word) (h0 : Same a0 s) : Same a0 (storePoke s a w) := by
  unfold storePoke
  try dsimp only
  repeat' (first
    | with_reducible assumption
    | intro _
    | with_reducible (first
      | apply keyMemPoke_same | apply modCipher_same | apply Same.refl | apply Same.ite | apply Same.foldl | apply Same.foldl1
      | apply Same.foldl2 | (fail_if_no_progress apply Same.keep))
    | split)

theorem dapRun_same {a0 : State} (s : State) (r : DapReq) (h0 : Same a0 s) : Same a0 (dapRun s r) := by
  unfold dapRun
  try dsimp only
  repeat' (first
    | with_reducible assumption
    | intro _
    | with_reducible (first
      | apply dapPool_same | apply emit_same | apply mmioRead_same | apply regWrite_same | apply storePoke_same | apply Same.refl
      | apply Same.ite | (fail_if_no_progress apply Same.keep))
    | split)

/-! ### Faults -/

theorem strikeQp_same {a0 : State} (s : State) (qpn index : Nat) (h0 : Same a0 s) : Same a0 (strikeQp s qpn index) := by
  unfold strikeQp
  try dsimp only
  repeat' (first
    | with_reducible assumption
    | intro _
    | with_reducible (first
      | apply modQp_same | apply moveQp_same | apply qpError_same | apply Same.refl | apply Same.ite
      | (fail_if_no_progress apply Same.keep))
    | split)

theorem strikeCtx_same {a0 : State} (s : State) (n : Nat) (h0 : Same a0 s) : Same a0 (strikeCtx s n) := by
  unfold strikeCtx
  try dsimp only
  repeat' (first
    | with_reducible assumption
    | intro _
    | with_reducible (first
      | apply ctxError_same | apply endSlot_same | apply Same.refl | apply Same.ite | (fail_if_no_progress apply Same.keep))
    | split)

theorem strikeRing_same {a0 : State} (s : State) (k : RingKind) (id : Nat) (h0 : Same a0 s) : Same a0 (strikeRing s k id) := by
  unfold strikeRing
  try dsimp only
  repeat' (first
    | with_reducible assumption
    | intro _
    | with_reducible (first
      | apply ctxError_same | apply disableRing_same | apply laForget_same | apply qpError_same | apply Same.refl | apply Same.ite
      | (fail_if_no_progress apply Same.keep))
    | split)

theorem strike_same {a0 : State} (s : State) (x0 : Reserve) (h0 : Same a0 s) : Same a0 (strike s x0) := by
  cases x0 <;> unfold strike
  all_goals try dsimp only
  repeat' (first
    | with_reducible assumption
    | intro _
    | with_reducible (first
      | apply controlReset_same | apply cqFail_same | apply modSa_same | apply strikeCtx_same | apply strikeQp_same
      | apply strikeRing_same | apply takeFresh_same | apply Same.refl | apply Same.ite | apply Same.foldl | apply Same.foldl1
      | apply Same.foldl2 | (fail_if_no_progress apply Same.keep))
    | split)

theorem uncorrectable_same {a0 : State} (s : State) (line stack : Nat) (holds : Reserve) (h0 : Same a0 s) : Same a0 (uncorrectable s line
    stack holds) := by
  unfold uncorrectable
  try dsimp only
  repeat' (first
    | with_reducible assumption
    | intro _
    | with_reducible (first
      | apply count_same | apply lineLost_same | apply strike_same | apply Same.refl | apply Same.ite
      | (fail_if_no_progress apply Same.keep))
    | split)

theorem outOfStack_same {a0 : State} (s : State) (line : Nat) (holds : Reserve) (h0 : Same a0 s) : Same a0 (outOfStack s line holds) := by
  unfold outOfStack
  try dsimp only
  repeat' (first
    | with_reducible assumption
    | intro _
    | with_reducible (first
      | apply count_same | apply strike_same | apply Same.refl | apply Same.ite | (fail_if_no_progress apply Same.keep))
    | split)

/-! ### Migration -/

theorem fillRegion_same {a0 : State} (i : Nat) (entries : Tab (BitVec 128)) (s : State) (r : MigRegion) (h0 : Same a0 s) : Same a0
    (fillRegion i entries s r) := by
  unfold fillRegion
  try dsimp only
  repeat' (first
    | with_reducible assumption
    | intro _
    | with_reducible (first
      | apply poolStore_same | apply Same.refl | apply Same.ite | apply Same.foldl | apply Same.foldl1 | apply Same.foldl2
      | (fail_if_no_progress apply Same.keep))
    | split)

theorem jumpEvents_same {a0 : State} (s : State) (r : Nat × Sa) (h0 : Same a0 s) : Same a0 (jumpEvents s r) := by
  unfold jumpEvents
  try dsimp only
  repeat' (first
    | with_reducible assumption
    | intro _
    | with_reducible (first
      | apply post_same | apply Same.refl | apply Same.ite | (fail_if_no_progress apply Same.keep))
    | split)

theorem buildRest_same {a0 : State} (s : State) (i src : Nat) (b : MigBody) (h0 : Same a0 s) : Same a0 (buildRest s i src b) := by
  unfold buildRest
  try dsimp only
  repeat' (first
    | with_reducible assumption
    | intro _
    | with_reducible (first
      | apply fillRegion_same | apply modCipher_same | apply purgeKeyMem_same | apply Same.refl | apply Same.ite | apply Same.foldl
      | apply Same.foldl1 | apply Same.foldl2 | (fail_if_no_progress apply Same.keep))
    | split)

end Sys2Proof.Machine
end

