-- ==== Sys2Proof/Laws/Kept.lean ====
section
/-!
SUPPORT. The frame of every meaning that stays within `Same`: all but those of the supply, of resets, of start-up, of Perch and of the
governor. What those do beyond it is said of the operation that does it.
-/

set_option Elab.async false
set_option linter.unusedTactic false
set_option linter.unreachableTactic false

namespace Sys2Proof.Machine

/-- A meaning that keeps what `Same` names wherever it answers a next state. -/
structure Kept (s : State) (r : Result) : Prop where
  same : ∀ t, r = .next t → Same s t

theorem Kept.next {s t : State} (h : Same s t) : Kept s (.next t) := ⟨by intro u hu; cases hu; exact h⟩

theorem Kept.fault {s : State} {f : Fault} : Kept s (.fault f) := ⟨by intro u hu; cases hu⟩

theorem Kept.ite {s : State} {c : Prop} [Decidable c] {p q : Result} (h : Kept s p) (k : Kept s q) : Kept s (if c then p else q) := by
    split <;> assumption

theorem takeRx_same {a0 s t : State} {hs : Bool} {d : RxDgram} (h : takeRx s hs = some (d, t)) (h0 : Same a0 s) : Same a0 t := by
  unfold takeRx at h
  simp only [Option.map_eq_some_iff] at h
  obtain ⟨a, _, h⟩ := h
  cases h
  exact takenRx_same _ _ (Same.keep h0 ..)

theorem drr_same {a0 : State} (fuel : Nat) (s t : State) (n c d : Nat) (h : drr fuel s n c = some (d, t)) (h0 : Same a0 s) : Same a0 t := by
  induction fuel generalizing s c with
  | zero => simp [drr] at h
  | succ fuel ih =>
    unfold drr at h
    dsimp only at h
    split at h
    · split at h
      · cases h; exact modPort_same _ _ _ (modClass_same _ _ _ _ h0)
      · exact ih _ _ h (drr.earn_same _ _ _ h0)
    · exact ih _ _ h (drr.earn_same _ _ _ h0)

theorem arbitrate_same {a0 s t : State} {n c : Nat} (h : arbitrate s n = some (c, t)) (h0 : Same a0 s) : Same a0 t := by
  unfold arbitrate at h
  split at h
  · cases h; exact h0
  · split at h
    · exact drr_same _ _ _ _ _ _ h h0
    · cases h

theorem place_same {a0 : State} {α : Type} (f : Option State → α → Option State) (l : List α) (o : Option State)
    (hf : ∀ x u a, f x a = some u → ∃ t, x = some t ∧ (Same a0 t → Same a0 u)) (u : State) (h : l.foldl f o = some u) :
    ∃ t, o = some t ∧ (Same a0 t → Same a0 u) := by
  induction l generalizing o with
  | nil => exact ⟨u, h, id⟩
  | cons a l ih =>
    obtain ⟨t, ht, hk⟩ := ih _ h
    obtain ⟨v, hv, hj⟩ := hf _ _ _ ht
    exact ⟨v, hv, fun x => hk (hj x)⟩

theorem placeRegion_same {a0 : State} (i : Nat) (x : Option State) (u : State) (r : MigRegion) (h : placeRegion i x r = some u) :
    ∃ t, x = some t ∧ (Same a0 t → Same a0 u) := by
  unfold placeRegion at h
  simp only [Option.bind_eq_some_iff, Option.map_eq_some_iff] at h
  obtain ⟨t, ht, _, _, h⟩ := h
  refine ⟨t, ht, fun k => ?_⟩
  subst h
  exact Same.keep k ..

theorem placeMirror_same {a0 : State} (i : Nat) (b : MigBody) (x : Option State) (u : State) (h : placeMirror i b x = some u) :
    ∃ t, x = some t ∧ (Same a0 t → Same a0 u) := by
  unfold placeMirror at h
  simp only [Option.bind_eq_some_iff] at h
  obtain ⟨t, ht, h⟩ := h
  refine ⟨t, ht, fun k => ?_⟩
  split at h
  · cases h; exact k
  · simp only [Option.map_eq_some_iff] at h
    obtain ⟨_, _, h⟩ := h
    subst h
    exact Same.keep (takeFresh_same _ (takeFresh_same _ k)) ..

theorem placeCtx_same {a0 : State} (i : Nat) (x : Option State) (u : State) (r : Nat × Ctx) (h : placeCtx i x r = some u) :
    ∃ t, x = some t ∧ (Same a0 t → Same a0 u) := by
  unfold placeCtx at h
  simp only [Option.bind_eq_some_iff, Option.map_eq_some_iff] at h
  obtain ⟨t, ht, _, _, h⟩ := h
  refine ⟨t, ht, fun k => ?_⟩
  subst h
  exact Same.keep (takeFresh_same _ (takeFresh_same _ k)) ..

theorem restore_same {a0 t u : State} {i : Nat} {b : MigBody} {r : List MigRegion} {c : Tab Ctx}
    (h : c.foldl (placeCtx i) (placeMirror i b (r.foldl (placeRegion i) (some t))) = some u) (h0 : Same a0 t) : Same a0 u := by
  obtain ⟨x, hx, k⟩ := place_same (a0 := a0) _ _ _ (fun _ _ _ h => placeCtx_same _ _ _ _ h) _ h
  obtain ⟨y, hy, l⟩ := placeMirror_same (a0 := a0) _ _ _ _ hx
  obtain ⟨z, hz, m⟩ := place_same (a0 := a0) _ _ _ (fun _ _ _ h => placeRegion_same _ _ _ _ h) _ hy
  cases hz
  exact k (l (m h0))

theorem execHPortDlActive_kept (s : State) : Kept s (execHPortDlActive s) := by
  have h0 := Same.refl s
  unfold execHPortDlActive
  try dsimp only
  repeat' (first
    | with_reducible assumption
    | intro _
    | with_reducible (first
      | apply Kept.next | apply Kept.fault | apply Kept.ite | apply Same.refl | apply Same.ite | (fail_if_no_progress apply Same.keep))
    | split)

theorem execAportRelease_kept (n : Nat) (s : State) : Kept s (execAportRelease n s) := by
  have h0 := Same.refl s
  unfold execAportRelease
  try dsimp only [setAport]
  repeat' (first
    | with_reducible assumption
    | intro _
    | with_reducible (first
      | apply Kept.next | apply Kept.fault | apply Kept.ite | apply setAport_same | apply Same.refl | apply Same.ite
      | (fail_if_no_progress apply Same.keep))
    | split)

theorem execAportTrainTimeout_kept (n : Nat) (s : State) : Kept s (execAportTrainTimeout n s) := by
  have h0 := Same.refl s
  unfold execAportTrainTimeout
  try dsimp only
  repeat' (first
    | with_reducible assumption
    | intro _
    | with_reducible (first
      | apply Kept.next | apply Kept.fault | apply Kept.ite | apply aportFail_same | apply Same.refl | apply Same.ite
      | (fail_if_no_progress apply Same.keep))
    | split)

theorem execAportEnumDone_kept (n : Nat) (bar : AccelBar) (s : State) : Kept s (execAportEnumDone n bar s) := by
  have h0 := Same.refl s
  unfold execAportEnumDone
  try dsimp only
  repeat' (first
    | with_reducible assumption
    | intro _
    | with_reducible (first
      | apply Kept.next | apply Kept.fault | apply Kept.ite | apply aportFail_same | apply postAport_same | apply setAport_same
      | apply Same.refl | apply Same.ite | (fail_if_no_progress apply Same.keep))
    | split)

theorem execAportRrsTimeout_kept (n : Nat) (s : State) : Kept s (execAportRrsTimeout n s) := by
  have h0 := Same.refl s
  unfold execAportRrsTimeout
  try dsimp only
  repeat' (first
    | with_reducible assumption
    | intro _
    | with_reducible (first
      | apply Kept.next | apply Kept.fault | apply Kept.ite | apply aportFail_same | apply Same.refl | apply Same.ite
      | (fail_if_no_progress apply Same.keep))
    | split)

theorem execAportLinkDown_kept (n : Nat) (s : State) : Kept s (execAportLinkDown n s) := by
  have h0 := Same.refl s
  unfold execAportLinkDown
  try dsimp only
  repeat' (first
    | with_reducible assumption
    | intro _
    | with_reducible (first
      | apply Kept.next | apply Kept.fault | apply Kept.ite | apply setAport_same | apply Same.refl | apply Same.ite
      | (fail_if_no_progress apply Same.keep))
    | split)

theorem execCqReportRelease_kept (cqn : Nat) (intact : Bool) (s : State) : Kept s (execCqReportRelease cqn intact s) := by
  have h0 := Same.refl s
  unfold execCqReportRelease
  try dsimp only
  repeat' (first
    | with_reducible assumption
    | intro _
    | with_reducible (first
      | apply Kept.next | apply Kept.fault | apply Kept.ite | apply modCq_same | apply releaseReport_same | apply strike_same
      | apply Same.refl | apply Same.ite | (fail_if_no_progress apply Same.keep))
    | split)

theorem execCqReturn_kept (inst cqn count : Nat) (s : State) : Kept s (execCqReturn inst cqn count s) := by
  have h0 := Same.refl s
  unfold execCqReturn
  try dsimp only
  repeat' (first
    | with_reducible assumption
    | intro _
    | with_reducible (first
      | apply Kept.next | apply Kept.fault | apply Kept.ite | apply count_same | apply cqReturn_same | apply heardBell_same
      | apply Same.refl | apply Same.ite | (fail_if_no_progress apply Same.keep))
    | split)

theorem execCqArm_kept (inst cqn : Nat) (s : State) : Kept s (execCqArm inst cqn s) := by
  have h0 := Same.refl s
  unfold execCqArm
  try dsimp only
  repeat' (first
    | with_reducible assumption
    | intro _
    | with_reducible (first
      | apply Kept.next | apply Kept.fault | apply Kept.ite | apply cqArm_same | apply heardBell_same | apply Same.refl | apply Same.ite
      | (fail_if_no_progress apply Same.keep))
    | split)

theorem execCqModTimer_kept (cqn : Nat) (s : State) : Kept s (execCqModTimer cqn s) := by
  have h0 := Same.refl s
  unfold execCqModTimer
  try dsimp only
  repeat' (first
    | with_reducible assumption
    | intro _
    | with_reducible (first
      | apply Kept.next | apply Kept.fault | apply Kept.ite | apply cqInterrupt_same | apply Same.refl | apply Same.ite
      | (fail_if_no_progress apply Same.keep))
    | split)

theorem execCqStallTimer_kept (cqn : Nat) (s : State) : Kept s (execCqStallTimer cqn s) := by
  have h0 := Same.refl s
  unfold execCqStallTimer
  try dsimp only
  repeat' (first
    | with_reducible assumption
    | intro _
    | with_reducible (first
      | apply Kept.next | apply Kept.fault | apply Kept.ite | apply modCq_same | apply modPage_same | apply raiseVector_same
      | apply Same.refl | apply Same.ite | (fail_if_no_progress apply Same.keep))
    | split)

theorem execAdmEnable_kept (ctrl : Word) (s : State) : Kept s (execAdmEnable ctrl s) := by
  have h0 := Same.refl s
  unfold execAdmEnable
  try dsimp only
  repeat' (first
    | with_reducible assumption
    | intro _
    | with_reducible (first
      | apply Kept.next | apply Kept.fault | apply Kept.ite | apply admCtrlWrite_same | apply heardTlp_same | apply Same.refl
      | apply Same.ite | (fail_if_no_progress apply Same.keep))
    | split)

theorem execAdmDisable_kept (ctrl : Word) (s : State) : Kept s (execAdmDisable ctrl s) := by
  have h0 := Same.refl s
  unfold execAdmDisable
  try dsimp only
  repeat' (first
    | with_reducible assumption
    | intro _
    | with_reducible (first
      | apply Kept.next | apply Kept.fault | apply Kept.ite | apply admCtrlWrite_same | apply heardTlp_same | apply Same.refl
      | apply Same.ite | (fail_if_no_progress apply Same.keep))
    | split)

theorem execAdmDoorbell_kept (s : State) : Kept s (execAdmDoorbell s) := by
  have h0 := Same.refl s
  unfold execAdmDoorbell
  try dsimp only
  repeat' (first
    | with_reducible assumption
    | intro _
    | with_reducible (first
      | apply Kept.next | apply Kept.fault | apply Kept.ite | apply admDoorbell_same | apply heardBell_same | apply Same.refl
      | apply Same.ite | (fail_if_no_progress apply Same.keep))
    | split)

theorem execEvtReturn_kept (count : Nat) (s : State) : Kept s (execEvtReturn count s) := by
  have h0 := Same.refl s
  unfold execEvtReturn
  try dsimp only
  repeat' (first
    | with_reducible assumption
    | intro _
    | with_reducible (first
      | apply Kept.next | apply Kept.fault | apply Kept.ite | apply count_same | apply evtReturn_same | apply heardTlp_same
      | apply Same.refl | apply Same.ite | (fail_if_no_progress apply Same.keep))
    | split)

theorem execAdmNop_kept (slot : Nat) (s : State) : Kept s (execAdmNop slot s) := by
  have h0 := Same.refl s
  unfold execAdmNop
  try dsimp only
  repeat' (first
    | with_reducible assumption
    | intro _
    | with_reducible (first
      | apply Kept.next | apply Kept.fault | apply Kept.ite | apply complete_same | apply startAdmin_same | apply Same.refl
      | apply Same.ite | (fail_if_no_progress apply Same.keep))
    | split)

theorem execGateTakeover_kept (port : Nat) (s : State) : Kept s (execGateTakeover port s) := by
  have h0 := Same.refl s
  unfold execGateTakeover
  try dsimp only
  repeat' (first
    | with_reducible assumption
    | intro _
    | with_reducible (first
      | apply Kept.next | apply Kept.fault | apply Kept.ite | apply gateTakeover_same | apply Same.refl | apply Same.ite
      | (fail_if_no_progress apply Same.keep))
    | split)

theorem execAlignmentLockChange_kept (port : Nat) (locked faulted : Bool) (corr uncorr : Nat) (s : State) : Kept s
    (execAlignmentLockChange port locked faulted corr uncorr s) := by
  have h0 := Same.refl s
  unfold execAlignmentLockChange
  try dsimp only
  repeat' (first
    | with_reducible assumption
    | intro _
    | with_reducible (first
      | apply Kept.next | apply Kept.fault | apply Kept.ite | apply modPort_same | apply Same.refl | apply Same.ite
      | (fail_if_no_progress apply Same.keep))
    | split)

theorem execPortLockHeld_kept (port : Nat) (s : State) : Kept s (execPortLockHeld port s) := by
  have h0 := Same.refl s
  unfold execPortLockHeld
  try dsimp only
  repeat' (first
    | with_reducible assumption
    | intro _
    | with_reducible (first
      | apply Kept.next | apply Kept.fault | apply Kept.ite | apply movePort_same | apply Same.refl | apply Same.ite
      | (fail_if_no_progress apply Same.keep))
    | split)

theorem execPortFaultHeld_kept (port : Nat) (s : State) : Kept s (execPortFaultHeld port s) := by
  have h0 := Same.refl s
  unfold execPortFaultHeld
  try dsimp only
  repeat' (first
    | with_reducible assumption
    | intro _
    | with_reducible (first
      | apply Kept.next | apply Kept.fault | apply Kept.ite | apply movePort_same | apply Same.refl | apply Same.ite
      | (fail_if_no_progress apply Same.keep))
    | split)

theorem execPortControl_kept (slot : Nat) (s : State) : Kept s (execPortControl slot s) := by
  have h0 := Same.refl s
  unfold execPortControl
  try dsimp only
  repeat' (first
    | with_reducible assumption
    | intro _
    | with_reducible (first
      | apply Kept.next | apply Kept.fault | apply Kept.ite | apply completeWith_same | apply holdPort_same | apply modPort_same
      | apply settle_same | apply startAdmin_same | apply unholdPort_same | apply Same.refl | apply Same.ite
      | (fail_if_no_progress apply Same.keep))
    | split)

theorem execPfcFrameReceived_kept (port : Nat) (bytes : Bytes) (fcsOk : Bool) (s : State) : Kept s (execPfcFrameReceived port bytes fcsOk
    s) := by
  have h0 := Same.refl s
  unfold execPfcFrameReceived
  try dsimp only
  repeat' (first
    | with_reducible assumption
    | intro _
    | with_reducible (first
      | apply Kept.next | apply Kept.fault | apply Kept.ite | apply heardOn_same | apply macControl_same | apply Same.refl
      | apply Same.ite | (fail_if_no_progress apply Same.keep))
    | split)

theorem execPauseExpire_kept (port tc : Nat) (s : State) : Kept s (execPauseExpire port tc s) := by
  have h0 := Same.refl s
  unfold execPauseExpire
  try dsimp only
  repeat' (first
    | with_reducible assumption
    | intro _
    | with_reducible (first
      | apply Kept.next | apply Kept.fault | apply Kept.ite | apply modClass_same | apply Same.refl | apply Same.ite
      | (fail_if_no_progress apply Same.keep))
    | split)

theorem execPauseStuckTimer_kept (port tc : Nat) (s : State) : Kept s (execPauseStuckTimer port tc s) := by
  have h0 := Same.refl s
  unfold execPauseStuckTimer
  try dsimp only
  repeat' (first
    | with_reducible assumption
    | intro _
    | with_reducible (first
      | apply Kept.next | apply Kept.fault | apply Kept.ite | apply modClass_same | apply post_same | apply Same.refl | apply Same.ite
      | (fail_if_no_progress apply Same.keep))
    | split)

theorem execPfcRepeatTimer_kept (port tc : Nat) (s : State) : Kept s (execPfcRepeatTimer port tc s) := by
  have h0 := Same.refl s
  unfold execPfcRepeatTimer
  try dsimp only
  repeat' (first
    | with_reducible assumption
    | intro _
    | with_reducible (first
      | apply Kept.next | apply Kept.fault | apply Kept.ite | apply modClass_same | apply sendPause_same | apply Same.refl
      | apply Same.ite | (fail_if_no_progress apply Same.keep))
    | split)

theorem execArpRequest_kept (port : Nat) (bytes : Bytes) (s : State) : Kept s (execArpRequest port bytes s) := by
  have h0 := Same.refl s
  unfold execArpRequest
  try dsimp only
  repeat' (first
    | with_reducible assumption
    | intro _
    | with_reducible (first
      | apply Kept.next | apply Kept.fault | apply Kept.ite | apply heardOn_same | apply sendCtlFrame_same | apply Same.refl
      | apply Same.ite | (fail_if_no_progress apply Same.keep))
    | split)

theorem execNeighborSolicitation_kept (port : Nat) (bytes : Bytes) (s : State) : Kept s (execNeighborSolicitation port bytes s) := by
  have h0 := Same.refl s
  unfold execNeighborSolicitation
  try dsimp only
  repeat' (first
    | with_reducible assumption
    | intro _
    | with_reducible (first
      | apply Kept.next | apply Kept.fault | apply Kept.ite | apply heardOn_same | apply sendCtlFrame_same | apply Same.refl
      | apply Same.ite | (fail_if_no_progress apply Same.keep))
    | split)

theorem execTcConfigSet_kept (slot : Nat) (s : State) : Kept s (execTcConfigSet slot s) := by
  have h0 := Same.refl s
  unfold execTcConfigSet
  try dsimp only
  repeat' (first
    | with_reducible assumption
    | intro _
    | with_reducible (first
      | apply Kept.next | apply Kept.fault | apply Kept.ite | apply complete_same | apply endPauses_same | apply pauseRule_same
      | apply settle_same | apply startAdmin_same | apply Same.refl | apply Same.ite | apply Same.foldl | apply Same.foldl1
      | apply Same.foldl2 | (fail_if_no_progress apply Same.keep))
    | split)

theorem execCqCreate_kept (slot : Nat) (s : State) : Kept s (execCqCreate slot s) := by
  have h0 := Same.refl s
  unfold execCqCreate
  try dsimp only
  repeat' (first
    | with_reducible assumption
    | intro _
    | with_reducible (first
      | apply Kept.next | apply Kept.fault | apply Kept.ite | apply complete_same | apply settle_same | apply startAdmin_same
      | apply strike_same | apply Same.refl | apply Same.ite | (fail_if_no_progress apply Same.keep))
    | split)

theorem execCqModify_kept (slot : Nat) (s : State) : Kept s (execCqModify slot s) := by
  have h0 := Same.refl s
  unfold execCqModify
  try dsimp only
  repeat' (first
    | with_reducible assumption
    | intro _
    | with_reducible (first
      | apply Kept.next | apply Kept.fault | apply Kept.ite | apply complete_same | apply modCq_same | apply settle_same
      | apply startAdmin_same | apply Same.refl | apply Same.ite | (fail_if_no_progress apply Same.keep))
    | split)

theorem execCqDestroy_kept (slot : Nat) (s : State) : Kept s (execCqDestroy slot s) := by
  have h0 := Same.refl s
  unfold execCqDestroy
  try dsimp only
  repeat' (first
    | with_reducible assumption
    | intro _
    | with_reducible (first
      | apply Kept.next | apply Kept.fault | apply Kept.ite | apply complete_same | apply settle_same | apply startAdmin_same
      | apply Same.refl | apply Same.ite | (fail_if_no_progress apply Same.keep))
    | split)

theorem execQpCreate_kept (slot : Nat) (s : State) : Kept s (execQpCreate slot s) := by
  have h0 := Same.refl s
  unfold execQpCreate
  try dsimp only
  repeat' (first
    | with_reducible assumption
    | intro _
    | with_reducible (first
      | apply Kept.next | apply Kept.fault | apply Kept.ite | apply holdCmd_same | apply qpCreate_same | apply startAdmin_same
      | apply Same.refl | apply Same.ite | (fail_if_no_progress apply Same.keep))
    | split)

theorem execQpQuery_kept (slot : Nat) (s : State) : Kept s (execQpQuery slot s) := by
  have h0 := Same.refl s
  unfold execQpQuery
  try dsimp only
  repeat' (first
    | with_reducible assumption
    | intro _
    | with_reducible (first
      | apply Kept.next | apply Kept.fault | apply Kept.ite | apply completeWith_same | apply holdCmd_same | apply settle_same
      | apply startAdmin_same | apply Same.refl | apply Same.ite | (fail_if_no_progress apply Same.keep))
    | split)

theorem execQpDestroy_kept (slot : Nat) (s : State) : Kept s (execQpDestroy slot s) := by
  have h0 := Same.refl s
  unfold execQpDestroy
  try dsimp only
  repeat' (first
    | with_reducible assumption
    | intro _
    | with_reducible (first
      | apply Kept.next | apply Kept.fault | apply Kept.ite | apply complete_same | apply dropQp_same | apply holdCmd_same
      | apply settle_same | apply startAdmin_same | apply Same.refl | apply Same.ite | (fail_if_no_progress apply Same.keep))
    | split)

theorem execWheelSlot_kept (inst tc : Nat) (s : State) : Kept s (execWheelSlot inst tc s) := by
  have h0 := Same.refl s
  unfold execWheelSlot
  try dsimp only
  repeat' (first
    | with_reducible assumption
    | intro _
    | with_reducible (first
      | apply Kept.next | apply Kept.fault | apply Kept.ite | apply offerPkt_same | apply paceClass_same | apply Same.refl
      | apply Same.ite | (fail_if_no_progress apply Same.keep))
    | split)

theorem execTrainCloseTimer_kept (coord saId tc : Nat) (s : State) : Kept s (execTrainCloseTimer coord saId tc s) := by
  have h0 := Same.refl s
  unfold execTrainCloseTimer
  try dsimp only
  repeat' (first
    | with_reducible assumption
    | intro _
    | with_reducible (first
      | apply Kept.next | apply Kept.fault | apply Kept.ite | apply closeTrain_same | apply Same.refl | apply Same.ite
      | (fail_if_no_progress apply Same.keep))
    | split)

theorem execDatagramSend_kept (id disagree : Nat) (s : State) : Kept s (execDatagramSend id disagree s) := by
  have h0 := Same.refl s
  unfold execDatagramSend
  try dsimp only
  repeat' (first
    | with_reducible assumption
    | intro _
    | with_reducible (first
      | apply Kept.next | apply Kept.fault | apply Kept.ite | apply sendCtl_same | apply sendData_same | apply Same.refl
      | apply Same.ite | (fail_if_no_progress apply Same.keep))
    | split)

theorem execFrameTransmitStart_kept (port : Nat) (s : State) : Kept s (execFrameTransmitStart port s) := by
  have h0 := Same.refl s
  unfold execFrameTransmitStart
  try dsimp only
  repeat' (first
    | with_reducible assumption
    | intro _
    | with_reducible (first
      | apply Kept.next | apply Kept.fault | apply Kept.ite | apply count_same | apply emit_same | apply modClass_same
      | apply modPort_same | apply sentFrame_same | apply startTimer_same | apply arbitrate_same (by assumption) | apply Same.refl
      | apply Same.ite | apply Same.foldl | apply Same.foldl1 | apply Same.foldl2 | (fail_if_no_progress apply Same.keep))
    | split)

theorem execRetransmitTimeout_kept (qpn id : Nat) (s : State) : Kept s (execRetransmitTimeout qpn id s) := by
  have h0 := Same.refl s
  unfold execRetransmitTimeout
  try dsimp only
  repeat' (first
    | with_reducible assumption
    | intro _
    | with_reducible (first
      | apply Kept.next | apply Kept.fault | apply Kept.ite | apply declareLost_same | apply expiryCut_same | apply Same.refl
      | apply Same.ite | (fail_if_no_progress apply Same.keep))
    | split)

theorem execPathHoldExpire_kept (coord path : Nat) (s : State) : Kept s (execPathHoldExpire coord path s) := by
  have h0 := Same.refl s
  unfold execPathHoldExpire
  try dsimp only
  repeat' (first
    | with_reducible assumption
    | intro _
    | with_reducible (first
      | apply Kept.next | apply Kept.fault | apply Kept.ite | apply modPath_same | apply Same.refl | apply Same.ite
      | (fail_if_no_progress apply Same.keep))
    | split)

theorem execPoolRegionCreate_kept (slot : Nat) (s : State) : Kept s (execPoolRegionCreate slot s) := by
  have h0 := Same.refl s
  unfold execPoolRegionCreate
  try dsimp only
  repeat' (first
    | with_reducible assumption
    | intro _
    | with_reducible (first
      | apply Kept.next | apply Kept.fault | apply Kept.ite | apply completeWith_same | apply settle_same | apply startAdmin_same
      | apply Same.refl | apply Same.ite | (fail_if_no_progress apply Same.keep))
    | split)

theorem execPoolRegionDestroy_kept (slot : Nat) (s : State) : Kept s (execPoolRegionDestroy slot s) := by
  have h0 := Same.refl s
  unfold execPoolRegionDestroy
  try dsimp only
  repeat' (first
    | with_reducible assumption
    | intro _
    | with_reducible (first
      | apply Kept.next | apply Kept.fault | apply Kept.ite | apply keepRunning_same | apply refuse_same | apply startAdmin_same
      | apply Same.refl | apply Same.ite | (fail_if_no_progress apply Same.keep))
    | split)

theorem execPageRequestIssue_kept (fn : Nat) (s : State) : Kept s (execPageRequestIssue fn s) := by
  have h0 := Same.refl s
  unfold execPageRequestIssue
  try dsimp only
  repeat' (first
    | with_reducible assumption
    | intro _
    | with_reducible (first
      | apply Kept.next | apply Kept.fault | apply Kept.ite | apply emit_same | apply takeFresh_same | apply Same.refl | apply Same.ite
      | (fail_if_no_progress apply Same.keep))
    | split)

theorem execPtMirrorSet_kept (slot : Nat) (s : State) : Kept s (execPtMirrorSet slot s) := by
  have h0 := Same.refl s
  unfold execPtMirrorSet
  try dsimp only
  repeat' (first
    | with_reducible assumption
    | intro _
    | with_reducible (first
      | apply Kept.next | apply Kept.fault | apply Kept.ite | apply completeWith_same | apply refuse_same | apply settle_same
      | apply startAdmin_same | apply takeFresh_same | apply Same.refl | apply Same.ite | (fail_if_no_progress apply Same.keep))
    | split)

theorem execPtInvalidate_kept (slot : Nat) (s : State) : Kept s (execPtInvalidate slot s) := by
  have h0 := Same.refl s
  unfold execPtInvalidate
  try dsimp only
  repeat' (first
    | with_reducible assumption
    | intro _
    | with_reducible (first
      | apply Kept.next | apply Kept.fault | apply Kept.ite | apply beginDrain_same | apply completeWith_same | apply holdCmd_same
      | apply removeRange_same | apply settle_same | apply startAdmin_same | apply Same.refl | apply Same.ite
      | (fail_if_no_progress apply Same.keep))
    | split)

theorem execAtsInvalidate_kept (fn : Nat) (pasid : Option Nat) (va size tag : Nat) (s : State) : Kept s (execAtsInvalidate fn pasid va
    size tag s) := by
  have h0 := Same.refl s
  unfold execAtsInvalidate
  try dsimp only
  repeat' (first
    | with_reducible assumption
    | intro _
    | with_reducible (first
      | apply Kept.next | apply Kept.fault | apply Kept.ite | apply endDrains_same | apply heardTlp_same | apply issueFlushes_same
      | apply Same.refl | apply Same.ite | (fail_if_no_progress apply Same.keep))
    | split)

theorem execTrainReceived_kept (m : Meets) (s : State) : Kept s (execTrainReceived m s) := by
  have h0 := Same.refl s
  unfold execTrainReceived
  try dsimp only
  repeat' (first
    | with_reducible assumption
    | intro _
    | with_reducible (first
      | apply Kept.next | apply Kept.fault | apply Kept.ite | apply rxPackets_same | apply tpeSettle_same | apply underMeets_same
      | apply takeRx_same (by assumption) | apply Same.refl | apply Same.ite | (fail_if_no_progress apply Same.keep))
    | split)

theorem execKiteReceived_kept (m : Meets) (s : State) : Kept s (execKiteReceived m s) := by
  have h0 := Same.refl s
  unfold execKiteReceived
  try dsimp only
  repeat' (first
    | with_reducible assumption
    | intro _
    | with_reducible (first
      | apply Kept.next | apply Kept.fault | apply Kept.ite | apply rxPacket_same | apply tpeSettle_same | apply underMeets_same
      | apply takeRx_same (by assumption) | apply Same.refl | apply Same.ite | (fail_if_no_progress apply Same.keep))
    | split)

theorem execFrameReceived_kept (port : Nat) (bytes : Bytes) (fcsOk disagree : Bool) (s : State) : Kept s (execFrameReceived port bytes
    fcsOk disagree s) := by
  have h0 := Same.refl s
  unfold execFrameReceived
  try dsimp only
  repeat' (first
    | with_reducible assumption
    | intro _
    | with_reducible (first
      | apply Kept.next | apply Kept.fault | apply Kept.ite | apply count_same | apply heardOn_same | apply openFrame_same
      | apply relay_same | apply rxDrop_same | apply Same.refl | apply Same.ite | (fail_if_no_progress apply Same.keep))
    | split)

theorem execAckDelayExpire_kept (qpn : Nat) (s : State) : Kept s (execAckDelayExpire qpn s) := by
  have h0 := Same.refl s
  unfold execAckDelayExpire
  try dsimp only
  repeat' (first
    | with_reducible assumption
    | intro _
    | with_reducible (first
      | apply Kept.next | apply Kept.fault | apply Kept.ite | apply askAck_same | apply Same.refl | apply Same.ite
      | (fail_if_no_progress apply Same.keep))
    | split)

theorem execHoldTimeout_kept (qpn : Nat) (psn : Word) (s : State) : Kept s (execHoldTimeout qpn psn s) := by
  have h0 := Same.refl s
  unfold execHoldTimeout
  try dsimp only
  repeat' (first
    | with_reducible assumption
    | intro _
    | with_reducible (first
      | apply Kept.next | apply Kept.fault | apply Kept.ite | apply endReexecuted_same | apply finishRx_same | apply modQp_same
      | apply Same.refl | apply Same.ite | (fail_if_no_progress apply Same.keep))
    | split)

theorem execNotifyWaitTimeout_kept (qpn : Nat) (s : State) : Kept s (execNotifyWaitTimeout qpn s) := by
  have h0 := Same.refl s
  unfold execNotifyWaitTimeout
  try dsimp only
  repeat' (first
    | with_reducible assumption
    | intro _
    | with_reducible (first
      | apply Kept.next | apply Kept.fault | apply Kept.ite | apply finishRx_same | apply Same.refl | apply Same.ite
      | (fail_if_no_progress apply Same.keep))
    | split)

theorem execNotifyDeliver_kept (qpn : Nat) (s : State) : Kept s (execNotifyDeliver qpn s) := by
  have h0 := Same.refl s
  unfold execNotifyDeliver
  try dsimp only
  repeat' (first
    | with_reducible assumption
    | intro _
    | with_reducible (first
      | apply Kept.next | apply Kept.fault | apply Kept.ite | apply drainQp_same | apply endEntry_same | apply endSlot_same
      | apply fetchRing_same | apply finishRx_same | apply modQp_same | apply Same.refl | apply Same.ite
      | (fail_if_no_progress apply Same.keep))
    | split)

theorem execAckReceived_kept (s : State) : Kept s (execAckReceived s) := by
  have h0 := Same.refl s
  unfold execAckReceived
  try dsimp only
  repeat' (first
    | with_reducible assumption
    | intro _
    | with_reducible (first
      | apply Kept.next | apply Kept.fault | apply Kept.ite | apply onAck_same | apply tpeSettle_same
      | apply takeRx_same (by assumption) | apply Same.refl | apply Same.ite | (fail_if_no_progress apply Same.keep))
    | split)

theorem execMovedReceived_kept (s : State) : Kept s (execMovedReceived s) := by
  have h0 := Same.refl s
  unfold execMovedReceived
  try dsimp only
  repeat' (first
    | with_reducible assumption
    | intro _
    | with_reducible (first
      | apply Kept.next | apply Kept.fault | apply Kept.ite | apply onMoved_same | apply takeRx_same (by assumption) | apply Same.refl
      | apply Same.ite | (fail_if_no_progress apply Same.keep))
    | split)

theorem execResendWaitExpire_kept (qpn : Nat) (s : State) : Kept s (execResendWaitExpire qpn s) := by
  have h0 := Same.refl s
  unfold execResendWaitExpire
  try dsimp only
  repeat' (first
    | with_reducible assumption
    | intro _
    | with_reducible (first
      | apply Kept.next | apply Kept.fault | apply Kept.ite | apply modQp_same | apply pace_same | apply Same.refl | apply Same.ite
      | (fail_if_no_progress apply Same.keep))
    | split)

theorem execReadReqTimeout_kept (qpn slot : Nat) (s : State) : Kept s (execReadReqTimeout qpn slot s) := by
  have h0 := Same.refl s
  unfold execReadReqTimeout
  try dsimp only
  repeat' (first
    | with_reducible assumption
    | intro _
    | with_reducible (first
      | apply Kept.next | apply Kept.fault | apply Kept.ite | apply ownerFails_same | apply repeatReq_same | apply Same.refl
      | apply Same.ite | (fail_if_no_progress apply Same.keep))
    | split)

theorem execDestPathsSet_kept (slot : Nat) (s : State) : Kept s (execDestPathsSet slot s) := by
  have h0 := Same.refl s
  unfold execDestPathsSet
  try dsimp only
  repeat' (first
    | with_reducible assumption
    | intro _
    | with_reducible (first
      | apply Kept.next | apply Kept.fault | apply Kept.ite | apply complete_same | apply completeWith_same | apply count_same
      | apply pathsChanged_same | apply settle_same | apply startAdmin_same | apply Same.refl | apply Same.ite
      | (fail_if_no_progress apply Same.keep))
    | split)

theorem execCongParamsSet_kept (slot : Nat) (s : State) : Kept s (execCongParamsSet slot s) := by
  have h0 := Same.refl s
  unfold execCongParamsSet
  try dsimp only
  repeat' (first
    | with_reducible assumption
    | intro _
    | with_reducible (first
      | apply Kept.next | apply Kept.fault | apply Kept.ite | apply complete_same | apply startAdmin_same | apply Same.refl
      | apply Same.ite | (fail_if_no_progress apply Same.keep))
    | split)

theorem execRateLimitSet_kept (slot : Nat) (s : State) : Kept s (execRateLimitSet slot s) := by
  have h0 := Same.refl s
  unfold execRateLimitSet
  try dsimp only
  repeat' (first
    | with_reducible assumption
    | intro _
    | with_reducible (first
      | apply Kept.next | apply Kept.fault | apply Kept.ite | apply complete_same | apply completeWith_same | apply paceClass_same
      | apply settle_same | apply startAdmin_same | apply Same.refl | apply Same.ite | (fail_if_no_progress apply Same.keep))
    | split)

theorem execGateListInstall_kept (slot : Nat) (buf : Option Bytes) (s : State) : Kept s (execGateListInstall slot buf s) := by
  have h0 := Same.refl s
  unfold execGateListInstall
  try dsimp only
  repeat' (first
    | with_reducible assumption
    | intro _
    | with_reducible (first
      | apply Kept.next | apply Kept.fault | apply Kept.ite | apply completeWith_same | apply gateTakeoversDue_same | apply holdCmd_same
      | apply modPort_same | apply refuse_same | apply settle_same | apply startAdmin_same | apply Same.refl | apply Same.ite
      | (fail_if_no_progress apply Same.keep))
    | split)

theorem execGateListQuery_kept (slot : Nat) (s : State) : Kept s (execGateListQuery slot s) := by
  have h0 := Same.refl s
  unfold execGateListQuery
  try dsimp only
  repeat' (first
    | with_reducible assumption
    | intro _
    | with_reducible (first
      | apply Kept.next | apply Kept.fault | apply Kept.ite | apply completeWith_same | apply gateTakeoversDue_same | apply settle_same
      | apply startAdmin_same | apply Same.refl | apply Same.ite | (fail_if_no_progress apply Same.keep))
    | split)

theorem execGateListCancel_kept (slot : Nat) (s : State) : Kept s (execGateListCancel slot s) := by
  have h0 := Same.refl s
  unfold execGateListCancel
  try dsimp only
  repeat' (first
    | with_reducible assumption
    | intro _
    | with_reducible (first
      | apply Kept.next | apply Kept.fault | apply Kept.ite | apply complete_same | apply gateTakeoversDue_same | apply holdCmd_same
      | apply modPort_same | apply settle_same | apply startAdmin_same | apply Same.refl | apply Same.ite
      | (fail_if_no_progress apply Same.keep))
    | split)

theorem execQpModify_kept (slot : Nat) (s : State) : Kept s (execQpModify slot s) := by
  have h0 := Same.refl s
  unfold execQpModify
  try dsimp only
  repeat' (first
    | with_reducible assumption
    | intro _
    | with_reducible (first
      | apply Kept.next | apply Kept.fault | apply Kept.ite | apply holdCmd_same | apply qpModify_same | apply startAdmin_same
      | apply Same.refl | apply Same.ite | (fail_if_no_progress apply Same.keep))
    | split)

theorem execHandshakeRetry_kept (qpn : Nat) (s : State) : Kept s (execHandshakeRetry qpn s) := by
  have h0 := Same.refl s
  unfold execHandshakeRetry
  try dsimp only
  repeat' (first
    | with_reducible assumption
    | intro _
    | with_reducible (first
      | apply Kept.next | apply Kept.fault | apply Kept.ite | apply modQp_same | apply sendConn_same | apply Same.refl | apply Same.ite
      | (fail_if_no_progress apply Same.keep))
    | split)

theorem execHandshakeTimeout_kept (qpn : Nat) (s : State) : Kept s (execHandshakeTimeout qpn s) := by
  have h0 := Same.refl s
  unfold execHandshakeTimeout
  try dsimp only
  repeat' (first
    | with_reducible assumption
    | intro _
    | with_reducible (first
      | apply Kept.next | apply Kept.fault | apply Kept.ite | apply endHandshake_same | apply Same.refl | apply Same.ite
      | (fail_if_no_progress apply Same.keep))
    | split)

theorem execConnectReq_kept (s : State) : Kept s (execConnectReq s) := by
  have h0 := Same.refl s
  unfold execConnectReq
  try dsimp only
  repeat' (first
    | with_reducible assumption
    | intro _
    | with_reducible (first
      | apply Kept.next | apply Kept.fault | apply Kept.ite | apply onConnReq_same | apply takeRx_same (by assumption) | apply Same.refl
      | apply Same.ite | (fail_if_no_progress apply Same.keep))
    | split)

theorem execConnectAccept_kept (s : State) : Kept s (execConnectAccept s) := by
  have h0 := Same.refl s
  unfold execConnectAccept
  try dsimp only
  repeat' (first
    | with_reducible assumption
    | intro _
    | with_reducible (first
      | apply Kept.next | apply Kept.fault | apply Kept.ite | apply onConnAccept_same | apply takeRx_same (by assumption)
      | apply Same.refl | apply Same.ite | (fail_if_no_progress apply Same.keep))
    | split)

theorem execConnectRefuse_kept (s : State) : Kept s (execConnectRefuse s) := by
  have h0 := Same.refl s
  unfold execConnectRefuse
  try dsimp only
  repeat' (first
    | with_reducible assumption
    | intro _
    | with_reducible (first
      | apply Kept.next | apply Kept.fault | apply Kept.ite | apply onConnRefuse_same | apply takeRx_same (by assumption)
      | apply Same.refl | apply Same.ite | (fail_if_no_progress apply Same.keep))
    | split)

theorem execKeySlotWrite_kept (slot : Nat) (buf : Option Bytes) (s : State) : Kept s (execKeySlotWrite slot buf s) := by
  have h0 := Same.refl s
  unfold execKeySlotWrite
  try dsimp only
  repeat' (first
    | with_reducible assumption
    | intro _
    | with_reducible (first
      | apply Kept.next | apply Kept.fault | apply Kept.ite | apply complete_same | apply loadKey_same | apply refuse_same
      | apply settle_same | apply startAdmin_same | apply Same.refl | apply Same.ite | (fail_if_no_progress apply Same.keep))
    | split)

theorem execKeySlotGenerate_kept (slot : Nat) (s : State) : Kept s (execKeySlotGenerate slot s) := by
  have h0 := Same.refl s
  unfold execKeySlotGenerate
  try dsimp only
  repeat' (first
    | with_reducible assumption
    | intro _
    | with_reducible (first
      | apply Kept.next | apply Kept.fault | apply Kept.ite | apply keySlotGenerate_same | apply startAdmin_same | apply Same.refl
      | apply Same.ite | (fail_if_no_progress apply Same.keep))
    | split)

theorem execKeySlotClear_kept (slot : Nat) (s : State) : Kept s (execKeySlotClear slot s) := by
  have h0 := Same.refl s
  unfold execKeySlotClear
  try dsimp only
  repeat' (first
    | with_reducible assumption
    | intro _
    | with_reducible (first
      | apply Kept.next | apply Kept.fault | apply Kept.ite | apply complete_same | apply holdCmd_same | apply modCipher_same
      | apply purgeKeyMem_same | apply settle_same | apply startAdmin_same | apply Same.refl | apply Same.ite
      | (fail_if_no_progress apply Same.keep))
    | split)

theorem execSaCreate_kept (slot : Nat) (s : State) : Kept s (execSaCreate slot s) := by
  have h0 := Same.refl s
  unfold execSaCreate
  try dsimp only
  repeat' (first
    | with_reducible assumption
    | intro _
    | with_reducible (first
      | apply Kept.next | apply Kept.fault | apply Kept.ite | apply complete_same | apply modCipher_same | apply settle_same
      | apply startAdmin_same | apply Same.refl | apply Same.ite | (fail_if_no_progress apply Same.keep))
    | split)

theorem execSaRekey_kept (slot : Nat) (s : State) : Kept s (execSaRekey slot s) := by
  have h0 := Same.refl s
  unfold execSaRekey
  try dsimp only
  repeat' (first
    | with_reducible assumption
    | intro _
    | with_reducible (first
      | apply Kept.next | apply Kept.fault | apply Kept.ite | apply completeWith_same | apply modSa_same | apply settle_same
      | apply startAdmin_same | apply Same.refl | apply Same.ite | (fail_if_no_progress apply Same.keep))
    | split)

theorem execSaDestroy_kept (slot : Nat) (s : State) : Kept s (execSaDestroy slot s) := by
  have h0 := Same.refl s
  unfold execSaDestroy
  try dsimp only
  repeat' (first
    | with_reducible assumption
    | intro _
    | with_reducible (first
      | apply Kept.next | apply Kept.fault | apply Kept.ite | apply complete_same | apply dropSa_same | apply settle_same
      | apply startAdmin_same | apply Same.refl | apply Same.ite | (fail_if_no_progress apply Same.keep))
    | split)

theorem execRxPhaseRetire_kept (sa : Nat) (s : State) : Kept s (execRxPhaseRetire sa s) := by
  have h0 := Same.refl s
  unfold execRxPhaseRetire
  try dsimp only
  repeat' (first
    | with_reducible assumption
    | intro _
    | with_reducible (first
      | apply Kept.next | apply Kept.fault | apply Kept.ite | apply modSa_same | apply post_same | apply Same.refl | apply Same.ite
      | (fail_if_no_progress apply Same.keep))
    | split)

theorem execDrbgReseed_kept (s : State) : Kept s (execDrbgReseed s) := by
  have h0 := Same.refl s
  unfold execDrbgReseed
  try dsimp only
  repeat' (first
    | with_reducible assumption
    | intro _
    | with_reducible (first
      | apply Kept.next | apply Kept.fault | apply Kept.ite | apply modCipher_same | apply Same.refl | apply Same.ite
      | (fail_if_no_progress apply Same.keep))
    | split)

theorem execEntropyHealthFail_kept (s : State) : Kept s (execEntropyHealthFail s) := by
  have h0 := Same.refl s
  unfold execEntropyHealthFail
  try dsimp only [modCipher]
  repeat' (first
    | with_reducible assumption
    | intro _
    | with_reducible (first
      | apply Kept.next | apply Kept.fault | apply Kept.ite | apply modCipher_same | apply Same.refl | apply Same.ite
      | (fail_if_no_progress apply Same.keep))
    | split)

theorem execSqEntryStart_kept (qpn : Nat) (m : Meets) (s : State) : Kept s (execSqEntryStart qpn m s) := by
  have h0 := Same.refl s
  unfold execSqEntryStart
  try dsimp only
  repeat' (first
    | with_reducible assumption
    | intro _
    | with_reducible (first
      | apply Kept.next | apply Kept.fault | apply Kept.ite | apply endEntry_same | apply fetchRing_same | apply startEntry_same
      | apply underMeets_same | apply Same.refl | apply Same.ite | (fail_if_no_progress apply Same.keep))
    | split)

theorem execLookasideStart_kept (inst : Nat) (disagree : Bool) (m : Meets) (s : State) : Kept s (execLookasideStart inst disagree m s) :=
    by
  have h0 := Same.refl s
  unfold execLookasideStart
  try dsimp only
  repeat' (first
    | with_reducible assumption
    | intro _
    | with_reducible (first
      | apply Kept.next | apply Kept.fault | apply Kept.ite | apply disableRing_same | apply endSlot_same | apply laBegin_same
      | apply markStarted_same | apply underMeets_same | apply Same.refl | apply Same.ite | (fail_if_no_progress apply Same.keep))
    | split)

theorem execLookasideDoorbell_kept (inst : Nat) (s : State) : Kept s (execLookasideDoorbell inst s) := by
  have h0 := Same.refl s
  unfold execLookasideDoorbell
  try dsimp only
  repeat' (first
    | with_reducible assumption
    | intro _
    | with_reducible (first
      | apply Kept.next | apply Kept.fault | apply Kept.ite | apply heardBell_same | apply laDoorbell_same | apply Same.refl
      | apply Same.ite | (fail_if_no_progress apply Same.keep))
    | split)

theorem execEntropyTestRun_kept (pass : Bool) (s : State) : Kept s (execEntropyTestRun pass s) := by
  have h0 := Same.refl s
  unfold execEntropyTestRun
  try dsimp only [seedDrbg, modCipher]
  repeat' (first
    | with_reducible assumption
    | intro _
    | with_reducible (first
      | apply Kept.next | apply Kept.fault | apply Kept.ite | apply drawRandom_same | apply modCipher_same | apply post_same
      | apply purgeKeyMem_same | apply seedCome_same | apply seedDrbg_same | apply Same.refl | apply Same.ite
      | (fail_if_no_progress apply Same.keep))
    | split)

theorem execSeedWaitTimeout_kept (w : SeedWait) (s : State) : Kept s (execSeedWaitTimeout w s) := by
  have h0 := Same.refl s
  unfold execSeedWaitTimeout
  try dsimp only
  repeat' (first
    | with_reducible assumption
    | intro _
    | with_reducible (first
      | apply Kept.next | apply Kept.fault | apply Kept.ite | apply laEnd_same | apply refuse_same | apply Same.refl | apply Same.ite
      | (fail_if_no_progress apply Same.keep))
    | split)

theorem execMbxOutDoorbell_kept (r : ChanRef) (w : Word) (s : State) : Kept s (execMbxOutDoorbell r w s) := by
  have h0 := Same.refl s
  unfold execMbxOutDoorbell
  try dsimp only
  repeat' (first
    | with_reducible assumption
    | intro _
    | with_reducible (first
      | apply Kept.next | apply Kept.fault | apply Kept.ite | apply heardMbx_same | apply outDoorbell_same | apply Same.refl
      | apply Same.ite | (fail_if_no_progress apply Same.keep))
    | split)

theorem execMbxInAck_kept (r : ChanRef) (n : Nat) (code : BitVec 16) (s : State) : Kept s (execMbxInAck r n code s) := by
  have h0 := Same.refl s
  unfold execMbxInAck
  try dsimp only
  repeat' (first
    | with_reducible assumption
    | intro _
    | with_reducible (first
      | apply Kept.next | apply Kept.fault | apply Kept.ite | apply heardMbx_same | apply inAck_same | apply Same.refl | apply Same.ite
      | (fail_if_no_progress apply Same.keep))
    | split)

theorem execMbxInDoorbellClear_kept (r : ChanRef) (w : Word) (s : State) : Kept s (execMbxInDoorbellClear r w s) := by
  have h0 := Same.refl s
  unfold execMbxInDoorbellClear
  try dsimp only
  repeat' (first
    | with_reducible assumption
    | intro _
    | with_reducible (first
      | apply Kept.next | apply Kept.fault | apply Kept.ite | apply heardMbx_same | apply inDoorbell_same | apply Same.refl
      | apply Same.ite | (fail_if_no_progress apply Same.keep))
    | split)

theorem execMbxMaskWrite_kept (r : ChanRef) (off : Nat) (w : Word) (s : State) : Kept s (execMbxMaskWrite r off w s) := by
  have h0 := Same.refl s
  unfold execMbxMaskWrite
  try dsimp only
  repeat' (first
    | with_reducible assumption
    | intro _
    | with_reducible (first
      | apply Kept.next | apply Kept.fault | apply Kept.ite | apply heardMbx_same | apply maskWrite_same | apply Same.refl
      | apply Same.ite | (fail_if_no_progress apply Same.keep))
    | split)

theorem execMbxRelayDeliver_kept (to_ : RelayTo) (done : Bool) (s : State) : Kept s (execMbxRelayDeliver to_ done s) := by
  have h0 := Same.refl s
  unfold execMbxRelayDeliver
  try dsimp only
  repeat' (first
    | with_reducible assumption
    | intro _
    | with_reducible (first
      | apply Kept.next | apply Kept.fault | apply Kept.ite | apply deliver_same | apply modChan_same | apply Same.refl | apply Same.ite
      | (fail_if_no_progress apply Same.keep))
    | split)

theorem execMbxChannelConfig_kept (slot : Nat) (s : State) : Kept s (execMbxChannelConfig slot s) := by
  have h0 := Same.refl s
  unfold execMbxChannelConfig
  try dsimp only
  repeat' (first
    | with_reducible assumption
    | intro _
    | with_reducible (first
      | apply Kept.next | apply Kept.fault | apply Kept.ite | apply completeWith_same | apply modInst_same | apply settle_same
      | apply startAdmin_same | apply Same.refl | apply Same.ite | (fail_if_no_progress apply Same.keep))
    | split)

theorem execTpeStepStart_kept (ctx : Nat) (words : List StoreWord) (m : Meets) (s : State) : Kept s (execTpeStepStart ctx words m s) := by
  have h0 := Same.refl s
  unfold execTpeStepStart
  try dsimp only
  repeat' (first
    | with_reducible assumption
    | intro _
    | with_reducible (first
      | apply Kept.next | apply Kept.fault | apply Kept.ite | apply ctxError_same | apply endSlot_same | apply foundWord_same
      | apply markStarted_same | apply modCtx_same | apply stepBegin_same | apply tpeAdvance_same | apply tpeSettle_same
      | apply underMeets_same | apply Same.refl | apply Same.ite | apply Same.foldl | apply Same.foldl1 | apply Same.foldl2
      | (fail_if_no_progress apply Same.keep))
    | split)

theorem execTileLoadDone_kept (ctx : Nat) (s : State) : Kept s (execTileLoadDone ctx s) := by
  have h0 := Same.refl s
  unfold execTileLoadDone
  try dsimp only
  repeat' (first
    | with_reducible assumption
    | intro _
    | with_reducible (first
      | apply Kept.next | apply Kept.fault | apply Kept.ite | apply Same.refl | apply Same.ite | (fail_if_no_progress apply Same.keep))
    | split)

theorem execArrayStep_kept (a : ArrayAccess) (s : State) : Kept s (execArrayStep a s) := by
  have h0 := Same.refl s
  unfold execArrayStep
  try dsimp only
  repeat' (first
    | with_reducible assumption
    | intro _
    | with_reducible (first
      | apply Kept.next | apply Kept.fault | apply Kept.ite | apply stepArray_same | apply underMeets_same | apply Same.refl
      | apply Same.ite | (fail_if_no_progress apply Same.keep))
    | split)

theorem execTpeStepComplete_kept (ctx slot : Nat) (m : Meets) (s : State) : Kept s (execTpeStepComplete ctx slot m s) := by
  have h0 := Same.refl s
  unfold execTpeStepComplete
  try dsimp only
  repeat' (first
    | with_reducible assumption
    | intro _
    | with_reducible (first
      | apply Kept.next | apply Kept.fault | apply Kept.ite | apply finishStep_same | apply modCtx_same | apply pumpCtx_same
      | apply tpeAdvance_same | apply tpeSettle_same | apply underMeets_same | apply Same.refl | apply Same.ite
      | (fail_if_no_progress apply Same.keep))
    | split)

theorem execReduceWaitExpire_kept (ctx : Nat) (s : State) : Kept s (execReduceWaitExpire ctx s) := by
  have h0 := Same.refl s
  unfold execReduceWaitExpire
  try dsimp only
  repeat' (first
    | with_reducible assumption
    | intro _
    | with_reducible (first
      | apply Kept.next | apply Kept.fault | apply Kept.ite | apply finishStep_same | apply tpeSettle_same | apply Same.refl
      | apply Same.ite | (fail_if_no_progress apply Same.keep))
    | split)

theorem execTpeCtxCreate_kept (slot : Nat) (s : State) : Kept s (execTpeCtxCreate slot s) := by
  have h0 := Same.refl s
  unfold execTpeCtxCreate
  try dsimp only
  repeat' (first
    | with_reducible assumption
    | intro _
    | with_reducible (first
      | apply Kept.next | apply Kept.fault | apply Kept.ite | apply complete_same | apply count_same | apply enableRing_same
      | apply settle_same | apply startAdmin_same | apply takeFresh_same | apply Same.refl | apply Same.ite
      | (fail_if_no_progress apply Same.keep))
    | split)

theorem execTpeCtxDestroy_kept (slot : Nat) (s : State) : Kept s (execTpeCtxDestroy slot s) := by
  have h0 := Same.refl s
  unfold execTpeCtxDestroy
  try dsimp only
  repeat' (first
    | with_reducible assumption
    | intro _
    | with_reducible (first
      | apply Kept.next | apply Kept.fault | apply Kept.ite | apply complete_same | apply ctxError_same | apply dropCtx_same
      | apply holdCmd_same | apply settle_same | apply startAdmin_same | apply Same.refl | apply Same.ite
      | (fail_if_no_progress apply Same.keep))
    | split)

theorem execKettleCreate_kept (slot : Nat) (table : Option Bytes) (s : State) : Kept s (execKettleCreate slot table s) := by
  have h0 := Same.refl s
  unfold execKettleCreate
  try dsimp only
  repeat' (first
    | with_reducible assumption
    | intro _
    | with_reducible (first
      | apply Kept.next | apply Kept.fault | apply Kept.ite | apply complete_same | apply modQp_same | apply refuse_same
      | apply settle_same | apply startAdmin_same | apply Same.refl | apply Same.ite | apply Same.foldl | apply Same.foldl1
      | apply Same.foldl2 | (fail_if_no_progress apply Same.keep))
    | split)

theorem execKettleEpochSet_kept (slot : Nat) (s : State) : Kept s (execKettleEpochSet slot s) := by
  have h0 := Same.refl s
  unfold execKettleEpochSet
  try dsimp only
  repeat' (first
    | with_reducible assumption
    | intro _
    | with_reducible (first
      | apply Kept.next | apply Kept.fault | apply Kept.ite | apply complete_same | apply epochAtCtx_same | apply settle_same
      | apply startAdmin_same | apply tpeSettle_same | apply Same.refl | apply Same.ite | apply Same.foldl | apply Same.foldl1
      | apply Same.foldl2 | (fail_if_no_progress apply Same.keep))
    | split)

theorem execKettleDestroy_kept (slot : Nat) (s : State) : Kept s (execKettleDestroy slot s) := by
  have h0 := Same.refl s
  unfold execKettleDestroy
  try dsimp only
  repeat' (first
    | with_reducible assumption
    | intro _
    | with_reducible (first
      | apply Kept.next | apply Kept.fault | apply Kept.ite | apply complete_same | apply dropKettle_same | apply settle_same
      | apply startAdmin_same | apply Same.refl | apply Same.ite | (fail_if_no_progress apply Same.keep))
    | split)

theorem execInstanceCreate_kept (slot : Nat) (vec : Option Bytes) (s : State) : Kept s (execInstanceCreate slot vec s) := by
  have h0 := Same.refl s
  unfold execInstanceCreate
  try dsimp only
  repeat' (first
    | with_reducible assumption
    | intro _
    | with_reducible (first
      | apply Kept.next | apply Kept.fault | apply Kept.ite | apply completeWith_same | apply enableRing_same | apply postInst_same
      | apply settle_same | apply startAdmin_same | apply takeFresh_same | apply Same.refl | apply Same.ite
      | (fail_if_no_progress apply Same.keep))
    | split)

theorem execInstanceQuotaSet_kept (slot : Nat) (vec : Option Bytes) (s : State) : Kept s (execInstanceQuotaSet slot vec s) := by
  have h0 := Same.refl s
  unfold execInstanceQuotaSet
  try dsimp only
  repeat' (first
    | with_reducible assumption
    | intro _
    | with_reducible (first
      | apply Kept.next | apply Kept.fault | apply Kept.ite | apply complete_same | apply completeWith_same | apply modInst_same
      | apply reloadVecs_same | apply settle_same | apply startAdmin_same | apply Same.refl | apply Same.ite
      | (fail_if_no_progress apply Same.keep))
    | split)

theorem execInstanceReset_kept (slot : Nat) (s : State) : Kept s (execInstanceReset slot s) := by
  have h0 := Same.refl s
  unfold execInstanceReset
  try dsimp only
  repeat' (first
    | with_reducible assumption
    | intro _
    | with_reducible (first
      | apply Kept.next | apply Kept.fault | apply Kept.ite | apply keepRunning_same | apply resetInst_same | apply settle_same
      | apply startAdmin_same | apply Same.refl | apply Same.ite | (fail_if_no_progress apply Same.keep))
    | split)

theorem execInstanceDestroy_kept (slot : Nat) (s : State) : Kept s (execInstanceDestroy slot s) := by
  have h0 := Same.refl s
  unfold execInstanceDestroy
  try dsimp only
  repeat' (first
    | with_reducible assumption
    | intro _
    | with_reducible (first
      | apply Kept.next | apply Kept.fault | apply Kept.ite | apply keepRunning_same | apply resetInst_same | apply settle_same
      | apply startAdmin_same | apply Same.refl | apply Same.ite | (fail_if_no_progress apply Same.keep))
    | split)

theorem execInstanceResetDone_kept (inst : Nat) (s : State) : Kept s (execInstanceResetDone inst s) := by
  have h0 := Same.refl s
  unfold execInstanceResetDone
  try dsimp only
  repeat' (first
    | with_reducible assumption
    | intro _
    | with_reducible (first
      | apply Kept.next | apply Kept.fault | apply Kept.ite | apply complete_same | apply enableRing_same | apply finishDestroy_same
      | apply mbxInstReset_same | apply modInst_same | apply postInst_same | apply removeObjects_same | apply Same.refl | apply Same.ite
      | (fail_if_no_progress apply Same.keep))
    | split)

theorem execPoolZeroingDone_kept (base : Nat) (s : State) : Kept s (execPoolZeroingDone base s) := by
  have h0 := Same.refl s
  unfold execPoolZeroingDone
  try dsimp only
  repeat' (first
    | with_reducible assumption
    | intro _
    | with_reducible (first
      | apply Kept.next | apply Kept.fault | apply Kept.ite | apply completeWith_same | apply finishDestroy_same | apply poolZero_same
      | apply Same.refl | apply Same.ite | (fail_if_no_progress apply Same.keep))
    | split)

theorem execVfFlr_kept (vf : Nat) (s : State) : Kept s (execVfFlr vf s) := by
  have h0 := Same.refl s
  unfold execVfFlr
  try dsimp only
  repeat' (first
    | with_reducible assumption
    | intro _
    | with_reducible (first
      | apply Kept.next | apply Kept.fault | apply Kept.ite | apply heardTlp_same | apply vfFlr_same | apply Same.refl | apply Same.ite
      | (fail_if_no_progress apply Same.keep))
    | split)

theorem execVfEnableClear_kept (s : State) : Kept s (execVfEnableClear s) := by
  have h0 := Same.refl s
  unfold execVfEnableClear
  try dsimp only
  repeat' (first
    | with_reducible assumption
    | intro _
    | with_reducible (first
      | apply Kept.next | apply Kept.fault | apply Kept.ite | apply heardTlp_same | apply vfEnableClear_same | apply Same.refl
      | apply Same.ite | (fail_if_no_progress apply Same.keep))
    | split)

theorem execPfFlr_kept (s : State) : Kept s (execPfFlr s) := by
  have h0 := Same.refl s
  unfold execPfFlr
  try dsimp only
  repeat' (first
    | with_reducible assumption
    | intro _
    | with_reducible (first
      | apply Kept.next | apply Kept.fault | apply Kept.ite | apply heardTlp_same | apply pfFlr_same | apply Same.refl | apply Same.ite
      | (fail_if_no_progress apply Same.keep))
    | split)

theorem execInstanceFreeze_kept (slot : Nat) (s : State) : Kept s (execInstanceFreeze slot s) := by
  have h0 := Same.refl s
  unfold execInstanceFreeze
  try dsimp only
  repeat' (first
    | with_reducible assumption
    | intro _
    | with_reducible (first
      | apply Kept.next | apply Kept.fault | apply Kept.ite | apply holdCmd_same | apply keepRunning_same | apply modInst_same
      | apply settle_same | apply startAdmin_same | apply Same.refl | apply Same.ite | (fail_if_no_progress apply Same.keep))
    | split)

theorem execFreezeDrained_kept (inst : Nat) (s : State) : Kept s (execFreezeDrained inst s) := by
  have h0 := Same.refl s
  unfold execFreezeDrained
  try dsimp only
  repeat' (first
    | with_reducible assumption
    | intro _
    | with_reducible (first
      | apply Kept.next | apply Kept.fault | apply Kept.ite | apply complete_same | apply freezeQp_same | apply modInst_same
      | apply moveInst_same | apply sendOwed_same | apply Same.refl | apply Same.ite | apply Same.foldl | apply Same.foldl1
      | apply Same.foldl2 | (fail_if_no_progress apply Same.keep))
    | split)

theorem execFreezeDrainTimeout_kept (inst : Nat) (s : State) : Kept s (execFreezeDrainTimeout inst s) := by
  have h0 := Same.refl s
  unfold execFreezeDrainTimeout
  try dsimp only
  repeat' (first
    | with_reducible assumption
    | intro _
    | with_reducible (first
      | apply Kept.next | apply Kept.fault | apply Kept.ite | apply modInst_same | apply refuse_same | apply Same.refl | apply Same.ite
      | (fail_if_no_progress apply Same.keep))
    | split)

theorem execInstanceThaw_kept (slot : Nat) (s : State) : Kept s (execInstanceThaw slot s) := by
  have h0 := Same.refl s
  unfold execInstanceThaw
  try dsimp only
  repeat' (first
    | with_reducible assumption
    | intro _
    | with_reducible (first
      | apply Kept.next | apply Kept.fault | apply Kept.ite | apply complete_same | apply moveInst_same | apply moveQp_same
      | apply ringDoorbell_same | apply settle_same | apply startAdmin_same | apply thawRecalls_same | apply tpeSettle_same
      | apply Same.refl | apply Same.ite | apply Same.foldl | apply Same.foldl1 | apply Same.foldl2
      | (fail_if_no_progress apply Same.keep))
    | split)

theorem execForwardExpire_kept (inst : Nat) (s : State) : Kept s (execForwardExpire inst s) := by
  have h0 := Same.refl s
  unfold execForwardExpire
  try dsimp only
  repeat' (first
    | with_reducible assumption
    | intro _
    | with_reducible (first
      | apply Kept.next | apply Kept.fault | apply Kept.ite | apply endForward_same | apply Same.refl | apply Same.ite
      | (fail_if_no_progress apply Same.keep))
    | split)

theorem execPtpSync_kept (gap : Int) (interval : Nat) (s0 : State) : Kept s0 (execPtpSync gap interval s0) := by
  have h0 := Same.refl s0
  unfold execPtpSync
  try dsimp only
  repeat' (first
    | with_reducible assumption
    | intro _
    | with_reducible (first
      | apply Kept.next | apply Kept.fault | apply Kept.ite | apply setTime_same | apply stepTime_same | apply toFreerun_same
      | apply Same.refl | apply Same.ite | (fail_if_no_progress apply Same.keep))
    | split)

theorem execPtpDelayMessage_kept (m : PtpDelay) (s : State) : Kept s (execPtpDelayMessage m s) := by
  have h0 := Same.refl s
  unfold execPtpDelayMessage
  try dsimp only
  repeat' (first
    | with_reducible assumption
    | intro _
    | with_reducible (first
      | apply Kept.next | apply Kept.fault | apply Kept.ite | apply emit_same | apply Same.refl | apply Same.ite
      | (fail_if_no_progress apply Same.keep))
    | split)

theorem execSyncLossTimeout_kept (s : State) : Kept s (execSyncLossTimeout s) := by
  have h0 := Same.refl s
  unfold execSyncLossTimeout
  try dsimp only
  repeat' (first
    | with_reducible assumption
    | intro _
    | with_reducible (first
      | apply Kept.next | apply Kept.fault | apply Kept.ite | apply toFreerun_same | apply Same.refl | apply Same.ite
      | (fail_if_no_progress apply Same.keep))
    | split)

theorem execFreerunGuardExpire_kept (s : State) : Kept s (execFreerunGuardExpire s) := by
  have h0 := Same.refl s
  unfold execFreerunGuardExpire
  try dsimp only
  repeat' (first
    | with_reducible assumption
    | intro _
    | with_reducible (first
      | apply Kept.next | apply Kept.fault | apply Kept.ite | apply setTime_same | apply Same.refl | apply Same.ite
      | (fail_if_no_progress apply Same.keep))
    | split)

theorem execHoldoverTrustExpire_kept (s : State) : Kept s (execHoldoverTrustExpire s) := by
  have h0 := Same.refl s
  unfold execHoldoverTrustExpire
  try dsimp only
  repeat' (first
    | with_reducible assumption
    | intro _
    | with_reducible (first
      | apply Kept.next | apply Kept.fault | apply Kept.ite | apply setTime_same | apply Same.refl | apply Same.ite
      | (fail_if_no_progress apply Same.keep))
    | split)

theorem execPpsOutPulse_kept (s : State) : Kept s (execPpsOutPulse s) := by
  have h0 := Same.refl s
  unfold execPpsOutPulse
  try dsimp only
  repeat' (first
    | with_reducible assumption
    | intro _
    | with_reducible (first
      | apply Kept.next | apply Kept.fault | apply Kept.ite | apply Same.refl | apply Same.ite | (fail_if_no_progress apply Same.keep))
    | split)

theorem execPpsIn_kept (s : State) : Kept s (execPpsIn s) := by
  have h0 := Same.refl s
  unfold execPpsIn
  try dsimp only
  repeat' (first
    | with_reducible assumption
    | intro _
    | with_reducible (first
      | apply Kept.next | apply Kept.fault | apply Kept.ite | apply post_same | apply Same.refl | apply Same.ite
      | (fail_if_no_progress apply Same.keep))
    | split)

theorem execTimeLoRead_kept (s : State) : Kept s (execTimeLoRead s) := by
  have h0 := Same.refl s
  unfold execTimeLoRead
  try dsimp only
  repeat' (first
    | with_reducible assumption
    | intro _
    | with_reducible (first
      | apply Kept.next | apply Kept.fault | apply Kept.ite | apply emit_same | apply heardTlp_same | apply readTimeLo_same
      | apply Same.refl | apply Same.ite | (fail_if_no_progress apply Same.keep))
    | split)

theorem execOwlLogRead_kept (slot : Nat) (ok : Bool) (s : State) : Kept s (execOwlLogRead slot ok s) := by
  have h0 := Same.refl s
  unfold execOwlLogRead
  try dsimp only
  repeat' (first
    | with_reducible assumption
    | intro _
    | with_reducible (first
      | apply Kept.next | apply Kept.fault | apply Kept.ite | apply owlLogRead_same | apply startAdmin_same | apply Same.refl
      | apply Same.ite | (fail_if_no_progress apply Same.keep))
    | split)

theorem execPowerStateRequest_kept (slot : Nat) (s : State) : Kept s (execPowerStateRequest slot s) := by
  have h0 := Same.refl s
  unfold execPowerStateRequest
  try dsimp only
  repeat' (first
    | with_reducible assumption
    | intro _
    | with_reducible (first
      | apply Kept.next | apply Kept.fault | apply Kept.ite | apply holdCmd_same | apply powerRequest_same | apply startAdmin_same
      | apply Same.refl | apply Same.ite | (fail_if_no_progress apply Same.keep))
    | split)

theorem execRoostEnter_kept (s : State) : Kept s (execRoostEnter s) := by
  have h0 := Same.refl s
  unfold execRoostEnter
  try dsimp only
  repeat' (first
    | with_reducible assumption
    | intro _
    | with_reducible (first
      | apply Kept.next | apply Kept.fault | apply Kept.ite | apply enterRoost_same | apply refDone_same | apply refRefuse_same
      | apply Same.refl | apply Same.ite | (fail_if_no_progress apply Same.keep))
    | split)

theorem execTraceConfig_kept (slot : Nat) (ok : Bool) (s : State) : Kept s (execTraceConfig slot ok s) := by
  have h0 := Same.refl s
  unfold execTraceConfig
  try dsimp only
  repeat' (first
    | with_reducible assumption
    | intro _
    | with_reducible (first
      | apply Kept.next | apply Kept.fault | apply Kept.ite | apply complete_same | apply completeWith_same | apply refuse_same
      | apply settle_same | apply startAdmin_same | apply takeFresh_same | apply trace_same | apply traceStart_same
      | apply writeResult_same | apply Same.refl | apply Same.ite | (fail_if_no_progress apply Same.keep))
    | split)

theorem execCountersRead_kept (slot : Nat) (ok : Bool) (s : State) : Kept s (execCountersRead slot ok s) := by
  have h0 := Same.refl s
  unfold execCountersRead
  try dsimp only
  repeat' (first
    | with_reducible assumption
    | intro _
    | with_reducible (first
      | apply Kept.next | apply Kept.fault | apply Kept.ite | apply countersRead_same | apply startAdmin_same | apply Same.refl
      | apply Same.ite | (fail_if_no_progress apply Same.keep))
    | split)

theorem execImageWrite_kept (slot : Nat) (src : Option Bytes) (sigOk : Bool) (s : State) : Kept s (execImageWrite slot src sigOk s) := by
  have h0 := Same.refl s
  unfold execImageWrite
  try dsimp only
  repeat' (first
    | with_reducible assumption
    | intro _
    | with_reducible (first
      | apply Kept.next | apply Kept.fault | apply Kept.ite | apply emit_same | apply holdCmd_same | apply keepRunning_same
      | apply refuse_same | apply startAdmin_same | apply Same.refl | apply Same.ite | (fail_if_no_progress apply Same.keep))
    | split)

theorem execFlashWriteDone_kept (ok : Bool) (s : State) : Kept s (execFlashWriteDone ok s) := by
  have h0 := Same.refl s
  unfold execFlashWriteDone
  try dsimp only
  repeat' (first
    | with_reducible assumption
    | intro _
    | with_reducible (first
      | apply Kept.next | apply Kept.fault | apply Kept.ite | apply complete_same | apply refuse_same | apply Same.refl | apply Same.ite
      | (fail_if_no_progress apply Same.keep))
    | split)

theorem execWdtEnable_kept (val : Word) (s : State) : Kept s (execWdtEnable val s) := by
  have h0 := Same.refl s
  unfold execWdtEnable
  try dsimp only
  repeat' (first
    | with_reducible assumption
    | intro _
    | with_reducible (first
      | apply Kept.next | apply Kept.fault | apply Kept.ite | apply heardTlp_same | apply wdtWrite_same | apply Same.refl
      | apply Same.ite | (fail_if_no_progress apply Same.keep))
    | split)

theorem execWatchdogExpire_kept (s : State) : Kept s (execWatchdogExpire s) := by
  have h0 := Same.refl s
  unfold execWatchdogExpire
  try dsimp only
  repeat' (first
    | with_reducible assumption
    | intro _
    | with_reducible (first
      | apply Kept.next | apply Kept.fault | apply Kept.ite | apply controlReset_same | apply Same.refl | apply Same.ite
      | (fail_if_no_progress apply Same.keep))
    | split)

theorem execSecureServiceRequest_kept (s : State) : Kept s (execSecureServiceRequest s) := by
  have h0 := Same.refl s
  unfold execSecureServiceRequest
  try dsimp only
  repeat' (first
    | with_reducible assumption
    | intro _
    | with_reducible (first
      | apply Kept.next | apply Kept.fault | apply Kept.ite | apply endNotice_same | apply service_same | apply Same.refl
      | apply Same.ite | (fail_if_no_progress apply Same.keep))
    | split)

theorem execMctpVendorRequest_kept (p : Bytes) (s : State) : Kept s (execMctpVendorRequest p s) := by
  have h0 := Same.refl s
  unfold execMctpVendorRequest
  try dsimp only
  repeat' (first
    | with_reducible assumption
    | intro _
    | with_reducible (first
      | apply Kept.next | apply Kept.fault | apply Kept.ite | apply emit_same | apply vendorRun_same | apply Same.refl | apply Same.ite
      | (fail_if_no_progress apply Same.keep))
    | split)

theorem execMctpControlMessage_kept (p : Bytes) (s : State) : Kept s (execMctpControlMessage p s) := by
  have h0 := Same.refl s
  unfold execMctpControlMessage
  try dsimp only
  repeat' (first
    | with_reducible assumption
    | intro _
    | with_reducible (first
      | apply Kept.next | apply Kept.fault | apply Kept.ite | apply emit_same | apply Same.refl | apply Same.ite
      | (fail_if_no_progress apply Same.keep))
    | split)

theorem execSmbusAlertResponse_kept (s : State) : Kept s (execSmbusAlertResponse s) := by
  have h0 := Same.refl s
  unfold execSmbusAlertResponse
  try dsimp only
  repeat' (first
    | with_reducible assumption
    | intro _
    | with_reducible (first
      | apply Kept.next | apply Kept.fault | apply Kept.ite | apply emit_same | apply Same.refl | apply Same.ite
      | (fail_if_no_progress apply Same.keep))
    | split)

theorem execClockLossDetect_kept (clk : Nat) (_kind : ClockFault) (s : State) : Kept s (execClockLossDetect clk _kind s) := by
  have h0 := Same.refl s
  unfold execClockLossDetect
  try dsimp only
  repeat' (first
    | with_reducible assumption
    | intro _
    | with_reducible (first
      | apply Kept.next | apply Kept.fault | apply Kept.ite | apply loseClock_same | apply newWindow_same | apply Same.refl
      | apply Same.ite | (fail_if_no_progress apply Same.keep))
    | split)

theorem execClockWindowEnd_kept (clk : Nat) (ppb : Int) (s : State) : Kept s (execClockWindowEnd clk ppb s) := by
  have h0 := Same.refl s
  unfold execClockWindowEnd
  try dsimp only
  repeat' (first
    | with_reducible assumption
    | intro _
    | with_reducible (first
      | apply Kept.next | apply Kept.fault | apply Kept.ite | apply loseClock_same | apply newWindow_same | apply restoreClock_same
      | apply Same.refl | apply Same.ite | (fail_if_no_progress apply Same.keep))
    | split)

theorem execOscCalibrate_kept (s : State) : Kept s (execOscCalibrate s) := by
  have h0 := Same.refl s
  unfold execOscCalibrate
  try dsimp only
  repeat' (first
    | with_reducible assumption
    | intro _
    | with_reducible (first
      | apply Kept.next | apply Kept.fault | apply Kept.ite | apply Same.refl | apply Same.ite | (fail_if_no_progress apply Same.keep))
    | split)

theorem execRingSlotRead_kept (k : RingKind) (id : Nat) (x : SlotRead) (intact : Bool) (s : State) : Kept s (execRingSlotRead k id x
    intact s) := by
  have h0 := Same.refl s
  unfold execRingSlotRead
  try dsimp only
  repeat' (first
    | with_reducible assumption
    | intro _
    | with_reducible (first
      | apply Kept.next | apply Kept.fault | apply Kept.ite | apply headRead_same | apply heardAt_same | apply recallRead_same
      | apply setRing_same | apply strike_same | apply tpeSettle_same | apply Same.refl | apply Same.ite
      | (fail_if_no_progress apply Same.keep))
    | split)

theorem execRecallFirst_kept (inst first : Nat) (s : State) : Kept s (execRecallFirst inst first s) := by
  have h0 := Same.refl s
  unfold execRecallFirst
  try dsimp only
  repeat' (first
    | with_reducible assumption
    | intro _
    | with_reducible (first
      | apply Kept.next | apply Kept.fault | apply Kept.ite | apply heardBell_same | apply recallWrite_same | apply Same.refl
      | apply Same.ite | (fail_if_no_progress apply Same.keep))
    | split)

theorem execMirrorWalkDone_kept (id : Nat) (m : Meets) (s : State) : Kept s (execMirrorWalkDone id m s) := by
  have h0 := Same.refl s
  unfold execMirrorWalkDone
  try dsimp only
  repeat' (first
    | with_reducible assumption
    | intro _
    | with_reducible (first
      | apply Kept.next | apply Kept.fault | apply Kept.ite | apply resume_same | apply underMeets_same | apply walkDone_same
      | apply Same.refl | apply Same.ite | (fail_if_no_progress apply Same.keep))
    | split)

theorem execAtsCompletion_kept (id : Nat) (res : AtsResult) (m : Meets) (s : State) : Kept s (execAtsCompletion id res m s) := by
  have h0 := Same.refl s
  unfold execAtsCompletion
  try dsimp only
  repeat' (first
    | with_reducible assumption
    | intro _
    | with_reducible (first
      | apply Kept.next | apply Kept.fault | apply Kept.ite | apply atsDone_same | apply heardTlp_same | apply resume_same
      | apply underMeets_same | apply Same.refl | apply Same.ite | (fail_if_no_progress apply Same.keep))
    | split)

theorem execPrgResponse_kept (fn index : Nat) (code : PrgCode) (m : Meets) (s : State) : Kept s (execPrgResponse fn index code m s) := by
  have h0 := Same.refl s
  unfold execPrgResponse
  try dsimp only
  repeat' (first
    | with_reducible assumption
    | intro _
    | with_reducible (first
      | apply Kept.next | apply Kept.fault | apply Kept.ite | apply heardTlp_same | apply prgResponse_same | apply resume_same
      | apply underMeets_same | apply Same.refl | apply Same.ite | (fail_if_no_progress apply Same.keep))
    | split)

theorem execPageTimeoutExpire_kept (inst page : Nat) (s : State) : Kept s (execPageTimeoutExpire inst page s) := by
  have h0 := Same.refl s
  unfold execPageTimeoutExpire
  try dsimp only
  repeat' (first
    | with_reducible assumption
    | intro _
    | with_reducible (first
      | apply Kept.next | apply Kept.fault | apply Kept.ite | apply pageTimeout_same | apply resume_same | apply Same.refl
      | apply Same.ite | (fail_if_no_progress apply Same.keep))
    | split)

theorem execPtUpdate_kept (slot : Nat) (buf : Option Bytes) (s : State) : Kept s (execPtUpdate slot buf s) := by
  have h0 := Same.refl s
  unfold execPtUpdate
  try dsimp only
  repeat' (first
    | with_reducible assumption
    | intro _
    | with_reducible (first
      | apply Kept.next | apply Kept.fault | apply Kept.ite | apply ptUpdate_same | apply resume_same | apply startAdmin_same
      | apply Same.refl | apply Same.ite | (fail_if_no_progress apply Same.keep))
    | split)

theorem execDataReadComplete_kept (id : Nat) (bytes : Option Bytes) (m : Meets) (s : State) : Kept s (execDataReadComplete id bytes m s)
    := by
  have h0 := Same.refl s
  unfold execDataReadComplete
  try dsimp only
  repeat' (first
    | with_reducible assumption
    | intro _
    | with_reducible (first
      | apply Kept.next | apply Kept.fault | apply Kept.ite | apply handData_same | apply heardTlp_same | apply readAgain_same
      | apply tpeSettle_same | apply underMeets_same | apply waitEnded_same | apply Same.refl | apply Same.ite
      | (fail_if_no_progress apply Same.keep))
    | split)

theorem execFlushReadComplete_kept (id : Nat) (timedOut : Bool) (s : State) : Kept s (execFlushReadComplete id timedOut s) := by
  have h0 := Same.refl s
  unfold execFlushReadComplete
  try dsimp only
  repeat' (first
    | with_reducible assumption
    | intro _
    | with_reducible (first
      | apply Kept.next | apply Kept.fault | apply Kept.ite | apply emit_same | apply flushEnded_same | apply heardAt_same
      | apply tpeSettle_same | apply waitEnded_same | apply Same.refl | apply Same.ite | (fail_if_no_progress apply Same.keep))
    | split)

theorem execAportLinkUp_kept (n : Nat) (s : State) : Kept s (execAportLinkUp n s) := by
  have h0 := Same.refl s
  unfold execAportLinkUp
  try dsimp only
  repeat' (first
    | with_reducible assumption
    | intro _
    | with_reducible (first
      | apply Kept.next | apply Kept.fault | apply Kept.ite | apply resumePort_same | apply setAport_same | apply Same.refl
      | apply Same.ite | (fail_if_no_progress apply Same.keep))
    | split)

theorem execRegisterWrite_kept (src : AccessSrc) (off size : Nat) (value : BitVec 64) (s : State) : Kept s (execRegisterWrite src off size
    value s) := by
  have h0 := Same.refl s
  unfold execRegisterWrite
  try dsimp only
  repeat' (first
    | with_reducible assumption
    | intro _
    | with_reducible (first
      | apply Kept.next | apply Kept.fault | apply Kept.ite | apply heardAccess_same | apply regWrite_same | apply Same.refl
      | apply Same.ite | (fail_if_no_progress apply Same.keep))
    | split)

theorem execSqDoorbell_kept (inst qpn : Nat) (s : State) : Kept s (execSqDoorbell inst qpn s) := by
  have h0 := Same.refl s
  unfold execSqDoorbell
  try dsimp only
  repeat' (first
    | with_reducible assumption
    | intro _
    | with_reducible (first
      | apply Kept.next | apply Kept.fault | apply Kept.ite | apply heardBell_same | apply sqDoorbell_same | apply Same.refl
      | apply Same.ite | (fail_if_no_progress apply Same.keep))
    | split)

theorem execRqDoorbell_kept (inst qpn : Nat) (s : State) : Kept s (execRqDoorbell inst qpn s) := by
  have h0 := Same.refl s
  unfold execRqDoorbell
  try dsimp only
  repeat' (first
    | with_reducible assumption
    | intro _
    | with_reducible (first
      | apply Kept.next | apply Kept.fault | apply Kept.ite | apply heardBell_same | apply rqDoorbell_same | apply Same.refl
      | apply Same.ite | (fail_if_no_progress apply Same.keep))
    | split)

theorem execTpeDoorbell_kept (inst ctx : Nat) (s : State) : Kept s (execTpeDoorbell inst ctx s) := by
  have h0 := Same.refl s
  unfold execTpeDoorbell
  try dsimp only
  repeat' (first
    | with_reducible assumption
    | intro _
    | with_reducible (first
      | apply Kept.next | apply Kept.fault | apply Kept.ite | apply heardBell_same | apply tpeDoorbell_same | apply Same.refl
      | apply Same.ite | (fail_if_no_progress apply Same.keep))
    | split)

theorem execDbgHalt_kept (s : State) : Kept s (execDbgHalt s) := by
  have h0 := Same.refl s
  unfold execDbgHalt
  try dsimp only
  repeat' (first
    | with_reducible assumption
    | intro _
    | with_reducible (first
      | apply Kept.next | apply Kept.fault | apply Kept.ite | apply dbgHalt_same | apply Same.refl | apply Same.ite
      | (fail_if_no_progress apply Same.keep))
    | split)

theorem execDbgResume_kept (s : State) : Kept s (execDbgResume s) := by
  have h0 := Same.refl s
  unfold execDbgResume
  try dsimp only
  repeat' (first
    | with_reducible assumption
    | intro _
    | with_reducible (first
      | apply Kept.next | apply Kept.fault | apply Kept.ite | apply dbgResume_same | apply Same.refl | apply Same.ite
      | (fail_if_no_progress apply Same.keep))
    | split)

theorem execConfigRequest_kept (r : ConfigReq) (s : State) : Kept s (execConfigRequest r s) := by
  have h0 := Same.refl s
  unfold execConfigRequest
  try dsimp only
  repeat' (first
    | with_reducible assumption
    | intro _
    | with_reducible (first
      | apply Kept.next | apply Kept.fault | apply Kept.ite | apply configure_same | apply emit_same | apply heardTlp_same
      | apply Same.refl | apply Same.ite | (fail_if_no_progress apply Same.keep))
    | split)

theorem execDapTransfer_kept (r : DapReq) (parityOk : Bool) (s : State) : Kept s (execDapTransfer r parityOk s) := by
  have h0 := Same.refl s
  unfold execDapTransfer
  try dsimp only
  repeat' (first
    | with_reducible assumption
    | intro _
    | with_reducible (first
      | apply Kept.next | apply Kept.fault | apply Kept.ite | apply dapRun_same | apply emit_same | apply Same.refl | apply Same.ite
      | (fail_if_no_progress apply Same.keep))
    | split)

theorem execTapInstruction_kept (code : TapInstr) (s : State) : Kept s (execTapInstruction code s) := by
  have h0 := Same.refl s
  unfold execTapInstruction
  try dsimp only
  repeat' (first
    | with_reducible assumption
    | intro _
    | with_reducible (first
      | apply Kept.next | apply Kept.fault | apply Kept.ite | apply dbgHalt_same | apply emit_same | apply Same.refl | apply Same.ite
      | (fail_if_no_progress apply Same.keep))
    | split)

theorem execPatrolScrub_kept (line : Nat) (fault : LineFault) (holds : Reserve) (s : State) : Kept s (execPatrolScrub line fault holds s)
    := by
  have h0 := Same.refl s
  unfold execPatrolScrub
  try dsimp only
  repeat' (first
    | with_reducible assumption
    | intro _
    | with_reducible (first
      | apply Kept.next | apply Kept.fault | apply Kept.ite | apply corrected_same | apply count_same | apply outOfStack_same
      | apply uncorrectable_same | apply Same.refl | apply Same.ite | (fail_if_no_progress apply Same.keep))
    | split)

theorem execPoolStackFault_kept (n : Nat) (s : State) : Kept s (execPoolStackFault n s) := by
  have h0 := Same.refl s
  unfold execPoolStackFault
  try dsimp only
  repeat' (first
    | with_reducible assumption
    | intro _
    | with_reducible (first
      | apply Kept.next | apply Kept.fault | apply Kept.ite | apply post_same | apply Same.refl | apply Same.ite
      | (fail_if_no_progress apply Same.keep))
    | split)

theorem execAerErrorReported_kept (port : Nat) (kind : AerKind) (s : State) : Kept s (execAerErrorReported port kind s) := by
  have h0 := Same.refl s
  unfold execAerErrorReported
  try dsimp only
  repeat' (first
    | with_reducible assumption
    | intro _
    | with_reducible (first
      | apply Kept.next | apply Kept.fault | apply Kept.ite | apply count_same | apply Same.refl | apply Same.ite
      | (fail_if_no_progress apply Same.keep))
    | split)

theorem execMigrationKeySet_kept (slot : Nat) (buf : Option Bytes) (s : State) : Kept s (execMigrationKeySet slot buf s) := by
  have h0 := Same.refl s
  unfold execMigrationKeySet
  try dsimp only
  repeat' (first
    | with_reducible assumption
    | intro _
    | with_reducible (first
      | apply Kept.next | apply Kept.fault | apply Kept.ite | apply complete_same | apply modCipher_same | apply purgeKeyMem_same
      | apply refuse_same | apply startAdmin_same | apply Same.refl | apply Same.ite | (fail_if_no_progress apply Same.keep))
    | split)

theorem execInstanceSave_kept (slot : Nat) (ok : Bool) (s : State) : Kept s (execInstanceSave slot ok s) := by
  have h0 := Same.refl s
  unfold execInstanceSave
  try dsimp only
  repeat' (first
    | with_reducible assumption
    | intro _
    | with_reducible (first
      | apply Kept.next | apply Kept.fault | apply Kept.ite | apply completeEntry_same | apply completeWith_same | apply drawRandom_same
      | apply emit_same | apply modCipher_same | apply refuse_same | apply startAdmin_same | apply takeFresh_same | apply Same.refl
      | apply Same.ite | (fail_if_no_progress apply Same.keep))
    | split)

theorem execInstanceRestore_kept (slot : Nat) (buf : Option MigImage) (vec : Option Bytes) (s : State) : Kept s (execInstanceRestore slot
    buf vec s) := by
  have h0 := Same.refl s
  unfold execInstanceRestore
  try dsimp only
  repeat' (first
    | with_reducible assumption
    | intro _
    | with_reducible (first
      | apply Kept.next | apply Kept.fault | apply Kept.ite | apply buildRest_same | apply completeWith_same | apply jumpEvents_same
      | apply postInst_same | apply refuse_same | apply settle_same | apply startAdmin_same | apply takeFresh_same
      | apply restore_same (by assumption) | apply Same.refl | apply Same.ite | apply Same.foldl | apply Same.foldl1 | apply Same.foldl2
      | (fail_if_no_progress apply Same.keep))
    | split)

/-! ### The operations beyond `Same` -/

/-- Perch is entered from a live state, once: STAGE and PERCH_N are those of Perch, and the supply and the watchdog stay. -/
theorem enterPerch_cases (s : State) (cause : BitVec 8) (info : Word) :
    (live s = false ∧ enterPerch s cause info = s) ∨
    (live s = true ∧ ∃ t, Same t (enterPerch s cause info) ∧ t.power.phase = s.power.phase ∧ t.power.coreMv = s.power.coreMv ∧
      ((s.wdt.enabled = true → 1 ≤ s.wdt.periodMs.toNat ∧ s.wdt.periodMs.toNat ≤ 16000) →
        t.wdt.enabled = true → 1 ≤ t.wdt.periodMs.toNat ∧ t.wdt.periodMs.toNat ≤ 16000) ∧
      (memWf s.pool.mem = true → memWf t.pool.mem = true) ∧
      t.start.stage = 0xF ∧ t.start.perchCause = cause ∧ t.start.perchInfo = info ∧ t.pins.perchN = .low) := by
  unfold enterPerch
  by_cases h : live s
  · right
    have k : Same s (notePerch s) := notePerch_same s (Same.refl s)
    refine ⟨h, ?_⟩
    simp only [h]
    exact ⟨_, msixSend_same _ _ _ (Same.refl _), k.phase, k.coreMv, k.wdt, k.mem, rfl, rfl, rfl, rfl⟩
  · left
    simp [h]

/-- READY is reached from STAGE 0 of a live state; nothing else changes. -/
theorem checkReady_cases (s : State) :
    checkReady s = s ∨ (live s = true ∧ s.start.stage = 0 ∧ checkReady s = { s with start := { s.start with stage := 1 } }) := by
  unfold checkReady
  split
  · rename_i h
    simp only [Bool.and_eq_true, beq_iff_eq] at h
    exact .inr ⟨h.1.1.1, h.1.1.2, rfl⟩
  · exact .inl rfl

/-- A thermal trip is a change of phase with THERMTRIP_N low and the links stopped. -/
theorem thermalTrip_cases (s : State) :
    thermalTrip s = s ∨ ((thermalTrip s).power.phase = .tripped ∧ (thermalTrip s).power.coreMv = s.power.coreMv ∧
      (thermalTrip s).wdt = s.wdt ∧ (thermalTrip s).start = s.start ∧ (thermalTrip s).pins.perchN = s.pins.perchN ∧
      (thermalTrip s).pool = s.pool) := by
  unfold thermalTrip
  split
  · exact .inr (by simp [stopLinks])
  · exact .inl rfl

/-- Step 5 of the power-up is a change of phase. -/
theorem enterStep5_cases (s : State) (straps : BitVec 5) :
    enterStep5 s straps = s ∨ (s.power.phase = .waiting ∧ (enterStep5 s straps).power.phase = .ramping ∧
      (enterStep5 s straps).power.coreMv = s.power.coreMv ∧ (enterStep5 s straps).wdt = s.wdt ∧ (enterStep5 s straps).start = s.start ∧
      (enterStep5 s straps).pins.perchN = s.pins.perchN ∧ (enterStep5 s straps).pool = s.pool) := by
  unfold enterStep5
  split
  · rename_i h
    simp only [Bool.and_eq_true, beq_iff_eq] at h
    exact .inr ⟨h.1, rfl, rfl, rfl, rfl, rfl, rfl⟩
  · exact .inl rfl

/-- A full reset leaves STAGE, CORE and the watchdog at their Reset values, PERCH_N released, and a canonical pool canonical. -/
theorem resetDevice_eqs (s : State) (phase : Phase) (railsUp : Bool) :
    (resetDevice s phase railsUp).power.phase = phase ∧ (resetDevice s phase railsUp).power.coreMv = 0x0370 ∧
    (resetDevice s phase railsUp).wdt.enabled = false ∧ (resetDevice s phase railsUp).start = Start.reset ∧
    (resetDevice s phase railsUp).pins.perchN ≠ .low ∧
    (memWf s.pool.mem = true → memWf (resetDevice s phase railsUp).pool.mem = true) := by
  refine ⟨rfl, rfl, rfl, rfl, ?_, fun h => ?_⟩
  · simp only [resetDevice]
    split <;> simp
  · simp only [resetDevice]
    split
    · exact h
    · rfl

end Sys2Proof.Machine
end

