-- ==== Sys2Proof/WellFormed.lean ====
section
/-!
DEFINITION. Which operands a command can carry: the ranges of the numbers that the manual's tables give ports, clocks, queues, contexts
and channels. `exec` is total: a command outside these ranges names no object and changes nothing (each meaning says so).
-/

namespace Sys2Proof

open Sys2Proof.Machine

/-- A logical port, 0 to 7 (Table 8-3). -/
def legalPort (n : Nat) : Bool := decide (n < 8)

/-- A traffic class, 0 to 7 (R241). -/
def legalClass (n : Nat) : Bool := decide (n < 8)

/-- An accelerator port, A0 to A3 (Table 1-1). -/
def legalAPort (n : Nat) : Bool := decide (n < 4)

/-- A reference clock (Table 3-3). -/
def legalClock (n : Nat) : Bool := decide (n < 7)

/-- An admin ring slot: at most 2^12 of them (R115). -/
def legalSlot (n : Nat) : Bool := decide (n < 4096)

/-- An instance, 1 to 1,024, or 0 for the PF management context (Table 0-4). -/
def legalInst (n : Nat) : Bool := decide (n ≤ 1024)

/-- A queue pair (Table 1-3). -/
def legalQpn (n : Nat) : Bool := decide (n < 1048576)

/-- A completion queue (Table 1-3). -/
def legalCqn (n : Nat) : Bool := decide (n < 262144)

/-- A TPE context (Table 1-3). -/
def legalCtx (n : Nat) : Bool := decide (n < 256)

/-- The PF, function 0, or a VF, 1 to 1,024 (Table 1-1). -/
def legalFn (n : Nat) : Bool := decide (n ≤ 1024)

/-- A coordinate: 24 bits (Table 0-4). -/
def legalCoord (n : Nat) : Bool := decide (n < 16777216)

/-- A channel of Table 17-1. -/
def legalChan : ChanRef → Bool
  | .inst i => decide (0 < i) && legalInst i
  | .pf k => decide (k < 16)
  | .secure k => decide (k < 16)

/-- A register access: 4 or 8 bytes (R109), a 32-bit value for 4. -/
def legalAccess (src : AccessSrc) (size : Nat) (value : BitVec 64) : Bool :=
  (size == 4 || size == 8) && (size == 8 || decide (value.toNat < 2 ^ 32)) &&
    match src with
    | .hVf vf => decide (0 < vf) && legalFn vf
    | .aPort port inst => legalAPort port && legalInst inst
    | _ => true

/-- The object a ring belongs to. -/
def legalRing : RingKind → Nat → Bool
  | .sq, id | .rq, id => legalQpn id
  | .tpe, id => legalCtx id
  | .lookaside, id => legalInst id

/-- A function that SR-IOV, MSI-X, ATS or PRI state belongs to. -/
def legalConfig : ConfigReq → Bool
  | .msixControl (.vf n) _ _ | .msixMask (.vf n) _ _ | .ats (.vf n) _ | .pri (.vf n) _ _ _
  | .readPriCapacity (.vf n) | .pasid (.vf n) _ => decide (0 < n) && legalFn n
  | .deviceControl p r _ => decide (p.toNat ≤ 2) && decide (r.toNat ≤ 5)
  | .writeBar _ n _ | .readBar _ n => decide (n < 6)
  | .setVfs _ n => legalFn n
  | _ => true

/-- Where a relayed notice goes. -/
def legalRelay : RelayTo → Bool
  | .pf k => decide (k < 16)
  | .inst i bit => legalChan (.inst i) && decide (bit < 32)

/-- What waits for the seed. -/
def legalWait : SeedWait → Bool
  | .admin slot => legalSlot slot
  | .lookaside inst => legalInst inst

/-- A line of the pool's 96 GiB (Table 1-1). -/
def legalLine (line : Nat) : Bool := decide (line < 1610612736)

/-- What a command's accesses meet names lines of the pool and store words of contexts. -/
def legalMeets (m : Meets) : Bool := m.lines.all (fun l => legalLine l.1) && m.words.all fun w => legalCtx w.ctx

/-- A translated page is at least 4 KiB (Table 11-3). -/
def legalAts : AtsResult → Bool
  | .page _ log2 _ _ => decide (12 ≤ log2)
  | _ => true

/-- The operands are ones that the command can carry. -/
def wellFormed : Instr → Bool
  | .vinRise _ | .owlSelftestDone _ | .pwrOkRise _ | .fullResetAssert _ _ | .fullResetRelease _ _ | .railsGood
  | .pwrOkFall | .powerDownComplete _ | .vinUvloFall | .thermalBackstop | .oscCalibrate | .ptpSync _ _ | .syncLossTimeout
  | .freerunGuardExpire | .holdoverTrustExpire | .ppsOutPulse | .ppsIn | .timeLoRead | .coreSelftestDone _ _
  | .entropyTestRun _ | .poolTrainingDone _ | .scrubDone _ | .imageCopyChecked _ _ _ | .firmwareRunning
  | .firmwareStartTimeout | .admEnable _ | .admDisable _ | .admDoorbell | .adminEntryFetched _ | .evtReturn _ | .pfFlr
  | .vfEnableClear | .connectReq | .connectAccept | .connectRefuse
  | .ackReceived | .movedReceived | .flushReadComplete _ _ | .datagramSend _ _
  | .rxPhaseRetire _ | .drbgReseed | .entropyHealthFail | .secureServiceRequest | .mctpVendorRequest _
  | .mctpControlMessage _ | .smbusAlertResponse | .wdtEnable _ | .watchdogExpire | .controlResetDone
  | .glideLoadWindow _ _ | .roostEnter | .roostExit | .dapTransfer _ _ | .dbgHalt | .dbgResume | .tapInstruction _
  | .hPortDlActive | .flashWriteDone _ | .poolZeroingDone _ | .ptpDelayMessage _ => true
  | .dataReadComplete _ _ m | .trainReceived m | .kiteReceived m | .mirrorWalkDone _ m => legalMeets m
  | .governorEval _ _ region => decide (region < 24)
  | .clockLossDetect clk _ | .clockWindowEnd clk _ => legalClock clk
  | .configRequest r => legalConfig r
  | .aportRelease n | .aportLinkUp n | .aportTrainTimeout n | .aportEnumDone n _ | .aportRrsTimeout n | .aportLinkDown n => legalAPort n
  | .registerWrite src _ size value => legalAccess src size value
  | .vfFlr vf => decide (0 < vf) && legalFn vf
  | .nop slot | .imageWrite slot _ _ | .countersRead slot _ | .portControl slot | .instanceCreate slot _
  | .instanceQuotaSet slot _ | .instanceReset slot | .instanceDestroy slot | .instanceFreeze slot | .instanceSave slot _
  | .instanceRestore slot _ _ | .instanceThaw slot | .migrationKeySet slot _ | .qpCreate slot | .qpModify slot
  | .qpQuery slot | .qpDestroy slot | .cqCreate slot | .cqModify slot | .cqDestroy slot | .ptMirrorSet slot
  | .ptUpdate slot _ | .ptInvalidate slot | .poolRegionCreate slot | .poolRegionDestroy slot | .tpeCtxCreate slot
  | .tpeCtxDestroy slot | .kettleCreate slot _ | .kettleEpochSet slot | .kettleDestroy slot | .keySlotWrite slot _
  | .keySlotGenerate slot | .keySlotClear slot | .saCreate slot | .saRekey slot | .saDestroy slot | .destPathsSet slot
  | .congParamsSet slot | .rateLimitSet slot | .tcConfigSet slot | .gateListInstall slot _ | .gateListQuery slot
  | .gateListCancel slot | .powerStateRequest slot | .owlLogRead slot _ | .traceConfig slot _ | .mbxChannelConfig slot => legalSlot slot
  | .sqDoorbell inst qpn | .rqDoorbell inst qpn => legalInst inst && legalQpn qpn
  | .tpeDoorbell inst ctx => legalInst inst && legalCtx ctx
  | .ringSlotRead k id _ _ => legalRing k id
  | .sqEntryStart qpn m => legalQpn qpn && legalMeets m
  | .handshakeRetry qpn | .handshakeTimeout qpn | .ackDelayExpire qpn | .holdTimeout qpn _
  | .notifyDeliver qpn | .notifyWaitTimeout qpn | .retransmitTimeout qpn _ | .readReqTimeout qpn _ | .resendWaitExpire qpn => legalQpn qpn
  | .recallFirst inst _ | .lookasideDoorbell inst | .freezeDrained inst | .freezeDrainTimeout inst
  | .instanceResetDone inst | .forwardExpire inst | .pageTimeoutExpire inst _ => legalInst inst
  | .cqReturn inst cqn _ | .cqArm inst cqn => legalInst inst && legalCqn cqn
  | .cqReportRelease cqn _ | .cqModTimer cqn | .cqStallTimer cqn => legalCqn cqn
  | .frameReceived port _ _ _ | .arpRequest port _ | .neighborSolicitation port _ | .pfcFrameReceived port _ _
  | .frameTransmitStart port | .gateTakeover port | .portLockHeld port | .portFaultHeld port
  | .alignmentLockChange port _ _ _ _ => legalPort port
  | .pauseExpire port tc | .pfcRepeatTimer port tc | .pauseStuckTimer port tc => legalPort port && legalClass tc
  | .pathHoldExpire coord path => legalCoord coord && decide (path < 256)
  | .wheelSlot inst tc => legalInst inst && legalClass tc
  | .trainCloseTimer coord _ tc => legalCoord coord && legalClass tc
  | .lookasideStart inst _ m => legalInst inst && legalMeets m
  | .atsCompletion _ res m => legalAts res && legalMeets m
  | .prgResponse fn _ _ m => legalFn fn && legalMeets m
  | .pageRequestIssue fn | .atsInvalidate fn _ _ _ _ => legalFn fn
  | .patrolScrub line _ _ => legalLine line
  | .poolStackFault n => decide (n < 6)
  | .tpeStepStart ctx words m => legalCtx ctx && (words.all fun w => legalCtx w.ctx) && legalMeets m
  | .arrayStep a => legalCtx a.ctx && legalMeets a.meets
  | .tpeStepComplete ctx _ m => legalCtx ctx && legalMeets m
  | .tileLoadDone ctx | .reduceWaitExpire ctx => legalCtx ctx
  | .mbxOutDoorbell r _ | .mbxInDoorbellClear r _ => legalChan r
  | .mbxInAck r n _ => legalChan r && decide (n < 32)
  | .mbxMaskWrite r off _ => legalChan r && (off == 0x808 || off == 0x80C || off == 0x814)
  | .mbxRelayDeliver dst _ => legalRelay dst
  | .owlSample samples => samples.length == 32
  | .seedWaitTimeout w => legalWait w
  | .aerErrorReported port _ => decide (port < 5)

end Sys2Proof
end

