-- ==== Sys2Proof/Tests/Slice0.lean ====
section
/-!
SUPPORT. The tests: an ill-formed term for each check of WellFormed; for each statement a state and operands that meet its hypotheses,
clause by clause; and worked values of the manual.
-/

namespace Sys2Proof.Tests

open Sys2Proof Sys2Proof.Machine

-- One theorem at a time: in parallel the kernel's evaluations ask for more memory than the check allows.
set_option Elab.async false

/-! ### Small states -/

/-- An image: coordinate 5 in plane 0, IPv4 network 10.0.0.0, every filter and rule off. -/
def img0 : Image :=
  { coord := 5, maxVfs := 16, udpPort := 4800, ipv4 := true, planes := 1, ipv4Net := [10, 0, 0, 0], ipv6Prefix := [], fabricId := 0
    portMode := [1, 1, 1, 1], vid := [0, 0, 0, 0], ptpPort := 0, oneStep := false, guardMs := 10
    accel := List.replicate 4 { present := true, bar := 0, size := 1048576 }, filters := [], rules := [], wdtClkSel := true, buildId := 0, digest := 0 }

/-- Rails good, before any start-up step. -/
def early : State :=
  { State.reset with
    power := { Power.reset with phase := .up, railsUp := true, hLinkUp := true }
    now := 1000000000 }

/-- In service: READY, the firmware running, port 0 up. -/
def base : State :=
  { early with
    start := { Start.reset with
      stage := 1, fwRunning := true, scrubDone := true, trained := true, seeded := true, coreTested := true, stackOk := 0x3F
      image := some img0 }
    ports := (List.range 8).map fun _ => { Port.reset with state := .up, locked := true }
    clocks := { Clocks.reset with good := 0x7F }
    cipher := { Cipher.reset with generated := 0, seededAt := 1000000000 } }

/-- The same in Perch. -/
def perched : State := { base with start := { base.start with stage := 0xF, perchCause := 3 }, pins := { base.pins with perchN := .low } }

/-- An admin entry: the opcode, and fields `(byte, hi, lo, value)`. -/
def entry (op : Nat) (fs : List (Nat × Nat × Nat × Nat)) : Entry :=
  fs.foldl (fun e f => putFld e f.1 f.2.1 f.2.2.1 f.2.2.2) (BitVec.ofNat 512 op)

def cmd0 (e : Entry) : AdminCmd := { slot := 0, entry := e, phase := .queued, since := 0 }

/-- `s` with one admin command waiting in slot 0. -/
def withCmd (s : State) (e : Entry) : State :=
  { s with adm := { s.adm with enable := true, enabled := true, ringLog2 := 6, evtLog2 := 6, evtFree := 64, cmds := [cmd0 e] } }

def inPhase (s : State) (x : Phase) : State := { s with power := { s.power with phase := x } }
def inputs (s : State) (a b c : Bool) : State := { s with pins := { s.pins with pwrOk := a, brdRstN := b, hPerstN := c } }
def withTime (s : State) (f : TimeBase → TimeBase) : State := { s with time := f s.time }
def withClocks (s : State) (f : Clocks → Clocks) : State := { s with clocks := f s.clocks }
def withStart (s : State) (f : Start → Start) : State := { s with start := f s.start }
def withAdm (s : State) (f : Adm → Adm) : State := { s with adm := f s.adm }

def ring0 : Ring :=
  { base := 0x10000, log2 := 4, loc := 0, cqn := 0, state := .enabled, head := 0, taken := [], reading := none, run := false, doorbell := false
    recallAt := none, memDead := false, deadBy := none, strike := false }

/-- Instance 1, a PASID slice with wide quotas. -/
def inst0 : Inst :=
  { la := ring0, laRun := none, state := .active, fn := false, vf := 0, pasid := 7, apage := 0, apageBus := 0, vecTable := 0, vecs := []
    quota := { poolBytes := 2 ^ 33, qps := 8, cqs := 8, messages := 8, saSlots := 8, poolSlots := 8, laSlots := 8, ctxs := 8, wUnits := 8
               aUnits := 8, kettles := 8 }
    messages := 0, freezing := none, frozenAt := 0, why := none, mute := false, noRecord := 0, drains := [], mbx := Channel.reset
    relayCh := 0, mbxVec := 0 }

/-- `base` with one instance. -/
def own (x : Inst) : State := { base with insts := [(1, x)], pages := [(1, Page.reset)] }
def one : State := own inst0
def cold : State := own { inst0 with state := .frozen }

/-- An admin entry of instance 1. -/
def ent (op : Nat) (fs : List (Nat × Nat × Nat × Nat)) : Entry := entry op ((56, 10, 0, 1) :: fs)

def cq0 : Cq :=
  { inst := 1, base := 0x20000, log2 := 4, loc := 0, vector := 3, intEn := true, modCount := 1, modTime := 0, next := 0, free := 16, pending := []
    armed := false, held := [], stall := false, error := false, strike := false }

/-- Queue pair 2 of instance 1, in a state, its peer queue pair 4 of instance 3 at coordinate 6 under association 8. -/
def qp0 (st : QpState) : Qp :=
  { Qp.create 1 { ring0 with cqn := 0 } { ring0 with base := 0x30000 } 100 with
    state := st, remoteCoord := 6, remoteInst := 3, remoteQpn := 4, saId := 8, cumPsn := 200 }

/-- Instance 1 with CQ 0 and that queue pair. -/
def withQp (q : Qp) : State := { one with cqs := [(0, cq0)], qps := [(2, q)] }

/-- A command of instance 1 on queue pair 2. -/
def qent (op : Nat) (fs : List (Nat × Nat × Nat × Nat)) : Entry := ent op ((8, 19, 0, 2) :: fs)

/-- An association of instance 1 from key slot 1 to key slot 2. -/
def sa0 : Sa :=
  { inst := 1, peer := 8, txSlot := 1, txPhase := false, sealSeq := 5, limit := 2 ^ 44, rx0 := some { slot := 2, high := 70000, seen := [70000] }
    rx1 := none, rxPhase := false, pending := false, retiring := none, fails := 0, failAt := none, exhausted := false, dead := false }
def key0 (type : Nat) : KeySlot := { type := type, keyLen := 0, ksel := 0, inst := 1, key := List.replicate 16 1 }
def withKeys (s : State) (ks : Tab KeySlot) (as : Tab Sa) : State := { s with cipher := { s.cipher with keys := ks, sas := as } }

/-- Instance 1 with context 3, in a state, with runs. -/
def ctx0 (st : CtxState) (rs : List TpeRun) : Ctx :=
  { inst := 1, state := st, prev := .ready, ring := ring0, kettle := none, wUnits := 1, aUnits := 1, wMem := [], aMem := [], aZero := [], wBad := [], aBad := []
    stageBase := 0, stageBytes := 0, runs := rs, inbox := [], count := [], reduces := 0, dead := none }
def withCtx (c : Ctx) : State := { one with cqs := [(0, cq0)], ctxs := [(3, c)] }
def run0 (e : Entry) : TpeRun :=
  { slot := 0, entry := e, started := 0, epoch := 0, flags := 0, qpns := [], accs := [], bufs := [], made := true, todo := [], out := [], own := []
    ports := [], flushes := [], tile := 0, row := 0, turn := [], added := 0, written := 0, fail := none }
def taken0 (e : Entry) : Taken := { slot := 0, entry := e, started := false, outcome := none, gate := [] }

def pkt0 (op : Nat) (psn : Word) : Pkt :=
  { op := op, cell := false, last := true, retx := false, ackReq := false, dstQpn := 2, psn := psn, va := 0, offset := 0, tag := 0, ctx := 0, rank := 0
    epoch := 0, payload := [] }
def tx0 (st : TxStage) : TxPkt :=
  { id := 11, owner := .sq 0, pkt := pkt0 1 100, numbered := true, stage := st, charge := 64, path := 0, used := [0], again := false, held := false, sentAt := 0, order := 0
    overtaken := 0, deadline := some 1000000000, repeats := 0, lost := false, everLost := false, lossPaths := [], probe := false, failMark := 0 }
def dest0 : Dest :=
  { cwnd := 1048576, srtt := 6000, rttvar := 0, lastCut := none, recovery := [], inFlight := 64, rot := 0, exhausted := false, lastSent := 0, idleSince := 0, paths := [] }

/-! ### Hypotheses of the statements

Each theorem shows a state and operands for every clause of the statement it is named after, at the edges of the clause's range. -/

theorem test_hyps_StepRunsFrontCommand :
    State.reset.pending = [] ∧ (∀ mv, Instr.nop 0 = .vinRise mv → mv ≤ 2200) ∧ ∀ mv, Instr.vinRise 2200 = .vinRise mv → mv ≤ 2200 := by
  refine ⟨rfl, fun mv h => ?_, fun mv h => ?_⟩ <;> cases h
  omega

theorem test_hyps_Reports :
    live { base with adm := { base.adm with enabled := true, evtFree := 1 } } = true ∧ base.pm.state ≠ 2 ∧ base.ctlReset = false ∧
    base.halted = false ∧ { base.adm with enabled := true, evtFree := 1 }.reportOwed = false ∧ 0 < { base.adm with evtFree := 1 }.evtFree := by
  decide +kernel

theorem test_hyps_PowerUp :
    State.reset.power.phase = .off ∧ base.power.phase ≠ .off ∧
    ((inPhase State.reset .waiting).power.phase = .waiting ∧ (inputs State.reset true true true).pins.pwrOk = true ∧
      (inputs State.reset true true true).pins.brdRstN = true ∧ (inputs State.reset true true true).pins.hPerstN = true ∧
      State.reset.pins.pwrOk = false ∧ State.reset.pins.brdRstN = false ∧ State.reset.pins.hPerstN = false) ∧
    ((inPhase State.reset .ramping).power.phase = .ramping ∧ State.reset.pins.test = 0 ∧ State.reset.power.owlTest ≠ some false ∧
      { State.reset.pins with test := 1 }.test ≠ 0 ∧ { State.reset.power with owlTest := some false }.owlTest = some false ∧
      base.power.phase ≠ .ramping) ∧
    ((inPhase State.reset .waiting).power.owlTest = none ∧ State.reset.pins.thermtripN ≠ .low ∧ State.reset.start.stage ≠ 0xF ∧
      (inPhase State.reset .waiting).power.phase ≠ .up ∧ early.power.phase = .up ∧ early.power.owlTest = none ∧ early.start.stage ≠ 0xF ∧
      early.pins.thermtripN ≠ .low) ∧
    ({ early.power with hTraining := true }.hTraining = true ∧ early.power.hTraining = false) := by decide +kernel

theorem test_hyps_ResetsAndPowerDown :
    199 < 200 ∧ (∀ p ∈ [Phase.waiting, .ramping, .up, .off, .poweringDown, .tripped], (inPhase base p).power.phase = p) ∧
    (base.power.railsUp = true ∧ (inPhase State.reset .waiting).power.railsUp = false ∧ (inPhase base .waiting).power.railsUp = true) ∧
    ((inputs (inPhase base .poweringDown) true true true).pins.pwrOk = true ∧ State.reset.power.phase = .off) := by decide +kernel

theorem test_hyps_GovernorEval :
    let at_ (mv : Nat) : State := { base with power := { base.power with coreMv := BitVec.ofNat 16 mv } }
    let step (need mv : Nat) : Nat := max ((at_ mv).power.coreMv.toNat - 5) (min ((at_ mv).power.coreMv.toNat + 5) (max 620 (min 880 need)))
    (live (at_ 875) = true ∧ (at_ 875).pm.state ≠ 2 ∧ step 880 875 = 880 ∧ (-1 : Int) < 0 ∧ step 879 875 ≠ 880 ∧ (0 : Int) ≤ 0) ∧
    (live early = true ∧ live perched = false ∧ { base.pm with state := 2 }.state = 2) ∧ (620 ≤ (at_ 620).power.coreMv.toNat ∧ (at_ 880).power.coreMv.toNat ≤ 880) := by
  decide +kernel

def winBegun (s : State) (since : Nat) : State := withClocks s fun c => { c with winStart := [(6, since)], count := 2000000 }

theorem test_hyps_ClockActions :
    (base.power.phase = .up ∧ 6 < 7 ∧ base.clocks.good.getLsbD 6 = true ∧ early.clocks.good.getLsbD 6 = false ∧ early.power.phase = .up) ∧
    (let s := winBegun base 1000000
     tget s.clocks.winStart 6 = some 1000000 ∧ 1000000 + 1000000 ≤ s.clocks.count ∧ s.clocks.count < 1000001 + 1000000 ∧
      inTolerance s 6 15000000 = true ∧ rateChanged s 6 15000000 = false ∧ inTolerance s 6 15000001 = false ∧
      (let c := withClocks s fun c => { c with oscCal := true, lastWindow := [(6, 0)] }
       inTolerance c 6 300000 = true ∧ rateChanged c 6 50001 = true ∧ rateChanged c 6 50000 = false ∧ inTolerance c 6 300001 = false)) ∧
    (let s := winBegun early 1000000
     s.clocks.good.getLsbD 6 = false ∧ inTolerance s 6 15000000 = true ∧ inTolerance s 6 15000001 = false) ∧
    State.reset.power.phase ≠ .up ∧ { base.clocks with oscCal := true }.oscCal = true ∧ base.clocks.oscCal = false ∧
    (let s := withClocks base fun c => { c with goodSince := [(6, 0)] }
     tget s.clocks.goodSince 6 = some 0 ∧ 0 + 10000000000 ≤ { s with now := 10000000000 }.now ∧ { s with now := 9999999999 }.now < 0 + 10000000000) ∧
    live base = true ∧ live perched = false ∧ 3 < 4 := by decide +kernel

def locked : State := withTime base fun t => { t with state := .locked, trusted := true, syncLimit := some 1000000000 }
def freerun : State := withTime base fun t => { t with state := .freerun, trusted := true, guardEnd := some 1000000000 }
def holdover : State := withTime base fun t => { t with state := .holdover, trusted := true, trustEnd := some 1000000000 }

theorem test_hyps_ClockActions_states :
    locked.time.state = .locked ∧ freerun.time.state = .freerun ∧ base.time.state = .unset ∧ locked.clocks.oscCal = false ∧
    (withClocks locked fun c => { c with oscCal := true }).clocks.oscCal = true := by decide +kernel

theorem test_hyps_DeviceTime :
    (ptpPort base = some 0 ∧ base.clocks.good.getLsbD 6 = true ∧ ((1000000 : Int) - base.time.pathNs).natAbs ≤ 1000000 ∧
      1000000 < ((-1000001 : Int) - base.time.pathNs).natAbs ∧ base.time.state = .unset ∧ freerun.time.state = .freerun ∧ ptpPort locked = some 0 ∧
      locked.time.state = .locked ∧ ptpPort freerun = some 0) ∧
    ((ptpPort (withClocks base fun c => { c with good := 0 })) = some 0 ∧ (withClocks base fun c => { c with good := 0 }).clocks.good.getLsbD 6 = false ∧
      ptpPort holdover = some 0 ∧ holdover.time.state = .holdover ∧ ptpPort early = none) ∧
    (locked.time.syncLimit = some 1000000000 ∧ running locked = true ∧ 1000000000 ≤ locked.now ∧ { locked with now := 999999999 }.now < 1000000000) ∧
    (freerun.time.guardEnd = some 1000000000 ∧ freerun.power.phase = .up ∧ freerun.halted = false ∧ 1000000000 ≤ freerun.now ∧
      { freerun with now := 999999999 }.now < 1000000000) ∧
    (holdover.time.trustEnd = some 1000000000 ∧ holdover.power.phase = .up ∧ holdover.halted = false ∧ 1000000000 ≤ holdover.now ∧
      { holdover with now := 999999999 }.now < 1000000000) ∧
    (let at_ (d : BitVec 64) := withTime locked fun t => { t with dev := d }
     (at_ 999999995).power.phase = .up ∧ (at_ 999999995).time.state ≠ .unset ∧ ((at_ 999999995).time.dev.toNat + 5) % 1000000000 ≤ 10 ∧
      (at_ 999999995).time.ppsLast ≠ ((at_ 999999995).time.dev.toNat + 5) / 1000000000 + 1 ∧ ((at_ 1000000005).time.dev.toNat + 5) % 1000000000 ≤ 10 ∧
      10 < ((at_ 1000000006).time.dev.toNat + 5) % 1000000000 ∧
      { (at_ 999999995).time with ppsLast := 2 }.ppsLast = ((at_ 999999995).time.dev.toNat + 5) / 1000000000 + 1) ∧
    ({ base.time with ptpMaster := true }.ptpMaster = true ∧ base.time.ptpMaster = false) := by decide +kernel

theorem test_hyps_PerchEntry :
    (live base = true ∧ base.time.state ≠ .locked) ∧ (live locked = true ∧ locked.time.state = .locked) ∧ perched.start.stage = 0xF ∧
    live perched = false ∧
    (let f : FnState := { ats := false, pri := false, alloc := 0, stopped := false, pasid := false, msix := { Msix.reset 256 with enabled := true, maskAll := false, masked := [] } }
     let s := { base with fns := [(0, f)] }
     live s = true ∧ tget (notePerch s).fns 0 = some f ∧ f.msix.enabled = true ∧ f.msix.maskAll = false ∧ 0 ∉ f.msix.masked) := by
  decide +kernel

def scrubbing : State := withStart early fun x => { x with trained := true, stackOk := 0x3F }
def copyPending : State := withStart early fun x => { x with coreTested := true }
def imaged : State := withStart early fun x => { x with image := some img0, scrubDone := true, fwDeadline := some 1000000000 }

/-- A first copy: a FIRMWARE record alone, so that R85 passes and the content does not, and one with no magic at all. -/
def copyOf (good : Bool) : Bytes :=
  let body := leBytes 8 7 ++ leBytes 8 0
  let h := leBytes 4 (if good then 0x41424258 else 0) ++ leBytes 2 1 ++ leBytes 2 64 ++ leBytes 4 80 ++ leBytes 2 1 ++ leBytes 42 0 ++
    leBytes 4 (crc32c body).toNat
  h ++ leBytes 4 (crc32c h).toNat ++ body

def sfdp0 : Sfdp := { dual := true, quad := true, maxMhz := 133 }

theorem test_hyps_StartUp :
    (live early = true ∧ early.start.coreTested = false ∧ early.start.trained = false ∧ copyPending.start.coreTested = true ∧
      (0 : BitVec 16) = 0 ∧ (1 : BitVec 16) ≠ 0) ∧
    (live scrubbing = true ∧ scrubbing.start.trained = true ∧ scrubbing.start.scrubDone = false ∧ scrubbing.start.stackOk &&& ~~~0x3E ≠ 0 ∧
      scrubbing.start.stackOk &&& ~~~0x3F = 0 ∧ (withStart scrubbing fun x => { x with fwRunning := true }).start.stage = 0 ∧
      base.start.scrubDone = true) ∧
    (early.start.flashMode = none ∧ (readFlash early false (some sfdp0)).start.flashMode = some { lines := 4, mhz := 100 }) ∧
    (live copyPending = true ∧ copyPending.start.stage = 0 ∧ copyPending.start.image = none ∧ copyPending.start.coreTested = true ∧
      nextCopy copyPending = some false ∧ (readFlash copyPending false (some sfdp0)).start.flashMode ≠ none ∧
      (readFlash copyPending false none).start.flashMode = none) ∧
    (imageReason (some (copyOf true)) true = 0 ∧ contentBad (copyOf true) = some 12) ∧
    (imageReason (some (copyOf false)) true ≠ 0 ∧ copyPending.start.reasonAlt = none) ∧
    (let s := withStart copyPending fun x => { x with reasonPri := some 1 }
     nextCopy s = some true ∧ s.start.reasonPri = some 1 ∧ imageReason (some (copyOf false)) true ≠ 0) ∧
    (live imaged = true ∧ imaged.start.image.isSome = true ∧ imaged.start.fwRunning = false ∧ imaged.ctlReset = false ∧
      base.start.fwRunning = true) ∧
    (imaged.start.fwDeadline = some 1000000000 ∧ running imaged = true ∧ 1000000000 ≤ imaged.now ∧ { imaged with now := 999999999 }.now < 1000000000) ∧
    (early.power.hLinkUp = true ∧ early.start.image = none ∧ early.start.stage ≠ 0xF ∧ imaged.power.hLinkUp = true ∧
      imaged.start.image = some img0 ∧ State.reset.power.hLinkUp = false) ∧
    ((withStart early fun x => { x with stage := 0xF }).start.image = none ∧ (withStart early fun x => { x with stage := 0xF }).start.stage = 0xF) := by
  decide +kernel

/-- A port, 0 to 3, in a phase of its start-up since time 0. -/
def aportIn (s : State) (p : APhase) (up : Bool) : State :=
  withClocks (withStart s fun x => { x with aports := List.replicate 4 { phase := p, since := 0, linkUp := up, payload := 0 } }) fun c =>
    { c with goodSince := [(1, 0), (4, 0)] }

theorem test_hyps_AccelPorts :
    (3 < 4 ∧ (aport (aportIn base .waitClock false) 3).phase = .waitClock) ∧
    (running (aportIn base .waitClock false) = true ∧ (aportIn base .waitClock false).clocks.good.getLsbD 4 = true ∧
      tget (aportIn base .waitClock false).clocks.goodSince 4 = some 0 ∧ 0 + 100000 ≤ { base with now := 100000 }.now ∧
      { base with now := 99999 }.now < 0 + 100000) ∧
    ((aport (aportIn base .training false) 3).phase = .training ∧ (aport (aportIn base .training false) 3).since = 0 ∧
      0 + 100000000 ≤ { base with now := 100000000 }.now ∧ { base with now := 99999999 }.now < 0 + 100000000) ∧
    ((aport (aportIn base .enumerating true) 3).phase = .enumerating ∧ (aport (aportIn base .enumerating true) 3).linkUp = true ∧
      (match base.start.image with | some i => (i.accel.getD 3 { present := false, bar := 0, size := 0 }).size | none => 0) = 1048576 ∧
      { isMemory := true, size := 1048576, payload := 2 : AccelBar }.isMemory = true ∧
      { isMemory := true, size := 1048575, payload := 2 : AccelBar }.size < 1048576 ∧ { isMemory := false, size := 0, payload := 0 : AccelBar }.isMemory = false ∧
      (aport (aportIn base .enumerating true) 3).since + 1000000000 ≤ { base with now := 1000000000 }.now ∧
      { base with now := 999999999 }.now < (aport (aportIn base .enumerating true) 3).since + 1000000000) ∧
    (live base = true ∧ base.power.phase = .up ∧ base.clocks.good.getLsbD 4 = true ∧ aLinkUp (aportIn base .training false) 3 = false ∧
      (aport (aportIn base .training false) 3).phase = .training ∧ (aport (aportIn base .enumerating false) 3).phase = .enumerating ∧
      (aport (aportIn base .inService false) 3).phase = .inService) ∧
    (early.clocks.good.getLsbD 4 = false ∧ aLinkUp (aportIn base .inService true) 3 = true) ∧
    (tlpPort (.flushRead 3 0) = some 2 ∧ base.halted = false ∧ aLinkUp (aportIn base .inService true) 2 = true ∧ aLinkUp base 2 = false) := by decide +kernel

def fetching : State := withAdm base fun a => { a with enable := true, enabled := true, fetching := true, reading := true, ringLog2 := 6, evtLog2 := 6 }
def admFull (n : Nat) : State := withAdm fetching fun a => { a with reading := false, cmds := List.replicate n (cmd0 0) }

theorem test_hyps_AdminRing :
    (live base = true ∧ (0x166 : Word).getLsbD 8 = true ∧ ready base = true ∧ base.adm.enable = false ∧ base.adm.enabled = false ∧
      { base with ctlReset := true }.ctlReset = true ∧ 6 ≤ ((0x166 : Word).extractLsb' 0 4).toNat ∧ ((0x1CC : Word).extractLsb' 4 4).toNat ≤ 12) ∧
    (firmware base = true ∧ base.pm.state ≠ 2 ∧ ready early = false ∧ live early = true ∧ ((0x165 : Word).extractLsb' 0 4).toNat < 6 ∧
      12 < ((0x1D6 : Word).extractLsb' 4 4).toNat) ∧
    ((0x66 : Word).getLsbD 8 = false ∧ (withCmd base 0).adm.enabled = true ∧ (withCmd base 0).adm.cmds ≠ [] ∧ fetching.adm.enabled = true ∧
      fetching.adm.cmds = []) ∧
    (serving (admFull 255) = true ∧ (admFull 255).adm.enable = true ∧ (admFull 255).adm.reading = false ∧ (admFull 255).adm.cmds.length < 256 ∧
      256 ≤ (admFull 256).adm.cmds.length ∧ live fetching = true ∧ fetching.adm.reading = true ∧ base.adm.enable = false) ∧
    (admReadOpen fetching = true ∧ fetching.adm.fetching = true ∧ fetching.adm.bell = false ∧ { fetching.adm with bell := true }.bell = true ∧
      admReadOpen base = false) ∧
    (bit (entry 0 [(2, 7, 0, 1), (63, 7, 7, 1)]) 63 7 = true ∧ fld (entry 0 [(2, 7, 0, 1), (63, 7, 7, 1)]) 4 31 0 = fetching.adm.seqNext.toNat ∧
      adminLegal (entry 0 [(2, 7, 0, 1), (63, 7, 7, 1)]) = true ∧ bit (entry 0 []) 63 7 = false ∧
      adminLegal (entry 0x00FF [(2, 7, 0, 1), (63, 7, 7, 1)]) = false ∧
      fld (entry 0 [(4, 31, 0, 1), (63, 7, 7, 1)]) 4 31 0 ≠ fetching.adm.seqNext.toNat) ∧
    (live fetching = true ∧ fetching.adm.enabled = true ∧ live perched = false ∧ base.adm.enabled = false) := by decide +kernel

theorem test_hyps_AdminCommandWaits :
    firmware early = false ∧ admCmd base 0 = none ∧
    (let s := withAdm base fun a => { a with cmds := [{ cmd0 0 with slot := 1 }, cmd0 (entry 0 [(3, 0, 0, 1)])] }
     admCmd s 0 = some (cmd0 (entry 0 [(3, 0, 0, 1)])) ∧ (cmd0 0).phase = .queued ∧ s.pm.state ≠ 2 ∧
      (cmdsBefore s 0).any (fun b => b.phase == .queued) = true ∧ cmdFence (cmd0 (entry 0 [(3, 0, 0, 1)])) = true ∧ cmdsBefore s 0 ≠ []) ∧
    cmdOpcode (cmd0 (entry 1 [])) ≠ 0x0000 ∧
    (let s := { one with adm := { base.adm with cmds := [{ cmd0 (ent 0x0200 []) with slot := 1, phase := .waiting }, cmd0 (ent 0x0101 [])] } }
     mayStart s 0 0x0101 = some (cmd0 (ent 0x0101 [])) ∧ instAhead s (cmd0 (ent 0x0101 [])) = true) := by
  decide +kernel

theorem test_hyps_RegisterWrite :
    (base.power.phase = .up ∧ base.start.stage ≠ 0xF ∧ base.adm.enable = false ∧ base.adm.enabled = false ∧ fetching.adm.enable = true ∧
      State.reset.power.phase ≠ .up) ∧
    (0x0FFFFC < 0x100000 ∧ 0x200000 ≤ 0x2FFFFC ∧ 0x2FFFFC < 0x300000 ∧ 0x400000 ≤ 0xEFFFFC ∧ 0xEFFFFC < 0xF00000) ∧
    (perched.power.phase = .up ∧ perched.start.stage = 0xF) ∧
    (3 % 4 ≠ 0 ∧ 0x100004 % 8 ≠ 0 ∧ 0x100004 % 4 = 0 ∧ 0x100008 % 8 = 0) ∧
    (one.insts.find? (fun r => !r.2.fn && r.2.pasid == 7) = some (1, inst0) ∧ 0xFFFC < 0x10000 ∧
      (own { inst0 with fn := true, vf := 3 }).insts.find? (fun r => r.2.fn && r.2.vf == 3) = some (1, { inst0 with fn := true, vf := 3 }) ∧
      tget one.insts 1 = some inst0 ∧ one.pm.state ≠ 2 ∧ { inst0 with apage := 4 }.apage = 3 + 1 ∧ 15 < 16) := by decide +kernel

def createEntry : Entry := ent 0x0100 [(8, 0, 0, 1), (12, 19, 0, 9), (16, 63, 12, 1), (24, 4, 0, 12)]

theorem test_hyps_InstanceCreation :
    (CanStart (withCmd base createEntry) 0 0x0100 (cmd0 createEntry) ∧ bindRefusal (withCmd base createEntry) 1 createEntry = none ∧
      locRefusal (withCmd base createEntry) (fld createEntry 25 2 0) (fld createEntry 16 63 12 * 4096) (64 * 2 ^ fld createEntry 24 4 0) = none ∧
      bit createEntry 8 0 = true ∧ (some ([] : Bytes)).isSome = true ∧
      locRefusal base 1 (fld createEntry 16 63 12 * 4096) (64 * 2 ^ fld createEntry 24 4 0) ≠ none) ∧
    (tget (withCmd one createEntry).insts 1 = some inst0 ∧ bindRefusal (withCmd one createEntry) 1 createEntry ≠ none ∧ tget base.insts 1 = none ∧
      bit (ent 0x0100 []) 8 0 = false ∧ base.vfEnable = false ∧ { base with vfEnable := true, numVfs := 0 }.numVfs < fld (ent 0x0100 [(10, 10, 0, 1)]) 10 10 0 ∧
      fld (ent 0x0100 [(8, 3, 1, 1)]) 8 3 1 ≠ 0 ∧ aportInService base (fld (ent 0x0100 [(8, 3, 1, 1)]) 8 3 1 - 1) = false ∧
      (1, { inst0 with pasid := 9 }) ∈ (own { inst0 with pasid := 9 }).insts ∧ tget one.insts 2 = none ∧ fld createEntry 8 3 1 = 0 ∧ inst0.fn = false ∧
      { inst0 with pasid := 9 }.pasid = fld createEntry 12 19 0) ∧
    (CanStart (withCmd one (ent 0x0101 [])) 0 0x0101 (cmd0 (ent 0x0101 [])) ∧ instRefusal (withCmd one (ent 0x0101 [])) 1 = none ∧
      instRefusal base 1 ≠ none ∧ bit (ent 0x0101 []) 8 0 = false ∧ bit (ent 0x0101 []) 8 1 = false ∧
      (bit (ent 0x0101 [(8, 1, 1, 1)]) 8 1 && (tget one.insts 1).any fun x => !x.fn) = true ∧
      slotsAllowed (withCmd one (ent 0x0101 [])) 1 (quotaOfEntry (ent 0x0101 [(36, 14, 0, 16384)])) = 16384) ∧
    (bit (ent 0x0101 [(8, 0, 0, 1)]) 8 0 = true ∧
      16384 < slotsAllowed (withCmd one (ent 0x0101 [])) 1 (quotaOfEntry (ent 0x0101 [(36, 14, 0, 16384), (38, 12, 0, 1)]))) := by
  unfold CanStart; decide +kernel

def why0 : ResetWhy := { cause := 0, destroy := false, slot := none, removed := false }
def resetting (w : ResetWhy) : State := own { inst0 with state := .resetting, why := some w }
/-- `s` with coordinate 6 reachable over port 0. -/
def hopped (s : State) : State := { s with ports := lmod s.ports 0 fun p => { p with nextHop := some [0, 0, 0, 0, 0, 1] } }
def destroyEntry : Entry := ent 0x0103 [(8, 0, 0, 1), (12, 23, 0, 6)]

theorem test_hyps_InstanceResets :
    (CanStart (withCmd one (ent 0x0102 [])) 0 0x0102 (cmd0 (ent 0x0102 [])) ∧ CanStart (withCmd one (ent 0x0103 [])) 0 0x0103 (cmd0 (ent 0x0103 [])) ∧
      tget (withCmd one (ent 0x0102 [])).insts (cmdInst (cmd0 (ent 0x0102 []))) = some inst0 ∧ inst0.state = .active ∧ inst0.why = none ∧
      bit (ent 0x0103 []) 8 0 = false) ∧
    (let s := withCmd (hopped cold) destroyEntry
     CanStart s 0 0x0103 (cmd0 destroyEntry) ∧ bit destroyEntry 8 0 = true ∧ { inst0 with state := .frozen }.state = .frozen ∧
      badForward s (fld destroyEntry 12 23 0) = false ∧ s.forwards.length < 64 ∧ badForward base (fld (ent 0x0103 [(12, 23, 0, 5)]) 12 23 0) = true ∧
      64 ≤ (List.replicate 64 (0 : Nat)).length) ∧
    (CanStart (withCmd base (ent 0x0102 [])) 0 0x0102 (cmd0 (ent 0x0102 [])) ∧ CanStart (withCmd base (ent 0x0103 [])) 0 0x0103 (cmd0 (ent 0x0103 [])) ∧
      tget (withCmd base (ent 0x0102 [])).insts (cmdInst (cmd0 (ent 0x0102 []))) = none) ∧
    (CanStart (withCmd (resetting why0) (ent 0x0102 [])) 0 0x0102 (cmd0 (ent 0x0102 [])) ∧
      CanStart (withCmd (resetting why0) (ent 0x0103 [])) 0 0x0103 (cmd0 (ent 0x0103 [])) ∧ why0.slot ≠ some 0) ∧
    (tget (resetting why0).insts 1 = some { inst0 with state := .resetting, why := some why0 } ∧ firmware (resetting why0) = true ∧
      inst0.drains = [] ∧ why0.removed = false ∧ why0.destroy = false ∧ why0.slot = none ∧ { why0 with slot := some 0 }.slot = some 0 ∧
      { why0 with destroy := true }.destroy = true ∧ { inst0 with drains := [3] }.drains ≠ [] ∧ { why0 with removed := true }.removed = true) ∧
    (∀ z ∈ one.pool.zeroing, z.inst ≠ 1) := by
  unfold CanStart; decide +kernel

def freezing0 : Inst := { inst0 with freezing := some { slot := 0, giveUp := 1000000000 } }
def freezer : AdminCmd := { cmd0 (ent 0x0104 [(12, 31, 0, 1)]) with phase := .running }
def freezingState (x : Inst) (qs : Tab Qp) : State :=
  { own x with adm := { base.adm with enable := true, enabled := true, cmds := [freezer] }, cqs := [(0, cq0)], qps := qs }

theorem test_hyps_FreezeAndThaw :
    (CanStart (withCmd one (ent 0x0104 [])) 0 0x0104 (cmd0 (ent 0x0104 [])) ∧ instRefusal one 1 = none ∧ instFrozen one 1 = false ∧
      earlierRuns (withCmd one (ent 0x0104 [])) 0 (fun b => cmdInst b == 1) = false ∧ instRefusal cold 1 = none ∧ instFrozen cold 1 = true ∧
      CanStart (withCmd cold (ent 0x0104 [])) 0 0x0104 (cmd0 (ent 0x0104 []))) ∧
    (let s := { one with adm := { base.adm with cmds := [{ cmd0 (ent 0x0102 []) with slot := 1, phase := .running }, cmd0 (ent 0x0104 [])] } }
     CanStart s 0 0x0104 (cmd0 (ent 0x0104 [])) ∧ earlierRuns s 0 (fun b => cmdInst b == 1) = true) ∧
    (CanStart (withCmd one (ent 0x0107 [])) 0 0x0107 (cmd0 (ent 0x0107 [])) ∧ CanStart (withCmd cold (ent 0x0107 [])) 0 0x0107 (cmd0 (ent 0x0107 [])) ∧
      instRefusal (withCmd cold (ent 0x0107 [])) 1 = none ∧ instFrozen (withCmd cold (ent 0x0107 [])) 1 = true) ∧
    (let s := freezingState freezing0 [(2, qp0 .ready)]
     tget s.insts 1 = some freezing0 ∧ freezing0.freezing = some { slot := 0, giveUp := 1000000000 } ∧
      firmware s = true ∧ admCmd s 0 = some freezer ∧ freezer.phase = .running ∧ ready s = true ∧ freezeDone s 1 = true ∧
      ([2].any fun n => (tget ([2].foldl sendOwed s).qps n).any owesAck) = false ∧ 1000000000 ≤ s.now ∧ { s with now := 999999999 }.now < 1000000000) ∧
    freezeDone (freezingState { freezing0 with la := { ring0 with taken := [taken0 0] } } []) 1 = true ∧
    freezeDone (freezingState { freezing0 with la := { ring0 with taken := [{ taken0 0 with started := true }] } } []) 1 = false ∧
    (tget (withQp (qp0 .ready)).qps 2 = some (qp0 .ready) ∧ (qp0 .ready).state ≠ .reset ∧ (qp0 .reset).state = .reset) := by
  unfold CanStart; decide +kernel

def keyed (s : State) : State := { s with cipher := { s.cipher with migKey := some (5, 6) } }
def body0 : MigBody := bodySaved cold 1 { inst0 with state := .frozen }
def header0 : Bytes := imageHeader false 5 1 true 6 0 body0
def image0 : MigImage := { bytes := header0 ++ sealChunks 5 header0 (bodyBytes body0), body := body0 }
def restoreEntry (n : Nat) : Entry := ent 0x0106 [(8, 0, 0, 1), (12, 19, 0, 9), (24, 39, 0, n)]
def restored : State :=
  { withCmd (keyed base) (restoreEntry (imageBytes body0)) with fresh := 1, insts := [(1, inst0)], pages := [(1, Page.reset)] }

theorem migKey_blocks (b : Bytes) : (aesBlock (roundKeys (migKeyBytes 5)) b).length = 16 := by
  have h : ∃ k ks, roundKeys (migKeyBytes 5) = k :: ks ∧ ∃ hne : ks ≠ [], (ks.getLast hne).length = 16 :=
    ⟨(roundKeys (migKeyBytes 5)).headD [], (roundKeys (migKeyBytes 5)).tail, by decide +kernel, by decide +kernel, by decide +kernel⟩
  obtain ⟨k, ks, he, hne, hl⟩ := h
  rw [he]
  exact aesRounds_length ks hne hl _

/-- The image that INSTANCE_SAVE writes of a frozen instance with no objects passes every check of INSTANCE_RESTORE. -/
theorem test_hyps_Migration_good : imageGood false image0 (imageBytes body0) 5 6 = true ∧ imageGood false image0 0 5 6 = false := by
  have hlen : (bodyBytes body0).length = 256 := by
    have : bodyBytes body0 = recordBytes (.inst body0.quota body0.limits body0.la body0.mirror) 256 := by
      simp only [bodyBytes]
      have e : body0.cqs = [] ∧ body0.qps = [] ∧ body0.sas = [] ∧ body0.keys = [] ∧ body0.regions = [] ∧ body0.entries = [] ∧ body0.ctxs = [] ∧
          body0.kettles = [] := by decide +kernel
      simp [e.1, e.2.1, e.2.2.1, e.2.2.2.1, e.2.2.2.2.1, e.2.2.2.2.2.1, e.2.2.2.2.2.2.1, e.2.2.2.2.2.2.2]
    rw [this, recordBytes, List.length_map, List.length_range]
  obtain ⟨hs, ho⟩ := openChunks_sealChunks 5 header0 (bodyBytes body0) migKey_blocks (by rw [hlen]; decide) (by rw [hlen]; decide)
  have hh : header0.length = 64 := by decide +kernel
  have hx : (slice image0.bytes 0 64) = header0 := by
    simp only [slice, image0, List.drop_zero]
    rw [List.take_append_of_le_length (by omega), List.take_of_length_le (by omega), hh]
    simp
  have hd : image0.bytes.drop 64 = sealChunks 5 header0 (bodyBytes body0) := by
    simp only [image0]
    rw [← hh, List.drop_left]
  have hl : image0.bytes.length = 336 := by simp only [image0, List.length_append, hh, hs, hlen]
  have hb : image0.body = body0 := rfl
  have hn : chunkCount (bodyLen body0) = 1 := by decide +kernel
  have hi : imageBytes body0 = 336 := by decide +kernel
  constructor
  · simp only [imageGood, hx, hb, hd, hl, hn, hi, ho, BEq.rfl, Bool.and_true, Bool.and_eq_true]
    decide +kernel
  · simp only [imageGood, hb, hi, hl]
    simp

theorem test_hyps_Migration :
    (CanStart (withCmd base (entry 0x0108 [])) 0 0x0108 (cmd0 (entry 0x0108 [])) ∧ bit (entry 0x0108 []) 8 0 = false ∧
      CanStart (withCmd (keyed base) (entry 0x0108 [(8, 0, 0, 1)])) 0 0x0108 (cmd0 (entry 0x0108 [(8, 0, 0, 1)])) ∧
      bit (entry 0x0108 [(8, 0, 0, 1)]) 8 0 = true ∧ (keyed base).cipher.migKey.isSome = true ∧ base.cipher.migKey = none) ∧
    (CanStart (withCmd (keyed cold) (ent 0x0105 [])) 0 0x0105 (cmd0 (ent 0x0105 [])) ∧ frozenOnly (withCmd (keyed cold) (ent 0x0105 [])) 1 = none ∧
      frozenOnly one 1 ≠ none ∧ cold.cipher.migKey = none ∧
      tget (withCmd (keyed cold) (ent 0x0105 [])).insts 1 = some { inst0 with state := .frozen } ∧ (keyed cold).cipher.migKey = some (5, 6) ∧
      fld (ent 0x0105 [(24, 39, 0, 335)]) 24 39 0 < imageBytes (bodySaved (withCmd (keyed cold) (ent 0x0105 [])) 1 { inst0 with state := .frozen }) ∧
      imageBytes (bodySaved (withCmd (keyed cold) (ent 0x0105 [(24, 39, 0, 336)])) 1 { inst0 with state := .frozen }) ≤
        fld (ent 0x0105 [(24, 39, 0, 336)]) 24 39 0 ∧ seedReady (keyed cold) = true ∧
      seedReady { keyed cold with start := { base.start with seeded := false } } = false) ∧
    (CanStart (withCmd base (restoreEntry 1)) 0 0x0106 (cmd0 (restoreEntry 1)) ∧ bindRefusal (withCmd base (restoreEntry 1)) 1 (restoreEntry 1) = none ∧
      bindRefusal (withCmd one (restoreEntry 1)) 1 (restoreEntry 1) ≠ none ∧
      base.cipher.migKey = none ∧ bit (restoreEntry 1) 8 0 = true ∧ bit (ent 0x0106 [(12, 19, 0, 9)]) 8 0 = false ∧
      bindRefusal (withCmd (keyed base) (restoreEntry 336)) 1 (restoreEntry 336) = none) ∧
    (idTaken base body0 = false ∧ idTaken (withQp (qp0 .ready)) { body0 with qps := [(2, qp0 .ready)] } = true ∧ beyondDevice base 1 body0 = none ∧
      beyondDevice base 1 { body0 with qps := [(2 ^ 20, qp0 .ready)] } ≠ none ∧
      (body0.ctxs.foldl (placeCtx 1) (placeMirror 1 body0 (body0.regions.foldl (placeRegion 1) (some restored)))).isSome = true ∧
      placeRegion 1 (some { base with start := { base.start with stackOk := 0 } }) { num := 0, size := 2 ^ 21, big := false, stack := 0, base := 0, blocks := [] } = none) := by
  unfold CanStart; decide +kernel

def sriov (x : Inst) (vf : Nat) : State := { base with vfEnable := true, numVfs := 1, insts := [(1, { x with fn := true, vf := vf })] }

theorem test_hyps_FunctionResets :
    (live base = true ∧ base.insts = [] ∧ base.forwards = [] ∧ base.pm.roost = none ∧ base.vfEnable = false) ∧
    (let s := sriov inst0 1
     s.vfEnable = true ∧ 1 ≤ 1 ∧ 1 ≤ s.numVfs ∧ tget s.insts 1 = some { inst0 with fn := true, vf := 1 } ∧
      (s.insts.filter fun r => r.2.fn && r.2.vf == 1) = [(1, { inst0 with fn := true, vf := 1 })] ∧ inst0.state = .active ∧ s.numVfs < 2) ∧
    (∀ r ∈ (sriov inst0 2).insts, r.2.fn = false ∨ r.2.vf ≠ 1) ∧ (∀ r ∈ one.insts, r.2.fn = false) ∧
    (let x := { inst0 with state := .resetting, why := some why0 }
     tget (sriov x 1).insts 1 = some { x with fn := true, vf := 1 } ∧ x.state = .resetting ∧ x.why = some why0 ∧ why0.slot = none) ∧
    live perched = false := by decide +kernel

def image7 : Bytes := copyOf true
def log1 : LogRec := { time := 1, seq := 0, type := 1, source := 0, data := 0 }
def flashing (slot : Option Nat) : State := withStart base fun x => { x with flash := some { slot := slot, alt := true, bytes := [] } }
def tracing : State := { base with trace := { Trace.reset with ring := some (0, 12), running := true } }
def traceEntry (op : Nat) : Entry := entry 0x0710 [(8, 1, 0, op), (9, 4, 0, 12)]

theorem test_hyps_DeviceCommands :
    (CanStart (withCmd base (entry 0 [])) 0 0x0000 (cmd0 (entry 0 [])) ∧ CanStart (withCmd base (entry 2 [])) 0 0x0002 (cmd0 (entry 2 [])) ∧
      countersRefusal base 0 0 = none ∧ countersRefusal base 3 5 = none ∧ countersRefusal base 1 8 ≠ none) ∧
    (CanStart (withCmd base (entry 1 [(24, 31, 0, 80)])) 0 0x0001 (cmd0 (entry 1 [(24, 31, 0, 80)])) ∧ base.start.flash = none ∧
      earlierRuns (withCmd base (entry 1 [])) 0 (fun b => cmdOpcode b == 0x0001) = false ∧
      bufferGood (slice image7 0 (fld (entry 1 [(24, 31, 0, 80)]) 24 31 0)) (fld (entry 1 [(24, 31, 0, 80)]) 24 31 0) true = false ∧
      fld (entry 1 [(24, 31, 0, 1051344)]) 24 31 0 = 1051344) ∧
    (CanStart (withCmd (flashing (some 1)) (entry 1 [])) 0 0x0001 (cmd0 (entry 1 [])) ∧ (flashing (some 1)).start.flash.isSome = true) ∧
    (let s := withCmd (flashing (some 0)) (entry 1 [])
     s.start.flash = some { slot := some 0, alt := true, bytes := [] } ∧ firmware s = true ∧ admCmd s 0 = some (cmd0 (entry 1 [])) ∧
      (flashing none).start.flash = some { slot := none, alt := true, bytes := [] } ∧ firmware (flashing none) = true) ∧
    (let s := { withCmd base (entry 0x0701 [(20, 7, 0, 1)]) with owl := { Owl.reset with log := [log1] } }
     mayStart s 0 0x0701 = some (cmd0 (entry 0x0701 [(20, 7, 0, 1)])) ∧ instAhead s (cmd0 (entry 0x0701 [(20, 7, 0, 1)])) = false ∧
      (s.owl.log.filter fun x => decide (0 ≤ sdist x.seq (BitVec.ofNat 32 (fld (entry 0x0701 [(20, 7, 0, 1)]) 16 31 0)))).take
        (fld (entry 0x0701 [(20, 7, 0, 1)]) 20 7 0) = [log1]) ∧
    (CanStart (withCmd base (traceEntry 0)) 0 0x0710 (cmd0 (traceEntry 0)) ∧ fld (traceEntry 0) 8 1 0 = 0 ∧ base.trace.running = false ∧
      fld (traceEntry 1) 8 1 0 = 1 ∧ fld (traceEntry 2) 8 1 0 = 2 ∧ fld (traceEntry 3) 8 1 0 = 3 ∧ base.trace.ring = none ∧
      CanStart (withCmd base (traceEntry 1)) 0 0x0710 (cmd0 (traceEntry 1)) ∧ CanStart (withCmd base (traceEntry 3)) 0 0x0710 (cmd0 (traceEntry 3)) ∧
      CanStart (withCmd base (traceEntry 2)) 0 0x0710 (cmd0 (traceEntry 2))) ∧
    (CanStart (withCmd tracing (traceEntry 0)) 0 0x0710 (cmd0 (traceEntry 0)) ∧ CanStart (withCmd tracing (traceEntry 1)) 0 0x0710 (cmd0 (traceEntry 1)) ∧
      CanStart (withCmd tracing (traceEntry 2)) 0 0x0710 (cmd0 (traceEntry 2)) ∧ tracing.trace.running = true ∧ tracing.trace.ring = some (0, 12) ∧
      traceUnread tracing = 0 ∧ traceUnread { tracing with trace := { tracing.trace with writeSeq := 1 } } = 1) ∧
    anyPlace { base with start := { base.start with stackOk := 0 } } (2 ^ 12) = none := by
  unfold CanStart; decide +kernel

/-- Wherever the device may place a trace ring, it finds a place in an empty pool. -/
theorem test_hyps_DeviceCommands_place : ∃ p, anyPlace { base with trace := { base.trace with ring := none } } (2 ^ 12) = some p := by
  have h : ((freeGaps { base with trace := { base.trace with ring := none } }).filter fun g => decide (alignUp g.1 4096 + 2 ^ 12 ≤ g.2)).length = 1 := by
    decide +kernel
  unfold anyPlace
  have : Config.place ({ base with trace := { base.trace with ring := none } } : State).fresh % 1 = 0 := Nat.mod_one _
  simp only [h, this]
  split
  · exact ⟨_, rfl⟩
  · rename_i hn
    rw [List.getElem?_eq_none_iff] at hn
    rw [h] at hn; omega

def portsIn (f : Port → Port) : State := { base with ports := base.ports.map f }

theorem test_hyps_Ports :
    (CanStart (withCmd base (entry 3 [])) 0 0x0003 (cmd0 (entry 3 [])) ∧ (portOf State.reset 0).state = .disabled ∧ (portOf base 7).state = .up ∧
      fld (entry 3 []) 9 1 0 = 0) ∧
    (let held := portsIn fun p => { p with state := .held }
     CanStart (withCmd held (entry 3 [(9, 1, 0, 2)])) 0 0x0003 (cmd0 (entry 3 [(9, 1, 0, 2)])) ∧
      (portOf held 0).state = .held ∧ (portOf held 0).owlDown = false ∧
      fld (entry 3 [(9, 1, 0, 2)]) 9 1 0 = 2 ∧ (portOf (portsIn fun p => { p with state := .held, owlDown := true }) 0).owlDown = true ∧
      fld (entry 3 [(9, 1, 0, 3)]) 9 1 0 = 3 ∧ fld (entry 3 [(9, 1, 0, 1)]) 9 1 0 = 1) ∧
    (running base = true ∧ (portOf base 0).state ≠ .disabled ∧ base.clocks.good.getLsbD 5 = true) ∧
    (let s := portsIn fun p => { p with state := .training, since := some 999000000 }
     (portOf s 0).state = .training ∧ (portOf s 0).locked = true ∧ (portOf s 0).faulted = false ∧ (portOf s 0).since = some 999000000 ∧
      s.clocks.good.getLsbD 5 = true ∧ 999000000 + 1000000 ≤ s.now ∧ { s with now := 999999999 }.now < 999000000 + 1000000 ∧
      { s.clocks with good := 0 }.good.getLsbD 5 = false) ∧
    (let s := portsIn fun p => { p with faulted := true, since := some 999990000 }
     (portOf s 0).state = .up ∧ (portOf s 0).faulted = true ∧ (portOf s 0).locked = true ∧ (portOf s 0).since = some 999990000 ∧
      999990000 + 10000 ≤ s.now ∧ { s with now := 999999999 }.now < 999990000 + 10000) ∧
    ((portOf (portsIn fun p => { p with locked := false }) 0).locked = false ∧ (portOf base 0).locked = true ∧ (portOf base 0).faulted = false) := by
  unfold CanStart; decide +kernel

/-- A pause frame for class 3, an ARP request for 10.0.0.5 and a Neighbor Solicitation. -/
def pfc3 : Bytes := [0x01, 0x80, 0xC2, 0x00, 0x00, 0x01] ++ beBytes 6 2 ++ beBytes 2 0x8808 ++ beBytes 2 0x0101 ++ beBytes 2 8 ++ beBytes 6 0 ++ beBytes 2 5
def arpFor (ip : Bytes) : Bytes :=
  List.replicate 6 0xFF ++ beBytes 6 2 ++ beBytes 2 0x0806 ++ beBytes 8 0x0001080006040001 ++ beBytes 6 2 ++ [10, 0, 0, 1] ++ beBytes 6 0 ++ ip
def classIn (f : PortClass → PortClass) : State := portsIn fun p => { p with classes := p.classes.map f }

theorem test_hyps_PortFrames :
    (serving base = true ∧ portUp base 0 = true ∧ beField pfc3 12 2 15 0 = 0x8808 ∧ isPfc pfc3 = true ∧
      beField (pfc3.take 14) 12 2 15 0 = 0x8808 ∧ isPfc (pfc3.take 14) = false ∧ portUp early 0 = false) ∧
    (let s := classIn fun k => { k with pausedTill := some 1000000000 }
     running s = true ∧ (classOf s 7 7).pausedTill = some 1000000000 ∧ 1000000000 ≤ s.now) ∧
    (let s := classIn fun k => { k with pausedTill := some 1000000001, pausedAt := 900000000 }
     (classOf s 7 7).pausedTill = some 1000000001 ∧ s.now < 1000000001 ∧ (classOf s 7 7).stuck = false ∧
      (classOf s 7 7).pausedAt + 100000000 ≤ s.now) ∧
    (let s := classIn fun k => { k with xoff := true, rxCount := 1, nextRepeat := 1000000000 }
     (classOf s 0 0).xoff = true ∧ (confOf s 0).xon * 1024 ≤ (classOf s 0 0).rxCount ∧ (classOf s 0 0).nextRepeat ≤ s.now ∧
      { s with now := 999999999 }.now < (classOf s 0 0).nextRepeat) ∧
    (65535 ≠ 0 ∧ paused base 7 7 = false ∧ base.ports.length = 8 ∧ (portOf base 7).classes.length = 8) ∧
    (base.start.image = some img0 ∧ img0.ipv4 = true ∧ outerOf img0 0 true (arpFor (ipOf img0 5)) = .arp ∧
      beField (ethBody (arpFor (ipOf img0 5))) 0 8 63 0 = 0x0001080006040001 ∧ slice (ethBody (arpFor (ipOf img0 5))) 24 4 = ipOf img0 5 ∧
      slice (ethBody (arpFor [1, 2, 3, 4])) 24 4 ≠ ipOf img0 5) := by decide +kernel

/-- An IPv6 fabric and a Neighbor Solicitation for the adapter's own address there. -/
def img6 : Image := { img0 with ipv4 := false, ipv6Prefix := List.replicate 32 1 }
def base6 : State := withStart base fun x => { x with image := some img6 }
def solicit : Bytes :=
  let src := List.replicate 16 9
  let dst := ipOf img6 5
  let icmp0 := [135, 0, 0, 0, 0, 0, 0, 0] ++ dst
  let sum := inetChecksum (src ++ dst ++ beBytes 4 icmp0.length ++ [0, 0, 0, 58] ++ icmp0)
  let icmp := [135, 0] ++ beBytes 2 sum ++ [0, 0, 0, 0] ++ dst
  portMac 5 0 ++ beBytes 6 2 ++ beBytes 2 0x86DD ++ [0x60, 0, 0, 0] ++ beBytes 2 icmp.length ++ [58, 255] ++ src ++ dst ++ icmp

theorem test_hyps_PortFrames_v6 :
    (base6.start.image = some img6 ∧ serving base6 = true ∧ portUp base6 0 = true ∧ img6.ipv4 = false ∧ outerOf img6 0 true solicit = .neighbor) ∧
    (beField (ethBody solicit) 7 1 7 0 = 255 ∧ 24 ≤ beField (ethBody solicit) 4 2 15 0 ∧
      inetChecksum (slice (ethBody solicit) 8 16 ++ slice (ethBody solicit) 24 16 ++ beBytes 4 (slice (ethBody solicit) 40 24).length ++ [0, 0, 0, 58] ++
        slice (ethBody solicit) 40 (beField (ethBody solicit) 4 2 15 0)) = 0 ∧
      slice (slice (ethBody solicit) 40 (beField (ethBody solicit) 4 2 15 0)) 8 16 = ipOf img6 5) := by decide +kernel

theorem test_hyps_CqCommands :
    (CanStart (withCmd one (ent 0x0210 [])) 0 0x0210 (cmd0 (ent 0x0210 [])) ∧ instRefusal one 1 = none ∧ tcount one.cqs (·.inst == 1) < (quotaOf one 1).cqs ∧
      262143 < (limits one).2.1 ∧ tget one.cqs 262143 = none ∧ locRefusal one 0 0 0 = none ∧ locRefusal one 1 0 0 ≠ none ∧ instRefusal base 1 ≠ none ∧
      (quotaOf (own { inst0 with quota := noQuota }) 1).cqs ≤ tcount one.cqs (·.inst == 1) ∧
      (limits { base with start := { base.start with stackOk := 1 } }).2.1 ≤ 262143 ∧ tget ({ one with cqs := [(0, cq0)] } : State).cqs 0 = some cq0) ∧
    (let s := withCmd { one with cqs := [(0, cq0)] } (ent 0x0211 [])
     mayStart s 0 0x0211 = some (cmd0 (ent 0x0211 [])) ∧ instAhead s (cmd0 (ent 0x0211 [])) = false ∧ cqRefusal s 1 0 = none ∧ cqRefusal s 1 1 ≠ none) ∧
    (let s := withCmd { one with cqs := [(0, cq0)] } (ent 0x0212 [])
     mayStart s 0 0x0212 = some (cmd0 (ent 0x0212 [])) ∧ instAhead s (cmd0 (ent 0x0212 [])) = false ∧ tget s.cqs 0 = some cq0 ∧
      cqBound s 0 = false ∧ cq0.held = []) ∧
    cqBound (withQp (qp0 .ready)) 0 = true := by
  unfold CanStart; decide +kernel

def qpCreateEntry : Entry := ent 0x0200 [(8, 19, 0, 1048575), (28, 17, 0, 0)]
def initEntry : Entry := qent 0x0201 [(12, 2, 0, 1), (22, 13, 0, 8)]
def bindable (q : Qp) : State := withCmd (withKeys (withQp q) [] [(8, sa0)]) initEntry
def planesOf (s : State) : BitVec 4 := match s.start.image with | some i => i.planes | none => 0

theorem test_hyps_QpCommands :
    (let s := { one with adm := { base.adm with cmds := [{ cmd0 (entry 0x0201 [(8, 19, 0, 2)]) with slot := 1, phase := .waiting }, cmd0 (qent 0x0202 [])] } }
     CanStart s 0 0x0202 (cmd0 (qent 0x0202 [])) ∧ earlierRuns s 0 (sameQpn 2) = true) ∧
    (let s := withCmd { one with cqs := [(0, cq0)] } qpCreateEntry
     earlierRuns s 0 (sameQpn 1048575) = false ∧ mayStart s 0 0x0200 = some (cmd0 qpCreateEntry) ∧ instAhead s (cmd0 qpCreateEntry) = false ∧
      qpCreateRefusal s 1 1048575 qpCreateEntry = none ∧ seedReady s = true ∧ qpCreateRefusal (withCmd one qpCreateEntry) 1 1048575 qpCreateEntry ≠ none) ∧
    (let s := withCmd (withStart { one with cqs := [(0, cq0)] } fun x => { x with seeded := false, entropyFailed := true }) qpCreateEntry
     qpCreateRefusal s 1 1048575 qpCreateEntry = none ∧ seedReady s = false ∧ s.start.entropyFailed = true ∧ base.start.entropyFailed = false) ∧
    (let s := withCmd (withQp (qp0 .reset)) (qent 0x0202 [])
     mayStart s 0 0x0202 = some (cmd0 (qent 0x0202 [])) ∧ instAhead s (cmd0 (qent 0x0202 [])) = false ∧ qpRefusal s 1 2 = none ∧ qpRefusal s 1 3 ≠ none ∧
      tget s.qps 2 = some (qp0 .reset)) ∧
    (let s := withCmd (withQp (qp0 .ready)) (qent 0x0203 [])
     mayStart s 0 0x0203 = some (cmd0 (qent 0x0203 [])) ∧ instAhead s (cmd0 (qent 0x0203 [])) = false ∧ qpRefusal s 1 2 = none ∧
      (qp0 .ready).sq.taken = [] ∧ (qp0 .ready).rq.taken = [] ∧ (qp0 .ready).state = .ready ∧ (qp0 .error).state = .error ∧
      { qp0 .error with rq := { ring0 with taken := [taken0 0] } }.rq.taken ≠ []) ∧
    (let s := bindable (qp0 .reset)
     mayStart s 0 0x0201 = some (cmd0 initEntry) ∧ instAhead s (cmd0 initEntry) = false ∧ fld initEntry 12 2 0 = 1 ∧
      earlierRuns s 0 (sameQpn 2) = false ∧ qpRefusal s 1 2 = none ∧ (qp0 .reset).state = .reset ∧ (qp0 .reset).returned = false ∧
      (saOf s 8).any (·.inst == (qp0 .reset).inst) = true ∧ (saOf one 8).any (·.inst == 1) = false ∧
      (planesOf s).getLsbD (planeOf (fld initEntry 16 23 0)) = true ∧ (planesOf s).getLsbD (planeOf 0x430A05) = false ∧
      { qp0 .reset with returned := true }.returned = true ∧ seedReady s = true) ∧
    ((qp0 .init).state = .init ∧ (qp0 .draining).state = .draining ∧ fld (qent 0x0201 [(12, 2, 0, 3)]) 12 2 0 = 3 ∧ fld (qent 0x0201 []) 12 2 0 = 0 ∧
      fld (qent 0x0201 [(12, 2, 0, 2)]) 12 2 0 = 2 ∧ 4 ≤ fld (qent 0x0201 [(12, 2, 0, 4)]) 12 2 0 ∧ (qp0 .error).state ≠ .frozen) := by
  unfold CanStart; decide +kernel

def shake : Handshake := { slot := 0, retryAt := 1000000000, giveUp := 1000000001 }
def conn0 : ConnBody :=
  { srcQpn := 4, srcInst := 3, dstInst := 1, initPsn := 9, reason := 0, major := 1, minor := 0, features := ownFeatures, digest := 0, srcCoord := 6
    txTime := 0, trusted := false, kettles := [] }
def dgram (b : RxBody) : RxDgram :=
  { port := 0, cls := 0, frameLen := 100, src := 6, saId := 8, path := 0, ce := false, arrived := 1000000000, body := b }
def hearing (st : QpState) (h : Option Handshake) (b : CtlBody) : State :=
  { withQp { qp0 st with handshake := h } with rxq := [dgram (.control 2 b)] }

theorem test_hyps_ConnectionHandshake :
    (let s := withCmd (withQp { qp0 .init with handshake := some shake }) (qent 0x0201 [])
     tget s.qps 2 = some { qp0 .init with handshake := some shake } ∧ handshakes s = true ∧ shake.retryAt ≤ s.now ∧ s.now < shake.giveUp ∧
      firmware s = true ∧ admCmd s shake.slot = some (cmd0 (qent 0x0201 [])) ∧ { shake with giveUp := 1000000000 }.giveUp ≤ s.now ∧
      s.now < { shake with retryAt := 1000000001 }.retryAt ∧ handshakes early = false ∧ firmware early = false) ∧
    ((takeRx (hearing .init none (.connReq conn0)) true).isSome = true ∧ handshakes (hearing .init none (.connReq conn0)) = true ∧
      conn0.srcCoord = (dgram (.control 2 (.connReq conn0))).src ∧ fromPeer (dgram (.control 2 (.connReq conn0))) (qp0 .init) conn0 = true ∧
      recordReason (hearing .init none (.connReq conn0)) (qp0 .init) conn0 = none ∧
      recordReason (hearing .init none (.connReq conn0)) (qp0 .init) { conn0 with major := 2 } = some 0x0801 ∧
      fromPeer (dgram (.control 2 (.connReq conn0))) (qp0 .init) { conn0 with srcInst := 9 } = false ∧
      { conn0 with srcCoord := 7 }.srcCoord ≠ (dgram (.control 2 (.connReq conn0))).src ∧
      { qp0 .ready with peerPsn := some 9 }.peerPsn = some conn0.initPsn ∧ (qp0 .error).state ≠ .init) ∧
    ((takeRx (hearing .init (some shake) (.connAccept conn0)) true).isSome = true ∧ { qp0 .init with handshake := some shake }.handshake.isSome = true ∧
      (takeRx (hearing .init none (.connAccept conn0)) true).isSome = true ∧ (qp0 .init).handshake = none ∧
      (takeRx (hearing .init (some shake) (.connRefuse conn0)) true).isSome = true ∧ takeRx base true = none ∧ handshakes early = false ∧
      tget (own inst0).qps 2 = none) ∧
    (conn0.major = 1 ∧ { conn0 with features := 0 }.features.extractLsb' 0 16 ≠ 0x000F ∧ conn0.features.extractLsb' 0 16 = 0x000F ∧
      { conn0 with digest := 1 }.digest ≠ ownDigest base ∧ { conn0 with major := 2 }.major ≠ 1) := by decide +kernel

def mirror0 : Mirror := { maxEntries := 4, timeoutMs := 0, base := 0, entries := [(4096, 0x41)], dirty := [] }
def mapped : State := { one with mirrors := [(1, mirror0)] }
/-- A record that maps 4 KiB of host memory at 8192, and one that is not legal. -/
def rec0 : Bytes := leBytes 8 8192 ++ leBytes 16 0x41 ++ leBytes 8 0
def recBad : Bytes := leBytes 8 8193 ++ leBytes 16 0x41 ++ leBytes 8 0
def updEntry : Entry := ent 0x0301 [(16, 12, 0, 1)]
def updRecs : List (BitVec 256) := updateRecords (slice rec0 0 32)

theorem test_hyps_MirrorCommands :
    (let s := withCmd mapped (ent 0x0300 [])
     mayStart s 0 0x0300 = some (cmd0 (ent 0x0300 [])) ∧ instAhead s (cmd0 (ent 0x0300 [])) = false ∧ instRefusal s 1 = none ∧ instRefusal base 1 ≠ none ∧
      tget s.mirrors 1 = some mirror0 ∧ tget one.mirrors 1 = none ∧ fld (ent 0x0300 [(12, 24, 0, 4)]) 12 24 0 ≤ mirror0.maxEntries ∧
      mirror0.entries.length ≤ fld (ent 0x0300 [(12, 24, 0, 1)]) 12 24 0 ∧ fld (ent 0x0300 []) 12 24 0 < mirror0.entries.length ∧
      mirror0.maxEntries < 5 ∧ freeAt { mapped with mirrors := [] } mirror0.base (32 * 5) = true ∧ mirror0.base + 32 * 5 ≤ reserveBase mapped ∧
      poolUse s 1 - mirrorBytes mirror0 + 32 * 1 ≤ (quotaOf s 1).poolBytes ∧ bit (ent 0x0300 [(8, 0, 0, 1)]) 8 0 = true ∧ bit (ent 0x0300 []) 8 0 = false ∧
      (quotaOf (own { inst0 with quota := noQuota }) 1).poolBytes < poolUse (own { inst0 with quota := noQuota }) 1 - 0 + 32 * 1 ∧
      anyPlace { base with start := { base.start with stackOk := 0 } } (32 * 1) = none) ∧
    (let s := withCmd mapped updEntry
     mayStart s 0 0x0301 = some (cmd0 updEntry) ∧ instAhead s (cmd0 updEntry) = false ∧
      instRefusal s 1 = none ∧ tget one.mirrors 1 = none ∧ (updateRecords (slice recBad 0 32)).all recordLegal = false ∧
      updRecs.all recordLegal = true ∧ updRecs.findSome? (recordRefusal s 1) = none ∧ mirrorAfter s 1 updRecs ≤ mirror0.maxEntries ∧
      { mirror0 with maxEntries := 1 }.maxEntries < mirrorAfter s 1 updRecs ∧
      (updateRecords (leBytes 8 8192 ++ leBytes 16 0x49 ++ leBytes 8 0)).all recordLegal = true ∧
      (updateRecords (leBytes 8 8192 ++ leBytes 16 0x49 ++ leBytes 8 0)).findSome? (recordRefusal s 1) ≠ none) ∧
    (tget mapped.mirrors 1 = some mirror0 ∧ pteValid ((entryOf rec0 : BitVec 256).extractLsb' 64 128) = true ∧
      pteValid ((entryOf (leBytes 8 4096) : BitVec 256).extractLsb' 64 128) = false ∧
      (let r := recordRange (entryOf (leBytes 8 4096))
       overlaps 4096 (pteSize 0x41) r.1 r.2 = true ∧ overlaps 4096 (pteSize 0x41) (recordRange (entryOf rec0)).1 (recordRange (entryOf rec0)).2 = false)) ∧
    (let s := withCmd mapped (ent 0x0302 [(24, 0, 0, 1)])
     mayStart s 0 0x0302 = some (cmd0 (ent 0x0302 [(24, 0, 0, 1)])) ∧ instAhead s (cmd0 (ent 0x0302 [(24, 0, 0, 1)])) = false ∧
      earlierRuns s 0 (mapOrdered 1) = false ∧ instRefusal s 1 = none ∧ (removeRange s 1 0 (2 ^ 57)).2.reads = [] ∧ (removeRange s 1 0 (2 ^ 57)).2.ports = []) ∧
    (let t := { mapped with mirrors := [(1, { mirror0 with dirty := [4096] })] }
     (removeRange t 1 0 (2 ^ 57)).2.ports ≠ []) ∧
    (let s := { mapped with adm := { base.adm with cmds := [{ cmd0 (ent 0x0301 []) with slot := 1, phase := .running }, cmd0 (ent 0x0302 [])] } }
     CanStart s 0 0x0302 (cmd0 (ent 0x0302 [])) ∧ earlierRuns s 0 (mapOrdered 1) = true) := by
  unfold CanStart; decide +kernel

def preq (issued : Bool) : PageReq :=
  { index := 0, inst := 1, page := 4096, write := false, need := .localRead, issued := issued, waited := false, sentAt := 0, limit := 1000, settled := false }
def asking (alloc : Nat) (r : PageReq) : State :=
  { mapped with fns := [(0, { ats := true, pri := true, alloc := alloc, stopped := false, pasid := true, msix := Msix.reset 256 })], pageReqs := [r] }
def wait0 : Waiting :=
  { id := 9, inst := 1, owner := .lookaside 1 0, need := .localRead, va := 4096, len := 1, arose := 0, walked := false, missed := [], again := [], fresh := [], got := [] }
def waitIn (w : Waiting) : State := { asking 1 (preq true) with waits := [w] }
def finds (s : State) (w : Waiting) : List PageFind := (spansOf s w.inst w.va w.len).map (spanFind s w.got w.inst w.need)

theorem test_hyps_Translation :
    (let s := asking 1 (preq false)
     s.pageReqs.find? (fun x => !x.issued && instFn s x.inst == 0) = some (preq false) ∧ serving s = true ∧ s.pm.state ≠ 2 ∧
      (fnOf s 0).pri = true ∧ (fnOf s 0).stopped = false ∧ reqsOut s 0 < min (fnOf s 0).alloc 512) ∧
    min (fnOf (asking 0 (preq false)) 0).alloc 512 ≤ reqsOut (asking 0 (preq false)) 0 ∧
    (asking 1 (preq true)).pageReqs.find? (fun x => !x.issued && instFn (asking 1 (preq true)) x.inst == 0) = none ∧
    (live base = true ∧ { base with ctlReset := true }.ctlReset = true ∧ base.ctlReset = false ∧ live perched = false) ∧
    (let s := asking 1 (preq true)
     s.pageReqs.find? (fun x => x.issued && x.index == 0 && instFn s x.inst == 0) = some (preq true) ∧ (preq true).settled = false ∧
      waitersOn (waitIn { wait0 with walked := true, missed := [4096] }) 1 4096 = [{ wait0 with walked := true, missed := [4096] }] ∧ (tget s.fns 0).isSome = true ∧
      { preq true with settled := true }.settled = true ∧ s.pageReqs.find? (fun x => x.issued && x.index == 7 && instFn s x.inst == 0) = none) ∧
    (let s := { mapped with waits := [wait0] }
     s.waits.find? (fun w => w.id == 9 && !w.walked) = some wait0 ∧ s.waits.find? (fun w => w.id == 8 && !w.walked) = none) := by
  decide +kernel

theorem test_hyps_Translation_ats :
    (let w := { wait0 with walked := true }
     (waitIn w).waits.find? (fun w => w.id == 9 && w.walked && w.missed.isEmpty) = some w ∧ atsPages (finds (waitIn w) w) = [4096] ∧
      (waitIn w).ats.length < 131072 ∧ 4096 ∈ { w with again := [4096] }.again ∧ 4096 ∉ w.again ∧ (fnOf (waitIn w) (instFn (waitIn w) 1)).stopped = false ∧
      base.waits.find? (fun w => w.id == 9 && w.walked && w.missed.isEmpty) = none) ∧
    (let w := { wait0 with walked := true }
     finds mapped w = [.ok { port := 0, addr := 4096, len := 1, ksel := 0, va := 4096, translated := false }] ∧
      finds mapped { w with need := .remoteWrite } = [.denied] ∧ finds base w = [] ∧ w.len ≠ 0 ∧ finds mapped { w with va := 8192 } = [.absent 8192] ∧
      atsPages (finds mapped { w with va := 8192 }) = [] ∧ 8192 ∉ w.again ∧ (fnOf mapped (instFn mapped 1)).stopped = false ∧
      8192 ∈ { w with again := [8192] }.again ∧ finds mapped { w with va := 8192, len := 0 } = []) ∧
    (pteAllows 0x41 .localRead = true ∧ pteAllows 0x41 .remoteWrite = false ∧ pteTarget 0x41 = 0 ∧ pteTarget (0x41 + 8) ≠ 0 ∧ (fnOf mapped (instFn mapped 1)).ats = false) ∧
    (let s := asking 1 (preq true)
     running s = true ∧ reqFor s 1 4096 = some (preq true) ∧ (preq true).issued = true ∧ (preq true).sentAt + (preq true).limit * 1000000 = base.now ∧
      { s with now := 999999999 }.now < (preq true).sentAt + (preq true).limit * 1000000 ∧
      reqFor (asking 1 (preq false)) 1 4096 = some (preq false) ∧ (preq false).waited = false ∧ reqFor s 1 8192 = none ∧ running State.reset = false) ∧
    (let s := mapped
     live s = true ∧ s.drains = [] ∧ (s.reads.filter fun r => (instOfFn s 0 (some 7)).contains r.inst).map (·.id) = [] ∧
      (s.flushes.filter fun f => f.port == 0 && (instOfFn s 0 (some 7)).contains f.inst && f.why == .invalidate).map (·.id) = [] ∧
      instOfFn s 0 (some 7) = [1] ∧ mirror0.dirty = [] ∧ { mirror0 with dirty := [4096] }.dirty.contains 4096 = true ∧ overlaps 4096 (pteSize 0x41) 0 8192 = true) ∧
    (let r : DataRead := { id := 5, inst := 1, owner := .lookaside 1 0, pieces := [{ port := 0, addr := 0, len := 64, ksel := 0, va := 4096, translated := true }] }
     ({ mapped with reads := [r] } : State).reads.filter (fun r => [1].contains r.inst && r.pieces.any fun p => p.translated && overlaps p.va p.len 0 8192) = [r]) := by
  decide +kernel

def regionEntry : Entry := ent 0x0310 [(9, 0, 0, 1), (10, 3, 0, 15), (16, 36, 0, 2 ^ 30)]
def region0 : Region := { inst := 1, num := 0, base := 0, size := 2 ^ 21, big := false, stack := 15 }
def pooled : State := { one with pool := { Pool.reset with regions := [region0] } }
def zero0 : Zeroing := { base := 0, size := 2 ^ 21, inst := 2, num := none, slot := none }
def fwd0 : Forward := { inst := 4, sas := [], coord := 6, newInst := 1, limit := 1000000000, relayed := 0 }

theorem test_hyps_PoolMemory :
    (let s := withCmd one regionEntry
     mayStart s 0 0x0310 = some (cmd0 regionEntry) ∧ instAhead s (cmd0 regionEntry) = false ∧ instRefusal s 1 = none ∧ instRefusal base 1 ≠ none ∧
      poolUse s 1 + fld regionEntry 16 36 0 ≤ (quotaOf s 1).poolBytes ∧ regionOf s 1 0 = none ∧ (∀ z ∈ s.pool.zeroing, z.inst ≠ 1) ∧
      fld regionEntry 10 3 0 = 15 ∧ lowestFree s (fld regionEntry 16 36 0) (2 ^ 30) 0 (reserveBase s) = some 0 ∧ s.pool.regions.length < 4096) ∧
    (lowestFree one (2 ^ 34) (2 ^ 30) (5 * 2 ^ 34) (min (reserveBase one) (6 * 2 ^ 34)) = none ∧ one.start.stackOk.getLsbD 6 = false ∧ (6 : Nat) ≠ 15 ∧
      (regionOf pooled 1 0).isSome = true ∧ 4096 ≤ (List.replicate 4096 (0 : Nat)).length) ∧
    ((quotaOf (own { inst0 with quota := noQuota }) 1).poolBytes < poolUse (own { inst0 with quota := noQuota }) 1 + fld regionEntry 16 36 0) ∧
    (let s := withCmd pooled (ent 0x0311 [])
     mayStart s 0 0x0311 = some (cmd0 (ent 0x0311 [])) ∧ instAhead s (cmd0 (ent 0x0311 [])) = false ∧
      instRefusal s 1 = none ∧ regionOf s 1 0 = some region0 ∧ tget s.mirrors 1 = none ∧ regionOf one 1 0 = none) ∧
    mappedInto { mirror0 with entries := [(4096, BitVec.ofNat 128 (1 + 5 * 8))] } region0.base region0.size = true ∧
    (let s := { withCmd pooled (ent 0x0311 []) with pool := { Pool.reset with zeroing := [{ zero0 with inst := 1, num := some 0, slot := some 0 }] } }
     firmware s = true ∧ s.pool.zeroing.find? (fun z => z.base == 0) = some { zero0 with inst := 1, num := some 0, slot := some 0 } ∧
      admCmd s 0 = some (cmd0 (ent 0x0311 [])) ∧ tget s.insts 1 = some inst0 ∧ inst0.why = none ∧ firmware early = false ∧
      base.pool.zeroing.find? (fun z => z.base == 0) = none) := by
  decide +kernel

theorem test_hyps_PoolMemory_faults :
    (running base = true ∧ base.start.scrubDone = true ∧ base.pm.state ≠ 2 ∧ stackOf base (64 * 268435454) = some 0 ∧
      base.pool.stackOut.getLsbD 0 = false ∧ (268435454 + 1) % 2 ^ 28 ≠ 0 ∧ (268435455 + 1) % 2 ^ 28 = 0 ∧ 64 * 268435454 < reserveBase base ∧
      base.pool.failed.contains 268435454 = false ∧ { base.pool with failed := [268435454] }.failed.contains 268435454 = true ∧
      { base.pool with stackOut := 1 }.stackOut.getLsbD 0 = true ∧ stackOf base (64 * 1610612735) = some 5 ∧ reserveBase base ≤ 64 * 1610612735 ∧
      stackOf base (64 * 1610612736) = none) ∧
    (let old : List (Nat × Nat) := List.replicate 1000 (0, 1)
     1000 < ((old ++ [(0, base.now)]).filter fun (c : Nat × Nat) => c.1 == 0).length ∧ (old.filter fun (c : Nat × Nat) => decide (base.now < c.2 + 3600000000000)) = old ∧
      ¬ 1000 < (old.filter fun (c : Nat × Nat) => c.1 == 0).length ∧ tget base.pool.rateAt 0 = none) ∧
    (tget (withQp (qp0 .ready)).qps 2 = some (qp0 .ready) ∧ qpActive (qp0 .ready) = true ∧ tget (withKeys one [] [(8, sa0)]).cipher.sas 8 = some sa0) ∧
    (ready base = true ∧ 5 < 6 ∧ base.start.stackOk.getLsbD 5 = true ∧ base.pool.stackOut.getLsbD 5 = false) ∧ (live base = true ∧ 4 < 5 ∧ 1 ≤ 4) ∧
    (let s := { base with pool := { Pool.reset with zeroing := [zero0] }, forwards := [fwd0] }
     firmware s = true ∧ s.pool.zeroing.find? (fun z => z.base == 0) = some zero0 ∧ zero0.slot = none ∧ tget s.insts zero0.inst = none ∧ running s = true ∧
      s.forwards.find? (fun f => f.inst == 4 && decide (f.limit ≤ s.now)) = some fwd0 ∧
      ({ s with now := 999999999 } : State).forwards.find? (fun f => f.inst == 4 && decide (f.limit ≤ 999999999)) = none) := by decide +kernel

def ctxEntry : Entry := ent 0x0400 [(8, 7, 0, 255), (12, 8, 0, 1), (14, 8, 0, 1)]
def kettleEntry : Entry := ent 0x0410 [(10, 12, 0, 2), (12, 11, 0, 1)]
def kettle0 : Kettle := { inst := 1, members := [(2, 0), (0, 0)], myRank := 1, epoch := 0, tag := 0 }
def fullCtxs : State := own { inst0 with quota := noQuota }
def laBusy : Inst :=
  { inst0 with laRun := some { slot := 0, entry := entry 1 [(2, 13, 0, 1)], since := 0, seed := false, bad := false, todo := [], bufs := [], made := false
                               outs := [], status := stOk, ports := [], flushes := [] } }

theorem test_hyps_TpeObjects :
    (let s := withCmd { one with cqs := [(0, cq0)] } ctxEntry
     mayStart s 0 0x0400 = some (cmd0 ctxEntry) ∧ instAhead s (cmd0 ctxEntry) = false ∧ instRefusalFrozen s 1 = none ∧ instRefusalFrozen base 1 ≠ none ∧
      ctxSum s 1 (fun _ => 1) < (quotaOf s 1).ctxs ∧ ctxSum s 1 (·.wUnits) + 1 ≤ (quotaOf s 1).wUnits ∧ ctxSum s 1 (·.aUnits) + 1 ≤ (quotaOf s 1).aUnits ∧
      poolUse s 1 + fld ctxEntry 32 36 0 ≤ (quotaOf s 1).poolBytes ∧ tget s.ctxs 255 = none ∧ bit ctxEntry 10 0 = false ∧
      wUnitsUsed s + 1 ≤ 256 ∧ aUnitsUsed s + 1 ≤ 256 ∧ blockRefusal s 1 ctxEntry 16 = none ∧ fld ctxEntry 32 36 0 = 0 ∧
      (quotaOf fullCtxs 1).ctxs ≤ ctxSum fullCtxs 1 (fun _ => 1) ∧ (tget (withCtx (ctx0 .ready [])).ctxs 3).isSome = true ∧
      bit (ent 0x0400 [(10, 0, 0, 1)]) 10 0 = true ∧ tget s.kettles 0 = none ∧ 256 < wUnitsUsed (withCtx { ctx0 .ready [] with wUnits := 256 }) + 1 ∧
      anyPlace { base with start := { base.start with stackOk := 0 } } 4096 = none ∧ blockRefusal (withCmd one ctxEntry) 1 ctxEntry 16 ≠ none) ∧
    (let e := ent 0x0401 [(8, 7, 0, 3)]
     let s := withCmd (withCtx (ctx0 .error [])) e
     mayStart s 0 0x0401 = some (cmd0 e) ∧ instAhead s (cmd0 e) = false ∧ instRefusal s 1 = none ∧ instFrozen s 1 = false ∧ instFrozen cold 1 = true ∧
      tget s.ctxs 3 = some (ctx0 .error []) ∧ (ctx0 .error []).ring.taken = [] ∧ { ring0 with taken := [taken0 0] }.taken ≠ [] ∧ tget one.ctxs 3 = none) ∧
    (let s := withCmd (withQp (qp0 .ready)) kettleEntry
     mayStart s 0 0x0410 = some (cmd0 kettleEntry) ∧ instAhead s (cmd0 kettleEntry) = false ∧ instRefusalFrozen s 1 = none ∧
      tcount s.kettles (·.inst == 1) < (quotaOf s 1).kettles ∧ tget s.kettles 0 = none ∧
      ((memberTable 2 (leBytes 4 2 ++ leBytes 4 0)).mapIdx fun r m => (r, m)).all
        (fun x => x.2.2.2 == 0 && (x.1 != 1 || (x.2.1 == 0 && x.2.2.1 == 0))) = true ∧
      memberRefusal s 1 1 (memberTable 2 (leBytes 4 2 ++ leBytes 4 0)) = none ∧ memberRefusal one 1 1 (memberTable 2 (leBytes 4 2 ++ leBytes 4 0)) ≠ none ∧
      (quotaOf fullCtxs 1).kettles ≤ tcount fullCtxs.kettles (·.inst == 1) ∧
      ((memberTable 2 (leBytes 4 2 ++ leBytes 4 1)).mapIdx fun r m => (r, m)).all
        (fun x => x.2.2.2 == 0 && (x.1 != 1 || (x.2.1 == 0 && x.2.2.1 == 0))) = false) ∧
    (let s := withCmd { one with kettles := [(0, kettle0)] } (ent 0x0411 [])
     mayStart s 0 0x0411 = some (cmd0 (ent 0x0411 [])) ∧ instAhead s (cmd0 (ent 0x0411 [])) = false ∧ kettleRefusal s 1 0 = none ∧ kettleRefusal one 1 0 ≠ none) ∧
    (let m : TpeIn := { rank := 0, num := 0, parts := [(0, [], 1)], got := 0, stop := none, used := [] }
     let c := { ctx0 .error [] with inbox := [m] }
     tget (withCtx c).ctxs 3 = some c ∧ c.state = .error ∧ m ∈ c.inbox ∧ (∀ p ∈ m.parts, p.2.2 = 1) ∧ m.parts ≠ [] ∧ 1 ≠ fld (ent 0x0411 []) 14 15 0) ∧
    (let s := withCmd { one with kettles := [(0, kettle0)] } (ent 0x0412 [])
     mayStart s 0 0x0412 = some (cmd0 (ent 0x0412 [])) ∧ instAhead s (cmd0 (ent 0x0412 [])) = false ∧ kettleRefusal s 1 0 = none ∧
      s.ctxs.any (fun x => x.2.kettle == some 0) = false ∧ (withCtx { ctx0 .ready [] with kettle := some 0 }).ctxs.any (fun x => x.2.kettle == some 0) = true) := by
  decide +kernel

def zeroStep : Entry := entry 0x01 [(8, 31, 0, 4096)]
def sendStep : Entry := entry 0x03 [(4, 19, 0, 2)]
def gemm : Entry := entry 0x06 [(2, 7, 0, 0x33), (16, 15, 0, 3), (18, 15, 0, 2), (20, 15, 0, 1)]
def reduce : Entry := entry 0x05 [(16, 31, 0, 4096), (20, 15, 0, 1000)]
def unmade : TpeRun := { run0 reduce with made := false }
def stepping0 (e : Entry) : Ctx := { ctx0 .ready [] with ring := { ring0 with taken := [taken0 e] } }
def noMeets : Meets := { xts := false, lines := [], words := [] }

theorem test_hyps_TpeSteps_start :
    (let c := stepping0 zeroStep
     let s := withCtx c
     tget s.ctxs 3 = some c ∧ nextStart c.ring = some (taken0 zeroStep) ∧ tpeMayStart s c (taken0 zeroStep) = true ∧ stepLegal s.a1 zeroStep = true ∧
      startFailure s c zeroStep = none ∧ stepLegal false (entry 0x01 []) = false ∧
      tpeMayStart { s with halted := true } c (taken0 zeroStep) = false ∧ nextStart (ctx0 .ready []).ring = none) ∧
    (let far := entry 0x01 [(4, 31, 0, 2 ^ 31), (8, 31, 0, 4096)]
     let c := stepping0 far
     tpeMayStart (withCtx c) c (taken0 far) = true ∧ stepLegal false far = true ∧ startFailure (withCtx c) c far ≠ none ∧
      ((stepSpans far (kettleOf (withCtx c) c)).any fun x => x.1 == 0 && decide (spaceA c < x.2.1 + x.2.2.1)) = true) ∧
    (((stepSpans gemm none).any fun x => x.1 == 1 && decide (spaceW { ctx0 .ready [] with wUnits := 0 } < x.2.1 + x.2.2.1)) = true ∧
      needsKettle reduce = true ∧ kettleOf one (ctx0 .ready []) = none ∧ (stepSpans reduce none).any (beyondSpace (ctx0 .ready [])) = false ∧
      opOf sendStep = 0x03 ∧ isAlt sendStep = false ∧ tget one.qps (fld sendStep 4 19 0) = none) := by
  decide +kernel

theorem test_hyps_TpeSteps_array :
    (let c := ctx0 .ready [run0 gemm]
     let s := withCtx c
     nextTile s 3 = some (0, 0) ∧ serving s = true ∧ s.array.shadow = none ∧ loadTurn s = some 3 ∧ nextTile one 3 = none ∧
      arrayWork s 3 = some (c, run0 gemm) ∧ wtRead { c with wBad := [0] } (fld gemm 12 31 0 + 0 * tileBytes (fmtB gemm)) (tileBytes (fmtB gemm)) = none) ∧
    (let s := { withCtx (ctx0 .ready [run0 gemm]) with array := { current := none, shadow := some (3, 0, 0), last := 3 } }
     arrayTurn s = some 3 ∧ serving s = true ∧ arrayTurn one ≠ some 3 ∧ s.array.shadow ≠ none) ∧
    (let r := { run0 gemm with row := 2 }
     let s := { withCtx (ctx0 .ready [r]) with array := { current := some (3, 0), shadow := some (4, 0, 0), last := 4 } }
     runOf s 3 0 = some r ∧ atBoundary r = false ∧ s.array.current = some (3, 0) ∧ atBoundary (run0 gemm) = true ∧ (4 : Nat) ≠ 3 ∧
      rowsPerStep gemm = 2 ∧ 0 + 2 < fld gemm 16 15 0 ∧ fld gemm 16 15 0 ≤ 2 + 2 ∧
      ((wtRead (ctx0 .ready []) (fld gemm 12 31 0 + 0 * tileBytes (fmtB gemm)) (tileBytes (fmtB gemm))).isSome = true)) ∧
    ((arrayStep { ctx0 .ready [run0 gemm] with wBad := [0] } (run0 gemm)).2.fail ≠ none) := by
  decide +kernel

/-- A step of the array that is not its tile's last leaves the array with the tile. -/
theorem test_hyps_TpeSteps_row : (arrayStep (ctx0 .ready [run0 gemm]) (run0 gemm)).2.row ≠ 0 := by decide +kernel

theorem test_hyps_TpeSteps_complete :
    (let c := ctx0 .ready [run0 zeroStep]
     let s := withCtx c
     let v := underMeets noMeets s fun u => pumpCtx (tpeAdvance (pumpCtx u 3) 3 0) 3
     serving s = true ∧ c.state = .ready ∧ tget s.ctxs 3 = some c ∧ (tget v.ctxs 3).isSome = true ∧ (runOf v 3 0).any (fun r => r.fail.isNone) = true ∧
      (tget v.ctxs 3).any (fun x => (runOf v 3 0).any fun r => stepDone v x r) = true ∧ stepDone s c { run0 zeroStep with made := false } = false ∧
      (runOf v 3 1).isNone = true ∧ (ctx0 .error []).state ≠ .ready ∧ tget s.ctxs 4 = none) ∧
    ((run0 zeroStep).flags &&& BitVec.ofNat 8 (fld zeroStep 3 4 0) = 0 ∧
      { run0 (entry 0x06 [(3, 4, 0, 1)]) with flags := 1 }.flags &&& BitVec.ofNat 8 (fld (entry 0x06 [(3, 4, 0, 1)]) 3 4 0) ≠ 0 ∧
      ((run0 zeroStep).failWith stAborted subStoreEcc).fail = some (stAborted, subStoreEcc) ∧ opOf zeroStep ≠ 0x05) ∧
    (let c := ctx0 .ready [unmade]
     let s := withCtx c
     tget s.ctxs 3 = some c ∧ reduceOf c = some unmade ∧ serving s = true ∧ unmade.started + fld reduce 20 15 0 * 1000000 = s.now ∧ stepDone s c unmade = false ∧
      { s with now := 999999999 }.now < unmade.started + fld reduce 20 15 0 * 1000000 ∧ reduceOf (ctx0 .ready []) = none) := by decide +kernel

theorem test_hyps_KeySlots :
    (let e := ent 0x0500 [(8, 13, 0, 16383), (10, 1, 0, 2), (10, 3, 2, 2)]
     let s := withCmd one e
     mayStart s 0 0x0500 = some (cmd0 e) ∧ instAhead s (cmd0 e) = false ∧ keyLoadRefusal s 1 e = none ∧ fld e 10 3 2 = 2 ∧
      (slice (List.replicate 32 1 ++ List.replicate 32 2) 0 64).take 32 ≠ (slice (List.replicate 32 1 ++ List.replicate 32 2) 0 64).drop 32 ∧
      (slice [] 0 64).take 32 = (slice [] 0 64).drop 32 ∧ instRefusalFrozen base 1 ≠ none) ∧
    (let e := ent 0x0500 [(10, 1, 0, 1), (12, 11, 0, 5)]
     let s := withCmd (withKeys one [(1, { key0 1 with ksel := 5 })] []) e
     instRefusalFrozen s 1 = none ∧ slotUse s 1 1 < slotQuota s 1 1 ∧ tget s.cipher.keys 0 = none ∧ fld e 10 1 0 = 1 ∧
      (1, { key0 1 with ksel := 5 }) ∈ s.cipher.keys ∧ fld e 12 11 0 = 5 ∧ (tget s.cipher.keys 1).isSome = true ∧
      slotQuota fullCtxs 1 1 ≤ slotUse fullCtxs 1 1) ∧
    (let e := ent 0x0501 []
     let s := withCmd one e
     let t := withCmd (withStart one fun x => { x with seeded := false }) e
     mayStart s 0 0x0501 = some (cmd0 e) ∧ instAhead s (cmd0 e) = false ∧ keyLoadRefusal s 1 e = none ∧ seedReady s = true ∧ seedReady t = false ∧
      t.start.entropyFailed = false ∧ mayStart t 0 0x0501 = some (cmd0 e) ∧ instAhead t (cmd0 e) = false ∧ keyLoadRefusal t 1 e = none ∧
      (withStart t fun x => { x with entropyFailed := true }).start.entropyFailed = true) ∧
    (let e := ent 0x0502 [(8, 13, 0, 1)]
     let s := withCmd (withKeys one [(1, key0 2)] []) e
     mayStart s 0 0x0502 = some (cmd0 e) ∧ instAhead s (cmd0 e) = false ∧ instRefusalFrozen s 1 = none ∧ tget s.cipher.keys 1 = some (key0 2) ∧
      (key0 2).inst = 1 ∧ slotServes s 1 = false ∧ kselMapped s (key0 2) = false ∧ laUses s 1 = false ∧ tget one.cipher.keys 1 = none) ∧
    (slotServes (withKeys one [(1, key0 0)] [(8, sa0)]) 1 = true ∧ laUses (own laBusy) 1 = true) := by decide +kernel

theorem test_hyps_Associations :
    (let e := ent 0x0503 [(8, 13, 0, 8), (14, 13, 0, 1), (16, 13, 0, 2)]
     let s := withCmd (withKeys one [(1, key0 0), (2, key0 0)] []) e
     mayStart s 0 0x0503 = some (cmd0 e) ∧ instAhead s (cmd0 e) = false ∧ instRefusalFrozen s 1 = none ∧ saOf s 8 = none ∧
      s.forwards = [] ∧ 8 ∈ { fwd0 with sas := [8] }.sas ∧ saSlotFree s 1 1 = true ∧ saSlotFree s 1 2 = true ∧ saSlotFree s 1 3 = false ∧ 1 ≠ 2 ∧
      fld (ent 0x0503 [(14, 13, 0, 1), (16, 13, 0, 1)]) 14 13 0 = fld (ent 0x0503 [(14, 13, 0, 1), (16, 13, 0, 1)]) 16 13 0) ∧
    (let e := ent 0x0504 [(8, 13, 0, 8), (14, 13, 0, 3), (16, 13, 0, 3)]
     let s := withCmd (withKeys one [(3, key0 0)] [(8, sa0)]) e
     mayStart s 0 0x0504 = some (cmd0 e) ∧ instAhead s (cmd0 e) = false ∧ instRefusalFrozen s 1 = none ∧ saRefusal s 1 8 = none ∧ saRefusal s 1 9 ≠ none ∧
      instRefusalFrozen base 1 ≠ none ∧ saOf s 8 = some sa0 ∧ sa0.inst = 1 ∧ saOf s 9 = none ∧
      saSlotFree s 1 3 = true ∧ bit e 10 0 = false ∧ bit (ent 0x0504 [(10, 0, 0, 1)]) 10 0 = true ∧ sa0.pending = false ∧ sa0.retiring = none ∧
      { sa0 with pending := true }.pending = true ∧ { sa0 with retiring := some 1 }.retiring ≠ none) ∧
    (let e := ent 0x0505 [(8, 13, 0, 8)]
     let s := withCmd (withKeys one [] [(8, sa0)]) e
     mayStart s 0 0x0505 = some (cmd0 e) ∧ instAhead s (cmd0 e) = false ∧ instRefusalFrozen s 1 = none ∧ saRefusal s 1 8 = none ∧ saBound s 8 = false ∧
      saBound (withQp (qp0 .ready)) 8 = true) ∧
    (let a := { sa0 with retiring := some 1000000000 }
     let s := withKeys one [] [(8, a)]
     saOf s 8 = some a ∧ a.retiring = some 1000000000 ∧ running s = true ∧ 1000000000 ≤ s.now ∧ { s with now := 999999999 }.now < 1000000000 ∧
      running State.reset = false) := by decide +kernel

def seeding : State := withStart early fun x => { x with stage := 1 }
def la0 (e : Entry) : State := own { inst0 with la := { ring0 with taken := [taken0 e] } }
def laRun0 : LaRun :=
  { slot := 0, entry := 0, since := 990000000, seed := true, bad := false, todo := [], bufs := [], made := false, outs := [], status := stOk, ports := [], flushes := [] }
def random16 : Entry := entry 3 [(4, 31, 0, 16)]
def gcm16 (flags : Nat) : Entry := entry 1 [(1, 7, 0, flags), (2, 13, 0, 1), (4, 31, 0, 16)]

theorem test_hyps_SeedingAndLookaside :
    (running seeding = true ∧ seeding.start.entropyFailed = false ∧ seeding.start.seeded = false ∧ seeding.cipher.ctxKey = none ∧
      { seeding.cipher with ctxKey := some 1 }.ctxKey ≠ none ∧ seeding.start.entropyRuns < 2 ∧
      (withStart seeding fun x => { x with entropyRuns := 2 }).start.entropyRuns = 2 ∧
      (withStart seeding fun x => { x with entropyFailed := true }).start.entropyFailed = true) ∧
    (running base = true ∧ seedReady base = true ∧ 2 ^ 20 ≤ { base.cipher with generated := 2 ^ 20 }.generated ∧ base.cipher.generated < 2 ^ 20 ∧
      base.now < base.cipher.seededAt + 60000000000 ∧ base.cipher.seededAt + 60000000000 ≤ { base with now := 61000000000 }.now ∧
      seedReady seeding = false) ∧
    (let c := { cmd0 (ent 0x0501 []) with phase := .running, since := 990000000 }
     let s := { withStart base fun x => { x with seeded := false } with adm := { base.adm with cmds := [c] } }
     seedReady s = false ∧ firmware s = true ∧ admCmd s 0 = some c ∧ c.phase = .running ∧ cmdOpcode c = 0x0501 ∧ c.since + 10000000 ≤ s.now ∧
      { s with now := 999999999 }.now < c.since + 10000000 ∧ admCmd base 0 = none) ∧
    (let s := withStart (own { inst0 with laRun := some laRun0 }) fun x => { x with seeded := false }
     running s = true ∧ seedReady s = false ∧ laRunOf s 1 = some laRun0 ∧ laRun0.seed = true ∧ laRun0.since + 10000000 ≤ s.now ∧
      { s with now := 999999999 }.now < laRun0.since + 10000000 ∧ laRunOf one 1 = none) ∧
    (live one = true ∧ pageOpen one 1 = true ∧ pageOpen one 2 = false) ∧
    (laNext one 1 = none ∧ laNext (la0 random16) 1 = some (taken0 random16) ∧ laLegal random16 = true ∧
      laOver random16 = false ∧ laOp random16 = 3 ∧ seedReady (la0 random16) = true ∧ laLegal (entry 0 []) = false ∧
      laOver (entry 3 [(4, 31, 0, 65537)]) = true ∧ laLegal (entry 3 [(4, 31, 0, 65537)]) = true) ∧
    (let s := withStart (la0 random16) fun x => { x with seeded := false, entropyFailed := true }
     seedReady s = false ∧ s.start.entropyFailed = true ∧ (withStart s fun x => { x with entropyFailed := false }).start.entropyFailed = false) ∧
    (let s := withKeys (la0 (gcm16 7)) [(1, { key0 2 with keyLen := 1 })] []
     laLegal (gcm16 3) = true ∧ laLegal (gcm16 5) = true ∧ laOver (gcm16 3) = false ∧ laOp (gcm16 3) ≠ 3 ∧ laKeyOk (la0 (gcm16 3)) 1 (gcm16 3) = false ∧
      laKeyOk s 1 (gcm16 3) = true ∧ laWraps (gcm16 3) = false ∧ laWraps (gcm16 5) = true ∧ s.cipher.ctxKey = none) := by decide +kernel

/-- A request that continues from a wrapped state that does not open writes nothing; a whole one writes. -/
theorem test_hyps_SeedingAndLookaside_done :
    (let r := { laRun0 with entry := gcm16 3, seed := false, bufs := [(0, List.replicate 64 0), (1, List.replicate 16 0), (2, [])] }
     let s := withKeys (la0 (gcm16 3)) [(1, { key0 2 with keyLen := 0 })] []
     r.bad = false ∧ { r with bad := true }.bad = true ∧ (laDone s 1 r.entry r).outs ≠ [] ∧ (laDone s 1 (gcm16 6) r).outs = []) := by decide +kernel

def rated (e : Entry) (s : State) : State := withCmd s e
def unhealthy (p : Path) : Dest := { dest0 with paths := (List.range 256).map fun n => (n, p) }
def down0 : Path := { health := .down, losses := [], holdUs := 1000, holdEnd := 1000000000, probe := none, cause := none, prev := .healthy }

theorem test_hyps_PathsAndRates :
    (let e := entry 0x0600 [(12, 2, 2, 1)]
     let s := withCmd base e
     mayStart s 0 0x0600 = some (cmd0 e) ∧ instAhead s (cmd0 e) = false ∧ bit e 12 2 = true ∧ fld e 12 1 0 = 0) ∧
    (let e := entry 0x0600 [(8, 23, 0, 6), (12, 1, 0, 2)]
     let s := withCmd base e
     mayStart s 0 0x0600 = some (cmd0 e) ∧ instAhead s (cmd0 e) = false ∧ bit e 12 2 = false ∧
      ((img s).elim 0 (·.planes)).getLsbD (planeOf 6) = true ∧ 6 ≠ ownCoord s ∧ ownCoord s = 5 ∧ s.pathConf.length < 65536 ∧ fld e 12 1 0 = 2 ∧
      fld (entry 0x0600 [(12, 1, 0, 1)]) 12 1 0 = 1 ∧ ((img s).elim 0 (·.planes)).getLsbD (planeOf (2 ^ 22)) = false ∧ tget s.pathConf 6 = none) ∧
    (let s := { base with dests := [(6, unhealthy down0)] }
     tget s.dests 6 = some (unhealthy down0) ∧ ((List.range 256).filter (configured (pathConfOf s 6))).all
        (fun p => (pathOf s (unhealthy down0) p).health != .healthy) = true ∧ (unhealthy down0).exhausted = false ∧
      ((List.range 256).filter (configured (pathConfOf s 6))).any (fun p => (pathOf s dest0 p).health == .healthy) = true ∧
      { dest0 with exhausted := true }.exhausted = true) ∧
    (let s := withCmd base (entry 0x0601 [])
     mayStart s 0 0x0601 = some (cmd0 (entry 0x0601 [])) ∧ instAhead s (cmd0 (entry 0x0601 [])) = false) ∧
    (let s := withCmd one (ent 0x0610 [])
     mayStart s 0 0x0610 = some (cmd0 (ent 0x0610 [])) ∧ instAhead s (cmd0 (ent 0x0610 [])) = false ∧ instRefusalFrozen s 1 = none ∧
      instRefusalFrozen base 1 ≠ none ∧ bit (ent 0x0610 [(8, 3, 3, 1)]) 8 3 = true ∧ bit (ent 0x0610 []) 8 3 = false) ∧
    (let e := entry 0x0611 [(12, 15, 0, 4096)]
     let s := withCmd base e
     mayStart s 0 0x0611 = some (cmd0 e) ∧ instAhead s (cmd0 e) = false ∧
      ((s.classes.set 0 (confOf s 1)).map (·.reserve)).sum * (s.ports.filter fun p => p.state != .disabled).length ≤ 32768 ∧
      32768 < ((s.classes.set 0 { confOf s 0 with reserve := 4096 }).map (·.reserve)).sum * (s.ports.filter fun p => p.state != .disabled).length) := by
  decide +kernel

def gateEntry : Entry := entry 0x0612 [(10, 8, 0, 1), (16, 63, 0, 10000)]
def gateBytes : Bytes := leBytes 4 8 ++ leBytes 4 0xFF
def gate0 : GateList := { entries := [(8, 0xFF)], takeover := 0, guardNs := 0 }
def gated (r p : Option GateList) : State :=
  withTime { base with ports := base.ports.map fun x => { x with running := r, pendList := p } } fun t => { t with state := .locked, trusted := true }

theorem test_hyps_GateLists :
    (let s := withCmd (gated none none) gateEntry
     (portOf s 0).state ≠ .disabled ∧ earlierRuns s 0 (samePort 0) = false ∧ mayStart s 0 0x0612 = some (cmd0 gateEntry) ∧
      instAhead s (cmd0 gateEntry) = false ∧ s.time.state ≠ .unset ∧ (portOf State.reset 0).state = .disabled ∧
      (∀ x ∈ gateEntries (fld gateEntry 10 8 0) gateBytes, 8 ≤ x.1 ∧ x.1 ≤ 1000000000 ∧ x.2.2 = 0) ∧
      s.time.dev.toNat + 10000 ≤ fld gateEntry 16 63 0 ∧ fld (entry 0x0612 [(16, 63, 0, 9999)]) 16 63 0 < s.time.dev.toNat + 10000 ∧
      (¬∀ x ∈ gateEntries 1 [], 8 ≤ x.1 ∧ x.1 ≤ 1000000000 ∧ x.2.2 = 0) ∧ base.time.state = .unset) ∧
    (let s := { gated none none with adm := { base.adm with cmds := [{ cmd0 gateEntry with slot := 1, phase := .waiting }, cmd0 gateEntry] } }
     mayStart s 0 0x0612 = some (cmd0 gateEntry) ∧ instAhead s (cmd0 gateEntry) = false ∧ earlierRuns s 0 (samePort 0) = true) ∧
    (let s := withCmd (gated (some gate0) (some { gate0 with takeover := 1 })) (entry 0x0614 [])
     let t := gateTakeoversDue s
     mayStart s 0 0x0614 = some (cmd0 (entry 0x0614 [])) ∧ instAhead s (cmd0 (entry 0x0614 [])) = false ∧ earlierRuns s 0 (samePort 0) = false ∧
      bit (entry 0x0614 [(9, 0, 0, 1)]) 9 0 = true ∧ bit (entry 0x0614 []) 9 0 = false ∧ (portOf t 0).running ≠ none ∧ (portOf t 0).pendList ≠ none ∧
      (portOf (gateTakeoversDue (gated none none)) 0).pendList = none ∧ (portOf (gateTakeoversDue (gated none none)) 0).running = none) ∧
    (let s := withCmd base (entry 0x0613 [])
     mayStart s 0 0x0613 = some (cmd0 (entry 0x0613 [])) ∧ instAhead s (cmd0 (entry 0x0613 [])) = false) := by decide +kernel

theorem test_hyps_GateTakeover :
    (let s := gated (some gate0) (some { gate0 with takeover := 1 })
     s.ports[0]? = some (portOf s 0) ∧ (portOf s 0).pendList = some { gate0 with takeover := 1 } ∧ s.time.dev.toNat < 1 ∧
      (portOf s 0).running = some gate0 ∧ gateApplied s (portOf s 0) = true ∧ s.time.trusted = true ∧ 0 < 1 ∧ 1 ≤ 1) ∧
    (let s := gated (some gate0) (some gate0)
     (portOf s 0).pendList = some gate0 ∧ live s = true ∧ gate0.takeover ≤ s.time.dev.toNat ∧ s.time.trusted = true ∧ live perched = false) ∧
    (let s := withCmd (gated (some gate0) (some { gate0 with takeover := 1 })) gateEntry
     CanStart s 0 0x0612 (cmd0 gateEntry) ∧ fld gateEntry 8 2 0 = 0 ∧ (portOf s 0).state ≠ .disabled ∧
      earlierRuns s 0 (samePort 0) = false ∧ s.time.dev.toNat < 1 ∧ s.time.state ≠ .unset ∧ s.time.dev.toNat + 10000 ≤ fld gateEntry 16 63 0 ∧
      (∀ x ∈ gateEntries (fld gateEntry 10 8 0) gateBytes, 8 ≤ x.1 ∧ x.1 ≤ 1000000000 ∧ x.2.2 = 0)) ∧
    base.ports[8]? = none ∧ (portOf base 0).pendList = none := by
  unfold CanStart; decide +kernel

def train0 : Train := { coord := 6, saId := 8, tc := 0, opened := 999999980, last := false, cells := [] }
def work0 : SqWork :=
  { slot := 0, op := 3, cell := false, length := 64, va := 0, remote := 0, notify := 0, tag := some 0, placed := [], unacked := [], due := some 1000000000
    used := [], repeats := 0, cut := false, decided := false, req := some (pkt0 3 100), failMark := 0, ports := [], tpe := none }

theorem test_hyps_SendingTimers :
    (let s := { base with trains := [train0] }
     serving s = true ∧ (s.trains.find? fun x => x.coord == 6 && x.saId == 8 && x.tc == 0) = some train0 ∧
      train0.opened + 20 ≤ s.now ∧ { s with now := 999999999 }.now < train0.opened + 20 ∧
      (s.trains.find? fun x => x.coord == 6 && x.saId == 8 && x.tc == 1) = none) ∧
    (let s := { base with limiters := [(limiterKey 1 0, { rate := 1, burst := 1, tat := 0, slot := some (256 * 1000000000, 2, 11), robin := 0 })] }
     (limiterOf s 1 0).slot = some (256 * 1000000000, 2, 11) ∧ (256 * 1000000000 + 511) / 512 * 2 ≤ s.now ∧
      s.now < (256 * 1000000000 + 1 + 511) / 512 * 2 ∧ (limiterOf base 1 0).slot = none) ∧
    (let q := { qp0 .ready with resendAt := some (1000000000, 100) }
     serving (withQp q) = true ∧ tget (withQp q).qps 2 = some q ∧ q.resendAt = some (1000000000, 100) ∧ 1000000000 ≤ (withQp q).now ∧ q.state ≠ .frozen ∧
      { withQp q with now := 999999999 }.now < 1000000000 ∧ (qp0 .ready).resendAt = none) ∧
    (let s := { base with dests := [(6, { dest0 with paths := [(3, down0)] })] }
     tget s.dests 6 = some { dest0 with paths := [(3, down0)] } ∧ (pathOf s { dest0 with paths := [(3, down0)] } 3).health = .down ∧ running s = true ∧
      (pathOf s { dest0 with paths := [(3, down0)] } 3).holdEnd ≤ s.now ∧ { s with now := 999999999 }.now < down0.holdEnd ∧ tget base.dests 6 = none) ∧
    (let q := { qp0 .ready with tx := [tx0 .wire] }
     let s := { withQp q with dests := [(6, dest0)] }
     tget s.qps 2 = some q ∧ txOf s 2 11 = some (tx0 .wire) ∧ (tx0 .wire).stage = .wire ∧ (tx0 .wire).deadline = some 1000000000 ∧ serving s = true ∧
      s.pm.state ≠ 2 ∧ q.state ≠ .frozen ∧ 1000000000 ≤ s.now ∧ { s with now := 999999999 }.now < 1000000000 ∧ tget s.dests 6 = some dest0 ∧
      (tx0 .wire).repeats < s.cong.maxRepeats ∧ txOf s 2 12 = none ∧ { tx0 .wire with deadline := none }.deadline = none) := by decide +kernel

theorem test_hyps_SendingTimers_reads :
    (let q := { qp0 .ready with work := [work0] }
     let s := { withQp q with dests := [(6, dest0)] }
     tget s.qps 2 = some q ∧ (q.work.find? fun w => w.slot == 0 && w.op == 3 && !w.decided) = some work0 ∧ work0.req = some (pkt0 3 100) ∧
      q.tx.find? (fun t => t.numbered && t.pkt.psn == 100) = none ∧ serving s = true ∧ qpActive q = true ∧ work0.due = some 1000000000 ∧ 1000000000 ≤ s.now ∧
      placedBytes work0 ≠ work0.length ∧ work0.repeats < s.cong.maxRepeats ∧ s.cong.maxRepeats ≤ { work0 with repeats := s.cong.maxRepeats }.repeats ∧
      { s with now := 999999999 }.now < 1000000000 ∧ tget base.qps 2 = none) ∧
    (let q := { qp0 .ready with work := [work0], tx := [tx0 .paced] }
     q.tx.find? (fun t => t.numbered && t.pkt.psn == 100) = some (tx0 .paced) ∧ (tx0 .paced).stage ≠ .queued ∧ (tx0 .paced).stage ≠ .wire) := by decide +kernel

def frame0 : TxFrame := { bytes := List.replicate 64 0, pkts := [] }
def queued0 : State :=
  { base with ports := base.ports.map fun p => { p with classes := p.classes.map fun k => { k with queue := [frame0] } } }
def dg (id : Nat) (b : TxBody) : TxDgram := { id := id, coord := 6, saId := 8, tc := 0, path := none, body := b, src := none }
def ackBody0 : AckBody := { nak := false, resend := false, cum := 0, trigger := 0, holdNs := 0, ce := 0, nakPsn := 0, nakStatus := 0, nakSub := 0, sack := [] }
def sending (b : TxBody) : State :=
  hopped { withKeys (withQp { qp0 .ready with tx := [tx0 .offered] }) [(1, key0 0)] [(8, sa0)] with dests := [(6, dest0)], txq := [dg 5 b] }
def sealedOk (r : State × Sealed) : Bool := match r.2 with | .ok _ => true | _ => false

theorem test_hyps_Transmission :
    (let l : Limiter := { rate := 1000, burst := 1, tat := 256 * 1000000001, slot := none, robin := 2 }
     let s := { withQp { qp0 .ready with tx := [tx0 .paced] } with limiters := [(limiterKey 1 0, l)] }
     limiterOf s 1 0 = l ∧ l.slot = none ∧ pacedQps s 1 0 l.robin = [2] ∧ (tget s.qps 2).bind pacedOf = some (tx0 .paced) ∧ (tx0 .paced).id = 11 ∧ 0 < l.rate ∧
      { l with rate := 0 }.rate = 0) ∧
    (base.txq.find? (fun d => d.id == 5) = none ∧ { base with txq := [dg 5 (.train [])] }.txq.find? (fun d => d.id == 5) = some (dg 5 (.train [])) ∧
      serving base = true ∧ base.pm.state ≠ 2 ∧ saOf base 8 = none ∧ saOf (withKeys base [] [(8, sa0)]) 8 ≠ none ∧
      (dg 5 (.control 2 4 (.ack ackBody0))).body = .control 2 4 (.ack ackBody0) ∧ (∀ p ∈ [(dg 5 (.train [])).body], p = .train []) ∧
      dgramPkts base (.train []) = []) ∧
    ((portOf State.reset 0).state ≠ .up ∧ base.now < (portOf (portsIn fun p => { p with busyTill := 1000000001 }) 0).busyTill) ∧
    (let s := portsIn fun p => { p with ctl := [frame0.bytes] }
     serving s = true ∧ (portOf s 0).state = .up ∧ (portOf s 0).busyTill ≤ s.now ∧ (portOf s 0).ctl = [frame0.bytes] ∧ (portOf queued0 0).ctl = []) ∧
    (queued0.pm.state ≠ 2 ∧ (arbitrate queued0 0).isSome = true ∧ (classOf queued0 0 0).queue = [frame0] ∧ (arbitrate base 0).isNone = true ∧
      (let s := { queued0 with classes := base.classes.map fun c => { c with strict := true } }
       (arbitrate s 0).isSome = true ∧ 6 < 7 ∧ (confOf s 7).strict = true ∧ (confOf s 6).strict = true)) ∧
    (let q := { qp0 .ready with tx := [tx0 .queued] }
     tget (withQp q).qps 2 = some q ∧ txOf (withQp q) 2 11 = some (tx0 .queued) ∧ (tx0 .queued).stage = .queued ∧ { tx0 .queued with held := true }.held = true) := by
  decide +kernel

theorem test_hyps_Transmission_sealed :
    (let s := sending (.kite 2 11)
     let d := dg 5 (.kite 2 11)
     let u := exhaustCheck s 6
     let ok := sendable u dest0 (dgramPkts s d.body) 0 [] []
     dgramPkts s d.body ≠ [] ∧ ensureDest s 6 = some s ∧ saOf s 8 = some sa0 ∧ tget u.dests 6 = some dest0 ∧ ok ≠ [] ∧ sealSpent sa0 = false ∧
      sealSpent { sa0 with dead := true } = true ∧ sealSpent { sa0 with limit := 5 } = true ∧ sealSpent { sa0 with limit := 6 } = false ∧
      ((choosePath u 6 0 (64 + (ok.map fun c => c.2.pkt.payload.length).sum) []).any fun p => !p.2) = true ∧
      choosePath { u with ports := base.ports } 6 0 64 [] = none ∧
      sealedOk (sealUnder u 8 sa0 2 0 (partsOf (ok.map fun c => c.2.pkt)) 0) = true ∧ sealedOk (sealUnder u 8 sa0 2 0 (partsOf (ok.map fun c => c.2.pkt)) 2) = false) ∧
    (let s := sending (.control 2 4 (.ack ackBody0))
     ensureDest s 6 = some s ∧ (chooseCtlPath (exhaustCheck s 6) 6 0 64 (some 0)) = some 0 ∧
      chooseCtlPath { s with ports := base.ports } 6 0 64 none = none) := by decide +kernel

def bellPage (r : Ring) : State := withQp { qp0 .ready with sq := r }
def slotTaken : Taken := taken0 (entry 1 [(60, 0, 0, 1)])

theorem test_hyps_Rings :
    (live (bellPage ring0) = true ∧ pageOpen (bellPage ring0) 1 = true ∧ ringInst (bellPage ring0) .sq 2 = 1 ∧
      getRing (bellPage ring0) .sq 2 = some ring0 ∧ getRing one .sq 2 = none ∧ pageOpen base 1 = false ∧ { ring0 with state := .disabled }.state = .disabled ∧
      { ring0 with state := .recalling }.state = .recalling ∧ ring0.state = .enabled ∧ { ring0 with reading := some 0 }.reading ≠ none ∧
      getRing one .lookaside 1 = some ring0 ∧ ringInst one .lookaside 1 = 1 ∧ getRing (withCtx (ctx0 .ready [])) .tpe 3 = some ring0) ∧
    (ring0.reading = none ∧ serving (bellPage ring0) = true ∧ (bellPage ring0).pm.state ≠ 2 ∧ (cached ring0).length < 16 ∧
      ring0.taken.length < 2 ^ ring0.log2 ∧ ring0.taken.any (fun t => t.slot == ring0.head) = false ∧ instFrozen (bellPage ring0) 1 = false ∧
      locUp (bellPage ring0) ring0.loc = true ∧ locUp (bellPage ring0) 1 = false ∧
      (cached { ring0 with log2 := 5, taken := (List.range 16).map fun n => { taken0 0 with slot := n } }).length = 16) ∧
    (let r := { ring0 with reading := some 15 }
     let s := bellPage r
     getRing s .sq 2 = some r ∧ r.reading = some 15 ∧ live s = true ∧ locUp s r.loc = true ∧ r.recallAt = none ∧ r.state = .enabled ∧
      instFrozen s (ringInst s .sq 2) = false ∧ { r with state := .recalling, recallAt := some (15, 1) }.recallAt = some (15, 1) ∧
      ¬(r.recallAt ≠ none ∧ r.state = .recalling) ∧ { r with state := .disabled }.state ≠ .enabled) ∧
    (bit (entry 1 [(63, 7, 7, 1)]) 63 7 = true ∧ bit (entry 1 []) 63 7 = false ∧ 3 ≠ 4 ∧
      instFrozen { cold with cqs := [(0, cq0)], qps := [(2, qp0 .frozen)] } 1 = true ∧ live perched = false) := by decide +kernel

def sqWith (e : Entry) : Qp := { qp0 .ready with sq := { ring0 with taken := [taken0 e] } }
def long1 : Entry := entry 1 [(4, 31, 0, 1)]
def sqMay (e : Entry) : Bool := sqMayStart (withQp (sqWith e)) (sqWith e) (taken0 e)

theorem test_hyps_SqEntryStart :
    (tget base.qps 2 = none ∧ nextStart (qp0 .ready).sq = none ∧ tget (withQp (sqWith (entry 4 []))).qps 2 = some (sqWith (entry 4 [])) ∧
      nextStart (sqWith (entry 4 [])).sq = some (taken0 (entry 4 [])) ∧ sqMay (entry 4 []) = true ∧
      sqMayStart (withQp (qp0 .init)) (qp0 .init) (taken0 0) = false) ∧
    (sqMay (entry 5 []) = true ∧ sendLegal (entry 5 []) = false ∧ sendLegal (entry 4 []) = true ∧ overLength (entry 4 []) = false ∧
      fld (entry 4 []) 0 7 0 = 4 ∧ sqMay (entry 1 [(4, 31, 0, 1073741825)]) = true ∧
      sendLegal (entry 1 [(4, 31, 0, 1073741825)]) = true ∧ overLength (entry 1 [(4, 31, 0, 1073741825)]) = true ∧
      overLength (entry 1 [(4, 31, 0, 1073741824)]) = false ∧ fld (entry 1 []) 4 31 0 = 0 ∧ fld (entry 1 []) 0 7 0 ≠ 2) ∧
    (sendLegal (entry 3 [(4, 31, 0, 1)]) = true ∧ fld (entry 3 [(4, 31, 0, 1)]) 0 7 0 = 3 ∧ fld long1 4 31 0 ≠ 0 ∧
      fld long1 0 7 0 = 1 ∧ fld (entry 2 []) 0 7 0 = 2 ∧ fld (entry 2 []) 4 31 0 = 0 ∧ sqMay long1 = true ∧ sendLegal long1 = true ∧
      (workOf 0 (entry 2 [])).op = 2) := by decide +kernel

theorem test_hyps_HandBack :
    (let q := sqWith (entry 1 [])
     getRing (withQp q) .sq 2 = some q.sq ∧ q.sq.strike = false ∧ q.sq.memDead = false ∧ locMuted (withQp q) (ringInst (withQp q) .sq 2) q.sq.loc = false ∧
      wantsReport .sq (taken0 (entry 1 [])) { status := stOk, sub := 0, bytes := 0, notify := 0 } = false ∧
      wantsReport .sq (taken0 (entry 1 [(60, 0, 0, 1)])) { status := stOk, sub := 0, bytes := 0, notify := 0 } = true ∧
      { q.sq with strike := true }.strike = true ∧ tget (withQp q).cqs q.sq.cqn = some cq0 ∧ cq0.error = false) ∧
    getRing one .lookaside 1 = some ring0 ∧ locMuted one (ringInst one .lookaside 1) ring0.loc = false ∧ bit (entry 1 []) 60 0 = false ∧
    bit (entry 1 [(60, 0, 0, 1)]) 60 0 = true ∧ stAborted ≠ stOk := by decide +kernel

theorem test_hyps_CqReturn :
    tget (withQp (qp0 .ready)).cqs 0 = some cq0 ∧ live (withQp (qp0 .ready)) = true ∧ pageOpen (withQp (qp0 .ready)) cq0.inst = true ∧
    { cq0 with free := 15 }.free + 1 ≤ 2 ^ cq0.log2 ∧ 2 ^ cq0.log2 < cq0.free + 1 := by decide +kernel

def report0 : Report := mkReport .sq 2 (taken0 0) { status := stOk, sub := 0, bytes := 0, notify := 0 }
def cqState (c : Cq) : State := { one with cqs := [(0, c)] }

theorem test_hyps_CompletionQueues :
    (2 ≠ cq0.inst ∧ pageOpen (withQp (qp0 .ready)) cq0.inst = true ∧ tget one.cqs 0 = none ∧ live perched = false ∧ running State.reset = false) ∧
    (let c := { cq0 with armed := true, modTime := 1, modCount := 2, pending := [999999000] }
     tget (cqState c).cqs 0 = some c ∧ live (cqState c) = true ∧ running (cqState c) = true ∧ c.armed = true ∧ c.intEn = true ∧ c.modTime ≠ 0 ∧
      999999000 + 1000 * c.modTime ≤ one.now ∧ { one with now := 999999999 }.now < 999999000 + 1000 * c.modTime ∧ c.pending.length < c.modCount ∧
      c.loc = 0 ∧ { c with loc := 1 }.loc ≠ 0 ∧ { c with modCount := 1 }.modCount ≤ c.pending.length ∧ { c with armed := false }.armed = false) ∧
    (let c := { cq0 with held := [(report0, 999000000)] }
     tget (cqState c).cqs 0 = some c ∧ c.held = [(report0, 999000000)] ∧ c.stall = false ∧ 999000000 + 1000000 ≤ one.now ∧
      { one with now := 999999999 }.now < 999000000 + 1000000 ∧ { c with intEn := false }.intEn = false ∧ c.error = false ∧ { c with error := true }.error = true ∧
      cqOpen (cqState c) c = true ∧ cqOpen (cqState c) { c with free := 0 } = false ∧ c.strike = false ∧ { c with strike := true }.strike = true ∧
      cq0.held = [] ∧ cqOpen (cqState cq0) cq0 = true) ∧
    (63 : Nat) < 64 := by decide +kernel

def recallable (r : Ring) : State :=
  { withQp { qp0 .ready with sq := r } with pages := [(1, { Page.reset with recallRing := 2 })] }

theorem test_hyps_RecallFirst :
    (live one = true ∧ live perched = false ∧ pageOpen base 1 = false ∧ recallTarget one 1 = none ∧ recallTarget (recallable ring0) 1 = some (.sq, 2) ∧
      pageOpen (recallable ring0) 1 = true ∧ (pageOf (recallable ring0) 1).busy = false ∧ getRing (recallable ring0) .sq 2 = some ring0 ∧
      { Page.reset with busy := true }.busy = true ∧ { ring0 with state := .disabled }.state ≠ .enabled ∧ ring0.state = .enabled) ∧
    (let s := { recallable ring0 with insts := [(1, { inst0 with state := .frozen })] }
     pageOpen s 1 = true ∧ instFrozen s 1 = true ∧ recallTarget s 1 = some (.sq, 2) ∧ instFrozen (recallable ring0) 1 = false) ∧
    (let r := { ring0 with taken := [taken0 0, { taken0 0 with slot := 1, started := true }] }
     getRing (recallable r) .sq 2 = some r ∧ r.memDead = false ∧ r.taken.find? (fun t => t.slot == 0) = some (taken0 0) ∧ (taken0 0).started = false ∧
      (taken0 0).outcome = none ∧ locUp (recallable r) r.loc = true ∧ locUp (recallable r) 1 = false ∧
      r.taken.find? (fun t => t.slot == 1) = some { taken0 0 with slot := 1, started := true } ∧ r.taken.find? (fun t => t.slot == 2) = none ∧
      r.reading = none ∧ { r with reading := some 2 }.reading ≠ none ∧ 15 < 2 ^ r.log2 ∧ 2 ^ r.log2 ≤ 16) := by decide +kernel

def read0 : DataRead := { id := 9, inst := 1, owner := .lookaside 1 0, pieces := [] }
def readA : DataRead := { read0 with pieces := [{ port := 4, addr := 0, len := 64, ksel := 0, va := 0, translated := false }] }
def flush0 : Flush := { id := 9, port := 0, inst := 1, why := .handBack .sq 2 0 }
def drain0 : Drain := { slot := some 0, tag := 0, removed := 3, reads := [9], flushes := [] }

theorem test_hyps_ReadsComplete :
    (live one = true ∧ live perched = false ∧ { one with reads := [read0] }.reads.find? (fun r => r.id == 9) = some read0 ∧
      one.reads.find? (fun r => r.id == 9) = none ∧ read0.pieces = [] ∧ { one with reads := [readA] }.reads.find? (fun r => r.id == 9) = some readA ∧
      (readA.pieces.any fun p => p.port != 0 && p.port != 5 && !aLinkUp one (p.port - 1)) = true ∧
      { one with flushes := [flush0] }.flushes.find? (fun f => f.id == 9) = some flush0 ∧ one.flushes.find? (fun f => f.id == 9) = none) ∧
    (drainsOnly flush0 = false ∧ drainsOnly { flush0 with why := .invalidate } = true ∧ flush0.port = 0 ∧ { flush0 with port := 4 }.port ≠ 0 ∧ aLinkUp one 3 = false) ∧
    (let q := { qp0 .ready with sq := { ring0 with taken := [{ taken0 (entry 1 []) with gate := [9] }] } }
     flush0.why = .handBack .sq 2 0 ∧ getRing (withQp q) .sq 2 = some q.sq ∧ { flush0 with why := .ack 2 }.why = .ack 2 ∧ tget (withQp q).cqs 0 = some cq0) ∧
    (let r := { laRun0 with made := true, flushes := [9] }
     laRunOf (own { inst0 with laRun := some r }) 1 = some r ∧ r.made = true ∧ r.outs = [] ∧ (∀ x ∈ r.flushes, x = flush0.id) ∧
      { r with made := false }.made = false) ∧
    (let s := { one with drains := [drain0] }
     s.drains = [drain0] ∧ (∀ r ∈ s.insts, 9 ∉ r.2.drains) ∧ drain0.reads.filter (fun x => !(x == 9)) = [] ∧ s.ctlReset = false ∧ drain0.slot = some 0 ∧
      { drain0 with slot := none }.slot = none ∧ { drain0 with reads := [8] }.reads.filter (fun x => !(x == 9)) ≠ []) := by decide +kernel

/-! ### The way in -/

def sealed : State := withKeys base [(1, key0 1), (2, key0 1)] [(8, sa0)]
/-- The sealed datagram of an ACK body to queue pair 2, from coordinate 6, and its frame as it reaches port 0 of coordinate 5. -/
def sealedAck (seq : Nat) : Bytes := sealDatagram (List.replicate 16 1) (envelope 3 0 (spiOf 8 false) seq) [(ctlBytes 2 (.ack ackBody0), [])]
def frameOf (u : Bytes) : Bytes := frameWith img0 6 0 (portMac 5 0) 0 0 0xC000 5 u
def urosh0 (u : Bytes) : Outer := .urosh (ipOf img0 6) none 0 0 0xC000 u
def ackParts (u : Bytes) : Option Parts :=
  openDatagram (slotKey sealed 2) (u.take 16) (splitBody (beField u 0 1 3 0) (beField u 1 1 7 0) ((u.drop 16).take (u.length - 32))) (u.drop (u.length - 16))
def rx0 : RxPhase := { slot := 2, high := 70000, seen := [70000] }
def sealedConn : Bytes := sealDatagram (List.replicate 16 1) (envelope 3 0 (spiOf 8 false) 70001) [(ctlBytes 2 (.connReq conn0), [])]
def illegalBody : Bytes := sealDatagram (List.replicate 16 1) (envelope 3 0 (spiOf 8 false) 70001) [(List.replicate 32 0, [])]

theorem test_hyps_FrameReceived :
    (sealed.start.image = some img0 ∧ running sealed = true ∧ portUp sealed 0 = true ∧ beField (frameOf (sealedAck 70001)) 12 2 15 0 ≠ 0x8808 ∧
      portUp early 0 = false ∧ early.start.image = none ∧ beField pfc3 12 2 15 0 = 0x8808) ∧
    (outerOf img0 0 false [] = .bad 1 ∧ outerOf img0 0 true (arpFor (ipOf img0 5)) = .arp ∧ ready sealed = true ∧
      ready { sealed with start := { sealed.start with stage := 0 } } = false ∧
      outerOf img0 0 true (frameOf (List.replicate 32 0)) = urosh0 (List.replicate 32 0) ∧ envelopeLegal (List.replicate 32 0) = false ∧
      outerOf img0 0 true (frameOf (sealedAck 70001)) = urosh0 (sealedAck 70001) ∧ envelopeLegal (sealedAck 70001) = true) ∧
    ((forwardOf sealed (sealedAck 70001)).isNone = true ∧ forwardOf { base with forwards := [{ fwd0 with sas := [8], limit := 1000000001 }] } (sealedAck 70001) = some { fwd0 with sas := [8], limit := 1000000001 } ∧
      rxFits sealed 0 0 128 = true ∧ rxFits { sealed with classes := sealed.classes.map fun c => { c with reserve := 0 } } 0 0 128 = false ∧
      beField (sealedAck 70001) 4 4 31 0 = 8 ∧ beField (sealedAck 70001) 8 8 63 0 = 70001 ∧
      saOf base 8 = none ∧ saOf sealed 8 = some sa0 ∧ sa0.dead = false ∧ { sa0 with dead := true }.dead = true ∧ phaseOf sa0 false = some rx0 ∧ phaseOf sa0 true = none) := by
  decide +kernel

theorem test_hyps_FrameReceived_opened :
    ackParts (sealedAck 70001) = some [(ctlBytes 2 (.ack ackBody0), [])] ∧ rx0.high < 70001 + 65536 ∧ 70001 ∉ rx0.seen ∧
    parseBody 3 [(ctlBytes 2 (.ack ackBody0), [])] = some (.control 2 (.ack ackBody0)) ∧ isHandshake (.control 2 (.ack ackBody0)) = false ∧
    (ackParts sealedConn).bind (parseBody 3) = some (.control 2 (.connReq conn0)) ∧ isHandshake (.control 2 (.connReq conn0)) = true ∧
    (ackParts illegalBody).isSome = true ∧ (ackParts illegalBody).bind (parseBody 3) = none := by
  decide +kernel

theorem test_hyps_FrameReceived_refused :
    outerOf img0 0 true (frameOf (sealedAck 70001 |>.dropLast |>.concat 0)) = urosh0 (sealedAck 70001 |>.dropLast |>.concat 0) ∧
    ackParts (sealedAck 70001 |>.dropLast |>.concat 0) = none ∧
    ackParts (sealedAck 70000) = some [(ctlBytes 2 (.ack ackBody0), [])] ∧ 70000 ∈ rx0.seen ∧
    ackParts (sealedAck 4464) = some [(ctlBytes 2 (.ack ackBody0), [])] ∧ 4464 + 65536 ≤ rx0.high ∧ rx0.high < 4465 + 65536 := by decide +kernel

def dgram0 (b : RxBody) : RxDgram :=
  { port := 0, cls := 0, frameLen := 128, src := 6, saId := 8, path := 0, ce := false, arrived := 999999000, body := b }
def waitingRx (b : RxBody) : State := { withQp (qp0 .ready) with rxq := [dgram0 b] }
def moved0 : MovedBody := { refused := 100, coord := 9, inst := 1, qpn := 4 }
def held0 : RxRec :=
  { psn := 200, mark := .held, arrived := 998500000, pkt := some (pkt0 1 200), miss := true, staging := false, waitAt := none, bytes := 64, port := 0, cls := 0
    path := 0 }

theorem test_hyps_DatagramsReceived :
    (takeRx base false).isNone = true ∧ (takeRx (waitingRx (.train [pkt0 1 200])) false).map (·.1) = some (dgram0 (.train [pkt0 1 200])) ∧
    (takeRx (waitingRx (.kite (pkt0 1 200))) false).map (·.1) = some (dgram0 (.kite (pkt0 1 200))) ∧
    serving (waitingRx (.train [])) = true ∧ serving { waitingRx (.train []) with halted := true } = false ∧
    (let r := takeRx (waitingRx (.control 2 (.ack ackBody0))) false
     r.map (·.1) = some (dgram0 (.control 2 (.ack ackBody0))) ∧ r.bind (fun x => tget x.2.qps 2) = some (qp0 .ready) ∧ (qp0 .ready).saId = 8 ∧
      (dgram0 (.train [])).src = (qp0 .ready).remoteCoord ∧ (qp0 .ready).state = .ready ∧ (qp0 .error).state ≠ .ready ∧ (qp0 .error).state ≠ .draining ∧
      { qp0 .ready with saId := 9 }.saId ≠ 8 ∧ { qp0 .ready with oldCoord := some 6, remoteCoord := 9 }.oldCoord = some (dgram0 (.train [])).src) ∧
    (takeRx (waitingRx (.control 2 (.moved moved0))) false).map (·.1) = some (dgram0 (.control 2 (.moved moved0))) := by
  decide +kernel

theorem test_hyps_DatagramsReceived_packets :
    (tget (withQp (qp0 .ready)).qps (pkt0 1 200).dstQpn = some (qp0 .ready) ∧ tget one.qps 2 = none ∧ (qp0 .ready).saId = (dgram0 (.train [])).saId ∧
      { qp0 .ready with saId := 9 }.saId ≠ (dgram0 (.train [])).saId ∧ (qp0 .ready).oldCoord = none ∧ (qp0 .ready).remoteCoord = (dgram0 (.train [])).src ∧
      { qp0 .ready with oldCoord := some 6 }.oldCoord = some (dgram0 (.train [])).src ∧ (qp0 .reset).state = .reset ∧
      (qp0 .init).state = .init ∧ (qp0 .error).state = .error ∧ (qp0 .frozen).state = .frozen ∧ tget (withQp (qp0 .frozen)).insts 1 = some inst0) ∧
    (65536 ≤ sdist (200 + 65536) (qp0 .ready).cumPsn ∧ sdist (200 + 65535) (qp0 .ready).cumPsn < 65536 ∧ sdist 200 (qp0 .ready).cumPsn = 0 ∧
      recOf (qp0 .ready) 200 = none ∧ sdist 199 (qp0 .ready).cumPsn < 0 ∧ (pkt0 1 199).op ≠ 3 ∧ (pkt0 3 199).op = 3 ∧ recOf (qp0 .ready) 199 = none) ∧
    (recOf { qp0 .ready with recs := [held0] } 200 = some held0 ∧ held0.mark = .held ∧ { held0 with mark := .placed }.mark = .placed ∧
      { held0 with mark := .refused stAborted 1 }.mark = .refused stAborted 1) ∧
    (let late := { qp0 .ready with missed := [(200, 4096, 1)] }
     ((late.missed.filter fun m => m.1 == 200).any fun m => m.2.2 == 1) = true ∧ (((qp0 .ready).missed.filter fun m => m.1 == 200).any fun m => m.2.2 == 1) = false ∧
      respOf (qp0 .ready) 0 = none ∧ (qp0 .ready).resp.length < 128 ∧ 128 ≤ (List.replicate 128 (0 : Nat)).length ∧
      (pkt0 1 200).op = 1 ∧ (pkt0 2 200).op = 2 ∧ (pkt0 4 200).op = 4) := by decide +kernel

def note0 : RxRec := { held0 with pkt := some { pkt0 2 200 with payload := [0, 0, 0, 7, 0, 0, 0, 64] }, miss := false, waitAt := some 999000000 }
def noted (e : Entry) : Qp := { qp0 .ready with recs := [note0], rq := { ring0 with taken := [taken0 e] } }

theorem test_hyps_ReceiverTimers :
    (let q := { qp0 .ready with ackExpire := some 1000000000, lastTrig := some (200, 0, 0) }
     tget (withQp q).qps 2 = some q ∧ q.ackExpire = some 1000000000 ∧ q.lastTrig = some (200, 0, 0) ∧ serving (withQp q) = true ∧
      1000000000 ≤ (withQp q).now ∧ { withQp q with now := 999999999 }.now < 1000000000 ∧ q.state ≠ .frozen ∧ (qp0 .ready).ackExpire = none ∧
      tget one.qps 2 = none) ∧
    (let q := { qp0 .ready with recs := [held0] }
     recOf q held0.psn = some held0 ∧ held0.mark = .held ∧ held0.arrived + 1500000 ≤ (withQp q).now ∧
      { withQp q with now := 999999999 }.now < held0.arrived + 1500000 ∧
      held0.miss = true ∧ { held0 with mark := .placed }.mark ≠ .held ∧ { held0 with miss := false, staging := true }.staging = true ∧
      note0.miss = false ∧ note0.staging = false ∧ note0.waitAt.isSome = true ∧ nextReceive (withQp (noted 0x10)) (noted 0x10) = some (taken0 0x10) ∧
      nextReceive (withQp (qp0 .ready)) (qp0 .ready) = none) ∧
    (nextNotify (noted 0) = some note0 ∧ note0.waitAt = some 999000000 ∧ 999000000 + 1000000 ≤ (withQp (noted 0)).now ∧
      { withQp (noted 0) with now := 999999999 }.now < 999000000 + 1000000 ∧ nextNotify (qp0 .ready) = none) := by decide +kernel

theorem test_hyps_ReceiverTimers_notify :
    nextNotify (qp0 .ready) = none ∧ hiddenPsns { qp0 .ready with flushing := [199] } ≠ [] ∧ (qp0 .error).state ≠ .ready ∧
    tget (withQp (noted 0x10)).qps 2 = some (noted 0x10) ∧ nextNotify (noted 0x10) = some note0 ∧
    note0.pkt = some { pkt0 2 200 with payload := [0, 0, 0, 7, 0, 0, 0, 64] } ∧ nextReceive (withQp (noted 0x10)) (noted 0x10) = some (taken0 0x10) ∧
    serving (withQp (noted 0x10)) = true ∧ instStopped (withQp (noted 0x10)) 1 = false ∧ instStopped cold 1 = true ∧ hiddenPsns (noted 0x10) = [] ∧
    (noted 0x10).rq.state = .enabled ∧ { ring0 with state := .recalling }.state ≠ .enabled ∧ (noted 0x10).state = .ready ∧
    messageRefusal (noted 0x10) { pkt0 2 200 with payload := [0, 0, 0, 7, 0, 0, 0, 64] } = none ∧
    (let q := { noted 0x10 with recs := [note0, { held0 with psn := 199, mark := .refused stAborted 1 }] }
     messageRefusal q { pkt0 2 200 with payload := [0, 0, 0, 7, 0, 0, 0, 64] } ≠ none) ∧
    receiveLegal 0x10 = true ∧ receiveLegal 0x11 = false := by decide +kernel

/-- A READ_REQ executed again, whose access waits for a page. -/
def heldRead : RespSlot := { tag := 0, psn := 199, length := 64, cell := false, reading := true, held := some (998500000, 0) }

theorem test_hyps_ReceiverTimers_read :
    (let q := { qp0 .ready with resp := [heldRead] }
     let s := { withQp q with waits := [{ wait0 with owner := .respRead 2 0, walked := true, missed := [4096] }] }
     tget s.qps 2 = some q ∧ serving s = true ∧ recOf q 199 = none ∧ q.resp.find? (fun y => y.psn == 199 && y.held.isSome) = some heldRead ∧
      heldRead.held = some (998500000, 0) ∧ (waitOf s (.respRead 2 0)).any (fun w => !w.missed.isEmpty) = true ∧ 998500000 + 1500000 ≤ s.now ∧
      { s with now := 999999999 }.now < 998500000 + 1500000 ∧ (waitOf base (.respRead 2 0)).isNone = true ∧
      (qp0 .ready).resp.find? (fun y => y.psn == 199 && y.held.isSome) = none) := by decide +kernel

/-! ### Mailboxes, management and the Owl -/

def noticeW (peer slot : Nat) (empty : Nat) : BitVec 128 := putFld (putFld (putFld 0 12 10 0 peer) 13 7 7 empty) 14 4 0 slot
def slot0 (w : BitVec 128) : Notice := { words := w, seq := 1, ret := 0, epoch := 0 }
def chan0 (w : BitVec 128) : Channel := { Channel.reset with outN := lmod Channel.reset.outN 4 fun _ => slot0 w }
def pfSends (w : BitVec 128) : State := { one with pfMbx := lmod one.pfMbx 2 fun _ => chan0 w }
def instSends (w : BitVec 128) : State := own { inst0 with mbx := chan0 w }
def secSends (w : BitVec 128) : State := { one with secMbx := lmod one.secMbx 2 fun _ => chan0 w }
/-- A channel with a full set of OUT notices in use but one, its interrupt bits as given. -/
def busyOut (db acked mask : Word) : Channel := { chan0 0 with outDb := db, outAcked := acked, outMask := mask }

theorem test_hyps_Mailboxes_writes :
    (chanOpen one (.inst 2) = false ∧ chanOpen State.reset (.pf 0) = false) ∧
    (chanOpen (pfSends 0) (.pf 2) = true ∧ chanOf (pfSends 0) (.pf 2) = some (chan0 0) ∧ (31 : Nat) < 32 ∧ (32 : Nat) ≤ 32) ∧
    ((0x804 : Nat) ≠ 0x808 ∧ (0x804 : Nat) ≠ 0x80C ∧ (0x804 : Nat) ≠ 0x814) ∧
    (chanOf (instSends 0) (.inst 1) = some (chan0 0) ∧ ∀ i, ChanRef.inst 1 = .inst i → (4 : Nat) ≠ 31) := by
  refine ⟨by decide +kernel, by decide +kernel, by decide +kernel, by decide +kernel, ?_⟩
  intro _ _
  decide

theorem test_hyps_Mailboxes_sent :
    (chanOpen (pfSends 0) (.pf 2) = true ∧ chanOf (pfSends 0) (.pf 2) = some (chan0 0) ∧ (chan0 0).outDb.getLsbD 4 = false ∧
      noticeLegal (.pf 2) (noticeAt (chan0 0).outN 4).words = false) ∧
    (chanOpen (instSends 0) (.inst 1) = true ∧ chanOf (instSends 0) (.inst 1) = some (chan0 0) ∧ noticeLegal (.inst 1) (noticeAt (chan0 0).outN 4).words = true ∧
      tget (instSends 0).insts 1 = some { inst0 with mbx := chan0 0 }) ∧
    (let w := noticeW 1 7 0
     noticeLegal (.pf 2) (noticeAt (chan0 w).outN 4).words = true ∧ tget (pfSends w).insts (noticePeer (noticeAt (chan0 w).outN 4).words) = some inst0 ∧
      inst0.state ≠ .resetting) ∧
    (noticeLegal (.pf 2) (noticeAt (chan0 (noticeW 9 7 0)).outN 4).words = true ∧
      tget (pfSends (noticeW 9 7 0)).insts (noticePeer (noticeAt (chan0 (noticeW 9 7 0)).outN 4).words) = none) ∧
    (chanOpen (secSends 0) (.secure 2) = true ∧ chanOf (secSends 0) (.secure 2) = some (chan0 0) ∧
      noticeLegal (.secure 2) (noticeAt (chan0 0).outN 4).words = true) ∧
    ({ chan0 0 with outDb := wordBit 4 }.outDb.getLsbD 4 = true ∧ chanOpen one (.inst 1) = true ∧ chanOpen one (.inst 2) = false) := by decide +kernel
def relay0 : Relay := { up := false, chan := 2, inst := 1, bit := 4, slot := 7, begun := none }
def relayed : State := { pfSends (noticeW 1 7 0) with relays := [relay0] }
/-- Instance 1's channel holds the notice of PF channel 2, bit 5, in IN slot 4. -/
def received (empty : Nat) : Channel :=
  { chan0 0 with inDb := wordBit 4, inN := lmod Channel.reset.inN 4 fun _ => slot0 (noticeW 0 0 empty), senders := [(4, (2, 5))] }

theorem test_hyps_Mailboxes_ends :
    (chanOf (own { inst0 with mbx := received 0 }) (.inst 1) = some (received 0) ∧ tget (received 0).senders 4 = some (2, 5) ∧
      tget (received 0).senders 3 = none ∧ (received 0).inDb.getLsbD 4 = true ∧ (received 0).inDb.getLsbD 3 = false ∧ isSignal (.inst 1) 4 = false ∧
      noticeEmpty (noticeAt (received 0).inN 4).words = false ∧ noticeEmpty (noticeAt (received 1).inN 4).words = true) ∧
    (∃ n, n < 32 ∧ isSignal (.inst 1) n = true ∧ { received 0 with inDb := wordBit n }.inDb.getLsbD n = true) ∧
    ((chan0 0).outAcked.getLsbD 5 = false ∧ { chan0 0 with outMask := 0 }.outMask.getLsbD 5 = false ∧ (busyOut 0 (wordBit 5) 0).outAcked.getLsbD 5 = true ∧
      (busyOut 0 0 (wordBit 5)).outMask.getLsbD 5 = true) ∧
    ((busyOut (wordBit 5) 0 0).outDb &&& ~~~wordBit 5 = 0 ∧ (busyOut (wordBit 5 ||| wordBit 6) 0 0).outDb &&& ~~~wordBit 5 ≠ 0 ∧
      { busyOut 0 0 0 with empty := false, emptyMask := false }.empty = false ∧ { busyOut 0 0 0 with empty := true }.empty = true ∧
      { busyOut 0 0 0 with emptyMask := true }.emptyMask = true) := by
  refine ⟨by decide +kernel, ⟨31, by decide +kernel⟩, by decide +kernel, by decide +kernel⟩

theorem test_hyps_Mailboxes_relays :
    (relayed.relays.find? (fun x => relayTo x == relayTo relay0 && relayFree relayed x) = some relay0 ∧
      chanOf relayed (relayFrom relay0) = some (chan0 (noticeW 1 7 0)) ∧ chanOf relayed (relayDest relay0) = some Channel.reset ∧
      firmware relayed = true ∧ instFrozen relayed 1 = false ∧ pageOpen relayed 1 = true ∧ relaySlot relay0 Channel.reset = some 7 ∧
      relaySlot relay0 { Channel.reset with inDb := wordBit 7 } = none) ∧
    (let s := { relayed with ctlReset := true }
     firmware s = false) ∧
    (base.relays.find? (fun x => relayTo x == relayTo relay0 && relayFree base x) = none) ∧
    (let x : Relay := { relay0 with begun := some Channel.reset.inTaken }
     let s := { relayed with relays := [x] }
     s.relays.find? (fun y => relayTo y == relayTo x && relayFree s y) = some x ∧ x.begun = some Channel.reset.inTaken ∧
      relay0.begun ≠ some Channel.reset.inTaken) ∧
    (let x : Relay := { up := true, chan := 2, inst := 1, bit := 4, slot := 0, begun := none }
     let s := { instSends 0 with relays := [x] }
     s.relays.find? (fun y => relayTo y == relayTo x && relayFree s y) = some x ∧ chanOf s (relayFrom x) = some (chan0 0) ∧
      (chanOf s (relayDest x)).isSome = true ∧ (relaySlot x Channel.reset).isSome = true) ∧
    (let s := { relayed with insts := cold.insts }
     s.relays.find? (fun y => relayTo y == relayTo relay0 && relayFree s y) = none) ∧
    ((received 0).inDb.getLsbD 4 = true ∧ (received 0).inDb.getLsbD 3 = false ∧ { received 0 with inMask := 0 }.inMask.getLsbD 3 = false) := by
  decide +kernel

def chanCfg (q : Nat) : Entry := ent 0x0720 [(8, 0, 0, q)]

theorem test_hyps_Mailboxes_config :
    (∀ q < 2, CanStart (withCmd one (chanCfg q)) 0 0x0720 (cmd0 (chanCfg q))) ∧ instRefusalFrozen (withCmd one (chanCfg 1)) 1 = none ∧
    tget (withCmd one (chanCfg 1)).insts 1 = some inst0 ∧ bit (chanCfg 1) 8 0 = true ∧ bit (chanCfg 0) 8 0 = false ∧
    CanStart (withCmd base (chanCfg 0)) 0 0x0720 (cmd0 (chanCfg 0)) ∧ instRefusalFrozen (withCmd base (chanCfg 0)) 1 ≠ none := by
  unfold CanStart
  decide +kernel

theorem test_hyps_Mailboxes_resetting :
    (let s := { own { inst0 with state := .resetting } with pfMbx := lmod base.pfMbx 2 fun _ => chan0 (noticeW 1 7 0) }
     chanOpen s (.pf 2) = true ∧ noticeLegal (.pf 2) (noticeW 1 7 0) = true ∧ noticePeer (noticeW 1 7 0) = 1 ∧
      (tget s.insts 1).map (·.state) = some .resetting) := by decide +kernel
theorem test_hyps_EmptyNotices :
    (let c : Channel :=
       { chan0 0 with inDb := wordBit 4, inN := lmod Channel.reset.inN 4 fun _ => slot0 (noticeW 0 0 1), senders := [(4, (2, 5))] }
     let s := { pfSends 0 with insts := [(1, { inst0 with mbx := c })] }
     chanOpen s (.inst 1) = true ∧ chanOf s (.inst 1) = some c ∧ isSignal (.inst 1) 4 = false ∧ c.inDb.getLsbD 4 = true ∧
      noticeEmpty (noticeAt c.inN 4).words = true ∧ tget c.senders 4 = some (2, 5) ∧ senderRef (.inst 1) (2, 5) = .pf 2 ∧
      chanOf s (senderRef (.inst 1) (2, 5)) = some (chan0 0) ∧ (chan0 0).outN[5]? = some { words := 0, seq := 0, ret := 0, epoch := 0 }) := by decide +kernel
/-- Secure channel 2 has a request of `n` bytes in bit 4; its body lies in the MESSAGE_AREA. -/
def served (n : Nat) (body : List (Nat × Byte)) : State :=
  { base with secMbx := lmod base.secMbx 2 fun _ => { chan0 (putFld 0 8 31 0 n) with outDb := wordBit 4, area := body } }

theorem test_hyps_Management_services :
    (let s := served 56 []
     firmware s = true ∧ nextService s = some (2, 4) ∧ fld (secureBody s 2 4) 0 15 0 = 0 ∧
      serviceLegal (noticeAt ((s.secMbx[2]?.getD Channel.reset).outN) 4).words (secureBody s 2 4) = true) ∧
    (let s := served 55 []
     nextService s = some (2, 4) ∧ serviceLegal (noticeAt ((s.secMbx[2]?.getD Channel.reset).outN) 4).words (secureBody s 2 4) = false) ∧
    (∀ q ∈ [(2, [(0, 2)]), (3, [(0, 3)]), (0x700, [(1, 7)]), (0x701, [(0, 1), (1, 7), (20, 1)])], let s := served 56 q.2
      nextService s = some (2, 4) ∧ fld (secureBody s 2 4) 0 15 0 = q.1 ∧
      serviceLegal (noticeAt ((s.secMbx[2]?.getD Channel.reset).outN) 4).words (secureBody s 2 4) = true) ∧
    ((portOf base 0).state ≠ .disabled ∧ (portOf State.reset 0).state = .disabled) ∧
    nextService base = none ∧ firmware { base with ctlReset := true } = false := by decide +kernel

/-- A packet of endpoint 8 at bus address 0x20 to this device, its message `m`. -/
def mctpHead (s : State) (m : Bytes) : Bytes := [smbusAddr s, 0x0F, BitVec.ofNat 8 (m.length + 5), 0x21, 0x01, 0, 8, 0xC8 ||| 3] ++ m
def mctpPkt (m : Bytes) : Bytes := mctpHead base m ++ [pecOf (mctpHead base m)]
def mctpMsg (m : Bytes) : Prop := mctpOpen base (mctpPkt m) = some { src := 0x21, eid := 8, tag := 3, msg := m }

theorem test_hyps_Management_packets :
    ((0x21 : Byte).getLsbD 0 = true ∧ (3 : Byte).toNat < 8 ∧ (0 : Byte) = 0 ∧ base.eid = base.eid) ∧
    (let m : Bytes := List.replicate 250 1
     1 ≤ m.length ∧ m.length ≤ 250) ∧ mctpMsg [1] ∧
    mctpOpen base [] = none ∧ (mctpPkt [0x7E]).head? ≠ some (smbusAddr base + 2) := by unfold mctpMsg; decide +kernel

theorem test_hyps_Management_vendor :
    live base = true ∧ mctpMsg [0x7E] ∧ ([0x7E] : Bytes).take 5 ≠ vendorHead ∧ mctpMsg vendorHead ∧ vendorHead.length < 6 ∧
    (let m := vendorHead ++ [1, 2, 0, 0, 4]
     mctpMsg m ∧ m.take 5 = vendorHead ∧ 6 ≤ m.length ∧ vendorLegal m = true ∧ leField m 5 1 7 0 = 1) ∧
    (let m := vendorHead ++ [2, 2, 0, 0, 4, 0, 0, 0, 0]
     mctpMsg m ∧ m.take 5 = vendorHead ∧ vendorLegal m = true ∧ leField m 5 1 7 0 = 2) ∧
    (∀ m ∈ [vendorHead ++ [1], vendorHead ++ [1, 2, 0, 0, 3], vendorHead ++ [1, 2, 0, 0, 36], vendorHead ++ [1, 16, 0, 0, 4]],
      mctpMsg m ∧ m.take 5 = vendorHead ∧ 6 ≤ m.length ∧ vendorLegal m = false) := by unfold mctpMsg; decide +kernel

/-- What asks for an answer: a request whose instance is 1, its command and data `m`. -/
def mctpAsks (m : Bytes) : Prop :=
  mctpMsg ([0, 0x81] ++ m) ∧ 3 ≤ ([0, 0x81] ++ m : Bytes).length ∧ ([0, 0x81] ++ m : Bytes).getD 0 0 = 0 ∧
    (([0, 0x81] ++ m : Bytes).getD 1 0).getLsbD 7 = true ∧ (([0, 0x81] ++ m : Bytes).getD 1 0).getLsbD 6 = false ∧ ([0, 0x81] ++ m : Bytes).drop 2 = m

theorem test_hyps_Management_control :
    base.power.phase = .up ∧ (∀ m ∈ ([[1, 0, 8], [1, 1, 8], [1, 2, 8], [1, 3, 8], [1, 0, 0], [1, 0, 0xFF], [2], [4, 0xFF], [4, 0x00], [4, 0x7F], [4, 0x7E], [5],
      [1, 0], [2, 0], [4], [5, 0], [3], [6]] : List Bytes), mctpAsks m) ∧
    (mctpMsg [0, 0x01, 2] ∧ ¬([0, 0x01, 2] : Bytes)[1]!.getLsbD 7 = true) ∧
    ((8 : Byte) ≠ 0 ∧ (8 : Byte) ≠ 0xFF ∧ (1 : Byte) &&& 3 = 1 ∧ (2 : Byte) &&& 3 = 2) ∧
    ({ base with pins := { base.pins with smbAlert := true } }.pins.smbAlert = true ∧ base.pins.smbAlert = false) := by
  unfold mctpAsks mctpMsg
  decide +kernel

def asks (s : State) (n : Nat) : State := withCmd s (entry 0x0700 [(8, 1, 0, n)])
def inGlide : State := { base with pm := { base.pm with state := 1, throttled := true } }
def roosting : State := { asks base 2 with pm := { base.pm with roost := some (some (.admin 0)) } }
theorem test_hyps_PowerStates_requests :
    (∀ n < 4, CanStart (asks base n) 0 0x0700 (cmd0 (entry 0x0700 [(8, 1, 0, n)]))) ∧ (∀ n < 4, fld (entry 0x0700 [(8, 1, 0, n)]) 8 1 0 = n) ∧
    (let s := { asks base 2 with pm := { base.pm with roost := some none } }
     CanStart s 0 0x0700 (cmd0 (entry 0x0700 [(8, 1, 0, 2)])) ∧ s.pm.roost.isSome = true) ∧
    (let s := { asks base 2 with pm := { base.pm with state := 2 } }
     CanStart s 0 0x0700 (cmd0 (entry 0x0700 [(8, 1, 0, 2)])) ∧ s.pm.roost = none ∧ s.pm.state = 2) ∧
    (CanStart (asks one 2) 0 0x0700 (cmd0 (entry 0x0700 [(8, 1, 0, 2)])) ∧ allFrozen one = false ∧ one.pm.roost = none ∧ one.pm.state ≠ 2) ∧
    (CanStart (asks cold 2) 0 0x0700 (cmd0 (entry 0x0700 [(8, 1, 0, 2)])) ∧ allFrozen cold = true ∧ cold.pm.roost = none ∧ cold.pm.state ≠ 2) ∧
    (base.pm.state = 0 ∧ inGlide.pm.state = 1 ∧ inGlide.pm.throttled = true ∧ { inGlide.pm with throttled := false }.throttled = false) := by
  unfold CanStart
  decide +kernel

theorem test_hyps_PowerStates_roost :
    base.pm.roost = none ∧
    (roosting.pm.roost = some (some (.admin 0)) ∧ roostDue roosting = true ∧ ready roosting = true ∧ firmware roosting = true ∧ roosting.pm.state ≠ 2 ∧
      allFrozen roosting = true ∧ allFrozen { roosting with insts := one.insts } = false ∧ roostDue { roosting with insts := one.insts } = true) ∧
    (let s := { base with pm := { base.pm with roost := some none } }
     s.pm.roost = some none ∧ ready s = true ∧ firmware s = true ∧ roostDue s = true ∧ s.pm.state ≠ 2 ∧ allFrozen s = true ∧
      allFrozen { s with insts := one.insts } = false ∧ roostDue { s with insts := one.insts } = true) ∧
    roostDue { roosting with adm := base.adm } = false ∧ firmware { roosting with ctlReset := true } = false ∧ ready early = false ∧
    (let s := { base with pm := { base.pm with state := 2, wake := some (0, 1) } }
     s.pm.wake = some (0, 1) ∧ running s = true ∧ s.pm.state = 2 ∧ base.pm.wake = none ∧ base.pm.state ≠ 2 ∧ running { s with halted := true } = false) := by
  decide +kernel

def traffic0 (n : Nat) : Traffic := { Traffic.reset with rxBytes := n }

theorem test_hyps_PowerStates_load :
    (let at_ (n : Nat) (since : Nat) : State :=
       { inGlide with traffic := traffic0 n, pm := { inGlide.pm with throttled := false, winStart := since } }
     let s := at_ 400001 (base.now - 2000)
     serving s = true ∧ s.pm.throttled = false ∧ s.pm.state = 1 ∧ s.pm.winStart + 2000 ≤ s.now ∧
      loadOver (trafficSince s.traffic s.pm.winSeen) (s.now - s.pm.winStart) = true ∧
      loadOver (trafficSince (traffic0 400000) s.pm.winSeen) (s.now - s.pm.winStart) = false ∧
      (at_ 0 (base.now - 1999)).now < (at_ 0 (base.now - 1999)).pm.winStart + 2000) ∧
    (serving inGlide = true ∧ inGlide.pm.throttled = true ∧ serving { inGlide with halted := true } = false) ∧
    (base.pm.state = 0 ∧ base.pm.loadExit = false ∧ base.pm.winStart + 2000 ≤ base.now) ∧
    (let s := { base with traffic := traffic0 300000, pm := { base.pm with loadExit := true, winStart := base.now - 2000, lowSince := some (base.now - 1000000) } }
     serving s = true ∧ s.pm.throttled = false ∧ s.pm.state = 0 ∧ s.pm.loadExit = true ∧ s.pm.winStart + 2000 ≤ s.now ∧
      loadLow (trafficSince s.traffic s.pm.winSeen) (s.now - s.pm.winStart) = true ∧
      loadLow (trafficSince (traffic0 300001) s.pm.winSeen) (s.now - s.pm.winStart) = false ∧
      (s.pm.lowSince.getD s.pm.winStart) + 1000000 ≤ s.now ∧ ¬(({ s.pm with lowSince := none }.lowSince.getD s.pm.winStart) + 1000000 ≤ s.now)) := by
  decide +kernel

def rule0 (action : Nat) : OwlRule :=
  { valid := true, below := false, alert := false, channel := 0, action := action, alertBit := 0, threshold := 100, hyst := 5, hold := 2, mask := 0 }
def hot (action : Nat) (h : Bool) : State :=
  { base with
    halted := h
    start := { base.start with image := some { img0 with rules := [{ rule0 action with below := true, hold := 1 }] } } }
def cools (s : State) : List (OwlRule × Bool) :=
  match s.start.image with
  | some i =>
    let f := filterAll i s.owl.hist (ownSamples s [])
    ((List.range 64).foldl (ruleAt i (f.map (·.1))) ({ s with owl := { s.owl with hist := f.map (·.2) } }, [])).2
  | none => []
theorem test_hyps_OwlSample_samples :
    (State.reset.start.image = none ∧ (inPhase base .waiting).power.phase ≠ .up) ∧
    (let s := { base with owl := { base.owl with sampledAt := some 0 } }
     s.owl.sampledAt = some 0 ∧ (withClocks s fun c => { c with count := 124999 }).clocks.count < 0 + 125000 ∧
      0 + 125000 ≤ (withClocks s fun c => { c with count := 125000 }).clocks.count) ∧
    (base.start.image = some img0 ∧ base.power.phase = .up ∧ base.owl.sampledAt = none) ∧
    ((hot 5 true).halted = true ∧ (hot 5 false).halted = false ∧ (cools (hot 5 false)).any (fun a => a.2 && a.1.action == 5) = true) ∧
    (live perched = false ∧ perched.halted = false ∧ (cools perched).any (fun a => a.2 && a.1.action == 5) = false) ∧
    (live (hot 1 false) = true ∧ (cools (hot 1 false)).any (fun a => a.2 && a.1.action == 5) = false) := by decide +kernel

theorem test_hyps_OwlSample_rules :
    (let s := hot 1 false
     let i := { img0 with rules := [{ rule0 1 with below := true, hold := 1 }] }
     s.start.image = some i ∧ i.rules[0]? = some { rule0 1 with below := true, hold := 1 } ∧ s.owl.rules[0]? = some { held := 0, active := false } ∧
      (ruleStep { rule0 1 with below := true, hold := 1 } { held := 0, active := false } 0).2 = some true ∧
      (ruleStep (rule0 1) { held := 0, active := false } 0).2 = none) ∧
    (let c : OwlRun := { held := 0, active := false }
     let d : OwlRun := { held := 1, active := false }
     let r := rule0 1
     let b := { r with below := true }
     r.valid = true ∧ { r with valid := false }.valid = false ∧ (if r.below then (100 : Int) ≤ r.threshold else r.threshold ≤ 100) ∧
      (if b.below then (100 : Int) ≤ b.threshold else b.threshold ≤ 100) ∧ c.held + 1 < r.hold ∧ r.hold ≤ d.held + 1 ∧
      ¬(if r.below then (99 : Int) ≤ r.threshold else r.threshold ≤ 99) ∧ { c with active := true }.active = true ∧
      (if r.below then r.threshold + r.hyst < 94 else (94 : Int) < r.threshold - r.hyst) ∧
      ¬(if r.below then r.threshold + r.hyst < 95 else (95 : Int) < r.threshold - r.hyst) ∧
      (if b.below then b.threshold + b.hyst < 106 else (106 : Int) < b.threshold - b.hyst) ∧
      ¬(if b.below then b.threshold + b.hyst < 105 else (105 : Int) < b.threshold - b.hyst)) := by decide +kernel

theorem test_hyps_OwlSample_actions :
    ((∃ a ∈ [(rule0 1, true)], a.2 = true ∧ a.1.action = 1) ∧ (∃ a ∈ [(rule0 2, true)], a.2 = true ∧ a.1.action = 2) ∧
      (¬∃ a ∈ [(rule0 2, true), (rule0 1, false)], a.2 = true ∧ a.1.action = 1) ∧ ¬∃ a ∈ ([] : List (OwlRule × Bool)), a.2 = true ∧ a.1.action = 2) ∧
    (let s := { base with pm := { base.pm with state := 2 } }
     s.pm.state = 2 ∧ base.pm.state ≠ 2 ∧ base.pm.roost = none ∧ allFrozen base = true ∧ serving base = true ∧ allFrozen one = false) ∧
    (let i := { img0 with rules := [rule0 3] }
     let active := { base with owl := { base.owl with rules := lmod base.owl.rules 0 fun _ => { held := 0, active := true } } }
     let asked := { inGlide with pm := { inGlide.pm with glideReq := true } }
     ruleActive active i 3 (fun _ => true) = true ∧ active.pm.throttled = false ∧ active.pm.state = 0 ∧
      ruleActive inGlide i 3 (fun _ => true) = false ∧ inGlide.pm.throttled = true ∧ inGlide.pm.state = 1 ∧ inGlide.pm.glideReq = false ∧
      asked.pm.glideReq = true ∧ ruleActive base i 3 (fun _ => true) = base.pm.throttled) := by decide +kernel

theorem test_hyps_OwlSample_filters :
    (31 : Nat) < 32 ∧ img0.filters[0]? = none ∧
    (let f : OwlFilter := { enable := true, b0 := 1, b1 := 0, b2 := 0, a1 := 0, a2 := 0 }
     [f][0]? = some f ∧ f.enable = true ∧ { f with enable := false }.enable = false) ∧
    (withStart base fun x => { x with stackOk := 0x3E }).start.stackOk.getLsbD 0 = false ∧
    (withStart base fun x => { x with nportOk := 0xFE }).start.nportOk.getLsbD 0 = false := by decide +kernel

theorem test_hyps_Watchdog :
    (let s := { base with wdt := { periodMs := 1, enabled := true, since := 999000000 } }
     running s = true ∧ s.wdt.enabled = true ∧ s.ctlReset = false ∧ wdtClkGood s = true ∧
      s.wdt.since + s.wdt.periodMs.toNat * 1000000 ≤ s.now ∧ s.now < { s.wdt with since := 999000001 }.since + s.wdt.periodMs.toNat * 1000000) ∧
    (live base = true ∧ base.wdt.enabled = false ∧ fld (1 : Word) 0 13 0 = 1 ∧ fld (16000 : Word) 0 13 0 = 16000 ∧ fld (16001 : Word) 0 13 0 = 16001 ∧
      fld (0 : Word) 0 13 0 = 0 ∧ live State.reset = false) ∧
    (running { base with halted := true } = false ∧ wdtClkGood State.reset = false ∧ State.reset.start.image = none) ∧
    (let s := { base with ctlReset := true }
     running s = true ∧ s.ctlReset = true ∧ base.ctlReset = false) ∧
    (let c := { cmd0 0 with phase := .running }
     let s := { base with adm := { base.adm with cmds := [c] }, drains := [{ slot := some 0, tag := 0, removed := 0, reads := [], flushes := [] }] }
     s.adm.cmds[0]? = some c ∧ c.phase = .running ∧ (∃ d ∈ s.drains, d.slot = some c.slot) ∧ (cmd0 0).phase ≠ .running) := by decide +kernel

theorem test_hyps_DebugAccess_transfers :
    (base.power.phase = .up ∧ State.reset.power.phase ≠ .up ∧ 0x800001 % 4 ≠ 0 ∧ 0xFFFFFC % 4 = 0 ∧ 0xFFFFFC < 0x1000000) ∧
    ((base.start.trained = true ∧ stackOf base 0x20 = some 0 ∧ stackOf base 0x1800000000 = none ∧ (stackOf base 0x17FFFFFFFC).isSome = true ∧
        base.start.scrubDone = true ∧ base.pool.stackOut.getLsbD 0 = false ∧ base.pm.state ≠ 2) ∧
      early.start.trained = false ∧ (withStart base fun x => { x with scrubDone := false }).start.scrubDone = false ∧
      { base.pool with stackOut := 1 }.stackOut.getLsbD 0 = true ∧
      (let s := { base with pm := { base.pm with state := 2 } }
       ¬(s.pm.state ≠ 2 ∨ s.dbg.wakeTill.isSome = true) ∧ { s.dbg with wakeTill := some 0 }.wakeTill.isSome = true)) ∧
    (0 < reserveBase base ∧ writtenFlag base 0 = false ∧ writtenFlag { base with pool := { base.pool with written := [0] } } 0 = true ∧
      reserveBase base ≤ reserveBase base) ∧
    (tget (withKeys base [(1, key0 1)] []).cipher.keys (0x44 / 64) = some (key0 1) ∧ 0x44 % 64 < (key0 1).key.length ∧ (key0 1).key.length ≤ 0x50 % 64 ∧
      tget base.cipher.keys (0x44 / 64) = none) ∧
    (let s := { base with cipher := { base.cipher with ctxKey := some 1, migKey := some (2, 0) } }
     s.cipher.ctxKey = some 1 ∧ s.cipher.migKey = some (2, 0) ∧ base.cipher.ctxKey = none ∧ base.cipher.migKey = none ∧ 0x100020 < 0x100040) ∧
    (0x10FFFFFC < 0x11000000 ∧ 0x10FFFFFC % 4 = 0 ∧ 0x1000000 ≤ 0x10FFFFFC ∧ 0x100040 ≤ 0x100040) := by decide +kernel

theorem test_hyps_DebugAccess_halt :
    (base.power.phase = .up ∧ base.halted = false ∧ { base.dbg with scanHalt := true }.scanHalt = true) ∧
    (let s := { base with halted := true }
     s.power.phase = .up ∧ s.halted = true ∧ s.dbg.scanHalt = false ∧ s.power.railsUp = true) ∧
    State.reset.power.phase ≠ .up ∧ State.reset.power.railsUp = false ∧ base.a1 = false ∧ { base with a1 := true }.a1 = true := by decide +kernel

/-! ### What every step keeps -/

theorem test_hyps_PerchStays :
    perched.power.phase = .up ∧ perched.start.stage = 0xF ∧ ∃ t, step { perched with pending := [.owlSample []] } = .next t ∧ t.start.stage = 0xF := by
  refine ⟨rfl, rfl, ?_⟩
  have h : ∃ t, step { perched with pending := [.owlSample []] } = .next t := ⟨_, rfl⟩
  obtain ⟨t, ht⟩ := h
  refine ⟨t, ht, ?_⟩
  have : (match step { perched with pending := [.owlSample []] } with | .next t => t.start.stage | _ => 0) = 0xF := by decide +kernel
  rw [ht] at this
  exact this
theorem test_hyps_PerchPinLow : PerchPin perched ∧ perched.power.phase = .up ∧ (inPhase perched .poweringDown).power.phase = .poweringDown := by
  refine ⟨⟨fun _ => rfl, ?_⟩, rfl, rfl⟩
  intro h
  revert h
  decide +kernel
theorem test_hyps_RegistersStayLegal : Legal { base with wdt := { periodMs := 16000, enabled := true, since := 0 } } := by
  refine ⟨?_, ?_, ?_⟩ <;> decide +kernel
theorem test_hyps_PoolStaysCanonical : memWf { base.pool with mem := [(3, 1), (9, 255)] }.mem = true := by decide +kernel

/-! ### More of the clauses -/

def stackEntry : Entry := ent 0x0310 [(9, 0, 0, 1), (10, 3, 0, 2), (16, 36, 0, 2 ^ 30)]
theorem test_hyps_PoolMemory_stack :
    (let s := withCmd one stackEntry
     mayStart s 0 0x0310 = some (cmd0 stackEntry) ∧ instAhead s (cmd0 stackEntry) = false ∧ instRefusal s 1 = none ∧
      poolUse s 1 + fld stackEntry 16 36 0 ≤ (quotaOf s 1).poolBytes ∧ regionOf s 1 0 = none ∧ (∀ z ∈ s.pool.zeroing, z.inst ≠ 1) ∧
      fld stackEntry 10 3 0 = 2 ∧ s.start.stackOk.getLsbD 2 = true ∧
      lowestFree s (fld stackEntry 16 36 0) (2 ^ 30) (2 * 2 ^ 34) (min (reserveBase s) (3 * 2 ^ 34)) = some (2 * 2 ^ 34)) ∧
    (let s := withStart (withCmd one stackEntry) fun x => { x with stackOk := 0x3B }
     mayStart s 0 0x0310 = some (cmd0 stackEntry) ∧ instAhead s (cmd0 stackEntry) = false ∧ instRefusal s 1 = none ∧
      poolUse s 1 + fld stackEntry 16 36 0 ≤ (quotaOf s 1).poolBytes ∧ regionOf s 1 0 = none ∧ (∀ z ∈ s.pool.zeroing, z.inst ≠ 1) ∧
      s.start.stackOk.getLsbD 2 = false) ∧
    (let line := reserveBase base / 64
     running base = true ∧ base.start.scrubDone = true ∧ base.pm.state ≠ 2 ∧ stackOf base (64 * line) = some 5 ∧
      base.pool.stackOut.getLsbD 5 = false ∧ (line + 1) % 2 ^ 28 ≠ 0 ∧ base.pool.failed.contains line = false ∧ reserveBase base ≤ 64 * line) := by
  decide +kernel
theorem test_hyps_TpeObjects_reduce :
    tget (withCtx (ctx0 .ready [run0 reduce])).ctxs 3 = some (ctx0 .ready [run0 reduce]) ∧ (ctx0 .ready [run0 reduce]).state = .ready ∧
    (reduceOf (ctx0 .ready [run0 reduce])).isSome = true := by decide +kernel
theorem test_hyps_KeySlots_mapped :
    (let e := ent 0x0502 [(8, 13, 0, 1)]
     let s := { withCmd (withKeys one [(1, key0 1)] []) e with mirrors := [(1, { mirror0 with entries := [(4096, BitVec.ofNat 128 (1 + 5 * 8))] })] }
     mayStart s 0 0x0502 = some (cmd0 e) ∧ instAhead s (cmd0 e) = false ∧ instRefusalFrozen s 1 = none ∧ tget s.cipher.keys 1 = some (key0 1) ∧
      (key0 1).inst = 1 ∧ kselMapped s (key0 1) = true ∧
      earlierRuns s 0 (fun b => cmdInst b == 1 && (cmdOpcode b == 0x0301 || cmdOpcode b == 0x0302 || cmdOpcode b == 0x0502)) = false) ∧
    ({ sa0 with retiring := some 5 }.retiring ≠ none) ∧ ({ sa0 with rxPhase := true, pending := false, retiring := none }.pending = false) ∧
    (let s := { seeding with cipher := { seeding.cipher with ctxKey := some 1 } }
     running s = true ∧ s.start.entropyFailed = false ∧ s.start.seeded = false ∧ s.cipher.ctxKey.isSome = true) ∧
    (let s := { base with cipher := { base.cipher with testing := true } }
     running s = true ∧ s.start.entropyFailed = false ∧ s.start.seeded = true ∧ s.cipher.testing = true ∧ s.start.entropyRuns < 2) := by decide +kernel
theorem test_hyps_PathsAndRates_more :
    (let e := entry 0x0600 [(12, 2, 2, 1), (12, 1, 0, 2)]
     let s := withCmd base e
     mayStart s 0 0x0600 = some (cmd0 e) ∧ instAhead s (cmd0 e) = false ∧ bit e 12 2 = true ∧ fld e 12 1 0 = 2) ∧
    (let e := entry 0x0600 [(8, 23, 0, 5)]
     let s := withCmd base e
     mayStart s 0 0x0600 = some (cmd0 e) ∧ instAhead s (cmd0 e) = false ∧ bit e 12 2 = false ∧ s.start.image = some img0 ∧
      img0.planes.getLsbD (planeOf 5) = true ∧ 5 = ownCoord s) := by decide +kernel
theorem test_hyps_Rings_recall :
    (let r := { ring0 with reading := some 15, state := .recalling, recallAt := some (0, 1) }
     getRing (bellPage r) .sq 2 = some r ∧ r.reading = some 15 ∧ live (bellPage r) = true ∧ locUp (bellPage r) r.loc = true ∧
      r.recallAt = some (0, 1) ∧ r.state = .recalling) ∧
    (let r := { ring0 with reading := some 15 }
     let s := { cold with cqs := [(0, cq0)], qps := [(2, { qp0 .frozen with sq := r })] }
     getRing s .sq 2 = some r ∧ live s = true ∧ locUp s r.loc = true ∧ r.recallAt = none ∧ r.state = .enabled ∧ instFrozen s (ringInst s .sq 2) = true) := by
  decide +kernel
theorem test_hyps_SqEntryStart_more :
    (let e := entry 2 []
     nextStart (sqWith e).sq = some (taken0 e) ∧ sqMayStart (withQp (sqWith e)) (sqWith e) (taken0 e) = true ∧ sendLegal e = true ∧
      overLength e = false ∧ fld e 0 7 0 = 2 ∧ fld e 4 31 0 = 0) ∧
    (let e := entry 2 [(4, 31, 0, 1)]
     sqMayStart (withQp (sqWith e)) (sqWith e) (taken0 e) = true ∧ sendLegal e = true ∧ overLength e = false ∧ fld e 0 7 0 = 2 ∧ fld e 4 31 0 ≠ 0) := by
  decide +kernel
/-- A sealed kite of four bytes, its header `h`, from the same sender. -/
def sealedKite (h : Bytes) : Bytes := sealDatagram (List.replicate 16 1) (envelope 2 0 (spiOf 8 false) 70001) [(h, [1, 2, 3, 4])]
def kite4 : Pkt := { pkt0 1 200 with payload := [1, 2, 3, 4] }
theorem test_hyps_FrameReceived_kite :
    outerOf img0 0 true (frameOf (sealedKite (pktHeader kite4))) = urosh0 (sealedKite (pktHeader kite4)) ∧
    envelopeLegal (sealedKite (pktHeader kite4)) = true ∧ ackParts (sealedKite (pktHeader kite4)) = some [(pktHeader kite4, [1, 2, 3, 4])] ∧
    parseBody 2 [(pktHeader kite4, [1, 2, 3, 4])] = some (.kite kite4) ∧ parseBody 2 [(List.replicate 32 0, [1, 2, 3, 4])] = none ∧
    ackParts (sealedKite (List.replicate 32 0)) = some [(List.replicate 32 0, [1, 2, 3, 4])] ∧
    rxClass (count sealed 1 0 0 1) none 0 = 0 ∧ rxFits sealed 0 0 (wireLen (frameOf (sealedKite (pktHeader kite4)))) = true ∧
    rxFits { sealed with classes := base.classes.map fun c => { c with reserve := 0 } } 0 0
      (wireLen (frameOf (sealedKite (pktHeader kite4)))) = false := by decide +kernel
theorem test_hyps_FrameReceived_phases :
    sa0.dead = false ∧ phaseOf sa0 true = none ∧ { sa0 with dead := true }.dead = true := by decide +kernel
theorem test_hyps_DatagramsReceived_more :
    tget one.qps 2 = none ∧ { qp0 .ready with oldCoord := some 6 }.oldCoord = some (dgram0 (.train [])).src ∧ (qp0 .ready).oldCoord ≠ some 6 ∧
    (qp0 .reset).state = .reset ∧ { pkt0 3 200 with tag := 1 }.op = 3 ∧ { held0 with mark := .placed }.mark = .placed ∧
    { held0 with mark := .refused 0x42 3 }.mark = .refused 0x42 3 ∧
    (let r := { held0 with waitAt := some 5, miss := false }
     r.mark = .held ∧ r.miss = false ∧ r.staging = false ∧ r.waitAt = some 5) ∧
    (ctlQp (withQp (qp0 .error)) (dgram0 (.train [])) 2 true = some (qp0 .error) ∧ (qp0 .error).state ≠ .ready ∧ (qp0 .error).state ≠ .draining) := by
  decide +kernel

/-! ### An image that passes -/
def zeros (n : Nat) : Bytes := List.replicate n 0
/-- The records up to OWL's filter 0: IDENTITY, FABRIC, PORTS. -/
def goodRecs : Bytes :=
  [1, 0, 1, 0, 8, 0, 0, 0, 5, 0, 0, 0, 16, 0, 0, 0] ++
  ([2, 0, 1, 0, 64, 0, 0, 0, 0xC0, 0x12, 1, 1, 10, 0, 0, 0] ++ (zeros 56 ++
  ([3, 0, 1, 0, 32, 0, 0, 0, 1, 1, 1, 1] ++ (zeros 12 ++ ([10, 0] ++ (zeros 14 ++ [5, 0, 1, 0, 0, 10, 0, 0, 1]))))))
/-- OWL's rule 0, the thermal trip, and the FIRMWARE record after the other rules. -/
def goodRule : Bytes := [1, 0, 5, 0, 0xE0, 6, 0, 0, 0, 0, 0, 0, 1]
def goodFirmware : Bytes := [7, 0, 1, 0, 0, 0, 0x10, 0] ++ zeros 1048576
def goodRest : Bytes := zeros 511 ++ (goodRule ++ (zeros 2035 ++ goodFirmware))
/-- The header's bytes before the body's CRC, and before its own. -/
def goodHead56 : Bytes := [0x58, 0x42, 0x42, 0x41, 1, 0, 64, 0, 0xD0, 0x0A, 0x10, 0, 5, 0] ++ zeros 42
def goodHead60 : Bytes := goodHead56 ++ leBytes 4 (crc32c (goodRecs ++ goodRest)).toNat
def goodPre : Bytes := goodHead60 ++ (leBytes 4 (crc32c goodHead60).toNat ++ goodRecs)
def goodImage : Bytes := goodPre ++ goodRest
theorem slice_zeros (a b : Bytes) (m off n : Nat) (h : a.length ≤ off) (k : off + n ≤ a.length + m) : slice (a ++ (zeros m ++ b)) off n = zeros n := by
  have e : ((a ++ (zeros m ++ b)).drop off).take n = zeros n := by
    rw [List.drop_append, List.drop_eq_nil_of_le h, List.nil_append, List.drop_append, List.take_append]
    simp only [zeros, List.drop_replicate, List.length_replicate, List.take_replicate]
    rw [show min n (m - (off - a.length)) = n by omega, show n - (m - (off - a.length)) = 0 by omega, List.take_zero, List.append_nil]
  simp only [slice, e]
  simp [zeros]
theorem leNat_zeros (n : Nat) : leNat (zeros n) = 0 := by
  induction n with
  | zero => rfl
  | succ n ih => simp [zeros, List.replicate_succ, leNat] at ih ⊢; exact ih
theorem goodPre_length : goodPre.length = 201 := by decide +kernel
/-- Every byte of OWL but those of filter 0 and rule 0 is zero. -/
theorem good_zeros (off n : Nat) (h : (201 ≤ off ∧ off + n ≤ 712) ∨ (725 ≤ off ∧ off + n ≤ 2760)) : slice goodImage off n = zeros n := by
  rcases h with h | h
  · exact slice_zeros goodPre _ 511 off n (by rw [goodPre_length]; exact h.1) (by rw [goodPre_length]; exact h.2)
  · have l : ((goodPre ++ zeros 511) ++ goodRule).length = 725 := by
      rw [List.length_append, List.length_append, goodPre_length, zeros, List.length_replicate]; rfl
    have e : goodImage = ((goodPre ++ zeros 511) ++ goodRule) ++ (zeros 2035 ++ goodFirmware) := by
      simp only [goodImage, goodRest, List.append_assoc]
    rw [e]
    exact slice_zeros _ _ 2035 off n (by rw [l]; exact h.1) (by rw [l]; exact h.2)
theorem good_fields (off n hi lo : Nat) (h : (201 ≤ off ∧ off + n ≤ 712) ∨ (725 ≤ off ∧ off + n ≤ 2760)) : leField goodImage off n hi lo = 0 := by
  rw [leField, good_zeros off n h, leNat_zeros]; simp
theorem good_filters (n : Nat) (h : n < 32) : ∀ x ∈ filterChecks goodImage (200 + 16 * n), x.2 = true := by
  by_cases z : n = 0
  · subst z; decide +kernel
  · have f (k m hi lo : Nat) (q : k + m ≤ 16) : leField goodImage (200 + 16 * n + k) m hi lo = 0 := good_fields _ _ _ _ (by omega)
    have s : slice goodImage (200 + 16 * n + 12) 4 = zeros 4 := good_zeros _ _ (by omega)
    have f0 := f 0 2 15 1 (by omega)
    simp only [Nat.add_zero] at f0
    intro x hx
    simp only [filterChecks, resv, resvBytes, s, List.mem_cons, List.mem_append, List.mem_map, List.mem_range, List.not_mem_nil, or_false,
      List.cons_append] at hx
    rcases hx with rfl | ⟨k, hk, rfl⟩ | rfl
    · simpa using f0
    · have := f (2 + 2 * k) 2 15 0 (by omega)
      simp only [← Nat.add_assoc] at this
      simp [this]
    · rfl
theorem good_rules (n : Nat) (h : n < 64) : ∀ x ∈ ruleChecks goodImage 200 (200 + 512 + 32 * n), x.2 = true := by
  by_cases z : n = 0
  · subst z; decide +kernel
  · have f (k m hi lo : Nat) (q : k + m ≤ 32) : leField goodImage (200 + 512 + 32 * n + k) m hi lo = 0 := good_fields _ _ _ _ (by omega)
    have f0 (m hi lo : Nat) (q : m ≤ 32) : leField goodImage (200 + 512 + 32 * n) m hi lo = 0 := good_fields _ _ _ _ (by omega)
    have s : slice goodImage (200 + 512 + 32 * n + 15) 17 = zeros 17 := good_zeros _ _ (by omega)
    have b : ∀ x ∈ zeros 17, x = (0 : Byte) := by decide
    simp [ruleChecks, resv, resvBytes, s, f, f0, fromTwos]
    exact b
theorem good_content : contentBad goodImage = none := by
  have bad (cs : List Check) (h : ∀ x ∈ cs, x.2 = true) : firstBad cs = none := by
    simp only [firstBad, Option.map_eq_none_iff, List.find?_eq_none]
    intro x hx; simp [h x hx]
  have owl : firstBad (recordChecks goodImage 1051344 3 5 192) = none := by
    apply bad
    have t : leField goodImage 192 2 15 0 = 5 := by decide +kernel
    intro x hx
    simp only [recordChecks, t, List.mem_append, owlChecks, List.mem_flatMap, List.mem_range] at hx
    rcases hx with hx | (⟨n, hn, hx⟩ | ⟨n, hn, hx⟩) | hx
    · revert x; decide +kernel
    · exact good_filters n hn x hx
    · exact good_rules n hn x hx
    · rw [List.mem_singleton] at hx; subst hx; decide +kernel
  have r1 : firstBad (recordChecks goodImage 1051344 0 5 64) = none := by decide +kernel
  have r2 : firstBad (recordChecks goodImage 1051344 1 5 80) = none := by decide +kernel
  have r3 : firstBad (recordChecks goodImage 1051344 2 5 152) = none := by decide +kernel
  have r7 : firstBad (recordChecks goodImage 1051344 5 5 2760) = none := by decide +kernel
  have f : leField goodImage 72 4 23 0 = 5 ∧ imageLen goodImage = 1051344 ∧ leField goodImage 64 2 15 0 = 1 ∧ leField goodImage 68 4 31 0 = 8 ∧
      leField goodImage 80 2 15 0 = 2 ∧ leField goodImage 84 4 31 0 = 64 ∧ leField goodImage 152 2 15 0 = 3 ∧ leField goodImage 156 4 31 0 = 32 ∧
      leField goodImage 192 2 15 0 = 5 ∧ leField goodImage 196 4 31 0 = 2560 ∧ leField goodImage 2760 2 15 0 = 7 ∧
      leField goodImage 2764 4 31 0 = 1048576 ∧ leField goodImage 12 2 15 0 = 5 := by decide +kernel
  obtain ⟨f1, f2, f3, f4, f5, f6, f7, f8, f9, f10, f11, f12, f13⟩ := f
  have h0 : firstBad [(12, decide (5 ≤ leField goodImage 12 2 15 0) && decide (leField goodImage 12 2 15 0 ≤ 7)), resvBytes goodImage 14 2,
      resvBytes goodImage 24 32] = none := by decide +kernel
  have go (fuel last n pos : Nat) (p : pos < 1051344) (g : firstBad (recordChecks goodImage 1051344 last 5 pos) = none) :
      contentFrom goodImage 1051344 5 (fuel + 1) last n pos =
        contentFrom goodImage 1051344 5 fuel (leField goodImage pos 2 15 0) (n + 1) (pos + 8 + leField goodImage (pos + 4) 4 31 0) := by
    rw [contentFrom, if_neg (by omega), g]
  have done : contentFrom goodImage 1051344 5 4 7 5 1051344 = none := by
    rw [contentFrom, if_pos (Nat.le_refl _), if_neg (by decide), f13]
    rfl
  rw [contentBad, h0]
  simp only [f1, f2]
  rw [go 8 0 0 64 (by decide) r1, f3, f4, go 7 1 1 80 (by decide) r2, f5, f6, go 6 2 2 152 (by decide) r3, f7, f8, go 5 3 3 192 (by decide) owl, f9, f10,
    go 4 5 4 2760 (by decide) r7, f11, f12]
  exact done
theorem good_reason : imageReason (some goodImage) true = 0 := by
  have l : goodHead60.length = 60 := by decide +kernel
  have le (n v : Nat) : (leBytes n v).length = n := by
    induction n generalizing v with
    | zero => rfl
    | succ n ih => simp [leBytes, ih]
  have e : goodImage = goodHead60 ++ (leBytes 4 (crc32c goodHead60).toNat ++ (goodRecs ++ goodRest)) := by
    simp only [goodImage, goodPre, List.append_assoc]
  have val (v : Word) : leNat (leBytes 4 v.toNat) = v.toNat := by
    have := v.isLt
    simp [leBytes, leNat]
    omega
  have fld4 (a b : Bytes) (v : Word) (n : Nat) (h : a.length = n) : leField (a ++ (leBytes 4 v.toNat ++ b)) n 4 31 0 = v.toNat := by
    have := v.isLt
    simp only [leField, slice, List.drop_append, h, List.drop_eq_nil_of_le (Nat.le_of_eq h), Nat.sub_self, List.nil_append, List.drop_zero,
      List.take_append, le, List.take_zero, List.append_nil, List.take_of_length_le (Nat.le_of_eq (le 4 _)), List.replicate_zero, val]
    omega
  have h60 : slice goodImage 0 60 = goodHead60 := by
    rw [e]; simp [slice, l]
  have c60 : leField goodImage 60 4 31 0 = (crc32c goodHead60).toNat := by rw [e]; exact fld4 _ _ _ 60 l
  have c56 : leField goodImage 56 4 31 0 = (crc32c (goodRecs ++ goodRest)).toNat := by
    rw [e, goodHead60, List.append_assoc]
    exact fld4 goodHead56 _ _ 56 (by decide +kernel)
  have lb : (goodRecs ++ goodRest).length = 1051280 := by
    simp only [List.length_append, goodRest, goodFirmware, zeros, List.length_replicate]
    decide +kernel
  have tail (a b c : Bytes) (n : Nat) (ha : a.length = 60) (hb : b.length = 4) (hc : c.length = n) : slice (a ++ (b ++ c)) 64 n = c := by
    simp [slice, List.drop_append, ha, hb, hc, List.drop_eq_nil_of_le, List.take_of_length_le (Nat.le_of_eq hc)]
  have body : slice goodImage 64 1051280 = goodRecs ++ goodRest := by rw [e]; exact tail _ _ _ _ l (le _ _) lb
  have len : imageLen goodImage = 1051344 := by decide +kernel
  have fw : firmwareSigned goodImage true = true := by decide +kernel
  have m : leField goodImage 0 4 31 0 = 0x41424258 ∧ leField goodImage 4 2 15 0 = 1 ∧ leField goodImage 6 2 15 0 = 64 := by decide +kernel
  simp [imageReason, m.1, m.2.1, m.2.2, len, h60, c60, c56, body, fw]
theorem test_hyps_StartUp_image :
    imageReason (some goodImage) true = 0 ∧ contentBad goodImage = none ∧ imageReason (some goodImage) false ≠ 0 := by
  refine ⟨good_reason, good_content, ?_⟩
  have m : ∀ b, firmwareSigned b false = false := fun _ => rfl
  simp only [imageReason, m]
  split_ifs <;> simp_all
theorem test_hyps_DeviceCommands_image : bufferGood (slice goodImage 0 1051344) 1051344 true = true := by
  have len : imageLen goodImage = 1051344 := by decide +kernel
  have n : goodImage.length = 1051344 := by
    simp only [goodImage, List.length_append, goodPre_length, goodRest, goodFirmware, zeros, List.length_replicate]
    decide +kernel
  have whole : slice goodImage 0 1051344 = goodImage := by simp [slice, n, List.take_of_length_le (Nat.le_of_eq n)]
  simp [whole, bufferGood, len, good_reason, good_content]

/-! ### Ill-formed operands: each check of WellFormed refuses one -/
theorem test_illformed_region : wellFormed (.governorEval 700 0 24) = false ∧ wellFormed (.governorEval 700 0 23) = true := by decide
theorem test_illformed_clock : wellFormed (.clockLossDetect 7 .gap) = false ∧ wellFormed (.clockWindowEnd 7 0) = false := by decide
theorem test_illformed_config :
    wellFormed (.configRequest (.msixControl (.vf 0) true false)) = false ∧ wellFormed (.configRequest (.msixMask (.vf 1025) 0 true)) = false ∧
    wellFormed (.configRequest (.ats (.vf 0) true)) = false ∧ wellFormed (.configRequest (.pri (.vf 0) true false 1)) = false ∧
    wellFormed (.configRequest (.setVfs true 1025)) = false ∧ wellFormed (.configRequest (.pasid (.vf 0) true)) = false ∧
    wellFormed (.configRequest (.readPriCapacity (.vf 0))) = false ∧ wellFormed (.configRequest (.deviceControl 3 0 false)) = false ∧
    wellFormed (.configRequest (.deviceControl 2 6 false)) = false ∧ wellFormed (.configRequest .readTotalVfs) = true := by decide
theorem test_illformed_aport : wellFormed (.aportRelease 4) = false ∧ wellFormed (.aportEnumDone 4 { isMemory := true, size := 1048576, payload := 0 }) = false := by decide
theorem test_illformed_access :
    wellFormed (.registerWrite (.hPf none) 0 2 0) = false ∧ wellFormed (.registerWrite (.hPf none) 0 4 (2 ^ 32)) = false ∧
    wellFormed (.registerWrite (.hVf 0) 0 4 0) = false ∧ wellFormed (.registerWrite (.aPort 4 1) 0 4 0) = false ∧
    wellFormed (.registerWrite (.aPort 0 1025) 0 8 0) = false ∧ wellFormed (.registerWrite (.hPf none) 0 8 (2 ^ 32)) = true := by decide
theorem test_illformed_function : wellFormed (.vfFlr 0) = false ∧ wellFormed (.pageRequestIssue 1025) = false ∧ wellFormed (.prgResponse 1025 0 .success noMeets) = false := by
  decide
theorem test_illformed_slot : wellFormed (.nop 4096) = false ∧ wellFormed (.qpCreate 4095) = true ∧ wellFormed (.seedWaitTimeout (.admin 4096)) = false := by
  decide
theorem test_illformed_qp : wellFormed (.sqDoorbell 1 1048576) = false ∧ wellFormed (.rqDoorbell 1025 0) = false ∧ wellFormed (.ackDelayExpire 1048576) = false := by
  decide
theorem test_illformed_cq : wellFormed (.cqReturn 1 262144 1) = false ∧ wellFormed (.cqModTimer 262144) = false := by decide
theorem test_illformed_words :
    wellFormed (.tpeStepStart 0 [{ ctx := 256, weight := true, word := 0, bad := true }] noMeets) = false ∧
    wellFormed (.tpeStepStart 256 [] noMeets) = false ∧ wellFormed (.tpeStepStart 255 [] noMeets) = true := by decide
theorem test_illformed_ctx : wellFormed (.tpeDoorbell 1 256) = false ∧ wellFormed (.arrayStep { ctx := 256, meets := noMeets }) = false := by decide
theorem test_illformed_ring :
    wellFormed (.ringSlotRead .tpe 256 .failed true) = false ∧ wellFormed (.ringSlotRead .lookaside 1025 .failed true) = false ∧
    wellFormed (.ringSlotRead .sq 1048576 .failed true) = false ∧ wellFormed (.ringSlotRead .rq 1048575 .failed true) = true := by decide
theorem test_illformed_instance : wellFormed (.recallFirst 1025 0) = false ∧ wellFormed (.freezeDrained 1025) = false := by decide
theorem test_illformed_port : wellFormed (.frameTransmitStart 8) = false ∧ wellFormed (.portLockHeld 8) = false := by decide
theorem test_illformed_class : wellFormed (.pauseExpire 0 8) = false ∧ wellFormed (.wheelSlot 1 8) = false ∧ wellFormed (.trainCloseTimer 5 0 8) = false := by decide
theorem test_illformed_path : wellFormed (.pathHoldExpire 16777216 0) = false ∧ wellFormed (.pathHoldExpire 5 256) = false := by decide
theorem test_illformed_translation : wellFormed (.atsCompletion 0 (.page 0 11 true true) noMeets) = false := by decide
theorem test_illformed_stack : wellFormed (.poolStackFault 6) = false ∧ wellFormed (.patrolScrub 1610612736 .clean .other) = false := by decide
theorem test_illformed_channel :
    wellFormed (.mbxOutDoorbell (.pf 16) 1) = false ∧ wellFormed (.mbxInDoorbellClear (.inst 0) 1) = false ∧ wellFormed (.mbxInAck (.pf 0) 32 0) = false ∧
    wellFormed (.mbxMaskWrite (.secure 16) 0x808 0) = false ∧ wellFormed (.mbxMaskWrite (.pf 0) 0x810 0) = false ∧
    wellFormed (.mbxRelayDeliver (.inst 1 32) true) = false ∧ wellFormed (.mbxRelayDeliver (.pf 16) true) = false := by decide
theorem test_illformed_samples : wellFormed (.owlSample (List.replicate 31 0)) = false ∧ wellFormed (.owlSample (List.replicate 32 0)) = true := by decide
theorem test_illformed_aer : wellFormed (.aerErrorReported 5 .fatal) = false := by decide
theorem test_illformed_meets :
    wellFormed (.trainReceived { noMeets with lines := [(1610612736, .corrected)] }) = false ∧
    wellFormed (.kiteReceived { noMeets with words := [{ ctx := 256, weight := true, word := 0, bad := true }] }) = false ∧
    wellFormed (.trainReceived noMeets) = true := by decide

/-! ### Values of the manual's worked cases -/
/-- Tables 4-11 and 4-12: plane 1, pod 12, rack 40, unit 5 is coordinate 0x430A05, in plane 1. -/
theorem test_case_coordinate : planeOf 0x430A05 = 1 := by decide
def plane1 : Image :=
  { img0 with
    coord := 0x430A05, ipv4 := false, planes := 2, udpPort := 5120, vid := [100, 0, 0, 0]
    ipv6Prefix := List.replicate 8 0 ++ [0x20, 0x01, 0x0D, 0xB8, 0, 0, 1, 1] ++ List.replicate 16 0 }
/-- Chapter 8's case: the addresses of R185. -/
theorem test_case_addresses :
    ipOf plane1 0x430A05 = [0x20, 0x01, 0x0D, 0xB8, 0, 0, 1, 1, 0, 0, 0, 1, 0, 0x43, 0x0A, 0x05] ∧
    ipOf plane1 0x430A49 = [0x20, 0x01, 0x0D, 0xB8, 0, 0, 1, 1, 0, 0, 0, 1, 0, 0x43, 0x0A, 0x49] ∧
    coordOf plane1 (ipOf plane1 0x430A49) = some 0x430A49 := by decide
def cellOf (psn : Word) (va : Nat) (last : Bool) : Pkt :=
  { pkt0 1 psn with cell := true, last := last, dstQpn := 0xB20, va := va, payload := List.replicate 48 0 }
/-- Table 8-19: the envelope and both cell headers. -/
theorem test_case_cells :
    envelope 1 2 (spiOf 0x1F40 false) 0x377 = [0x11, 2, 0, 0, 0, 0, 0x1F, 0x40, 0, 0, 0, 0, 0, 0, 3, 0x77] ∧
    pktHeader (cellOf 0x12345600 0x4000002000 false) = [0x10, 0, 0x0B, 0x20, 0x12, 0x34, 0x56, 0, 0xC0, 0, 0, 0x40, 0, 0, 0x20, 0] ∧
    pktHeader (cellOf 0x12345601 0x4000002030 true) = [0x11, 0, 0x0B, 0x20, 0x12, 0x34, 0x56, 1, 0xC0, 0, 0, 0x40, 0, 0, 0x20, 0x30] := by decide
/-- Table 8-18: TCI, first word, ports and length of the train's frame, whose 160 payload bytes are zeros here. -/
theorem test_case_outer :
    let f := uroshFrame plane1 0x430A05 0 (List.replicate 6 0) 2 26 17 0x430A49 true (List.replicate 160 0)
    slice f 12 10 = [0x81, 0x00, 0x40, 0x64, 0x86, 0xDD, 0x66, 0xA1, 0x00, 0x11] ∧ slice f 58 6 = [0xC0, 0x11, 0x14, 0x00, 0, 168] ∧
      wireLen f = 230 := by decide +kernel
/-- The case's ACK body. -/
theorem test_case_ack :
    ctlBytes 0xA10 (.ack { nak := false, resend := false, cum := 0x12345602, trigger := 0x12345601, holdNs := 150, ce := 0, nakPsn := 0, nakStatus := 0
                           nakSub := 0, sack := [] }) =
      [1, 0, 0, 0x20, 0, 0, 0x0A, 0x10, 0x12, 0x34, 0x56, 2, 0x12, 0x34, 0x56, 1, 0, 0, 0, 0x96, 0, 0, 0, 0, 0, 0, 0, 0, 0, 0, 0, 0] := by decide
/-- Chapter 10's case: list B as its bytes stand. -/
theorem test_case_gate_list :
    gateEntries 2 [0x20, 0x4E, 0, 0, 0x20, 0, 0, 0, 0x88, 0x13, 0, 0, 0xDF, 0, 0, 0] = [(20000, 0x20, 0), (5000, 0xDF, 0)] := by decide
/-- Chapter 13's case: its three columns, and their E4M3 row with its flags. -/
theorem test_case_array :
    let x := (decodeFmt 1 4 [0x80, 0x4B, 0x80, 0x3F, 0x80, 0x3F, 0x80, 0xCB]).1
    let col (b : Bytes) := (decodeFmt 1 4 b).1
    accumulate 0x3F000000 x (col [0x80, 0x3F, 0x80, 0x3F, 0x80, 0x3F, 0x80, 0x3F]) = (0x40200000, 0) ∧
    accumulate 0 x (col [0, 0, 0x7A, 0x44, 0, 0, 0, 0]) = (0x447A0000, 0) ∧
    accumulate 0 x (col [0x80, 0x7F, 0, 0, 0, 0, 0x80, 0x7F]) = (0x7FC00000, 0x01) ∧
    encodeFmt 3 [fp 0x40200000, fp 0x447A0000, fp 0x7FC00000] = ([0x42, 0x7E, 0x7F], 0x06) := by decide +kernel
/-! ### Check values of the standards the manual cites -/
/-- CRC-32C of the digits 1 to 9. -/
theorem test_crc32c : crc32c [0x31, 0x32, 0x33, 0x34, 0x35, 0x36, 0x37, 0x38, 0x39] = 0xE3069283 := by decide +kernel
/-- FIPS 197, C.1 and C.3. -/
theorem test_aes :
    let key (n : Nat) : Bytes := (List.range n).map (BitVec.ofNat 8)
    let pt : Bytes := (List.range 16).map fun i => BitVec.ofNat 8 (17 * i)
    aesBlock (roundKeys (key 16)) pt = beBytes 16 0x69C4E0D86A7B0430D8CDB78070B4C55A ∧
    aesBlock (roundKeys (key 32)) pt = beBytes 16 0x8EA2B7CA516745BFEAFC49904B496089 ∧
    aesInvBlock (roundKeys (key 32)) (beBytes 16 0x8EA2B7CA516745BFEAFC49904B496089) = pt := by decide +kernel
/-- The GCM specification's test case 2. -/
theorem test_gcm :
    gcmSeal (List.replicate 16 0) (List.replicate 12 0) [] (List.replicate 16 0) =
      (beBytes 16 0x0388DACE60B6A392F328C2B971B2FE78, beBytes 16 0xAB6E47D42CEC13BDF53A67B21257BDDF) := by decide +kernel
/-- XTS takes back what it gives, with and without a part block. -/
theorem test_xts :
    let key : Bytes := (List.range 64).map (BitVec.ofNat 8)
    xts false key (leBytes 16 7) (xts true key (leBytes 16 7) (List.replicate 32 9)) = List.replicate 32 9 ∧
    xts false key (leBytes 16 7) (xts true key (leBytes 16 7) (List.replicate 20 9)) = List.replicate 20 9 := by decide +kernel
/-- Table 20-8: what stepping A1 has otherwise, of what software sees. -/
theorem test_case_steppings :
    (Config.ident false).extractLsb' 16 4 = 2 ∧ (Config.ident true).extractLsb' 16 4 = 1 ∧ idcode true = 0x14800A4F ∧
    (let store (f : Nat) : Entry := entry 0x0A [(2, 7, 4, f), (8, 63, 0, 0x100000), (16, 31, 0, 256)]
     stepLegal false (store 7) = true ∧ stepLegal true (store 7) = false ∧ stepLegal true (store 8) = false ∧ stepLegal true (store 9) = true) := by
  decide +kernel

end Sys2Proof.Tests
end

section
/-!
Gate control lists that take over at their instant (R22, R248, R251): what a takeover and an installation make of the port they name, and
that they leave the other ports and device time as they are.
-/

namespace Sys2Proof.Machine

/-! ### Ports and device time under the operations a takeover is made of -/

theorem OnlyReports.ports_eq {s t : State} (h : OnlyReports s t) : t.ports = s.ports := h.eq_of (·.ports) fun _ => rfl

theorem OnlyReports.time_eq {s t : State} (h : OnlyReports s t) : t.time = s.time := h.eq_of (·.time) fun _ => rfl

@[simp] theorem post_ports (s : State) (code : BitVec 16) (data : BitVec 96) : (post s code data).ports = s.ports :=
  (post_onlyReports s code data).ports_eq

@[simp] theorem post_time (s : State) (code : BitVec 16) (data : BitVec 96) : (post s code data).time = s.time :=
  (post_onlyReports s code data).time_eq

@[simp] theorem getElem?_lmod_same {α : Type} (l : List α) (i : Nat) (f : α → α) : (lmod l i f)[i]? = l[i]?.map f :=
  List.getElem?_modify_eq f i l

theorem getElem?_lmod_of_ne {α : Type} (l : List α) {i j : Nat} (f : α → α) (h : j ≠ i) : (lmod l i f)[j]? = l[j]? :=
  List.getElem?_modify_ne f l h.symm

/-- Between `s` and `t` device time stays, and every port but `n`. -/
structure PortOnly (n : Nat) (s t : State) : Prop where
  time   : t.time = s.time
  others : ∀ k, k ≠ n → t.ports[k]? = s.ports[k]?

theorem PortOnly.refl (n : Nat) (s : State) : PortOnly n s s := ⟨rfl, fun _ _ => rfl⟩

theorem PortOnly.trans {n : Nat} {s t u : State} (h : PortOnly n s t) (k : PortOnly n t u) : PortOnly n s u :=
  ⟨k.time.trans h.time, fun i hi => (k.others i hi).trans (h.others i hi)⟩

theorem OnlyReports.portOnly {s t : State} (h : OnlyReports s t) (n : Nat) : PortOnly n s t :=
  ⟨h.time_eq, fun _ _ => by rw [h.ports_eq]⟩

theorem modPort_portOnly (s : State) (n : Nat) (f : Port → Port) : PortOnly n s (modPort s n f) :=
  ⟨rfl, fun _ hk => getElem?_lmod_of_ne s.ports f hk⟩

theorem modPort_port {s : State} {n : Nat} {p : Port} (h : s.ports[n]? = some p) (f : Port → Port) :
    (modPort s n f).ports[n]? = some (f p) := by
  simp [modPort, h]

theorem portOf_eq {s : State} {n : Nat} {p : Port} (h : s.ports[n]? = some p) : portOf s n = p := by
  simp [portOf, List.getD_eq_getElem?_getD, h]

/-! ### The takeover (R248) -/

theorem gateRefreshPort_portOnly (s : State) (n : Nat) : PortOnly n s (gateRefreshPort s n) := by
  unfold gateRefreshPort
  split
  · exact .refl n s
  · dsimp only
    split
    · exact (modPort_portOnly s n _).trans ((post_onlyReports _ _ _).portOnly n)
    · exact .refl n s

/-- GATE_STATE changes nothing of its port but which state was posted last (R253). -/
theorem gateRefreshPort_port {s : State} {n : Nat} {p : Port} (h : s.ports[n]? = some p) :
    ∃ b, (gateRefreshPort s n).ports[n]? = some { p with applied := b } := by
  simp only [gateRefreshPort, h]
  split
  · exact ⟨_, by rw [post_ports]; exact modPort_port h _⟩
  · exact ⟨p.applied, h⟩

theorem gateTakeover_portOnly (s : State) (n : Nat) : PortOnly n s (gateTakeover s n) := by
  unfold gateTakeover
  split
  · exact .refl n s
  · split
    · exact .refl n s
    · have posted (f : Port → Port) (code data) : PortOnly n s (post (modPort s n f) code data) :=
        (modPort_portOnly s n f).trans ((post_onlyReports _ _ _).portOnly n)
      dsimp only
      split
      · exact (posted _ _ _).trans (gateRefreshPort_portOnly _ n)
      · exact (posted _ _ _).trans (modPort_portOnly _ n _)

/-- The pending list becomes the running one and a disagreement with the peer ends (R248, R254). -/
theorem gateTakeover_port {s : State} {n : Nat} {p : Port} {l : GateList} (hp : s.ports[n]? = some p) (hl : p.pendList = some l) :
    ∃ b, (gateTakeover s n).ports[n]? = some { p with running := some l, pendList := none, disagree := none, applied := b } := by
  have posted (code data) : (post (modPort s n fun q => { q with running := some l, pendList := none, disagree := none }) code data).ports[n]? =
      some { p with running := some l, pendList := none, disagree := none } := by
    rw [post_ports]; exact modPort_port hp _
  simp only [gateTakeover, hp, hl]
  split
  · exact gateRefreshPort_port (posted _ _)
  · exact ⟨_, modPort_port (posted _ _) _⟩

/-- One port's turn among the takeovers due. -/
def takeoverIfDue (s : State) (n : Nat) : State :=
  match s.ports[n]? with
  | some p => match p.pendList with
    | some l => if l.takeover ≤ s.time.dev.toNat then gateTakeover s n else s
    | none => s
  | none => s

theorem gateTakeoversDue_eq (s : State) : gateTakeoversDue s = (List.range 8).foldl takeoverIfDue s := rfl

theorem takeoverIfDue_portOnly (s : State) (n : Nat) : PortOnly n s (takeoverIfDue s n) := by
  unfold takeoverIfDue
  split
  · split
    · split
      · exact gateTakeover_portOnly s n
      · exact .refl n s
    · exact .refl n s
  · exact .refl n s

theorem takeoverIfDue_of_early {s : State} {n : Nat} {p : Port} {l : GateList} (hp : s.ports[n]? = some p) (hl : p.pendList = some l)
    (early : s.time.dev.toNat < l.takeover) : takeoverIfDue s n = s := by
  simp [takeoverIfDue, hp, hl, early]

/-- The takeovers due leave a port alone whose own has not come: the other ports' do not touch it, and its own turn does nothing. -/
theorem gateTakeoversDue_port_of_early {s : State} {n : Nat} {p : Port} {l : GateList} (hp : s.ports[n]? = some p)
    (hl : p.pendList = some l) (early : s.time.dev.toNat < l.takeover) : (gateTakeoversDue s).ports[n]? = some p := by
  have kept : (gateTakeoversDue s).time = s.time ∧ (gateTakeoversDue s).ports[n]? = some p := by
    rw [gateTakeoversDue_eq]
    refine List.foldlRecOn (motive := fun t : State => t.time = s.time ∧ t.ports[n]? = some p) _ _ ⟨rfl, hp⟩ fun t ⟨ht, htp⟩ k _ => ?_
    by_cases hk : n = k
    · subst hk
      rw [takeoverIfDue_of_early htp hl (ht ▸ early)]
      exact ⟨ht, htp⟩
    · have h := takeoverIfDue_portOnly t k
      exact ⟨h.time.trans ht, (h.others n hk).trans htp⟩
  exact kept.2

/-! ### The list that governs (R22, R249, R253) -/

theorem gatesOpen_of_running {s : State} {p : Port} {r : GateList} {t : Nat} (hr : p.running = some r) (ha : gateApplied s p = true)
    (before : ∀ l, p.pendList = some l → t < l.takeover) : gatesOpen s p t = r.gatesAt t := by
  cases hl : p.pendList with
  | some l => simp [gatesOpen, hl, Nat.not_le.2 (before l hl), ha, hr]
  | none => simp [gatesOpen, hl, ha, hr]

theorem gatesOpen_of_pending {s : State} {p : Port} {l : GateList} {t : Nat} (hl : p.pendList = some l) (ht : s.time.trusted = true)
    (come : l.takeover ≤ t) : gatesOpen s p t = l.gatesAt t := by
  simp [gatesOpen, hl, ht, come]

/-! ### GATE_TAKEOVER -/

theorem exec_gateTakeover (n : Nat) (s : State) : exec (.gateTakeover n) s = execGateTakeover n s := rfl

theorem execGateTakeover_of_pending {s : State} {n : Nat} {p : Port} {l : GateList} (hp : s.ports[n]? = some p) (hl : p.pendList = some l) :
    exec (.gateTakeover n) s = .next (if live s && decide (l.takeover ≤ s.time.dev.toNat) then gateTakeover s n else s) := by
  simp [exec_gateTakeover, execGateTakeover, hp, hl]

theorem execGateTakeover_of_no_pending {s : State} {n : Nat} (h : ∀ p, s.ports[n]? = some p → p.pendList = none) :
    exec (.gateTakeover n) s = .next s := by
  cases hp : s.ports[n]? with
  | none => simp [exec_gateTakeover, execGateTakeover, hp]
  | some p => simp [exec_gateTakeover, execGateTakeover, hp, h p hp]

/-- At its instant the pending list takes over: it runs, it governs, and the other ports stay as they are. -/
theorem execGateTakeover_of_due {s : State} {n : Nat} {p : Port} {l : GateList} (hp : s.ports[n]? = some p) (hl : p.pendList = some l)
    (hlive : live s = true) (due : l.takeover ≤ s.time.dev.toNat) :
    ∃ u q, exec (.gateTakeover n) s = .next u ∧ u.ports[n]? = some q ∧ q.running = some l ∧ q.pendList = none ∧ q.disagree = none ∧
      (∀ t, s.time.trusted = true → gatesOpen u q t = l.gatesAt t) ∧ ∀ k, k ≠ n → u.ports[k]? = s.ports[k]? := by
  obtain ⟨b, hq⟩ := gateTakeover_port hp hl
  have frame := gateTakeover_portOnly s n
  refine ⟨_, _, by rw [execGateTakeover_of_pending hp hl, hlive, decide_eq_true due]; rfl, hq, rfl, rfl, rfl, fun t ht => ?_, frame.others⟩
  exact gatesOpen_of_running rfl (by simp [gateApplied, frame.time, ht]) (by simp)

/-! ### GATE_LIST_INSTALL (R251) -/

/-- The list that a GATE_LIST_INSTALL entry and the array it names describe. -/
def installedList (e : Entry) (b : Bytes) : GateList :=
  { entries := (gateEntries (fld e 10 8 0) b).map fun x => (x.1, x.2.1), takeover := fld e 16 63 0, guardNs := fld e 12 31 0 }

theorem exec_gateListInstall (slot : Nat) (buf : Option Bytes) (s : State) :
    exec (.gateListInstall slot buf) s = execGateListInstall slot buf s := rfl

theorem completeEntry_ports (s : State) (slot : Nat) (res : Entry) (status : BitVec 8) (reason : Nat) :
    (completeEntry s slot res status reason).ports = s.ports := by
  rw [(completeEntry_onlyReports s slot res status reason).ports_eq]
  unfold admDone admSettle admFetch
  split
  · rfl
  · split
    · exact (emit_onlyReports _ _).ports_eq
    · rfl

theorem completeWith_ports (s : State) (slot : Nat) (f : Entry → Entry) : (completeWith s slot f).ports = s.ports := by
  unfold completeWith
  split
  · exact completeEntry_ports _ _ _ _ _
  · rfl

/-- A GATE_LIST_INSTALL that no rule refuses: the takeovers due come first, then its list becomes the port's pending one. -/
theorem execGateListInstall_of_legal {s : State} {slot : Nat} {c : AdminCmd} {b : Bytes} (hc : CanStart s slot 0x0612 c)
    (inOrder : earlierRuns s slot (samePort (fld c.entry 8 2 0)) = false) (hport : (portOf s (fld c.entry 8 2 0)).state ≠ .disabled)
    (htime : s.time.state ≠ .unset) (ahead : s.time.dev.toNat + 10000 ≤ fld c.entry 16 63 0)
    (legal : ∀ x ∈ gateEntries (fld c.entry 10 8 0) b, 8 ≤ x.1 ∧ x.1 ≤ 1000000000 ∧ x.2.2 = 0) :
    exec (.gateListInstall slot (some b)) s = .next (completeWith
      (modPort (gateTakeoversDue s) (fld c.entry 8 2 0) fun p => { p with pendList := some (installedList c.entry b) }) slot
      fun e => putFld e 32 63 0 (installedList c.entry b).cycle) := by
  have hall : ((gateEntries (fld c.entry 10 8 0) b).all fun x => decide (8 ≤ x.1) && decide (x.1 ≤ 1000000000) && x.2.2 == 0) = true := by
    simpa [and_assoc] using legal
  have hrefuse : firstRefusal [((portOf s (fld c.entry 8 2 0)).state == .disabled, stAborted, rsUnitOut),
      (s.time.state == .unset, stAborted, 0x0A03)] = none := by
    simp [firstRefusal, hport, htime]
  simp only [exec_gateListInstall, execGateListInstall, startAdmin_of_canStart hc, inOrder, hrefuse, settle, hall, Nat.not_lt.2 ahead, Bool.not_true,
    Bool.false_eq_true, if_false]
  rfl

/-- On a port whose pending list has not taken over, the list installed replaces it with the instant stated, and the running list stays. -/
theorem execGateListInstall_port {s : State} {slot n : Nat} {c : AdminCmd} {b : Bytes} {p : Port} {l : GateList}
    (hp : s.ports[n]? = some p) (hl : p.pendList = some l) (early : s.time.dev.toNat < l.takeover)
    (hc : CanStart s slot 0x0612 c) (hn : fld c.entry 8 2 0 = n) (hport : p.state ≠ .disabled)
    (inOrder : earlierRuns s slot (samePort n) = false) (htime : s.time.state ≠ .unset)
    (ahead : s.time.dev.toNat + 10000 ≤ fld c.entry 16 63 0)
    (legal : ∀ x ∈ gateEntries (fld c.entry 10 8 0) b, 8 ≤ x.1 ∧ x.1 ≤ 1000000000 ∧ x.2.2 = 0) :
    ∃ u, exec (.gateListInstall slot (some b)) s = .next u ∧
      u.ports[n]? = some { p with pendList := some (installedList c.entry b) } := by
  subst hn
  refine ⟨_, execGateListInstall_of_legal hc inOrder (by rwa [portOf_eq hp]) htime ahead legal, ?_⟩
  rw [completeWith_ports]
  exact modPort_port (gateTakeoversDue_port_of_early hp hl early) _

end Sys2Proof.Machine

namespace Sys2Proof.Proofs

open Sys2Proof.Machine

/-- Settles O36, from what a takeover and an installation make of their port, with the list that governs in each case. -/
theorem gateTakeover : Obligations.GateTakeover := by
  unfold Obligations.GateTakeover
  refine ⟨fun port s p l hp hl => ⟨fun early => ?before, fun r t hr ha ht => ?runs, fun t ht come => ?governs, fun down => ?down,
    execGateTakeover_of_due hp hl, fun slot b c hc hn hport inOrder early htime ahead legal => ?install⟩,
    fun port s => execGateTakeover_of_no_pending⟩
  case before => simp [execGateTakeover_of_pending hp hl, Nat.not_le.2 early]
  case runs => exact gatesOpen_of_running hr ha fun m hm => by cases hl.symm.trans hm; exact ht
  case governs => exact gatesOpen_of_pending hl ht come
  case down => simp [execGateTakeover_of_pending hp hl, down]
  case install =>
    obtain ⟨u, hu, hq⟩ := execGateListInstall_port hp hl early hc hn hport inOrder htime ahead legal
    exact ⟨u, _, installedList c.entry b, hu, hq, rfl, rfl, rfl⟩

end Sys2Proof.Proofs
end

section
/-!
PERCH_N in Perch (R43). `Change` says what one step can make of the fields that `Same` names: it is made of the operations of the supply,
of resets, of start-up and of Perch, and every meaning but RAILS_GOOD is such a change. The pin's invariant follows by induction on it.
-/

namespace Sys2Proof.Machine

/-! ### What a step can make of the supply, STAGE and PERCH_N -/

/-- A change of state made of the operations beyond `Same`. None of them brings the powered state: RAILS_GOOD alone does. -/
inductive Change : State → State → Prop
  | same {s t : State} (h : Same s t) : Change s t
  | trans {s t u : State} (h : Change s t) (k : Change t u) : Change s u
  | perch (s : State) (cause : BitVec 8) (info : Word) : Change s (enterPerch s cause info)
  | ready (s : State) : Change s (checkReady s)
  | trip (s : State) : Change s (thermalTrip s)
  | step5 (s : State) (straps : BitVec 5) : Change s (enterStep5 s straps)
  | powerDown (s : State) : Change s { s with power := { s.power with phase := .poweringDown } }
  | reset (s : State) {phase : Phase} (railsUp : Bool) (h : phase ≠ .up) : Change s (resetDevice s phase railsUp)
  | supply {s : State} (h : s.power.phase = .off) : Change s { s with
      pins := { s.pins with thermtripN := .hiZ, perchN := .hiZ }, power := { Power.reset with phase := .waiting } }
  | drive {s : State} (d : Drive) (h : s.start.stage ≠ 0xF) : Change s { s with pins := { s.pins with perchN := d } }
  | core {s : State} (mv : BitVec 16) (h : 620 ≤ s.power.coreMv.toNat ∧ s.power.coreMv.toNat ≤ 880 → 620 ≤ mv.toNat ∧ mv.toNat ≤ 880) :
      Change s { s with power := { s.power with coreMv := mv } }

theorem Change.perch_of_same {s t : State} (h : Same s t) (cause : BitVec 8) (info : Word) : Change s (enterPerch t cause info) :=
  .trans (.same h) (.perch ..)

theorem Change.ready_of_same {s t : State} (h : Same s t) : Change s (checkReady t) := .trans (.same h) (.ready _)

/-- A meaning whose next states are changes. -/
structure Changes (s : State) (r : Result) : Prop where
  change : ∀ t, r = .next t → Change s t

theorem Changes.next {s t : State} (h : Change s t) : Changes s (.next t) := ⟨by rintro u ⟨⟩; exact h⟩

theorem Changes.same {s t : State} (h : Same s t) : Changes s (.next t) := .next (.same h)

theorem Changes.stay (s : State) : Changes s (.next s) := .same (.refl s)

theorem Kept.changes {s : State} {r : Result} (h : Kept s r) : Changes s r := ⟨fun t ht => .same (h.same t ht)⟩

/-! ### The meanings of the supply and of resets -/

theorem resetDevice_stage_ne (s : State) (phase : Phase) (railsUp : Bool) : (resetDevice s phase railsUp).start.stage ≠ 0xF := by
  obtain ⟨_, _, _, start, _⟩ := resetDevice_eqs s phase railsUp
  rw [start]
  decide

theorem execVinRise_changes (mv : Nat) (s : State) : Changes s (execVinRise mv s) := by
  unfold execVinRise
  split
  · exact Kept.fault.changes
  · split
    · rename_i h
      simp only [Bool.and_eq_true, beq_iff_eq] at h
      exact .next (.supply h.1)
    · exact .stay s

theorem execOwlSelftestDone_changes (ok : Bool) (s : State) : Changes s (execOwlSelftestDone ok s) := by
  have pin : Change s { s with pins := { s.pins with perchN := if s.start.stage == 0xF then s.pins.perchN else .inactive } } := by
    split
    · exact .same (.refl s)
    · rename_i h
      exact .drive .inactive (by simpa using h)
  unfold execOwlSelftestDone
  split
  · cases ok
    · exact .next (pin.trans (.perch_of_same ((Same.refl _).keep ..) ..))
    · exact .next (pin.trans (.same ((Same.refl _).keep ..)))
  · exact .stay s

theorem execPwrOkRise_changes (straps : BitVec 5) (s : State) : Changes s (execPwrOkRise straps s) :=
  .next (.trans (.same ((Same.refl s).keep ..)) (.step5 ..))

theorem execFullResetAssert_changes (pin : ResetPin) (lowNs : Nat) (s : State) : Changes s (execFullResetAssert pin lowNs s) := by
  have low : Same s { setResetPin s pin false with fresh := s.fresh + 1 } := (setResetPin_same s pin false (.refl s)).keep ..
  have reset : Change s (resetDevice { setResetPin s pin false with fresh := s.fresh + 1 } .waiting s.power.railsUp) :=
    .trans (.same low) (.reset _ _ (by decide))
  unfold execFullResetAssert
  split
  · exact .same ((Same.refl s).keep ..)
  · dsimp only
    split
    · exact .next reset
    · exact .next reset
    · exact .next reset
    · exact .same low

theorem execFullResetRelease_changes (pin : ResetPin) (straps : BitVec 5) (s : State) : Changes s (execFullResetRelease pin straps s) :=
  .next (.trans (.same (setResetPin_same s pin true (.refl s))) (.step5 ..))

theorem execPwrOkFall_changes (s : State) : Changes s (execPwrOkFall s) := by
  have low : Same s { s with pins := { s.pins with pwrOk := false } } := (Same.refl s).keep ..
  have down := Change.trans (.same (stopLinks_same _ low)) (.powerDown _)
  unfold execPwrOkFall
  dsimp only
  split
  · exact .next down
  · exact .next down
  · split
    · exact .next down
    · exact .same low
  · exact .same low

theorem execPowerDownComplete_changes (straps : BitVec 5) (s : State) : Changes s (execPowerDownComplete straps s) := by
  unfold execPowerDownComplete
  split
  · exact .next (.trans (.reset s _ (by decide)) (.step5 ..))
  · have reset : Change s (resetDevice s .tripped false) := .reset s _ (by decide)
    have pin : Change (resetDevice s .tripped false) _ := .drive s.pins.perchN (resetDevice_stage_ne _ _ _)
    exact .next (reset.trans (pin.trans (.same ((Same.refl _).keep ..))))
  · exact .stay s

theorem execVinUvloFall_changes (s : State) : Changes s (execVinUvloFall s) := by
  unfold execVinUvloFall
  split
  · have reset : Change s (resetDevice s .off false) := .reset s _ (by decide)
    have pin : Change (resetDevice s .off false) _ := .drive .hiZ (resetDevice_stage_ne _ _ _)
    exact .next (reset.trans (pin.trans (.same ((Same.refl _).keep ..))))
  · exact .stay s

theorem execThermalBackstop_changes (s : State) : Changes s (execThermalBackstop s) := .next (.trip s)

/-- At t_s the device is in the powered state; what RAILS_GOOD does beyond that is a change. -/
theorem execRailsGood_cases {s t : State} (h : execRailsGood s = .next t) :
    t = s ∨ (s.power.phase = .ramping ∧ Change { s with power := { s.power with phase := .up } } t) := by
  unfold execRailsGood at h
  split at h
  · rename_i ramping
    simp only [beq_iff_eq] at ramping
    have up : Same { s with power := { s.power with phase := .up } } { s with
        power := { s.power with phase := .up, railsUp := true, hTraining := true }
        time := { s.time with dev := 0 }
        clocks := { s.clocks with winStart := firstWindows s }
        start := { s.start with railsAt := some s.now } } := (Same.refl _).keep ..
    refine .inr ⟨ramping, ?_⟩
    cases h
    split
    · exact .perch_of_same up ..
    · split
      · exact .perch_of_same up ..
      · exact .same up
  · exact .inl (by cases h; rfl)

/-! ### CORE -/

/-- CORE takes a value that is in its range where the old one is (R57); the rest stays `Same`. -/
theorem Change.core_of_same {s t : State} {mv : Nat}
    (range : 620 ≤ s.power.coreMv.toNat ∧ s.power.coreMv.toNat ≤ 880 → 620 ≤ mv ∧ mv ≤ 880)
    (h : Same { s with power := { s.power with coreMv := BitVec.ofNat 16 mv } } t) : Change s t := by
  refine .trans (.core (BitVec.ofNat 16 mv) fun legal => ?_) (.same h)
  have := range legal
  rw [BitVec.toNat_ofNat, Nat.mod_eq_of_lt (by omega)]
  exact this

theorem governorMove_range (mv need : Nat) (h : 620 ≤ mv ∧ mv ≤ 880) : 620 ≤ governorMove mv need ∧ governorMove mv need ≤ 880 := by
  unfold governorMove
  dsimp only
  split <;> omega

theorem execGovernorEval_changes (need : Nat) (pace : Int) (region : Nat) (s : State) : Changes s (execGovernorEval need pace region s) := by
  unfold execGovernorEval
  split
  · refine .next (.core_of_same (governorMove_range s.power.coreMv.toNat need) ?_)
    have moved := Same.refl { s with power := { s.power with coreMv := BitVec.ofNat 16 (governorMove s.power.coreMv.toNat need) } }
    dsimp only
    split
    · exact post_same _ _ _ (moved.keep ..)
    · exact moved.keep ..
  · exact .stay s

theorem execGlideLoadWindow_changes (need : Nat) (pace : Int) (s : State) : Changes s (execGlideLoadWindow need pace s) := by
  have window : Same s (nextWindow s) := nextWindow_same s (.refl s)
  unfold execGlideLoadWindow
  dsimp only
  split
  · exact .stay s
  split
  · exact .same window
  split
  · exact .stay s
  split
  · have left : Same s (movePower { nextWindow s with pm := { (nextWindow s).pm with loadExit := true } } 0 causeLoad) :=
      movePower_same _ _ _ (window.keep ..)
    refine .next (.trans (.same left) (.core_of_same (mv := max s.power.coreMv.toNat (min 880 (max 620 need))) (fun legal => ?_)
      ((Same.refl _).keep ..)))
    rw [left.coreMv] at legal
    omega
  split
  · split
    · exact .same (window.keep ..)
    · split
      · exact .same (movePower_same _ _ _ (window.keep ..))
      · exact .same (window.keep ..)
  · exact .same window

theorem execRoostExit_changes (s : State) : Changes s (execRoostExit s) := by
  unfold execRoostExit
  split
  · exact .stay s
  split
  · exact .stay s
  · refine .next (.core_of_same (mv := 0x0370) (by omega) ?_)
    refine payReport_same _ (.foldl (msixRaise_same _ _ _ (.foldl (notePower_same _ _ _ _ ?_) _ _ fun _ _ => putOrHold_same _ _ _ _)) _ _
      fun _ _ => unholdPort_same _ _)
    have awake := Same.refl { s with power := { s.power with coreMv := 0x0370 } }
    split
    · exact trace_same _ _ _ _ _ (awake.keep ..)
    · exact awake.keep ..

/-! ### The meanings of start-up and of Perch -/

theorem execCoreSelftestDone_changes (cores : BitVec 16) (nports : BitVec 4) (s : State) : Changes s (execCoreSelftestDone cores nports s) := by
  unfold execCoreSelftestDone
  split
  · dsimp only
    split
    · exact .next (.perch_of_same ((Same.refl s).keep ..) ..)
    · exact .same ((Same.refl s).keep ..)
  · exact .stay s

theorem execPoolTrainingDone_changes (good : BitVec 6) (s : State) : Changes s (execPoolTrainingDone good s) := by
  unfold execPoolTrainingDone
  split
  · dsimp only
    split
    · exact .next (.perch_of_same ((Same.refl s).keep ..) ..)
    · exact .same ((Same.refl s).keep ..)
  · exact .stay s

theorem execScrubDone_changes (bad : BitVec 6) (s : State) : Changes s (execScrubDone bad s) := by
  unfold execScrubDone
  split
  · dsimp only
    split
    · exact .next (.perch_of_same ((Same.refl s).keep ..) ..)
    · exact .next (.ready_of_same ⟨rfl, rfl, id, rfl, rfl, rfl, rfl, fun _ => rfl⟩)
  · exact .stay s

theorem execImageCopyChecked_changes (alt : Bool) (read : FlashRead) (sigOk : Bool) (s : State) :
    Changes s (execImageCopyChecked alt read sigOk s) := by
  unfold execImageCopyChecked
  split
  · exact .stay s
  · have flash : Same s (readFlash s alt read.sfdp) := readFlash_same s alt read.sfdp (.refl s)
    dsimp only
    generalize (if (readFlash s alt read.sfdp).start.flashMode.isSome then read.copy else none) = found
    generalize readFlash s alt read.sfdp = u at flash
    have noted (r : Option (BitVec 8)) :
        Same s { u with start := if alt then { u.start with reasonAlt := r } else { u.start with reasonPri := r } } := by
      cases alt <;> exact flash.keep ..
    cases found with
    | none => exact .next (.perch_of_same ((noted _).keep ..) ..)
    | some c =>
      dsimp only
      split
      · split
        · exact .next (.perch_of_same (noted _) ..)
        · exact .same (acceptImage_same _ _ _ (noted _))
      · split
        · exact .same ((noted _).keep ..)
        · exact .next (.perch_of_same ((noted _).keep ..) ..)

theorem execFirmwareRunning_changes (s : State) : Changes s (execFirmwareRunning s) := by
  unfold execFirmwareRunning
  split
  · exact .next (.ready_of_same ((Same.refl s).keep ..))
  · exact .stay s

theorem execFirmwareStartTimeout_changes (s : State) : Changes s (execFirmwareStartTimeout s) := by
  unfold execFirmwareStartTimeout
  split
  · split
    · exact .next (.perch ..)
    · exact .stay s
  · exact .stay s

theorem execControlResetDone_changes (s : State) : Changes s (execControlResetDone s) := by
  unfold execControlResetDone
  split
  · exact .stay s
  · exact .next (.ready_of_same (payReport_same _ (endDrains_same _ (payResponses_same _ (relaysAgain_same _ ((Same.refl s).keep ..))))))

theorem execAdminEntryFetched_changes (r : SlotRead) (s : State) : Changes s (execAdminEntryFetched r s) := by
  have heard : Same s (heardTlp s) := heardTlp_same s (.refl s)
  unfold execAdminEntryFetched
  dsimp only
  split
  · exact .same heard
  split
  · exact .next (.perch_of_same (heard.keep ..) ..)
  split
  · exact .same (admFetch_same _ (heard.keep ..))
  split
  · exact .next (.perch_of_same (heard.keep ..) ..)
  · exact .same (admFetch_same _ (heard.keep ..))

theorem execOwlSample_changes (samples : List Int) (s : State) : Changes s (execOwlSample samples s) := by
  unfold execOwlSample
  split
  · exact .stay s
  split
  · exact .stay s
  · rename_i i _ _
    have taken (hist : List (Option OwlHist)) : Same s (sampleTaken s hist) := sampleTaken_same s hist (.refl s)
    have ruled (ys : List Int) (hist : List (Option OwlHist)) :
        Same s ((List.range 64).foldl (ruleAt i ys) (sampleTaken s hist, [])).1 :=
      (taken hist).foldl1 _ _ _ fun _ _ => ruleAt_same _ _ _ _
    dsimp only
    split
    · exact .same (taken _)
    split
    · exact .next (.trans (.same (ruled _ _)) (.trip _))
    split
    · exact .same (ruled _ _)
    · exact .same (wakeRules_same _ _ (throttleRules_same _ _ (portShutdowns_same _ _ (ruled _ _))))

/-! ### Every step -/

/-- Every meaning but that of RAILS_GOOD is a change. -/
theorem exec_changes : ∀ (i : Instr) (s : State), i ≠ .railsGood → Changes s (exec i s)
  | .vinRise mv, s, _ => execVinRise_changes mv s
  | .owlSelftestDone ok, s, _ => execOwlSelftestDone_changes ok s
  | .pwrOkRise straps, s, _ => execPwrOkRise_changes straps s
  | .fullResetAssert pin lowNs, s, _ => execFullResetAssert_changes pin lowNs s
  | .fullResetRelease pin straps, s, _ => execFullResetRelease_changes pin straps s
  | .railsGood, _, h => absurd rfl h
  | .pwrOkFall, s, _ => execPwrOkFall_changes s
  | .powerDownComplete straps, s, _ => execPowerDownComplete_changes straps s
  | .vinUvloFall, s, _ => execVinUvloFall_changes s
  | .thermalBackstop, s, _ => execThermalBackstop_changes s
  | .governorEval need pace region, s, _ => execGovernorEval_changes need pace region s
  | .clockLossDetect clk kind, s, _ => (execClockLossDetect_kept clk kind s).changes
  | .clockWindowEnd clk ppb, s, _ => (execClockWindowEnd_kept clk ppb s).changes
  | .oscCalibrate, s, _ => (execOscCalibrate_kept s).changes
  | .ptpSync gap interval, s, _ => (execPtpSync_kept gap interval s).changes
  | .syncLossTimeout, s, _ => (execSyncLossTimeout_kept s).changes
  | .freerunGuardExpire, s, _ => (execFreerunGuardExpire_kept s).changes
  | .holdoverTrustExpire, s, _ => (execHoldoverTrustExpire_kept s).changes
  | .ppsOutPulse, s, _ => (execPpsOutPulse_kept s).changes
  | .ppsIn, s, _ => (execPpsIn_kept s).changes
  | .timeLoRead, s, _ => (execTimeLoRead_kept s).changes
  | .coreSelftestDone cores nports, s, _ => execCoreSelftestDone_changes cores nports s
  | .entropyTestRun pass, s, _ => (execEntropyTestRun_kept pass s).changes
  | .poolTrainingDone good, s, _ => execPoolTrainingDone_changes good s
  | .scrubDone bad, s, _ => execScrubDone_changes bad s
  | .imageCopyChecked alt read sigOk, s, _ => execImageCopyChecked_changes alt read sigOk s
  | .firmwareRunning, s, _ => execFirmwareRunning_changes s
  | .firmwareStartTimeout, s, _ => execFirmwareStartTimeout_changes s
  | .configRequest r, s, _ => (execConfigRequest_kept r s).changes
  | .aportRelease n, s, _ => (execAportRelease_kept n s).changes
  | .aportLinkUp n, s, _ => (execAportLinkUp_kept n s).changes
  | .aportTrainTimeout n, s, _ => (execAportTrainTimeout_kept n s).changes
  | .aportEnumDone n bar, s, _ => (execAportEnumDone_kept n bar s).changes
  | .aportRrsTimeout n, s, _ => (execAportRrsTimeout_kept n s).changes
  | .registerWrite src off size value, s, _ => (execRegisterWrite_kept src off size value s).changes
  | .admEnable ctrl, s, _ => (execAdmEnable_kept ctrl s).changes
  | .admDisable ctrl, s, _ => (execAdmDisable_kept ctrl s).changes
  | .admDoorbell, s, _ => (execAdmDoorbell_kept s).changes
  | .adminEntryFetched r, s, _ => execAdminEntryFetched_changes r s
  | .evtReturn count, s, _ => (execEvtReturn_kept count s).changes
  | .pfFlr, s, _ => (execPfFlr_kept s).changes
  | .vfFlr vf, s, _ => (execVfFlr_kept vf s).changes
  | .vfEnableClear, s, _ => (execVfEnableClear_kept s).changes
  | .nop slot, s, _ => (execAdmNop_kept slot s).changes
  | .imageWrite slot src sigOk, s, _ => (execImageWrite_kept slot src sigOk s).changes
  | .countersRead slot ok, s, _ => (execCountersRead_kept slot ok s).changes
  | .portControl slot, s, _ => (execPortControl_kept slot s).changes
  | .instanceCreate slot vec, s, _ => (execInstanceCreate_kept slot vec s).changes
  | .instanceQuotaSet slot vec, s, _ => (execInstanceQuotaSet_kept slot vec s).changes
  | .instanceReset slot, s, _ => (execInstanceReset_kept slot s).changes
  | .instanceDestroy slot, s, _ => (execInstanceDestroy_kept slot s).changes
  | .instanceFreeze slot, s, _ => (execInstanceFreeze_kept slot s).changes
  | .instanceSave slot ok, s, _ => (execInstanceSave_kept slot ok s).changes
  | .instanceRestore slot buf vec, s, _ => (execInstanceRestore_kept slot buf vec s).changes
  | .instanceThaw slot, s, _ => (execInstanceThaw_kept slot s).changes
  | .migrationKeySet slot buf, s, _ => (execMigrationKeySet_kept slot buf s).changes
  | .qpCreate slot, s, _ => (execQpCreate_kept slot s).changes
  | .qpModify slot, s, _ => (execQpModify_kept slot s).changes
  | .qpQuery slot, s, _ => (execQpQuery_kept slot s).changes
  | .qpDestroy slot, s, _ => (execQpDestroy_kept slot s).changes
  | .cqCreate slot, s, _ => (execCqCreate_kept slot s).changes
  | .cqModify slot, s, _ => (execCqModify_kept slot s).changes
  | .cqDestroy slot, s, _ => (execCqDestroy_kept slot s).changes
  | .ptMirrorSet slot, s, _ => (execPtMirrorSet_kept slot s).changes
  | .ptUpdate slot buf, s, _ => (execPtUpdate_kept slot buf s).changes
  | .ptInvalidate slot, s, _ => (execPtInvalidate_kept slot s).changes
  | .poolRegionCreate slot, s, _ => (execPoolRegionCreate_kept slot s).changes
  | .poolRegionDestroy slot, s, _ => (execPoolRegionDestroy_kept slot s).changes
  | .tpeCtxCreate slot, s, _ => (execTpeCtxCreate_kept slot s).changes
  | .tpeCtxDestroy slot, s, _ => (execTpeCtxDestroy_kept slot s).changes
  | .kettleCreate slot table, s, _ => (execKettleCreate_kept slot table s).changes
  | .kettleEpochSet slot, s, _ => (execKettleEpochSet_kept slot s).changes
  | .kettleDestroy slot, s, _ => (execKettleDestroy_kept slot s).changes
  | .keySlotWrite slot buf, s, _ => (execKeySlotWrite_kept slot buf s).changes
  | .keySlotGenerate slot, s, _ => (execKeySlotGenerate_kept slot s).changes
  | .keySlotClear slot, s, _ => (execKeySlotClear_kept slot s).changes
  | .saCreate slot, s, _ => (execSaCreate_kept slot s).changes
  | .saRekey slot, s, _ => (execSaRekey_kept slot s).changes
  | .saDestroy slot, s, _ => (execSaDestroy_kept slot s).changes
  | .destPathsSet slot, s, _ => (execDestPathsSet_kept slot s).changes
  | .congParamsSet slot, s, _ => (execCongParamsSet_kept slot s).changes
  | .rateLimitSet slot, s, _ => (execRateLimitSet_kept slot s).changes
  | .tcConfigSet slot, s, _ => (execTcConfigSet_kept slot s).changes
  | .gateListInstall slot buf, s, _ => (execGateListInstall_kept slot buf s).changes
  | .gateListQuery slot, s, _ => (execGateListQuery_kept slot s).changes
  | .gateListCancel slot, s, _ => (execGateListCancel_kept slot s).changes
  | .powerStateRequest slot, s, _ => (execPowerStateRequest_kept slot s).changes
  | .owlLogRead slot ok, s, _ => (execOwlLogRead_kept slot ok s).changes
  | .traceConfig slot ok, s, _ => (execTraceConfig_kept slot ok s).changes
  | .mbxChannelConfig slot, s, _ => (execMbxChannelConfig_kept slot s).changes
  | .sqDoorbell inst qpn, s, _ => (execSqDoorbell_kept inst qpn s).changes
  | .rqDoorbell inst qpn, s, _ => (execRqDoorbell_kept inst qpn s).changes
  | .tpeDoorbell inst ctx, s, _ => (execTpeDoorbell_kept inst ctx s).changes
  | .ringSlotRead k id x intact, s, _ => (execRingSlotRead_kept k id x intact s).changes
  | .sqEntryStart qpn m, s, _ => (execSqEntryStart_kept qpn m s).changes
  | .dataReadComplete id bytes m, s, _ => (execDataReadComplete_kept id bytes m s).changes
  | .recallFirst inst first, s, _ => (execRecallFirst_kept inst first s).changes
  | .cqReturn inst cqn count, s, _ => (execCqReturn_kept inst cqn count s).changes
  | .cqReportRelease cqn intact, s, _ => (execCqReportRelease_kept cqn intact s).changes
  | .cqArm inst cqn, s, _ => (execCqArm_kept inst cqn s).changes
  | .cqModTimer cqn, s, _ => (execCqModTimer_kept cqn s).changes
  | .cqStallTimer cqn, s, _ => (execCqStallTimer_kept cqn s).changes
  | .handshakeRetry qpn, s, _ => (execHandshakeRetry_kept qpn s).changes
  | .handshakeTimeout qpn, s, _ => (execHandshakeTimeout_kept qpn s).changes
  | .connectReq, s, _ => (execConnectReq_kept s).changes
  | .connectAccept, s, _ => (execConnectAccept_kept s).changes
  | .connectRefuse, s, _ => (execConnectRefuse_kept s).changes
  | .frameReceived port bytes fcsOk disagree, s, _ => (execFrameReceived_kept port bytes fcsOk disagree s).changes
  | .trainReceived m, s, _ => (execTrainReceived_kept m s).changes
  | .kiteReceived m, s, _ => (execKiteReceived_kept m s).changes
  | .ackReceived, s, _ => (execAckReceived_kept s).changes
  | .movedReceived, s, _ => (execMovedReceived_kept s).changes
  | .arpRequest port bytes, s, _ => (execArpRequest_kept port bytes s).changes
  | .neighborSolicitation port bytes, s, _ => (execNeighborSolicitation_kept port bytes s).changes
  | .pfcFrameReceived port bytes fcsOk, s, _ => (execPfcFrameReceived_kept port bytes fcsOk s).changes
  | .pauseExpire port tc, s, _ => (execPauseExpire_kept port tc s).changes
  | .pfcRepeatTimer port tc, s, _ => (execPfcRepeatTimer_kept port tc s).changes
  | .pauseStuckTimer port tc, s, _ => (execPauseStuckTimer_kept port tc s).changes
  | .flushReadComplete id timedOut, s, _ => (execFlushReadComplete_kept id timedOut s).changes
  | .ackDelayExpire qpn, s, _ => (execAckDelayExpire_kept qpn s).changes
  | .holdTimeout qpn psn, s, _ => (execHoldTimeout_kept qpn psn s).changes
  | .notifyDeliver qpn, s, _ => (execNotifyDeliver_kept qpn s).changes
  | .notifyWaitTimeout qpn, s, _ => (execNotifyWaitTimeout_kept qpn s).changes
  | .retransmitTimeout qpn id, s, _ => (execRetransmitTimeout_kept qpn id s).changes
  | .readReqTimeout qpn slot, s, _ => (execReadReqTimeout_kept qpn slot s).changes
  | .resendWaitExpire qpn, s, _ => (execResendWaitExpire_kept qpn s).changes
  | .pathHoldExpire coord path, s, _ => (execPathHoldExpire_kept coord path s).changes
  | .wheelSlot inst tc, s, _ => (execWheelSlot_kept inst tc s).changes
  | .trainCloseTimer coord saId tc, s, _ => (execTrainCloseTimer_kept coord saId tc s).changes
  | .datagramSend id disagree, s, _ => (execDatagramSend_kept id disagree s).changes
  | .frameTransmitStart port, s, _ => (execFrameTransmitStart_kept port s).changes
  | .gateTakeover port, s, _ => (execGateTakeover_kept port s).changes
  | .portLockHeld port, s, _ => (execPortLockHeld_kept port s).changes
  | .portFaultHeld port, s, _ => (execPortFaultHeld_kept port s).changes
  | .mirrorWalkDone id m, s, _ => (execMirrorWalkDone_kept id m s).changes
  | .atsCompletion id res m, s, _ => (execAtsCompletion_kept id res m s).changes
  | .pageRequestIssue fn, s, _ => (execPageRequestIssue_kept fn s).changes
  | .prgResponse fn index code m, s, _ => (execPrgResponse_kept fn index code m s).changes
  | .pageTimeoutExpire inst page, s, _ => (execPageTimeoutExpire_kept inst page s).changes
  | .atsInvalidate fn pasid va size tag, s, _ => (execAtsInvalidate_kept fn pasid va size tag s).changes
  | .patrolScrub line fault holds, s, _ => (execPatrolScrub_kept line fault holds s).changes
  | .poolStackFault n, s, _ => (execPoolStackFault_kept n s).changes
  | .tpeStepStart ctx words m, s, _ => (execTpeStepStart_kept ctx words m s).changes
  | .tileLoadDone ctx, s, _ => (execTileLoadDone_kept ctx s).changes
  | .arrayStep a, s, _ => (execArrayStep_kept a s).changes
  | .tpeStepComplete ctx slot m, s, _ => (execTpeStepComplete_kept ctx slot m s).changes
  | .reduceWaitExpire ctx, s, _ => (execReduceWaitExpire_kept ctx s).changes
  | .lookasideDoorbell inst, s, _ => (execLookasideDoorbell_kept inst s).changes
  | .lookasideStart inst disagree m, s, _ => (execLookasideStart_kept inst disagree m s).changes
  | .rxPhaseRetire sa, s, _ => (execRxPhaseRetire_kept sa s).changes
  | .drbgReseed, s, _ => (execDrbgReseed_kept s).changes
  | .entropyHealthFail, s, _ => (execEntropyHealthFail_kept s).changes
  | .freezeDrained inst, s, _ => (execFreezeDrained_kept inst s).changes
  | .freezeDrainTimeout inst, s, _ => (execFreezeDrainTimeout_kept inst s).changes
  | .instanceResetDone inst, s, _ => (execInstanceResetDone_kept inst s).changes
  | .forwardExpire inst, s, _ => (execForwardExpire_kept inst s).changes
  | .mbxOutDoorbell r w, s, _ => (execMbxOutDoorbell_kept r w s).changes
  | .mbxInDoorbellClear r w, s, _ => (execMbxInDoorbellClear_kept r w s).changes
  | .mbxInAck r n code, s, _ => (execMbxInAck_kept r n code s).changes
  | .mbxMaskWrite r off w, s, _ => (execMbxMaskWrite_kept r off w s).changes
  | .mbxRelayDeliver to_ done, s, _ => (execMbxRelayDeliver_kept to_ done s).changes
  | .secureServiceRequest, s, _ => (execSecureServiceRequest_kept s).changes
  | .mctpVendorRequest m, s, _ => (execMctpVendorRequest_kept m s).changes
  | .mctpControlMessage m, s, _ => (execMctpControlMessage_kept m s).changes
  | .smbusAlertResponse, s, _ => (execSmbusAlertResponse_kept s).changes
  | .wdtEnable val, s, _ => (execWdtEnable_kept val s).changes
  | .watchdogExpire, s, _ => (execWatchdogExpire_kept s).changes
  | .controlResetDone, s, _ => execControlResetDone_changes s
  | .owlSample samples, s, _ => execOwlSample_changes samples s
  | .glideLoadWindow need pace, s, _ => execGlideLoadWindow_changes need pace s
  | .roostEnter, s, _ => (execRoostEnter_kept s).changes
  | .roostExit, s, _ => execRoostExit_changes s
  | .dapTransfer r parityOk, s, _ => (execDapTransfer_kept r parityOk s).changes
  | .dbgHalt, s, _ => (execDbgHalt_kept s).changes
  | .dbgResume, s, _ => (execDbgResume_kept s).changes
  | .tapInstruction code, s, _ => (execTapInstruction_kept code s).changes
  | .seedWaitTimeout w, s, _ => (execSeedWaitTimeout_kept w s).changes
  | .hPortDlActive, s, _ => (execHPortDlActive_kept s).changes
  | .alignmentLockChange port locked faulted corr uncorr, s, _ => (execAlignmentLockChange_kept port locked faulted corr uncorr s).changes
  | .aportLinkDown n, s, _ => (execAportLinkDown_kept n s).changes
  | .aerErrorReported port kind, s, _ => (execAerErrorReported_kept port kind s).changes
  | .flashWriteDone ok, s, _ => (execFlashWriteDone_kept ok s).changes
  | .poolZeroingDone base, s, _ => (execPoolZeroingDone_kept base s).changes
  | .ptpDelayMessage m, s, _ => (execPtpDelayMessage_kept m s).changes

/-- What one step can do: it is a change, or t_s brings the powered state and a change from there. -/
theorem step_cases {s t : State} (h : step s = .next t) :
    Change s t ∨ (s.power.phase = .ramping ∧ Change { s with power := { s.power with phase := .up } } t) := by
  unfold step at h
  split at h
  · cases h
    exact .inl (.same (tick_same s (.refl s)))
  · rename_i i rest _
    have queue : Change s { s with pending := rest } := .same ((Same.refl s).keep ..)
    by_cases rails : i = .railsGood
    · subst rails
      obtain rfl | ⟨ramping, up⟩ := execRailsGood_cases h
      · exact .inl queue
      · exact .inr ⟨ramping, .trans (.same ((Same.refl _).keep ..)) up⟩
    · exact .inl (queue.trans ((exec_changes i _ rails).change t h))

/-! ### PERCH_N -/

theorem perchPin_of_stage_ne {s : State} (h : s.start.stage ≠ 0xF) : PerchPin s := ⟨fun perch => absurd perch h, fun _ => h⟩

/-- The pin's invariant reads the stage, the pin and the phase; leaving the phases before t_s keeps it. -/
theorem PerchPin.of_eqs {s t : State} (h : PerchPin s) (stage : t.start.stage = s.start.stage) (pin : t.pins.perchN = s.pins.perchN)
    (phase : t.power.phase = .off ∨ t.power.phase = .waiting ∨ t.power.phase = .ramping →
      s.power.phase = .off ∨ s.power.phase = .waiting ∨ s.power.phase = .ramping) : PerchPin t :=
  ⟨fun perch => pin.trans (h.low (stage.symm.trans perch)), fun early => stage ▸ h.early (phase early)⟩

theorem Same.perchPin {s t : State} (k : Same s t) (h : PerchPin s) : PerchPin t :=
  h.of_eqs k.stage k.perchN fun early => k.phase ▸ early

/-- Perch is entered in the powered state only, with PERCH_N low (R43). -/
theorem enterPerch_perchPin {s : State} (cause : BitVec 8) (info : Word) (h : PerchPin s) : PerchPin (enterPerch s cause info) := by
  obtain ⟨_, stays⟩ | ⟨alive, u, sent, phase, _, _, _, _, _, _, low⟩ := enterPerch_cases s cause info
  · rwa [stays]
  · simp only [live, Bool.and_eq_true, beq_iff_eq] at alive
    exact sent.perchPin ⟨fun _ => low, by simp [phase, alive.1]⟩

theorem checkReady_perchPin {s : State} (h : PerchPin s) : PerchPin (checkReady s) := by
  obtain stays | ⟨_, _, ready⟩ := checkReady_cases s
  · rwa [stays]
  · rw [ready]
    exact perchPin_of_stage_ne (by simp)

theorem thermalTrip_perchPin {s : State} (h : PerchPin s) : PerchPin (thermalTrip s) := by
  obtain stays | ⟨phase, _, _, start, pin, _⟩ := thermalTrip_cases s
  · rwa [stays]
  · exact h.of_eqs (by rw [start]) pin (by simp [phase])

theorem enterStep5_perchPin {s : State} (straps : BitVec 5) (h : PerchPin s) : PerchPin (enterStep5 s straps) := by
  obtain stays | ⟨waiting, _, _, _, start, pin, _⟩ := enterStep5_cases s straps
  · rwa [stays]
  · exact h.of_eqs (by rw [start]) pin fun _ => .inr (.inl waiting)

theorem Change.perchPin {s t : State} (k : Change s t) (h : PerchPin s) : PerchPin t := by
  induction k with
  | same k => exact k.perchPin h
  | trans _ _ ih₁ ih₂ => exact ih₂ (ih₁ h)
  | perch => exact enterPerch_perchPin _ _ h
  | ready => exact checkReady_perchPin h
  | trip => exact thermalTrip_perchPin h
  | step5 => exact enterStep5_perchPin _ h
  | powerDown => exact h.of_eqs rfl rfl (by simp)
  | reset => exact perchPin_of_stage_ne (resetDevice_stage_ne _ _ _)
  | supply off => exact perchPin_of_stage_ne (h.early (.inl off))
  | drive d stage => exact perchPin_of_stage_ne stage
  | core mv => exact h.of_eqs rfl rfl id

theorem step_perchPin {s t : State} (h : PerchPin s) (hs : step s = .next t) : PerchPin t := by
  obtain k | ⟨ramping, k⟩ := step_cases hs
  · exact k.perchPin h
  · exact k.perchPin (perchPin_of_stage_ne (h.early (.inr (.inr ramping))))

/-! ### The release at a full reset -/

/-- STAGE at its Reset value and PERCH_N not low. -/
def Released (t : State) : Prop := t.start.stage = 0 ∧ t.pins.perchN ≠ .low

theorem resetDevice_released (s : State) (phase : Phase) (railsUp : Bool) : Released (resetDevice s phase railsUp) := by
  obtain ⟨_, _, _, start, pin, _⟩ := resetDevice_eqs s phase railsUp
  exact ⟨by rw [start]; rfl, pin⟩

theorem enterStep5_released {s : State} (straps : BitVec 5) (h : Released s) : Released (enterStep5 s straps) := by
  obtain stays | ⟨_, _, _, _, start, pin, _⟩ := enterStep5_cases s straps
  · rwa [stays]
  · exact ⟨by rw [start]; exact h.1, by rw [pin]; exact h.2⟩

theorem fullResetAssert_releases (pin : ResetPin) {ns : Nat} {s : State} (long : 1000 ≤ ns) (up : s.power.phase = .up) :
    ∃ t, exec (.fullResetAssert pin ns) s = .next t ∧ Released t :=
  ⟨resetDevice { setResetPin s pin false with fresh := s.fresh + 1 } .waiting s.power.railsUp,
    by simp [exec, execFullResetAssert, pulseActs, long, up], resetDevice_released ..⟩

theorem powerDownComplete_releases (straps : BitVec 5) {s : State} (down : s.power.phase = .poweringDown) :
    ∃ t, exec (.powerDownComplete straps) s = .next t ∧ Released t :=
  ⟨enterStep5 (resetDevice s .waiting false) straps, by simp only [exec, execPowerDownComplete, down],
    enterStep5_released straps (resetDevice_released ..)⟩

theorem vinUvloFall_releases {s : State} (on : s.power.phase ≠ .off) : ∃ t, exec .vinUvloFall s = .next t ∧ Released t :=
  ⟨_, if_pos (by simpa [aonUp] using on), rfl, by simp⟩

end Sys2Proof.Machine

namespace Sys2Proof.Proofs

open Sys2Proof.Machine

/-- Settles O57: the pin's invariant by cases of what a step can do, and the release from what a full reset leaves. -/
theorem perchPinLow : Obligations.PerchPinLow := by
  unfold Obligations.PerchPinLow
  exact ⟨fun _ _ => step_perchPin, fun pin _ _ => fullResetAssert_releases pin, fun straps _ => powerDownComplete_releases straps,
    fun _ => vinUvloFall_releases⟩

end Sys2Proof.Proofs
end

section
/-!
CQ_RETURN (R151): what a return makes of its completion queue when the queue holds that many entries, and that a greater one is ignored.
-/

namespace Sys2Proof.Machine

/-! ### A doorbell's count leaves everything else -/

theorem heardBell_eq (s : State) : heardBell s = { s with traffic := (heardBell s).traffic } := by
  unfold heardBell heardBells heardTlp
  split <;> rfl

@[simp] theorem live_heardBell (s : State) : live (heardBell s) = live s := by simp [live]

@[simp] theorem pageOpen_heardBell (s : State) (i : Nat) : pageOpen (heardBell s) i = pageOpen s i := by simp [pageOpen]

/-! ### CQ_RETURN -/

theorem exec_cqReturn_of_live {s : State} (inst n k : Nat) (up : live s = true) :
    exec (.cqReturn inst n k) s = .next (cqReturn (heardBell s) inst n k) := by
  simp [exec, execCqReturn, up]

theorem cqReturn_of_fits {s : State} {n k : Nat} {c : Cq} (hc : tget s.cqs n = some c) (opened : pageOpen s c.inst = true)
    (fits : c.free + k ≤ 2 ^ c.log2) :
    cqReturn s c.inst n k = modCq s n fun x => { x with free := x.free + k, pending := x.pending.drop k } := by
  simp [cqReturn, hc, opened, fits]

theorem cqReturn_of_beyond {s : State} {n k : Nat} {c : Cq} (inst : Nat) (hc : tget s.cqs n = some c)
    (beyond : 2 ^ c.log2 < c.free + k) : cqReturn s inst n k = s := by
  simp [cqReturn, hc, Nat.not_le.2 beyond]

end Sys2Proof.Machine

namespace Sys2Proof.Proofs

open Sys2Proof.Machine

/-- Settles O42, by whether the completion queue holds that many entries more; the Owl's count is the doorbell's. -/
theorem cqReturn : Obligations.CqReturn := by
  unfold Obligations.CqReturn
  refine fun n k s c hc up opened => ⟨fun fits => ⟨(heardBell s).traffic, ?held⟩, fun beyond => ⟨(heardBell s).traffic, ?ignored⟩⟩ <;>
    rw [exec_cqReturn_of_live _ _ _ up]
  case held =>
    rw [cqReturn_of_fits (by simpa using hc) (by simpa using opened) fits, heardBell_eq]
    rfl
  case ignored => rw [cqReturn_of_beyond _ (by simpa using hc) beyond, ← heardBell_eq]

end Sys2Proof.Proofs
end

section
/-!
How an EMPTY-mode notice ends (R417): what the receiver's channel and the sender's hold once its end has gone back.
-/

namespace Sys2Proof.Machine

/-! ### Channels under the operations an end is made of -/

@[simp] theorem chanOf_modChan_same (s : State) (r : ChanRef) (f : Channel → Channel) : chanOf (modChan s r f) r = (chanOf s r).map f := by
  cases r with
  | inst i => simp [chanOf, modChan, modInst, tget_tmod, Function.comp_def]
  | pf k => simp [chanOf, modChan]
  | secure k => simp [chanOf, modChan, alertRefresh]

theorem chanOf_modChan_of_ne {r q : ChanRef} (s : State) (f : Channel → Channel) (h : q ≠ r) : chanOf (modChan s r f) q = chanOf s q := by
  cases r with
  | inst i => cases q with
    | inst j => simp [chanOf, modChan, modInst, tget_tmod_of_ne _ _ _ _ fun e : j = i => h (e ▸ rfl)]
    | pf | secure => rfl
  | pf k => cases q with
    | pf j => exact getElem?_lmod_of_ne s.pfMbx f fun e => h (e ▸ rfl)
    | inst | secure => rfl
  | secure k => cases q with
    | secure j => exact getElem?_lmod_of_ne s.secMbx f fun e => h (e ▸ rfl)
    | inst | pf => rfl

/-- A change of `Inst` that leaves its channel alone leaves every channel alone. -/
theorem chanOf_modInst_of_mbx (s : State) (i : Nat) {f : Inst → Inst} (kept : ∀ x, (f x).mbx = x.mbx) (q : ChanRef) :
    chanOf (modInst s i f) q = chanOf s q := by
  cases q with
  | inst j =>
    by_cases h : j = i
    · subst h
      simp [chanOf, modInst, tget_tmod, Function.comp_def, kept]
    · simp [chanOf, modInst, tget_tmod_of_ne _ _ _ _ h]
  | pf | secure => rfl

theorem OnlyReports.chanOf_eq {s t : State} (h : OnlyReports s t) (q : ChanRef) : chanOf t q = chanOf s q :=
  h.eq_of (chanOf · q) fun _ => by cases q <;> rfl

@[simp] theorem chanOf_modPage (s : State) (i : Nat) (f : Page → Page) (q : ChanRef) : chanOf (modPage s i f) q = chanOf s q := by
  cases q <;> rfl

@[simp] theorem chanOf_raiseVector (s : State) (i v : Nat) (q : ChanRef) : chanOf (raiseVector s i v) q = chanOf s q := by
  unfold raiseVector
  dsimp only
  split
  · exact chanOf_modPage ..
  · split
    · exact chanOf_modPage ..
    · split
      · rw [(msixRaise_onlyReports _ _ _).chanOf_eq, chanOf_modPage]
      · split
        · exact chanOf_modPage ..
        · split
          · simp [chanOf_modInst_of_mbx]
          · rw [(emit_onlyReports _ _).chanOf_eq, chanOf_modPage]

/-- An interrupt changes no channel's registers. -/
@[simp] theorem chanOf_chanIrq (s : State) (r q : ChanRef) : chanOf (chanIrq s r) q = chanOf s q := by
  cases r with
  | inst i =>
    simp only [chanIrq]
    split
    · exact chanOf_raiseVector ..
    · rfl
  | pf k => exact (msixRaise_onlyReports _ _ _).chanOf_eq q
  | secure k => cases q <;> rfl

@[simp] theorem chanOf_heardMbx (s : State) (r q : ChanRef) : chanOf (heardMbx r s) q = chanOf s q := by
  cases r <;> cases q <;> simp [heardMbx, chanOf]

@[simp] theorem chanOpen_heardMbx (s : State) (r q : ChanRef) : chanOpen (heardMbx r s) q = chanOpen s q := by
  cases r <;> cases q <;> simp [heardMbx, chanOpen]

@[simp] theorem epoch_heardMbx (s : State) (r : ChanRef) : (heardMbx r s).epoch = s.epoch := by cases r <;> simp [heardMbx]

/-- The end of a notice goes back to a channel of the other kind. -/
theorem senderRef_ne (r : ChanRef) (p : Nat × Nat) : senderRef r p ≠ r := by cases r <;> simp [senderRef]

/-! ### The end of an EMPTY-mode notice -/

/-- The sender's channel once its OUT notice `n` has ended in EMPTY mode (R417). -/
def emptyEnded (epoch : BitVec 16) (n : Nat) (a : Channel) : Channel :=
  { a with
    outN := lmod a.outN n fun m => { m with ret := 0, epoch := epoch }
    outDb := a.outDb &&& ~~~wordBit n, empty := a.empty || a.outDb &&& ~~~wordBit n == 0 }

/-- The receiver's channel once it has ended IN notice `n`. -/
def inEnded (n : Nat) (c : Channel) : Channel := { c with inDb := c.inDb &&& ~~~wordBit n, senders := tdel c.senders n }

/-- A notice's end in EMPTY mode changes the sender's channel alone, with or without an interrupt, whatever the code. -/
theorem chanOf_endNotice_empty {s : State} {r : ChanRef} {a : Channel} (ha : chanOf s r = some a) (n : Nat) (code : BitVec 16) (q : ChanRef) :
    chanOf (endNotice s r n code false) q = if q = r then some (emptyEnded s.epoch n a) else chanOf s q := by
  simp only [endNotice, ha, apply_ite (chanOf · q), chanOf_chanIrq, ite_self]
  by_cases h : q = r
  · subst h
    simp [ha, emptyEnded]
  · simp [h, chanOf_modChan_of_ne]

/-- IN_ACK's code goes nowhere: both ends of the notice are as R417 says, whatever it is. -/
theorem chanOf_endIn_of_empty {s : State} {r : ChanRef} {c a : Channel} {n : Nat} {p : Nat × Nat} (hc : chanOf s r = some c)
    (mode : noticeEmpty (noticeAt c.inN n).words = true) (hp : tget c.senders n = some p) (ha : chanOf s (senderRef r p) = some a)
    (code : BitVec 16) :
    chanOf (endIn s r n code) r = some (inEnded n c) ∧ chanOf (endIn s r n code) (senderRef r p) = some (emptyEnded s.epoch p.2 a) := by
  have back : chanOf (modChan s r (inEnded n)) (senderRef r p) = some a := by rw [chanOf_modChan_of_ne _ _ (senderRef_ne r p), ha]
  have ended : endIn s r n code = endNotice (modChan s r (inEnded n)) (senderRef r p) p.2 code false := by
    simp only [endIn, hc, hp, mode, Bool.not_true]
    rfl
  simp [ended, chanOf_endNotice_empty back, (senderRef_ne r p).symm, hc]

/-! ### The two writes that end it -/

theorem bitsOf_wordBit {n : Nat} (hn : n < 32) : bitsOf (wordBit n) = [n] := by
  decide +revert

/-- A 1 written to the IN_DOORBELL bit of an EMPTY-mode notice ends it. -/
theorem exec_mbxInDoorbellClear_of_empty {s : State} {r : ChanRef} {c : Channel} {n : Nat} (opened : chanOpen s r = true)
    (hc : chanOf s r = some c) (hn : n < 32) (notice : isSignal r n = false) (held : c.inDb.getLsbD n = true)
    (mode : noticeEmpty (noticeAt c.inN n).words = true) :
    exec (.mbxInDoorbellClear r (wordBit n)) s = .next (endIn (heardMbx r s) r n 0) := by
  simp [exec, execMbxInDoorbellClear, opened, inDoorbell, bitsOf_wordBit hn, inClear, hc, held, notice, mode]

/-- IN_ACK ends a notice of either mode. -/
theorem exec_mbxInAck_of_held {s : State} {r : ChanRef} {c : Channel} {n : Nat} (opened : chanOpen s r = true)
    (hc : chanOf s r = some c) (hn : n < 32) (notice : isSignal r n = false) (held : c.inDb.getLsbD n = true) (code : BitVec 16) :
    exec (.mbxInAck r n code) s = .next (endIn (heardMbx r s) r n code) := by
  simp [exec, execMbxInAck, opened, hn, inAck, hc, held, notice]

end Sys2Proof.Machine

namespace Sys2Proof.Proofs

open Sys2Proof.Machine

/-- Settles O50: either write is the receiver's end of the notice, and that end leaves both channels as R417 says. -/
theorem emptyNotices : Obligations.EmptyNotices := by
  unfold Obligations.EmptyNotices
  intro s r c a n p m opened hc hn notice _ held mode hp ha _ hm i write
  have ends : ∃ code, exec i s = .next (endIn (heardMbx r s) r n code) := by
    rcases write with rfl | ⟨code, rfl⟩
    · exact ⟨0, exec_mbxInDoorbellClear_of_empty opened hc hn notice held mode⟩
    · exact ⟨code, exec_mbxInAck_of_held opened hc hn notice held code⟩
  obtain ⟨code, hi⟩ := ends
  obtain ⟨receiver, sender⟩ := chanOf_endIn_of_empty (s := heardMbx r s) (by simpa using hc) mode hp (by simpa using ha) code
  exact ⟨_, _, _, hi, receiver, sender, rfl, rfl, by simp [emptyEnded, hm], rfl, rfl⟩

end Sys2Proof.Proofs
end

section
/-!
What every step keeps (O56, O58, O59), by induction on `Change`, which says what one step can make of the supply, STAGE, CORE, the
watchdog and pool memory.
-/

namespace Sys2Proof.Machine

/-! ### Perch and its first cause -/

/-- The main rails are away, or the device is in Perch with this first cause and this information. -/
def PerchedOrDown (cause : BitVec 8) (info : Word) (s : State) : Prop :=
  s.power.phase ≠ .up ∨ (s.start.stage = 0xF ∧ s.start.perchCause = cause ∧ s.start.perchInfo = info)

theorem live_eq_false_of_perched {s : State} (h : s.start.stage = 0xF) : live s = false := by simp [live, h]

theorem PerchedOrDown.not_live {cause : BitVec 8} {info : Word} {s : State} (h : PerchedOrDown cause info s) : live s = false := by
  obtain down | ⟨perch, _⟩ := h
  · simp [live, down]
  · exact live_eq_false_of_perched perch

/-- It reads the phase and the start-up status alone. -/
theorem PerchedOrDown.of_start_eq {cause : BitVec 8} {info : Word} {s t : State} (h : PerchedOrDown cause info s)
    (start : t.start = s.start) (phase : t.power.phase = .up → s.power.phase = .up) : PerchedOrDown cause info t := by
  obtain down | perched := h
  · exact .inl fun up => down (phase up)
  · exact .inr (by rwa [start])

/-- No operation of a step but t_s leads into the powered state, and in Perch none changes the cause. -/
theorem Change.perchedOrDown {cause : BitVec 8} {info : Word} {s t : State} (k : Change s t) (h : PerchedOrDown cause info s) :
    PerchedOrDown cause info t := by
  induction k with
  | same k => simpa only [PerchedOrDown, k.phase, k.stage, k.cause, k.info] using h
  | trans _ _ ih₁ ih₂ => exact ih₂ (ih₁ h)
  | perch s c i =>
    obtain ⟨_, stays⟩ | ⟨alive, _⟩ := enterPerch_cases s c i
    · rwa [stays]
    · exact absurd alive (by simp [h.not_live])
  | ready s =>
    obtain stays | ⟨alive, _⟩ := checkReady_cases s
    · rwa [stays]
    · exact absurd alive (by simp [h.not_live])
  | trip s =>
    obtain stays | ⟨phase, _⟩ := thermalTrip_cases s
    · rwa [stays]
    · exact .inl (by simp [phase])
  | step5 s straps =>
    obtain stays | ⟨_, phase, _⟩ := enterStep5_cases s straps
    · rwa [stays]
    · exact .inl (by simp [phase])
  | powerDown => exact .inl (by simp)
  | reset s railsUp notUp =>
    obtain ⟨phase, _⟩ := resetDevice_eqs s _ railsUp
    exact .inl (by rwa [phase])
  | supply => exact .inl (by simp)
  | drive | core => exact h.of_start_eq rfl id

/-! ### Legal values -/

/-- The invariant reads CORE, the watchdog and the stage. -/
theorem Legal.of_eqs {s t : State} (h : Legal s) (core : t.power.coreMv = s.power.coreMv) (wdt : t.wdt = s.wdt)
    (stage : t.start.stage = s.start.stage) : Legal t := ⟨by rw [core]; exact h.core, by rw [wdt]; exact h.wdt, by rw [stage]; exact h.stage⟩

theorem Same.legal {s t : State} (k : Same s t) (h : Legal s) : Legal t :=
  ⟨by rw [k.coreMv]; exact h.core, k.wdt h.wdt, by rw [k.stage]; exact h.stage⟩

theorem resetDevice_legal (s : State) (phase : Phase) (railsUp : Bool) : Legal (resetDevice s phase railsUp) := by
  obtain ⟨_, core, wdt, start, _⟩ := resetDevice_eqs s phase railsUp
  exact ⟨by simp [core], by simp [wdt], .inl (by rw [start]; rfl)⟩

theorem enterPerch_legal {s : State} (cause : BitVec 8) (info : Word) (h : Legal s) : Legal (enterPerch s cause info) := by
  obtain ⟨_, stays⟩ | ⟨_, u, sent, _, core, wdt, _, stage, _⟩ := enterPerch_cases s cause info
  · rwa [stays]
  · exact sent.legal ⟨by rw [core]; exact h.core, wdt h.wdt, .inr (.inr stage)⟩

theorem Change.legal {s t : State} (k : Change s t) (h : Legal s) : Legal t := by
  induction k with
  | same k => exact k.legal h
  | trans _ _ ih₁ ih₂ => exact ih₂ (ih₁ h)
  | perch => exact enterPerch_legal _ _ h
  | ready s =>
    obtain stays | ⟨_, _, ready⟩ := checkReady_cases s
    · rwa [stays]
    · rw [ready]
      exact ⟨h.core, h.wdt, .inr (.inl rfl)⟩
  | trip s =>
    obtain stays | ⟨_, core, wdt, start, _⟩ := thermalTrip_cases s
    · rwa [stays]
    · exact h.of_eqs core wdt (by rw [start])
  | step5 s straps =>
    obtain stays | ⟨_, _, core, wdt, start, _⟩ := enterStep5_cases s straps
    · rwa [stays]
    · exact h.of_eqs core wdt (by rw [start])
  | powerDown | drive => exact h.of_eqs rfl rfl rfl
  | reset => exact resetDevice_legal _ _ _
  | supply => exact ⟨by simp [Power.reset], h.wdt, h.stage⟩
  | core mv range => exact ⟨range h.core, h.wdt, h.stage⟩

/-! ### The canonical form of pool memory -/

theorem enterPerch_memWf {s : State} (cause : BitVec 8) (info : Word) (h : memWf s.pool.mem = true) :
    memWf (enterPerch s cause info).pool.mem = true := by
  obtain ⟨_, stays⟩ | ⟨_, u, sent, _, _, _, mem, _⟩ := enterPerch_cases s cause info
  · rwa [stays]
  · exact sent.mem (mem h)

theorem Change.memWf {s t : State} (k : Change s t) (h : memWf s.pool.mem = true) : memWf t.pool.mem = true := by
  induction k with
  | same k => exact k.mem h
  | trans _ _ ih₁ ih₂ => exact ih₂ (ih₁ h)
  | perch => exact enterPerch_memWf _ _ h
  | ready s =>
    obtain stays | ⟨_, _, ready⟩ := checkReady_cases s
    · rwa [stays]
    · rwa [ready]
  | trip s =>
    obtain stays | ⟨_, _, _, _, _, pool⟩ := thermalTrip_cases s
    · rwa [stays]
    · rwa [pool]
  | step5 s straps =>
    obtain stays | ⟨_, _, _, _, _, _, pool⟩ := enterStep5_cases s straps
    · rwa [stays]
    · rwa [pool]
  | reset s railsUp =>
    obtain ⟨_, _, _, _, _, mem⟩ := resetDevice_eqs s _ railsUp
    exact mem h
  | powerDown | supply | drive | core => exact h

end Sys2Proof.Machine

namespace Sys2Proof.Proofs

open Sys2Proof.Machine

/-- Settles O56: no change that a step is made of brings the powered state back or a second cause of Perch. -/
theorem perchStays : Obligations.PerchStays := by
  unfold Obligations.PerchStays
  intro s t up perch hs
  obtain k | ⟨ramping, _⟩ := step_cases hs
  · exact k.perchedOrDown (.inr ⟨perch, rfl, rfl⟩)
  · exact absurd (up.symm.trans ramping) (by decide)

/-- Settles O58: every change that a step is made of keeps the three ranges, t_s included. -/
theorem registersStayLegal : Obligations.RegistersStayLegal := by
  unfold Obligations.RegistersStayLegal
  intro s t h hs
  obtain k | ⟨_, k⟩ := step_cases hs
  · exact k.legal h
  · exact k.legal (h.of_eqs rfl rfl rfl)

/-- Settles O59: pool memory is written by canonical writes alone, whatever change a step is made of. -/
theorem poolStaysCanonical : Obligations.PoolStaysCanonical := by
  unfold Obligations.PoolStaysCanonical
  intro s t h hs
  obtain k | ⟨_, k⟩ := step_cases hs
  · exact k.memWf h
  · exact k.memWf h

/-- Settles O60: the Reset values meet the ranges, STAGE is not Perch, and the pool holds no byte. -/
theorem resetIsLegal : Obligations.ResetIsLegal := by
  unfold Obligations.ResetIsLegal
  have stage : State.reset.start.stage ≠ 0xF := by decide
  exact ⟨⟨by decide, by decide, .inl rfl⟩, perchPin_of_stage_ne stage, rfl⟩

end Sys2Proof.Proofs
end

section
/-!
One step (O1): every branch of every meaning but VIN_RISE's answers a next state; and the Reset values (O2).
-/

namespace Sys2Proof.Machine

/-- The command answers a next state. -/
def Answers (r : Result) : Prop := ∃ t, r = .next t

theorem Answers.next (t : State) : Answers (.next t) := ⟨t, rfl⟩

theorem Answers.ite {c : Prop} [Decidable c] {p q : Result} (h : Answers p) (k : Answers q) : Answers (if c then p else q) := by
  split <;> assumption

theorem execVinRise_answers {mv : Nat} (s : State) (h : mv ≤ 2200) : Answers (execVinRise mv s) := by
  rw [execVinRise, if_neg (by omega)]
  exact .ite (.next _) (.next _)

/-- Only VIN_RISE has a branch that answers none. The meanings listed are those that branch before their answer; the others write one
state out. -/
theorem exec_answers (c : Instr) (s : State) (h : ∀ mv, c = .vinRise mv → mv ≤ 2200) : Answers (exec c s) := by
  cases c
  case vinRise mv => exact execVinRise_answers s (h mv rfl)
  all_goals
    dsimp only [
      exec, execOwlSelftestDone, execFullResetAssert, execRailsGood, execPwrOkFall, execPowerDownComplete, execVinUvloFall,
      execGovernorEval, execHPortDlActive, execCoreSelftestDone, execPoolTrainingDone, execScrubDone, execImageCopyChecked,
      execFirmwareRunning, execAportRelease, execAportEnumDone, execCqReportRelease, execCqReturn, execCqArm, execCqStallTimer,
      execAdmEnable, execAdmDisable, execAdmDoorbell, execAdminEntryFetched, execEvtReturn, execGateTakeover,
      execAlignmentLockChange, execPortLockHeld, execPortFaultHeld, execPfcFrameReceived, execPauseStuckTimer,
      execPfcRepeatTimer, execArpRequest, execNeighborSolicitation, execWheelSlot, execTrainCloseTimer, execDatagramSend,
      execFrameTransmitStart, execRetransmitTimeout, execPathHoldExpire, execPageRequestIssue, execAtsInvalidate,
      execTrainReceived, execKiteReceived, execFrameReceived, execAckDelayExpire, execHoldTimeout, execNotifyWaitTimeout,
      execNotifyDeliver, execAckReceived, execMovedReceived, execResendWaitExpire, execReadReqTimeout, execHandshakeRetry,
      execHandshakeTimeout, execConnectReq, execConnectAccept, execConnectRefuse, execSqEntryStart, execRxPhaseRetire,
      execLookasideStart, execLookasideDoorbell, execEntropyTestRun, execSeedWaitTimeout, execMbxOutDoorbell, execMbxInAck,
      execMbxInDoorbellClear, execMbxMaskWrite, execMbxRelayDeliver, execTpeStepStart, execTileLoadDone, execTpeStepComplete,
      execReduceWaitExpire, execInstanceResetDone, execPoolZeroingDone, execVfFlr, execVfEnableClear, execPfFlr,
      execFreezeDrained, execFreezeDrainTimeout, execPtpSync, execPtpDelayMessage, execPpsOutPulse, execTimeLoRead,
      execRoostEnter, execRoostExit, execGlideLoadWindow, execOwlSample, execFlashWriteDone, execWdtEnable, execWatchdogExpire,
      execClockLossDetect, execClockWindowEnd, execOscCalibrate, execRingSlotRead, execRecallFirst, execAtsCompletion,
      execPrgResponse, execDataReadComplete, execFlushReadComplete, execAportLinkUp, execControlResetDone, execRegisterWrite,
      execSqDoorbell, execRqDoorbell, execTpeDoorbell, execConfigRequest, execDapTransfer, execTapInstruction, execPatrolScrub,
      execPoolStackFault, execAerErrorReported, execSecureServiceRequest, execMctpVendorRequest, execMctpControlMessage]
    repeat' first
      | with_reducible exact .next _
      | with_reducible apply Answers.ite
      | split
      | exact ⟨_, rfl⟩

end Sys2Proof.Machine

namespace Sys2Proof.Proofs

open Sys2Proof.Machine

/-- Settles O1: `step` is `exec` of the front command, and `exec` answers a next state on every branch but one of VIN_RISE. -/
theorem stepRunsFrontCommand : Obligations.StepRunsFrontCommand := by
  unfold Obligations.StepRunsFrontCommand
  refine ⟨fun _ _ => rfl, fun s idle => ?_, fun c s => exec_answers c s, fun mv s beyond => ?_⟩
  · simp [step, idle]
  · simp [exec, execVinRise, beyond]

/-- Settles O2: the reset state's fields are these values, and each of the eight classes has the row of Table 10-4. -/
theorem resetValues : Obligations.ResetValues := by
  unfold Obligations.ResetValues
  have classes : ∀ tc < 8, State.reset.classes[tc]? = some
      { dscp := 8 * tc, strict := false, pfc := false, weight := 1, reserve := 512, xoff := 0, xon := 0, quanta := 0 } := by decide
  and_intros <;> first | exact classes | rfl

end Sys2Proof.Proofs
end

section
/-!
Reports (O3): an event's slot is written before anything else leaves.
-/

namespace Sys2Proof.Machine

/-! ### Outputs join at the end -/

theorem emit_out_prefix (s : State) (o : Output) : s.out <+: (emit s o).out := by
  unfold emit sendOut
  split <;> [skip; split] <;> simp

theorem msixRaise_out_prefix (s : State) (fn v : Nat) : s.out <+: (msixRaise s fn v).out := by
  unfold msixRaise msixSend
  repeat' split
  all_goals first | exact List.prefix_rfl | exact emit_out_prefix s _

@[simp] theorem putLine_out (s : State) (a : Nat) (bs : Bytes) : (putLine s a bs).out = s.out := by
  unfold putLine
  dsimp only
  split <;> rfl

theorem tracePut_out_prefix (s : State) (type source : Nat) (data : BitVec 96) : s.out <+: (tracePut s type source data).out := by
  unfold tracePut
  split
  · exact List.prefix_rfl
  · split
    · exact List.prefix_rfl
    · dsimp only
      split
      · exact .trans (by simp) (msixRaise_out_prefix _ _ _)
      · simp

theorem traceRaw_out_prefix (s : State) (cls : Option Nat) (type source : Nat) (data : BitVec 96) :
    s.out <+: (traceRaw s cls type source data).1.out := by
  unfold traceRaw
  repeat' (first | split | dsimp only)
  all_goals first
    | exact List.prefix_rfl
    | exact tracePut_out_prefix ..
    | exact List.IsPrefix.trans (by exact tracePut_out_prefix s 0x0003 0 _) (tracePut_out_prefix ..)

theorem writeOwned_out_prefix (s : State) (dst : Target) (a : Nat) (bs : Bytes) : s.out <+: (writeOwned s dst a bs).out :=
  (emit_out_prefix _ _).trans (emit_out_prefix _ _)

theorem putEventRaw_out_prefix (s : State) (code : BitVec 16) (time : BitVec 64) (data : BitVec 96) :
    s.out <+: (putEventRaw s code time data).1.out := by
  unfold putEventRaw
  split
  · exact List.prefix_rfl
  · refine List.IsPrefix.trans ?_ (traceRaw_out_prefix ..)
    refine List.IsPrefix.trans ?_ (msixRaise_out_prefix ..)
    exact writeOwned_out_prefix { s with adm := { s.adm with evtSeq := s.adm.evtSeq + 1 } } ..

/-! ### The event's slot -/

/-- Outside a debug halt a write to host memory leaves at once. -/
theorem writeOwned_out_of_host {s : State} {f : Nat} {p : Option Nat} (running : s.halted = false) (a : Nat) (bs : Bytes) :
    (writeOwned s (.host f p) a bs).out =
      s.out ++ [.memWrite (.host f p) a bs.dropLast, .memWrite (.host f p) (a + bs.length - 1) (bs.drop (bs.length - 1))] := by
  simp [writeOwned, emit, sendOut, tlpPort, running]

theorem length_entryBytes {w : Nat} (e : BitVec w) : (entryBytes e).length = w / 8 := length_leBytes _ _

/-- An event with a free entry writes its slot first. -/
theorem putEventRaw_out_of_free {s : State} (code : BitVec 16) (time : BitVec 64) (data : BitVec 96) (running : s.halted = false)
    (free : 0 < s.adm.evtFree) :
    s.out ++ [.memWrite pfHost (s.adm.evtBase.toNat + 32 * s.adm.evtNext) (entryBytes (eventEntry s.adm.evtSeq code s.epoch time data)).dropLast,
      .memWrite pfHost (s.adm.evtBase.toNat + 32 * s.adm.evtNext + 31) ((entryBytes (eventEntry s.adm.evtSeq code s.epoch time data)).drop 31)]
      <+: (putEventRaw s code time data).1.out := by
  have written := writeOwned_out_of_host (s := { s with adm := { s.adm with evtSeq := s.adm.evtSeq + 1 } }) (f := 0) (p := none) running
    (s.adm.evtBase.toNat + 32 * s.adm.evtNext) (entryBytes (eventEntry s.adm.evtSeq code s.epoch time data))
  rw [length_entryBytes] at written
  unfold putEventRaw
  rw [if_neg (by omega)]
  refine List.IsPrefix.trans ?_ (traceRaw_out_prefix ..)
  refine List.IsPrefix.trans ?_ (msixRaise_out_prefix ..)
  exact written ▸ List.prefix_rfl

theorem putEventRaw_out_prefix_putEvent (s : State) (code : BitVec 16) (time : BitVec 64) (data : BitVec 96) :
    (putEventRaw s code time data).1.out <+: (putEvent s code time data).out := by
  unfold putEvent
  dsimp only
  split
  · exact putEventRaw_out_prefix ..
  · exact List.prefix_rfl

/-- Outside Perch, Roost and a control reset, with the ring enabled, an event is put into the ring. -/
theorem post_eq_putEvent {s : State} (code : BitVec 16) (data : BitVec 96) (alive : live s = true) (awake : s.pm.state ≠ 2)
    (ctl : s.ctlReset = false) (enabled : s.adm.enabled = true) (reported : s.adm.reportOwed = false) :
    post s code data = putEvent s code s.time.dev data := by
  simp [post, putOrHold, alive, awake, ctl, enabled, reported]

end Sys2Proof.Machine

namespace Sys2Proof.Proofs

open Sys2Proof.Machine

/-- Settles O3: the three reports leave `quiet` as it was, and an event's two writes are the first outputs it adds. -/
theorem reports : Obligations.Reports := by
  unfold Obligations.Reports
  refine ⟨⟨post_onlyReports, trace_onlyReports, msixRaise_onlyReports⟩,
    fun s code data alive awake ctl running enabled reported free => ?_⟩
  obtain ⟨rest, h⟩ := (putEventRaw_out_of_free code s.time.dev data running free).trans (putEventRaw_out_prefix_putEvent ..)
  exact ⟨rest, by rw [post_eq_putEvent code data alive awake ctl enabled reported, ← h]; simp⟩

end Sys2Proof.Proofs
end

section
/-!
Power-up (O4).
-/

namespace Sys2Proof.Machine

/-! ### Step 5 of Table 2-4 -/

/-- The three reset inputs are high: the straps are sampled and the rails ramp (R34, R41). -/
theorem enterStep5_of_inputsHigh {s : State} (straps : BitVec 5) (waiting : s.power.phase = .waiting) (high : inputsHigh s = true) :
    enterStep5 s straps = { s with
      pins := { s.pins with smba := straps.extractLsb' 0 2, imgsel := straps.extractLsb' 2 1, test := straps.extractLsb' 3 2 }
      power := { s.power with phase := .ramping } } := by simp [enterStep5, waiting, high]

theorem enterStep5_of_not {s : State} (straps : BitVec 5) (h : s.power.phase ≠ .waiting ∨ inputsHigh s = false) :
    enterStep5 s straps = s := by
  obtain waits | low := h
  · simp [enterStep5, waits]
  · simp [enterStep5, low]

/-! ### t_s -/

/-- A cause of Perch found before t_s is taken at t_s, the TEST straps' first (R42, R103). -/
theorem exec_railsGood_of_ramping {s : State} (ramping : s.power.phase = .ramping) :
    let good : State := { s with
      power := { s.power with phase := .up, railsUp := true, hTraining := true }
      clocks := { s.clocks with winStart := (List.range 7).map fun clk => (clk, s.clocks.count) }
      time := { s.time with dev := 0 }, start := { s.start with railsAt := some s.now } }
    exec .railsGood s = .next (if s.pins.test ≠ 0 then enterPerch good 0x01 0
      else if s.power.owlTest = some false then enterPerch good 0x02 0 else good) := by
  simp only [exec, execRailsGood, ramping, firstWindows, beq_self_eq_true, if_true, bne_iff_ne]

/-- Without the powered state nothing enters Perch. -/
theorem enterPerch_of_not_up {s : State} (cause : BitVec 8) (info : Word) (h : s.power.phase ≠ .up) : enterPerch s cause info = s := by
  simp [enterPerch, live, h]

/-- Owl's self-test outside Perch and without a trip (Table 2-4 step 3). -/
theorem exec_owlSelftestDone_of_untested {s : State} (ok : Bool) (on : s.power.phase ≠ .off) (untested : s.power.owlTest = none)
    (cool : s.pins.thermtripN ≠ .low) (notPerch : s.start.stage ≠ 0xF#4) :
    let tested : State := { s with
      pins := { s.pins with thermtripN := .inactive, perchN := .inactive }, power := { s.power with owlTest := some ok } }
    exec (.owlSelftestDone ok) s = .next (if ok then tested else enterPerch tested 0x02 0) := by
  simp [exec, execOwlSelftestDone, aonUp, on, untested, cool, notPerch]

end Sys2Proof.Machine

namespace Sys2Proof.Proofs

open Sys2Proof.Machine

/-- Settles O4: each command by the phase it meets, the three inputs of step 5 by whether this one is the last to rise. -/
theorem powerUp : Obligations.PowerUp := by
  unfold Obligations.PowerUp
  refine ⟨fun mv s => ⟨fun low high off => ?_, fun low => ?_, fun high on => ?_, fun beyond => ?_⟩,
    fun straps s => ⟨?pwrOkLast, ?pwrOk, ?brdLast, ?brd, ?perstLast, ?perst⟩,
    fun s => ⟨fun ramping test owl => ?_, fun ramping test => ?_, fun ramping test owl => ?_, fun notYet => ?_,
      fun on untested cool notPerch => ⟨?_, fun notUp => ?_, fun _ => ?_⟩, fun up training => ?_, fun h => ?_⟩⟩
  · simp [exec, execVinRise, off, low, Nat.not_lt.2 high]
  · simp [exec, execVinRise, show ¬ 2200 < mv by omega, Nat.not_le.2 low]
  · simp [exec, execVinRise, Nat.not_lt.2 high, on]
  · simp [exec, execVinRise, beyond]
  case pwrOkLast | brdLast | perstLast =>
    intro waiting first second
    simp [exec, execPwrOkRise, execFullResetRelease, setResetPin, enterStep5_of_inputsHigh, inputsHigh, waiting, first, second]
  case pwrOk | brd | perst =>
    intro h
    simp only [exec, execPwrOkRise, execFullResetRelease, setResetPin]
    rw [enterStep5_of_not]
    exact h.imp_right fun low => by obtain low | low := low <;> simp [inputsHigh, low]
  · simp [exec_railsGood_of_ramping ramping, test, owl]
  · simp [exec_railsGood_of_ramping ramping, show s.pins.test ≠ 0#2 from test]
  · simp [exec_railsGood_of_ramping ramping, test, owl]
  · simp [exec, execRailsGood, notYet]
  · exact exec_owlSelftestDone_of_untested true on untested cool notPerch
  · rw [exec_owlSelftestDone_of_untested false on untested cool notPerch, if_neg (by decide), enterPerch_of_not_up _ _ (by exact notUp)]
  · exact exec_owlSelftestDone_of_untested false on untested cool notPerch
  · simp [exec, execHPortDlActive, up, training]
  · obtain down | idle := h
    · simp [exec, execHPortDlActive, down]
    · simp [exec, execHPortDlActive, idle]

end Sys2Proof.Proofs
end

section
/-!
Full resets, power-down, the thermal trip and loss of VIN (O5), and the pace governor (O6).
-/

namespace Sys2Proof.Machine

/-! ### Reset pulses (R39) -/

theorem pulseActs_of_long {s : State} {ns : Nat} (long : 1000 ≤ ns) : pulseActs s ns = true := by simp [pulseActs, long]

theorem pulseActs_of_short {s : State} {ns : Nat} (short : ns < 200) : pulseActs s ns = false := by
  simp [pulseActs, show ¬ 1000 ≤ ns by omega, show ¬ 200 ≤ ns by omega]

/-- A long pulse while the supply is there and no power-down runs is a full reset. -/
theorem exec_fullResetAssert_of_long {s : State} (pin : ResetPin) {ns : Nat} (long : 1000 ≤ ns)
    (on : s.power.phase = .waiting ∨ s.power.phase = .ramping ∨ s.power.phase = .up) : exec (.fullResetAssert pin ns) s =
      .next (resetDevice { setResetPin s pin false with fresh := s.fresh + 1 } .waiting s.power.railsUp) := by
  obtain w | r | u := on <;> simp [exec, execFullResetAssert, pulseActs_of_long long, *]

/-! ### The pace governor -/

theorem governorMove_eq (mv need : Nat) : governorMove mv need = max (mv - 5) (min (mv + 5) (max 620 (min 880 need))) := by
  unfold governorMove
  dsimp only
  split <;> omega

end Sys2Proof.Machine

namespace Sys2Proof.Proofs

open Sys2Proof.Machine

/-- Settles O5: what a full reset keeps is written in `resetDevice`; the rest goes by the phase each command meets. -/
theorem resetsAndPowerDown : Obligations.ResetsAndPowerDown := by
  unfold Obligations.ResetsAndPowerDown
  refine ⟨fun pin ns s => ⟨fun short => ?_, fun long on => ?_, fun long off => ?_⟩,
    fun straps s => ⟨fun on => ?_, fun off => ?_, fun down => ?_, fun trip => ?_, fun h k => ?_, fun h k => ?_, fun h => ?_, fun on => ?_, fun off => ?_⟩⟩
  · simp [exec, execFullResetAssert, pulseActs_of_short short]
  · refine ⟨_, exec_fullResetAssert_of_long pin long on, ?_⟩
    obtain ⟨_, _, _, _, perchN, _⟩ := resetDevice_eqs { setResetPin s pin false with fresh := s.fresh + 1 } .waiting s.power.railsUp
    have pool (rails : s.power.railsUp = true) :
        (resetDevice { setResetPin s pin false with fresh := s.fresh + 1 } .waiting s.power.railsUp).pool.mem = s.pool.mem := by
      cases pin <;> exact if_pos rails
    cases pin
    case brdRst => and_intros <;> first | rfl | exact perchN | exact pool | exact fun _ => ⟨rfl, rfl⟩ | exact nofun
    case hPerst => and_intros <;> first | rfl | exact perchN | exact pool | exact fun _ => ⟨rfl, rfl⟩ | exact nofun
  · obtain off | down | trip := off <;> cases pin <;> simp [exec, execFullResetAssert, pulseActs_of_long long, setResetPin, *]
  · obtain up | ramping | ⟨waiting, rails⟩ := on <;> simp [exec, execPwrOkFall, stopLinks, *]
  · obtain up | ramping | x | ⟨waiting, rails⟩ := off <;> simp [exec, execPwrOkFall, *]
  · refine ⟨enterStep5 (resetDevice s .waiting false) straps, by simp only [exec, execPowerDownComplete, down], ?_⟩
    by_cases high : inputsHigh (resetDevice s .waiting false) = true
    · have same : (s.pins.pwrOk && s.pins.brdRstN && s.pins.hPerstN) = true := high
      rw [enterStep5_of_inputsHigh straps rfl high, if_pos same]
      and_intros <;> rfl
    · have same : ¬ (s.pins.pwrOk && s.pins.brdRstN && s.pins.hPerstN) = true := high
      rw [enterStep5_of_not straps (.inr (by simpa using high)), if_neg same]
      and_intros <;> rfl
  · refine ⟨_, by simp only [exec, execPowerDownComplete, trip]; rfl, ?_⟩
    and_intros <;> rfl
  · simp only [exec, execPowerDownComplete]
  · simp [exec, execThermalBackstop, thermalTrip, aonUp, h, k, stopLinks]
  · obtain off | trip := h <;> simp [exec, execThermalBackstop, thermalTrip, aonUp, *]
  · refine ⟨_, if_pos (by simpa [aonUp] using on), ?_⟩
    and_intros <;> rfl
  · simp [exec, execVinUvloFall, aonUp, off]

/-- Settles O6: the governor's move is the clamped step of at most 5 mV. -/
theorem governorEval : Obligations.GovernorEval := by
  unfold Obligations.GovernorEval
  intro need pace region s
  refine ⟨fun alive awake enough => ?_, fun alive awake top slow => ?_, fun idle => ?_, fun _ _ => by omega⟩
  · have posts : ¬ (governorMove s.power.coreMv.toNat need = 880 ∧ pace < 0) := by rw [governorMove_eq]; omega
    simp [exec, execGovernorEval, alive, awake, posts, ← governorMove_eq]
  · have posts : governorMove s.power.coreMv.toNat need = 880 := (governorMove_eq ..).trans top
    simp [exec, execGovernorEval, alive, awake, slow, ← governorMove_eq, posts]
  · obtain dead | roost := idle <;> simp [exec, execGovernorEval, *]

end Sys2Proof.Proofs
end

section
/-!
Clock monitors and the actions of Table 3-4 (O7).
-/

namespace Sys2Proof.Machine

theorem gateRefresh_time (s : State) : (gateRefresh s).time = s.time := by
  unfold gateRefresh
  induction List.range 8 generalizing s with
  | nil => rfl
  | cons n ns ih => rw [List.foldl_cons, ih, (gateRefreshPort_portOnly s n).time]

/-- What every entry into a time state sets (R74, R75). -/
theorem setTime_time (s : State) (st : TimeState) (trusted : Bool) (guardEnd trustEnd : Option Nat) :
    (setTime s st trusted guardEnd trustEnd).time = { s.time with
      state := st, trusted := trusted, guardEnd := guardEnd, trustEnd := trustEnd
      goodRun := if s.time.state == st then s.time.goodRun else 0
      badRun := if s.time.state == st then s.time.badRun else 0
      syncLimit := if st == .locked then s.time.syncLimit else none
      slewLeft := if st == .holdover then 0 else s.time.slewLeft } := by
  unfold setTime
  dsimp only
  split
  · rw [gateRefresh_time, post_time]
  · rfl

/-! ### The clock monitors -/

theorem exec_clockLossDetect_of_up {s : State} {clk : Nat} (kind : ClockFault) (up : s.power.phase = .up) (small : clk < 7) :
    exec (.clockLossDetect clk kind) s = .next (if clockGood s clk then loseClock s clk else newWindow s clk) := by
  simp [exec, execClockLossDetect, up, Nat.not_le.2 small]

theorem windowOver_iff {s : State} {clk since : Nat} (began : tget s.clocks.winStart clk = some since) :
    windowOver s clk = true ↔ since + 1000000 ≤ s.clocks.count := by simp [windowOver, began]

/-- A window that has lasted its 1 ms is judged by its average and its change of rate (R64, R66). -/
theorem exec_clockWindowEnd_of_over {s : State} {clk : Nat} (ppb : Int) (up : s.power.phase = .up) (small : clk < 7)
    (lasted : windowOver s clk = true) :
    exec (.clockWindowEnd clk ppb) s = .next (if clockGood s clk then
        if !inTolerance s clk ppb || rateChanged s clk ppb then loseClock s clk
        else { s with clocks := { s.clocks with
          winStart := tput s.clocks.winStart clk s.clocks.count, lastWindow := tput s.clocks.lastWindow clk ppb } }
      else if inTolerance s clk ppb then restoreClock s clk ppb else newWindow s clk) := by
  simp only [exec, execClockWindowEnd, up, Nat.not_le.2 small, lasted, newWindow, bne_self_eq_false, decide_false, Bool.or_self, Bool.not_true,
    Bool.false_eq_true, if_false]
  split <;> [split; skip] <;> rfl

theorem exec_clockWindowEnd_of_early {s : State} {clk : Nat} (ppb : Int) (early : windowOver s clk = false) :
    exec (.clockWindowEnd clk ppb) s = .next s := by simp [exec, execClockWindowEnd, early]

/-! ### Losses (Table 3-4) -/

theorem OnlyReports.live_eq {s t : State} (h : OnlyReports s t) : live t = live s := h.eq_of live fun _ => rfl

@[simp] theorem live_post (s : State) (code : BitVec 16) (data : BitVec 96) : live (post s code data) = live s :=
  (post_onlyReports ..).live_eq

end Sys2Proof.Machine

namespace Sys2Proof.Proofs

open Sys2Proof.Machine

/-- Settles O7: the monitors by what a window shows of a good or a lost clock, then the actions of each loss. -/
theorem clockActions : Obligations.ClockActions := by
  unfold Obligations.ClockActions
  refine ⟨fun clk kind ppb s up small => ⟨fun good => ?_, fun bad => ?_, fun since began lasted => ?_, fun since began early => ?_⟩,
    fun clk kind ppb s down => ⟨?_, ?_, ?_⟩,
    fun s clk ppb => ⟨fun cal => ⟨?_, fun p last => ?_⟩, fun rough tref => ⟨?_, ?_⟩, fun rough other => ?_⟩,
    fun s since up good => ⟨fun tref lasted => ?_, fun h => ?_⟩,
    fun s => ⟨fun dead => ?_, fun alive => ?_, fun n small => ?_, rfl, rfl, fun locked cal => ?_, fun locked rough => ?_, fun free => ?_,
      fun unset => ?_⟩⟩
  · rw [exec_clockLossDetect_of_up kind up small, if_pos (by exact good)]
    rfl
  · rw [exec_clockLossDetect_of_up kind up small, if_neg (by simpa [clockGood] using bad)]
    rfl
  · rw [exec_clockWindowEnd_of_over ppb up small ((windowOver_iff began).2 lasted)]
    refine ⟨fun good tol steady => ?_, fun good out => ?_, fun bad tol => ?_, fun bad out => ?_⟩
    · simp [clockGood, -BitVec.getLsbD_eq_getElem, good, tol, steady]
    · have : (!inTolerance s clk ppb || rateChanged s clk ppb) = true := by simpa using out
      rw [if_pos (by exact good), if_pos this]
      rfl
    · rw [if_neg (by simpa [clockGood] using bad), if_pos tol]
      rfl
    · rw [if_neg (by simpa [clockGood] using bad), if_neg (by simp [out])]
      rfl
  · exact exec_clockWindowEnd_of_early ppb (by simpa [early] using (windowOver_iff began).not)
  · simp [exec, execClockLossDetect, down]
  · simp [exec, execClockWindowEnd, down]
  · simp [exec, execOscCalibrate, down]
  · simp [inTolerance, roughMeasure, cal]
  · simp [rateChanged, roughMeasure, cal, last]
  · simp [inTolerance, roughMeasure, rough, tref]
  · simp [rateChanged, roughMeasure, rough, tref]
  · cases good : s.clocks.good.getLsbD 6 <;>
      simp [inTolerance, roughMeasure, rough, other, clockGood, good, -BitVec.getLsbD_eq_getElem]
  · simp [exec, execOscCalibrate, up, good, clockGood, tref, lasted]
  · obtain lost | early := h
    · simp [exec, execOscCalibrate, clockGood, lost, -BitVec.getLsbD_eq_getElem]
    · simp [exec, execOscCalibrate, good, early]
  · have dead' : live { post s 0x0010 (evData [(16, 1, 0)]) with
        power := { (post s 0x0010 (evData [(16, 1, 0)])).power with hLinkUp := false, hTraining := false } } = false :=
      (live_post ..).trans dead
    simp only [clockLost, dead', Bool.false_eq_true, if_false]
  · have alive' : live { post s 0x0010 (evData [(16, 1, 0)]) with
        power := { (post s 0x0010 (evData [(16, 1, 0)])).power with hLinkUp := false, hTraining := false } } = true :=
      (live_post ..).trans alive
    simp only [clockLost, alive', if_true]
  · interval_cases n <;> rfl
  · simp [timeTrefLost, locked, cal, setTime_time]
  · simp [timeTrefLost, locked, rough, setTime_time]
  · simp [timeTrefLost, free, setTime_time]
  · simp [timeTrefLost, unset]

end Sys2Proof.Proofs
end

section
/-!
Device time (O8).
-/

namespace Sys2Proof.Machine

@[simp] theorem post_now (s : State) (code : BitVec 16) (data : BitVec 96) : (post s code data).now = s.now :=
  (post_onlyReports s code data).eq_of (·.now) fun _ => rfl

@[simp] theorem post_start (s : State) (code : BitVec 16) (data : BitVec 96) : (post s code data).start = s.start :=
  (post_onlyReports s code data).eq_of (·.start) fun _ => rfl

/-- The guard is the image's (R75). -/
theorem toFreerun_eq {s t : State} (now : t.now = s.now) (image : t.start.image = s.start.image) :
    toFreerun t = setTime t .freerun true (some (s.now + guardNs s)) none := by simp only [toFreerun, guardNs, img, now, image]

theorem ptpPort_eq_some_iff {s : State} {p : Nat} : ptpPort s = some p ↔ firmware s = true ∧ s.pm.state ≠ 2 ∧
    ∃ i, img s = some i ∧ i.ptpPort = p ∧ p < 8 ∧ (s.ports.getD p Port.reset).state = .up := by
  unfold ptpPort
  cases h : img s with
  | none => simp
  | some i =>
    simp only [Option.ite_none_right_eq_some, Bool.and_eq_true, bne_iff_ne, decide_eq_true_eq, beq_iff_eq, Option.some.injEq]
    constructor
    · rintro ⟨⟨⟨⟨f, r⟩, small⟩, up⟩, rfl⟩
      exact ⟨f, r, i, rfl, rfl, small, up⟩
    · rintro ⟨f, r, _, rfl, rfl, small, up⟩
      exact ⟨⟨⟨⟨f, r⟩, small⟩, up⟩, rfl⟩

end Sys2Proof.Machine

namespace Sys2Proof.Proofs

open Sys2Proof.Machine

/-- Settles O8: a Sync by whether the servo uses it, its offset and the time state; each timer at and before its moment. -/
theorem deviceTime : Obligations.DeviceTime := by
  unfold Obligations.DeviceTime
  refine ⟨fun gap interval s => ⟨fun p port tref near => ⟨fun st => ?_, fun st => ?_⟩, fun p port tref far => ⟨fun st => ?_, fun st => ?_⟩, fun p port unused => ?_, fun port => ?_, fun p => ptpPort_eq_some_iff⟩,
    fun s limit => ⟨fun lim run st due => ?_, fun lim early => ?_, fun lim up run st due => ?_, fun lim early => ?_, fun lim up run st due => ?_, fun lim early => ?_, fun st trusted guardEnd trustEnd => ?_⟩,
    fun s => ⟨fun up set near fresh => ?_, fun h => ?_, rfl, fun up => ?_, fun p q d port => ⟨fun master => ⟨?_, ?_⟩, fun slave => ⟨?_, fun tref st => ?_⟩⟩⟩⟩
  · have run : (if 1000 < (gap - s.time.pathNs).natAbs then s.time.badRun + 1 else 0) =
        if (gap - s.time.pathNs).natAbs ≤ 1000 then 0 else s.time.badRun + 1 := by simp only [← Nat.not_le, ite_not]
    obtain st | st := st <;> simp [exec, execPtpSync, port, tref, st, Nat.not_lt.2 near, run, -BitVec.getLsbD_eq_getElem]
  · have run : (if 1000 < (gap - s.time.pathNs).natAbs then s.time.badRun + 1 else 0) =
        if (gap - s.time.pathNs).natAbs ≤ 1000 then 0 else s.time.badRun + 1 := by simp only [← Nat.not_le, ite_not]
    simp [exec, execPtpSync, port, tref, st, Nat.not_lt.2 near, run, -BitVec.getLsbD_eq_getElem]
    exact ite_congr rfl (fun _ => toFreerun_eq rfl rfl) fun _ => rfl
  · obtain st | st := st <;> simp [exec, execPtpSync, port, tref, st, far, stepTime, -BitVec.getLsbD_eq_getElem]
  · simp [exec, execPtpSync, port, tref, st, far, stepTime, -BitVec.getLsbD_eq_getElem]
    exact ite_congr rfl (fun _ => toFreerun_eq rfl rfl) fun _ => rfl
  · obtain tref | st := unused
    · simp [exec, execPtpSync, port, tref, -BitVec.getLsbD_eq_getElem]
    · simp [exec, execPtpSync, port, st]
  · simp [exec, execPtpSync, port]
  · simp [exec, execSyncLossTimeout, lim, run, st, due, toFreerun]
  · simp [exec, execSyncLossTimeout, lim, early]
  · simp [exec, execFreerunGuardExpire, lim, run, st, due, up]
  · simp [exec, execFreerunGuardExpire, lim, early]
  · simp [exec, execHoldoverTrustExpire, lim, run, st, due, up]
  · simp [exec, execHoldoverTrustExpire, lim, early]
  · simp +contextual [setTime_time]
  · simp [exec, execPpsOutPulse, up, set, near, fresh]
  · obtain unset | off | same := h
    · simp [exec, execPpsOutPulse, unset]
    · simp [exec, execPpsOutPulse, Nat.not_le.2 off]
    · simp [exec, execPpsOutPulse, same]
  · simp [exec, execTimeLoRead, up, emit, sendOut, isTlp, tlpPort, readTimeLo]
  · simp [exec, execPtpDelayMessage, port, master, emit, sendOut, isTlp, tlpPort]
  · simp [exec, execPtpDelayMessage, port, master]
  · simp [exec, execPtpDelayMessage, port, slave]
  · simp [exec, execPtpDelayMessage, port, slave, tref, st, -BitVec.getLsbD_eq_getElem]
end Sys2Proof.Proofs
end

section
/-!
Entry into Perch (O9).
-/

namespace Sys2Proof.Machine

/-- Reports stay reports under a change of the start-up status, the pins and the time base. -/
theorem OnlyReports.setPerch {s t : State} (h : OnlyReports s t) (start : Start) (pins : Pins) (time : TimeBase) :
    OnlyReports { s with start := start, pins := pins, time := time } { t with start := start, pins := pins, time := time } :=
  ⟨congrArg (fun u => { u with start := start, pins := pins, time := time }) h.same, h.mem, h.written, h.failed, h.outs⟩

/-- The record of the change to Perch is in Owl's log; the trace record is a report. -/
theorem notePerch_onlyReports (s : State) : OnlyReports (owlPut { s with fresh := s.fresh + 1 } 0x0013
    (evData [(16, 1, s.pm.state), (17, 1, 3), (18, 1, (Config.unstated s.fresh).toNat % 256)])) (notePerch s) := trace_onlyReports ..

/-- What entry into Perch sets, with the time base `t` it leaves (R43, R102 to R104). -/
def perched (s : State) (cause : BitVec 8) (info : Word) (t : TimeBase) : State :=
  { s with
    start := { s.start with stage := 0xF, perchCause := cause, perchInfo := info, flash := none }
    pins := { s.pins with perchN := .low, smbAlert := true, nTxEnable := 0 }, time := t }

theorem OnlyReports.perched {s t : State} (h : OnlyReports s t) (cause : BitVec 8) (info : Word) (time : TimeBase) :
    OnlyReports (perched s cause info time) (perched t cause info time) := by
  unfold Machine.perched
  rw [h.eq_of (·.start) fun _ => rfl, h.eq_of (·.pins) fun _ => rfl]
  exact h.setPerch ..

/-- A device that is live enters Perch: LOCKED device time runs free for its guard. -/
theorem enterPerch_of_live {s : State} (cause : BitVec 8) (info : Word) (alive : live s = true) :
    enterPerch s cause info = msixSend (perched (notePerch s) cause info (if s.time.state == .locked then
      { s.time with state := .freerun, syncLimit := none, guardEnd := some (s.now + guardNs s) } else s.time)) 0 0 := by
  have h := notePerch_onlyReports s
  have time : (notePerch s).time = s.time := h.time_eq
  have now : (notePerch s).now = s.now := h.eq_of (·.now) fun _ => rfl
  have image : (notePerch s).start.image = s.start.image := h.eq_of (·.start.image) fun _ => rfl
  have guard : guardNs (notePerch s) = guardNs s := by simp only [guardNs, img, image]
  simp only [enterPerch, alive, Bool.not_true, Bool.false_eq_true, if_false, perched, ← time, ← now, ← guard]
  rfl

/-- A vector that is enabled and not masked is sent. -/
theorem msixSend_mem_outputs {s : State} {fn v : Nat} {f : FnState} (hf : tget s.fns fn = some f) (enabled : f.msix.enabled = true)
    (all : f.msix.maskAll = false) (open_ : v ∉ f.msix.masked) : .msix fn v ∈ outputs (msixSend s fn v) := by
  have sent : msixSend s fn v = emit s (.msix fn v) := by simp [msixSend, hf, enabled, all, open_]
  rw [sent]
  exact emit_mem s _

end Sys2Proof.Machine

namespace Sys2Proof.Proofs

open Sys2Proof.Machine

/-- Settles O9: entry is the record, the perched state and vector 0; without the live state nothing happens. -/
theorem perchEntry : Obligations.PerchEntry := by
  unfold Obligations.PerchEntry
  intro s cause info
  have noted := notePerch_onlyReports s
  refine ⟨fun alive free => ?_, fun alive locked => ?_, fun f alive hf enabled all opened => ?_, fun dead => ?_, fun perch code data fn v => ?_⟩
  · rw [enterPerch_of_live cause info alive, if_neg (by simpa using free)]
    exact (noted.perched cause info s.time).trans (msixSend_onlyReports ..)
  · rw [enterPerch_of_live cause info alive, if_pos (by simpa using locked)]
    exact (noted.perched cause info _).trans (msixSend_onlyReports ..)
  · rw [enterPerch_of_live cause info alive]
    exact msixSend_mem_outputs (s := perched (notePerch s) ..) hf enabled all opened
  · simp [enterPerch, dead]
  · have dead : live s = false := live_eq_false_of_perched perch
    simp [post, msixRaise, dead, show s.start.stage = 0xF#4 from perch]

end Sys2Proof.Proofs
end

section
/-!
Start-up (O10).
-/

namespace Sys2Proof.Machine

/-- STAGE becomes READY with the second of the scrub and the firmware (R84). -/
theorem checkReady_of_live {s : State} (alive : live s = true) : checkReady s =
    if s.start.stage = 0 ∧ s.start.scrubDone = true ∧ s.start.fwRunning = true then { s with start := { s.start with stage := 1 } } else s := by
  simp [checkReady, alive, and_assoc]

/-- An output that is no request leaves at once. -/
theorem emit_of_not_tlp {s : State} {o : Output} (h : isTlp o = false) (k : tlpPort o = none) : emit s o = { s with out := s.out ++ [o] } := by
  simp [emit, sendOut, h, k]

theorem emit_config (s : State) (retry : Bool) (v : Nat) : emit s (.config retry v) = { s with out := s.out ++ [.config retry v] } :=
  emit_of_not_tlp rfl rfl

theorem emit_flashSfdp (s : State) (lines mhz : Nat) : emit s (.flashSfdp lines mhz) = { s with out := s.out ++ [.flashSfdp lines mhz] } :=
  emit_of_not_tlp rfl rfl

theorem emit_flashRead (s : State) (alt : Bool) (lines mhz : Nat) :
    emit s (.flashRead alt lines mhz) = { s with out := s.out ++ [.flashRead alt lines mhz] } := emit_of_not_tlp rfl rfl

/-! ### The copies of the image -/

theorem readFlash_of_unset {s : State} (alt : Bool) (x : Option Sfdp) (unset : s.start.flashMode = none) :
    readFlash s alt x = { s with
      start := { s.start with flashMode := x.map fastestMode }
      out := s.out ++ .flashSfdp 1 25 :: (x.map fun t => .flashRead alt (fastestMode t).lines (fastestMode t).mhz).toList } := by
  cases x <;> simp [readFlash, unset, emit_flashSfdp, emit_flashRead]

theorem readFlash_of_set {s : State} (alt : Bool) (x : Option Sfdp) {m : FlashMode} (set : s.start.flashMode = some m) :
    readFlash s alt x = { s with out := s.out ++ [.flashRead alt m.lines m.mhz] } := by
  simp [readFlash, set, emit_flashRead]

/-- A read of the flash changes nothing but the mode, and adds outputs. -/
theorem readFlash_cases (s : State) (alt : Bool) (x : Option Sfdp) :
    ∃ m o, readFlash s alt x = { s with start := { s.start with flashMode := m }, out := o } := by
  cases h : s.start.flashMode with
  | none => exact ⟨_, _, readFlash_of_unset alt x h⟩
  | some m => exact ⟨some m, _, by rw [readFlash_of_set alt x h, ← h]⟩

/-- The reason recorded of a copy. -/
def copyReason (s : State) (alt : Bool) : Option (BitVec 8) := if alt then s.start.reasonAlt else s.start.reasonPri

/-- After the copy that was next, the other is next, unless it has been read (R85). -/
theorem nextCopy_of_noted {s t : State} {alt : Bool} (next : nextCopy s = some alt) (strap : t.pins.imgsel = s.pins.imgsel)
    (noted : (copyReason t alt).isSome = true) (other : copyReason t (!alt) = copyReason s (!alt)) :
    nextCopy t = if (copyReason s (!alt)).isSome then none else some (!alt) := by
  unfold nextCopy at *
  rw [strap]
  generalize (s.pins.imgsel == 1) = first at *
  cases alt <;> cases first <;> cases pri : s.start.reasonPri <;> cases alt' : s.start.reasonAlt <;> simp_all [copyReason]

/-- The reason noted of a copy that fails an integrity check. -/
def failedCopy (s : State) (alt : Bool) (r : BitVec 8) : State :=
  { s with start := if alt then { s.start with reasonAlt := some r, fallback := true } else { s.start with reasonPri := some r, fallback := true } }

/-- A copy that fails an integrity check leaves the other copy to be read; with both failed it is Perch (R85). -/
theorem exec_imageCopyChecked_of_bad {s : State} {alt : Bool} (x : Option Sfdp) (c : Bytes) (sigOk : Bool) (alive : live s = true)
    (stage : s.start.stage = 0#4) (image : s.start.image = none) (tested : s.start.coreTested = true) (next : nextCopy s = some alt)
    (mode : (readFlash s alt x).start.flashMode ≠ none) (bad : imageReason (some c) sigOk ≠ 0#8) :
    exec (.imageCopyChecked alt { sfdp := x, copy := some c } sigOk) s = .next (
      let back := failedCopy (readFlash s alt x) alt (imageReason (some c) sigOk)
      match copyReason s (!alt) with
      | none => back
      | some _ => enterPerch back 0x04
          (BitVec.ofNat 32 ((back.start.reasonPri.getD 0).toNat + 256 * (back.start.reasonAlt.getD 0).toNat))) := by
  obtain ⟨m, o, read⟩ := readFlash_cases s alt x
  have after := nextCopy_of_noted (t := failedCopy (readFlash s alt x) alt (imageReason (some c) sigOk)) next (by simp [read, failedCopy])
    (by cases alt <;> rfl) (by cases alt <;> simp [read, failedCopy, copyReason])
  clear read
  cases alt <;> cases other : copyReason s _ <;> simp only [other, failedCopy] at after <;>
    simp_all [exec, execImageCopyChecked, Option.isSome_iff_ne_none.2 mode, failedCopy]

/-- The copy is due and the flash does not answer, or answers without an SFDP table. -/
theorem exec_imageCopyChecked_of_unread {s : State} {alt : Bool} (read : FlashRead) (sigOk : Bool) (alive : live s = true)
    (stage : s.start.stage = 0#4) (image : s.start.image = none) (tested : s.start.coreTested = true) (next : nextCopy s = some alt)
    (found : (readFlash s alt read.sfdp).start.flashMode = none ∨ read.copy = none) :
    exec (.imageCopyChecked alt read sigOk) s = .next (enterPerch { readFlash s alt read.sfdp with
      start := if alt then { (readFlash s alt read.sfdp).start with reasonAlt := some 6, fallback := true }
        else { (readFlash s alt read.sfdp).start with reasonPri := some 6, fallback := true } } 0x04 0x0606) := by
  have none : (if (readFlash s alt read.sfdp).start.flashMode.isSome then read.copy else none) = none := by
    obtain h | h := found <;> simp [h]
  cases alt <;> simp [exec, execImageCopyChecked, alive, stage, image, tested, next, none, imageReason]

end Sys2Proof.Machine

namespace Sys2Proof.Machine

/-! ### Configuration requests (R80) -/

/-- From t_i on, and in Perch, a configuration request takes effect and is answered. -/
theorem exec_configRequest_of_open {s : State} (r : ConfigReq) (link : s.power.hLinkUp = true)
    (open_ : s.start.image ≠ none ∨ s.start.stage = 0xF#4) :
    let heard : State := { s with traffic := { s.traffic with tlps := s.traffic.tlps + 1 } }
    exec (.configRequest r) s = .next { configure heard r with
      out := (configure heard r).out ++ [.config false (configValue heard r)] } := by
  obtain image | perch := open_
  · simp [exec, execConfigRequest, heardTlp, link, img, emit_config, image]
  · simp [exec, execConfigRequest, heardTlp, link, img, emit_config, perch]

end Sys2Proof.Machine

namespace Sys2Proof.Proofs

open Sys2Proof.Machine

/-- Settles O10: each command by its guard; the copies by what the flash answers, the copy that fails by whether the other has failed too. -/
theorem startUp : Obligations.StartUp := by
  unfold Obligations.StartUp
  refine ⟨fun cores nports good s alive => ⟨fun fresh => ?_, fun done => ?_, fun fresh => ?_, fun done => ?_, fun trained due => ?_, fun h => ?_⟩,
    fun alt t m s => ⟨fun unset => ⟨?_, ?_⟩, fun set x => ?_⟩,
    fun alt x c sigOk s alive stage image tested next => ⟨fun mode sound good => ⟨?_, ?_, ?_, ?_⟩, fun off mode sound bad => ?_, fun mode bad other => ?_, fun other mode bad read => ?_, fun mode => ?_, ?_⟩, 
    fun s => ⟨fun alive image fresh ctl => ?_, fun h => ?_, fun limit due run idle late => ?_, fun limit due early => ?_, fun link image (stage : s.start.stage ≠ 0xF#4) r => ?_, fun link (open_ : s.start.image ≠ none ∨ s.start.stage = 0xF#4) => ⟨fun r => ?_, fun i image => ?_, fun image => ?_, fun p r x => ?_, fun w => ?_⟩, fun down r => ?_⟩⟩
  · simp [exec, execCoreSelftestDone, alive, fresh]
  · simp [exec, execCoreSelftestDone, done]
  · simp [exec, execPoolTrainingDone, alive, fresh]
  · simp [exec, execPoolTrainingDone, done]
  · simp only [exec, execScrubDone, alive, trained, due, Bool.not_false, Bool.and_self, if_true]
    rw [checkReady_of_live (by exact alive)]
    split <;> simp [*]
  · obtain untrained | done := h <;> simp [exec, execScrubDone, *]
  · exact readFlash_of_unset alt (some t) unset
  · have same : { s.start with flashMode := none } = s.start := by rw [← unset]
    simp [readFlash_of_unset alt none unset, same]
  · exact readFlash_of_set alt x set
  · cases alt <;> simp [exec, execImageCopyChecked, alive, stage, image, tested, next, Option.isSome_iff_ne_none.2 mode, sound, good]
  · simp [acceptImage]
  · simp [acceptImage]
  · obtain ⟨m, o, read⟩ := readFlash_cases s alt x
    simp [acceptImage, read]
  · cases alt <;> simp [exec, execImageCopyChecked, alive, stage, image, tested, next, Option.isSome_iff_ne_none.2 mode, sound, bad]
  · rw [exec_imageCopyChecked_of_bad x c sigOk alive stage image tested next mode bad]
    cases alt <;> simp_all [copyReason, failedCopy]
  · rw [exec_imageCopyChecked_of_bad x c sigOk alive stage image tested next mode bad]
    obtain ⟨m, o, read⟩ := readFlash_cases s alt x
    cases alt <;> simp_all [copyReason, failedCopy]
  · exact exec_imageCopyChecked_of_unread { sfdp := x, copy := some c } sigOk alive stage image tested next (.inl mode)
  · exact exec_imageCopyChecked_of_unread { sfdp := x, copy := none } sigOk alive stage image tested next (.inr rfl)
  · simp only [exec, execFirmwareRunning, alive, image, fresh, ctl, Bool.not_false, Bool.and_self, if_true]
    rw [checkReady_of_live (by exact alive)]
    simp
  · obtain none | runs | ctl := h <;> simp [exec, execFirmwareRunning, *]
  · simp [exec, execFirmwareStartTimeout, due, run, idle, late]
  · simp [exec, execFirmwareStartTimeout, due, early]
  · simp [exec, execConfigRequest, link, heardTlp, img, image, stage, emit_config]
  · exact exec_configRequest_of_open r link open_
  · simp [exec_configRequest_of_open _ link open_, configure, configValue, totalVfs, img, image]
  · simp [exec_configRequest_of_open _ link open_, configure, configValue, totalVfs, img, image]
  · simp [exec_configRequest_of_open _ link open_, configure, configValue]
  · simp [exec_configRequest_of_open _ link open_, configure, configValue, writeBar]
  · simp [exec, execConfigRequest, heardTlp, down]
end Sys2Proof.Proofs
end

section
/-!
Accelerator ports (O11).
-/

namespace Sys2Proof.Machine

/-- Requests to an A port whose link is up leave in their order. -/
theorem foldl_emit_of_linkUp {s : State} {n : Nat} (running : s.halted = false) (up : aLinkUp s n = true) (l : List Output)
    (mine : ∀ o ∈ l, tlpPort o = some n) : l.foldl emit s = { s with out := s.out ++ l } := by
  induction l generalizing s with
  | nil => simp
  | cons o l ih =>
    have port : tlpPort o = some n := mine o (by simp)
    have sent : emit s o = { s with out := s.out ++ [o] } := by simp [emit, sendOut, running, port, up]
    rw [List.foldl_cons, sent, ih (s := { s with out := s.out ++ [o] }) running up fun p hp => mine p (by simp [hp])]
    simp

end Sys2Proof.Machine

namespace Sys2Proof.Proofs

open Sys2Proof.Machine

/-- Settles O11: each step of R96 by the port's phase and its moment; what waits for a link by one induction on the requests. -/
theorem accelPorts : Obligations.AccelPorts := by
  unfold Obligations.AccelPorts
  refine ⟨fun n s small => ⟨fun since run phase clock good => ⟨fun late => ?_, fun early => ?_⟩, fun run phase => ⟨fun late => ?_, fun early => ?_⟩,
      fun bar run phase link => ⟨fun mem fits => ?_, fun bad => ?_⟩, fun run phase => ⟨fun late => ?_, fun early => ?_⟩, fun up => ?_⟩,
    fun n s alive small => ⟨fun clock down => ⟨fun phase => ?_, fun phase => ?_, fun phase => ?_⟩, fun h => ?_⟩,
    fun s o n port run => ⟨fun down => ?_, fun up => ⟨?_, ?_⟩⟩⟩
  · simp [exec, execAportRelease, run, small, phase, clock, good, late, -BitVec.getLsbD_eq_getElem]
  · simp [exec, execAportRelease, good, early]
  · simp [exec, execAportTrainTimeout, run, small, phase, late, aportFail, postAport]
  · simp [exec, execAportTrainTimeout, early]
  · cases image : s.start.image <;> simp_all [exec, execAportEnumDone, aLinkUp, postAport, setAport, img, lmod]
  · obtain io | short := bad
    · simp [exec, execAportEnumDone, run, small, phase, aLinkUp, link, aportFail, postAport, io]
    · cases image : s.start.image with
      | none => simp [image] at short
      | some i =>
        simp [image] at short
        simp [exec, execAportEnumDone, run, small, phase, aLinkUp, link, aportFail, postAport, img, image, Nat.not_le.2 short]
  · simp [exec, execAportRrsTimeout, run, small, phase, late, aportFail, postAport]
  · simp [exec, execAportRrsTimeout, early]
  · simp [exec, execAportLinkDown, up, small]
  · simp [exec, execAportLinkUp, alive, clock, down, phase, Nat.not_le.2 small, -BitVec.getLsbD_eq_getElem]
  · simp [exec, execAportLinkUp, alive, clock, down, phase, Nat.not_le.2 small, -BitVec.getLsbD_eq_getElem]
  · simp [exec, execAportLinkUp, alive, clock, down, phase, Nat.not_le.2 small, -BitVec.getLsbD_eq_getElem]
  · obtain lost | up := h
    · simp [exec, execAportLinkUp, lost, -BitVec.getLsbD_eq_getElem]
    · simp [exec, execAportLinkUp, up]
  · simp [emit, sendOut, port, run, down]
  · simp [emit, sendOut, port, run, up]
  · unfold releasePort
    exact foldl_emit_of_linkUp (by exact run) (by exact up) _ (by simp)

end Sys2Proof.Proofs
end

section
/-!
The admin ring (O12).
-/

namespace Sys2Proof.Machine

/-! ### A TLP's count leaves the guards -/

@[simp] theorem live_heardTlp (s : State) : live (heardTlp s) = live s := by simp [live]

@[simp] theorem running_heardTlp (s : State) : running (heardTlp s) = running s := by simp [running]

@[simp] theorem ready_heardTlp (s : State) : ready (heardTlp s) = ready s := by simp [ready]

@[simp] theorem serving_heardTlp (s : State) : serving (heardTlp s) = serving s := by simp [serving]

@[simp] theorem serving_heardBell (s : State) : serving (heardBell s) = serving s := by simp [serving, running, ready]

@[simp] theorem admReadOpen_heardTlp (s : State) : admReadOpen (heardTlp s) = admReadOpen s := by simp [admReadOpen]

@[simp] theorem firmware_heardTlp (s : State) : firmware (heardTlp s) = firmware s := by simp [firmware]

theorem live_of_running {s : State} (h : running s = true) : live s = true := (Bool.and_eq_true_iff.1 h).1

theorem running_of_serving {s : State} (h : serving s = true) : running s = true := (Bool.and_eq_true_iff.1 h).1

theorem live_of_serving {s : State} (h : serving s = true) : live s = true := live_of_running (running_of_serving h)

theorem not_halted_of_running {s : State} (h : running s = true) : s.halted = false := by
  simpa using (Bool.and_eq_true_iff.1 h).2

theorem running_of_firmware {s : State} (h : firmware s = true) : running s = true := by
  simp only [firmware, Bool.and_eq_true] at h
  exact h.1.1

/-! ### ENABLE -/

theorem exec_admEnable_of_live {s : State} {w : Word} (alive : live s = true) (one : w.getLsbD 8 = true) :
    exec (.admEnable w) s = .next (admCtrlWrite (heardTlp s) w) := by
  simp [exec, execAdmEnable, alive, one, -BitVec.getLsbD_eq_getElem]

theorem exec_admDisable_of_live {s : State} {w : Word} (alive : live s = true) (zero : w.getLsbD 8 = false) :
    exec (.admDisable w) s = .next (admCtrlWrite (heardTlp s) w) := by
  simp [exec, execAdmDisable, alive, zero, -BitVec.getLsbD_eq_getElem]

/-- Sizes of the two rings within R115. -/
def LegalSizes (ring evt : BitVec 4) : Prop := (6 ≤ ring.toNat ∧ ring.toNat ≤ 12) ∧ 6 ≤ evt.toNat ∧ evt.toNat ≤ 12

/-- The admin interface as an enabling write leaves it. -/
def enabledAdm (a : Adm) (ring evt : BitVec 4) : Adm :=
  { a with
    ringLog2 := ring, evtLog2 := evt, enable := true, enabled := true, head := 0, seqNext := a.seqBase, fetching := false, reading := false
    bell := false, cmds := [], evtNext := 0, evtFree := 2 ^ evt.toNat, reportOwed := true }

/-- A write of 1 in READY with legal sizes enables the ring. -/
theorem admCtrlWrite_of_legal {s : State} {w : Word} (one : w.getLsbD 8 = true) (off : s.adm.enable = false) (off' : s.adm.enabled = false)
    (rdy : ready s = true) (legal : LegalSizes (w.extractLsb' 0 4) (w.extractLsb' 4 4)) :
    admCtrlWrite s w = payReport { s with adm := enabledAdm s.adm (w.extractLsb' 0 4) (w.extractLsb' 4 4) } := by
  obtain ⟨⟨r1, r2⟩, e1, e2⟩ := legal
  simp only [admCtrlWrite, admEnable, off, off', one, Bool.or_self, Bool.false_eq_true, if_false, if_true, r1, r2, e1, e2, decide_true,
    Bool.and_self, Bool.not_false, Bool.and_true]
  exact if_pos rdy

/-- Otherwise only the sizes stand. -/
theorem admCtrlWrite_of_illegal {s : State} {w : Word} (one : w.getLsbD 8 = true) (off : s.adm.enable = false)
    (off' : s.adm.enabled = false) (h : ready s = true → ¬ LegalSizes (w.extractLsb' 0 4) (w.extractLsb' 4 4)) :
    admCtrlWrite s w = { s with adm := { s.adm with ringLog2 := w.extractLsb' 0 4, evtLog2 := w.extractLsb' 4 4 } } := by
  simp only [admCtrlWrite, admEnable, off, off', one, Bool.or_self, Bool.false_eq_true, if_false, if_true]
  refine if_neg fun legal => ?_
  simp only [Bool.and_eq_true, decide_eq_true_eq] at legal
  exact h legal.1.1.1 ⟨legal.1.2, legal.2⟩

theorem foldl_putEvent_onlyReports (l : List HeldEvent) (s : State) :
    OnlyReports s (l.foldl (fun t e => putEvent t e.code e.time e.data) s) := by
  induction l generalizing s with
  | nil => exact .refl s
  | cons e l ih => exact (putEvent_onlyReports ..).trans (ih _)

/-- START_REPORT is the first event of an enabled ring: it goes to the slot that is next. -/
theorem postReport_spec {s : State} (run : s.halted = false) (free : 0 < s.adm.evtFree) :
    OnlyReports { s with adm := { s.adm with held := [], heldLost := 0, reportOwed := false } } (postReport s) ∧
      .memWrite pfHost (s.adm.evtBase.toNat + 32 * s.adm.evtNext) (entryBytes (eventEntry s.adm.evtSeq 0x0001 s.epoch s.time.dev
        (evData [(16, 4, (startStatus s).toNat), (20, 4, (unitMap s).toNat), (24, 2, s.adm.heldLost.toNat)]))).dropLast
          ∈ outputs (postReport s) := by
  refine ⟨(putEvent_onlyReports ..).trans (foldl_putEvent_onlyReports ..), (foldl_putEvent_onlyReports ..).outs _ ?_⟩
  have written := (putEventRaw_out_of_free (s := { s with adm := { s.adm with held := [], heldLost := 0, reportOwed := false } }) 0x0001
    s.time.dev (evData [(16, 4, (startStatus s).toNat), (20, 4, (unitMap s).toNat), (24, 2, s.adm.heldLost.toNat)]) run free).trans
    (putEventRaw_out_prefix_putEvent ..)
  exact List.mem_append_left _ (List.mem_append_left _ (written.subset (by simp)))

theorem payReport_of_owed {s : State} (owed : s.adm.reportOwed = true) (on : s.adm.enabled = true) (fw : firmware s = true)
    (awake : s.pm.state ≠ 2) : payReport s = postReport s := by simp [payReport, owed, on, fw, awake]

/-! ### Slot reads -/

/-- While a run of reads is open and none is outstanding, the slot at HEAD is read at once, but for 256 commands in execution (R118). -/
theorem admFetch_of_open {s : State} (srv : serving s = true) (enable : s.adm.enable = true) (on : s.adm.enabled = true)
    (fetching : s.adm.fetching = true) (idle : s.adm.reading = false) : admFetch s = if s.adm.cmds.length < 256 then { s with
      adm := { s.adm with reading := true }, out := s.out ++ [.slotRead pfHost (s.adm.ringBase.toNat + 64 * s.adm.head.toNat)] } else s := by
  have run := not_halted_of_running (running_of_serving srv)
  simp [admFetch, admMayFetch, srv, enable, on, fetching, idle, emit, sendOut, run, pfHost, tlpPort]

theorem admReadOpen_iff {s : State} : admReadOpen s = true ↔
    serving s = true ∧ s.adm.enable = true ∧ s.adm.enabled = true ∧ s.adm.reading = true := by simp [admReadOpen, and_assoc]

end Sys2Proof.Machine

namespace Sys2Proof.Proofs

open Sys2Proof.Machine

/-- Settles O12: ENABLE by whether it stands, DOORBELL and a slot read by whether the next slot may be read. -/
theorem adminRing : Obligations.AdminRing := by
  unfold Obligations.AdminRing
  refine ⟨fun w s alive => ⟨fun one rdy off off' r1 r2 e1 e2 => ⟨fun quiet => ?_, fun fw awake => ?_⟩, fun one off off' bad => ?_, fun one on => ?_, fun zero on busy => ?_, fun zero on idle => ?_⟩,
    fun s => ⟨fun srv en on idle room => ?_, fun alive en on reads => ?_, fun alive en on idle full => ?_, fun off => ?_, fun opened => ?_, fun closed r => ?_, fun n => ⟨fun alive on => ?_, fun h => ?_⟩⟩⟩
  · rw [exec_admEnable_of_live alive one, admCtrlWrite_of_legal one (by simp [off]) (by simp [off']) (by simp [rdy]) ⟨⟨r1, r2⟩, e1, e2⟩]
    obtain ctl | roost := quiet <;> simp [payReport, firmware, enabledAdm, *]
  · rw [exec_admEnable_of_live alive one, admCtrlWrite_of_legal one (by simp [off]) (by simp [off']) (by simp [rdy]) ⟨⟨r1, r2⟩, e1, e2⟩]
    refine ⟨_, rfl, ?_⟩
    rw [payReport_of_owed rfl rfl (by exact (firmware_heardTlp s).trans fw) (by simpa using awake)]
    have spec := postReport_spec (s := { heardTlp s with adm := enabledAdm (heardTlp s).adm (w.extractLsb' 0 4) (w.extractLsb' 4 4) })
      (by simp [not_halted_of_running (running_of_firmware fw)]) (by simp [enabledAdm])
    simpa [startStatus, unitMap, enabledAdm] using spec
  · rw [exec_admEnable_of_live alive one, admCtrlWrite_of_illegal one (by simp [off]) (by simp [off'])]
    · simp
    · rintro rdy ⟨⟨r1, r2⟩, e1, e2⟩
      obtain h | h | h | h | h := bad
      · simp [h] at rdy
      all_goals omega
  · rw [exec_admEnable_of_live alive one]
    simp [admCtrlWrite, admEnable, on, one, -BitVec.getLsbD_eq_getElem]
  · rw [exec_admDisable_of_live alive zero]
    simp [admCtrlWrite, admSettle, on, zero, busy, admFetch, admMayFetch, -BitVec.getLsbD_eq_getElem]
  · rw [exec_admDisable_of_live alive zero]
    simp [admCtrlWrite, admSettle, on, zero, idle, -BitVec.getLsbD_eq_getElem]
  · simp only [exec, execAdmDoorbell, live_heardBell, live_of_serving srv, admDoorbell, heardBell_fields, en, on, Bool.and_self, if_true]
    rw [admFetch_of_open (by exact srv) rfl rfl rfl (by exact idle)]
    simp [room, idle]
  · simp [exec, execAdmDoorbell, alive, admDoorbell, en, on, reads, admFetch, admMayFetch]
  · simp [exec, execAdmDoorbell, alive, admDoorbell, en, on, idle, admFetch, admMayFetch, show ¬ s.adm.cmds.length < 256 by omega]
  · obtain off | off := off <;> simp [exec, execAdmDoorbell, admDoorbell, off]
  · obtain ⟨srv, en, on, -⟩ := admReadOpen_iff.1 opened
    refine ⟨fun e f own seq legal => ?_, fun e own bell => ?_, fun e own bell room => ?_, fun e own bad => ?_, ?_⟩
    · simp only [exec, execAdminEntryFetched, admReadOpen_heardTlp, opened, own, legal, heardTlp_fields, seq, Bool.not_true, bne_self_eq_false,
        Bool.or_self, Bool.false_eq_true, if_false]
      rw [admFetch_of_open (by exact srv) (by exact en) (by exact on) (by exact f) rfl]
      simp
    · simp [exec, execAdminEntryFetched, opened, own, bell, admFetch, admMayFetch]
    · simp only [exec, execAdminEntryFetched, admReadOpen_heardTlp, opened, own, heardTlp_fields, bell, Bool.not_true, Bool.not_false,
        Bool.false_eq_true, if_false, if_true]
      rw [admFetch_of_open (by exact srv) (by exact en) (by exact on) rfl rfl]
      simp [room]
    · obtain seq | ill := bad
      · simp [exec, execAdminEntryFetched, opened, own, seq, admMalformed]
      · simp [exec, execAdminEntryFetched, opened, own, ill, admMalformed]
    · simp [exec, execAdminEntryFetched, opened, admMalformed]
  · simp [exec, execAdminEntryFetched, closed]
  · simp [exec, execEvtReturn, alive, evtReturn, on]
  · obtain dead | off := h <;> simp [exec, execEvtReturn, evtReturn, *]
end Sys2Proof.Proofs
end

section
/-!
Admin commands that may not start yet (O13).
-/

namespace Sys2Proof.Machine

/-! ### When a command may not start (R118) -/

theorem mayStart_of_not_firmware {s : State} (slot opcode : Nat) (h : firmware s = false) : mayStart s slot opcode = none := by
  unfold mayStart
  split <;> simp [h]

theorem mayStart_of_absent {s : State} {slot : Nat} (opcode : Nat) (h : admCmd s slot = none) : mayStart s slot opcode = none := by
  simp [mayStart, h]

theorem mayStart_of_opcode_ne {s : State} {slot opcode : Nat} {c : AdminCmd} (h : admCmd s slot = some c) (other : cmdOpcode c ≠ opcode) :
    mayStart s slot opcode = none := by simp [mayStart, h, other]

/-- Outside Roost every earlier command has started. -/
theorem mayStart_of_queued_before {s : State} {slot : Nat} (opcode : Nat) {c : AdminCmd} (h : admCmd s slot = some c)
    (queued : c.phase = .queued) (awake : s.pm.state ≠ 2) (before : (cmdsBefore s slot).any (fun b => b.phase == .queued) = true) :
    mayStart s slot opcode = none := by
  have waits : ((cmdsBefore s slot).all fun b => b.phase != .queued || (s.pm.state == 2 && !runsInRoost (cmdOpcode b))) = false := by
    obtain ⟨b, hb, hq⟩ := List.any_eq_true.1 before
    exact List.all_eq_false.2 ⟨b, hb, by simpa [awake] using hq⟩
  simp [mayStart, h, queued, waits]

/-- A FENCE waits for the earlier commands to complete. -/
theorem mayStart_of_fence {s : State} {slot : Nat} (opcode : Nat) {c : AdminCmd} (h : admCmd s slot = some c)
    (queued : c.phase = .queued) (fence : cmdFence c = true) (before : cmdsBefore s slot ≠ []) : mayStart s slot opcode = none := by
  simp [mayStart, h, queued, fence, before]

/-! ### The shape of every admin command -/

/-- The command's meaning is `startAdmin` with this opcode. -/
def StartsAs (s : State) (slot opcode : Nat) (i : Instr) : Prop := ∃ f, exec i s = .next (startAdmin s slot opcode f)

theorem StartsAs.waits {s : State} {slot opcode : Nat} {i : Instr} (h : StartsAs s slot opcode i) (none : mayStart s slot opcode = none) :
    exec i s = .next s := by
  obtain ⟨f, hf⟩ := h
  rw [hf, startAdmin, none]

theorem StartsAs.holds {s : State} {slot opcode : Nat} {i : Instr} {c : AdminCmd} (h : StartsAs s slot opcode i)
    (may : mayStart s slot opcode = some c) (ahead : instAhead s c = true) : exec i s = .next (holdCmd s slot) := by
  obtain ⟨f, hf⟩ := h
  simp [hf, startAdmin, may, ahead]

end Sys2Proof.Machine

namespace Sys2Proof.Proofs

open Sys2Proof.Machine

/-- Settles O13: every admin command starts through `startAdmin` with the opcode of its row, and each case refuses the start. -/
theorem adminCommandWaits : Obligations.AdminCommandWaits := by
  unfold Obligations.AdminCommandWaits
  intro s slot b1 bs v m commands
  have shape : ∀ p ∈ commands, StartsAs s slot p.1 p.2 := by
    simp only [commands, List.forall_mem_cons, List.not_mem_nil, IsEmpty.forall_iff, implies_true, and_true]
    and_intros <;> exact ⟨_, rfl⟩
  refine ⟨fun h p hp => (shape p hp).waits ?_, fun p hp c hc other => (shape p hp).waits (mayStart_of_opcode_ne hc other),
    fun p hp c may ahead => (shape p hp).holds may ahead⟩
  obtain idle | absent | ⟨c, hc, queued, awake, before⟩ | ⟨c, hc, queued, fence, before⟩ := h
  · exact mayStart_of_not_firmware slot p.1 idle
  · exact mayStart_of_absent p.1 absent
  · exact mayStart_of_queued_before p.1 hc queued awake before
  · exact mayStart_of_fence p.1 hc queued fence before

end Sys2Proof.Proofs
end

section
/-!
Where register accesses go (O14).
-/

namespace Sys2Proof.Machine

/-! ### A received access is a count -/

theorem heardTlp_eq (s : State) : heardTlp s = { s with traffic := (heardTlp s).traffic } := by
  unfold heardTlp
  split <;> rfl

theorem heardAccess_eq (s : State) (src : AccessSrc) (off : Nat) :
    heardAccess s src off = { s with traffic := (heardAccess s src off).traffic } := by
  have tlp := heardTlp_eq s
  unfold heardAccess heardBells
  cases src <;> dsimp only <;> split <;> first | rfl | (rw [tlp])

@[simp] theorem heardAccess_fields (s : State) (src : AccessSrc) (off : Nat) :
    (heardAccess s src off).power = s.power ∧ (heardAccess s src off).start = s.start ∧ (heardAccess s src off).adm = s.adm ∧
      (heardAccess s src off).clocks = s.clocks ∧ (heardAccess s src off).insts = s.insts ∧ (heardAccess s src off).pm = s.pm := by
  rw [heardAccess_eq]
  and_intros <;> rfl

theorem heardAccess_smbus (s : State) (off : Nat) : heardAccess s .smbus off = s := rfl

/-! ### One access of 32 bits -/

theorem exec_registerWrite_of_word {s : State} (src : AccessSrc) {off : Nat} (v : BitVec 64) (up : s.power.phase = .up)
    (aligned : off % 4 = 0) :
    exec (.registerWrite src off 4 v) s = .next (regWrite (heardAccess s src off) src off (v.extractLsb' 0 32)) := by
  simp [exec, execRegisterWrite, up, aligned, half]

/-- 8 aligned bytes are two accesses, the lower address first (R109). -/
theorem exec_registerWrite_of_pair {s : State} (src : AccessSrc) {off : Nat} (v : BitVec 64) (up : s.power.phase = .up)
    (aligned : off % 8 = 0) : exec (.registerWrite src off 8 v) s = .next
      (regWrite (regWrite (heardAccess s src off) src off (v.extractLsb' 0 32)) src (off + 4) (v.extractLsb' 32 32)) := by
  simp [exec, execRegisterWrite, up, aligned, half, show off % 4 = 0 by omega]

theorem regWrite_of_place {s : State} {src : AccessSrc} {off : Nat} {p : RegPlace} (h : regPlace s src true off = some p) (w : Word) :
    regWrite s src off w = regPlaceWrite s w p := by simp [regWrite, h]

theorem regWrite_of_none {s : State} {src : AccessSrc} {off : Nat} (h : regPlace s src true off = none) (w : Word) :
    regWrite s src off w = s := by simp [regWrite, h]

/-- A misaligned access is ignored, and so is one to a place that ignores it. -/
theorem exec_registerWrite_of_ignored {s : State} {src : AccessSrc} {off : Nat} (v : BitVec 64) (up : s.power.phase = .up)
    (h : off % 4 = 0 → ∀ w, regWrite (heardAccess s src off) src off w = heardAccess s src off) :
    exec (.registerWrite src off 4 v) s = .next (heardAccess s src off) := by
  by_cases aligned : off % 4 = 0
  · rw [exec_registerWrite_of_word src v up aligned, h aligned]
  · simp [exec, execRegisterWrite, aligned]

/-- Outside Perch a write over the H port goes by its offset. -/
theorem regPlace_hPf {s : State} (pasid : Option Nat) (off : Nat) (notPerch : s.start.stage ≠ 0xF#4) :
    regPlace s (.hPf pasid) true off = pfPlace s false pasid off := by simp [regPlace, notPerch]

theorem regPlace_hPf_of_perch {s : State} (pasid : Option Nat) (off : Nat) (perch : s.start.stage = 0xF#4) :
    regPlace s (.hPf pasid) true off = none := by simp [regPlace, perch]

/-! ### The admin interface -/

theorem extractLsb'_low_append (a b : Word) : (a ++ b : BitVec 64).extractLsb' 0 32 = b := BitVec.extractLsb'_append_eq_right

theorem admConfig_of_off {s : State} (f : Adm → Adm) (off : s.adm.enable = false) (off' : s.adm.enabled = false) :
    admConfig s f = { s with adm := f s.adm } := by simp [admConfig, off, off']

theorem admConfig_of_on {s : State} (f : Adm → Adm) (on : s.adm.enable = true ∨ s.adm.enabled = true) : admConfig s f = s := by
  simp [admConfig, on]

theorem regWrite_adm {s : State} (pasid : Option Nat) {off : Nat} (small : off < 0x100000) (w : Word) (notPerch : s.start.stage ≠ 0xF#4) :
    regWrite s (.hPf pasid) (0x100000 + off) w = admWrite s off w := by
  rw [regWrite_of_place (p := .adm off)]
  · rfl
  · rw [regPlace_hPf pasid _ notPerch]
    simp [pfPlace, show 1048576 + off < 2097152 by omega]

theorem halves_append (v : BitVec 64) : v.extractLsb' 32 32 ++ v.extractLsb' 0 32 = v := by
  refine BitVec.eq_of_getLsbD_eq fun i hi => ?_
  rw [BitVec.getLsbD_append]
  by_cases low : i < 32
  · simp [low]
  · simp [low, show 32 + (i - 32) = i by omega, show i - 32 < 32 by omega]

/-- Ring addresses and SEQ_BASE do not change while ENABLE or ENABLED is 1 (R116). -/
theorem regWrite_adm_of_on {s : State} (pasid : Option Nat) (w : Word) (notPerch : s.start.stage ≠ 0xF#4)
    (on : s.adm.enable = true ∨ s.adm.enabled = true) :
    ∀ o ∈ [0x100000, 0x100004, 0x100008, 0x10000C, 0x100014], regWrite s (.hPf pasid) o w = s := by
  have ignored {a : Nat} (ha : a = 0 ∨ a = 4 ∨ a = 8 ∨ a = 0xC ∨ a = 0x14) : regWrite s (.hPf pasid) (0x100000 + a) w = s := by
    rw [regWrite_adm pasid (by omega) w notPerch]
    obtain rfl | rfl | rfl | rfl | rfl := ha <;> simp [admWrite, admConfig_of_on _ on]
  simp only [List.forall_mem_cons, List.not_mem_nil, IsEmpty.forall_iff, implies_true, and_true]
  exact ⟨ignored (a := 0) (by simp), ignored (a := 4) (by simp), ignored (a := 8) (by simp), ignored (a := 0xC) (by simp),
    ignored (a := 0x14) (by simp)⟩

end Sys2Proof.Machine

namespace Sys2Proof.Proofs

open Sys2Proof.Machine

/-- Settles O14: the place of each offset, and what a write does at it. -/
theorem registerWrite : Obligations.RegisterWrite := by
  unfold Obligations.RegisterWrite
  refine ⟨fun src off size v s => ⟨fun bad => ?_, exec_registerWrite_of_word src v, exec_registerWrite_of_pair src v⟩,
    fun off v pasid s up => ⟨fun notPerch enable on => ⟨?_, ?_, ?_⟩, fun notPerch on o ho => ?_, fun notPerch => ?_,
      fun gctl seen wdt => ?_, fun lo hi => ?_, fun lo hi => ?_, fun perch => ?_, fun p i x hp notPerch small aligned hi => ?_⟩,
    fun off k v s up notPerch small aligned => ⟨fun vf i x hi => ?_, fun port i x hx awake => ?_, fun hk => ?_⟩, fun s pasid => ?_⟩
  · obtain down | odd | ⟨n4, n8⟩ | ⟨n8, odd⟩ := bad
    · simp [exec, execRegisterWrite, down]
    · simp [exec, execRegisterWrite, odd]
    · simp [exec, execRegisterWrite, n4, n8]
    · simp [exec, execRegisterWrite, n8, odd]
  · rw [exec_registerWrite_of_word _ v up (by decide), regWrite_adm pasid (off := 0x14) (by decide) _ (by simpa using notPerch)]
    simp [admWrite, admConfig_of_off, enable, on]
  · rw [exec_registerWrite_of_pair _ v up (by decide), regWrite_adm pasid (off := 0x0) (by decide) _ (by simpa using notPerch),
      admWrite, admConfig_of_off _ (by simpa using enable) (by simpa using on),
      regWrite_adm pasid (off := 0x4) (by decide) _ (by simpa using notPerch), admWrite, admConfig_of_off _ (by simpa using enable) (by simpa using on)]
    simp [extractLsb'_low_append]
  · rw [exec_registerWrite_of_pair _ v up (by decide), regWrite_adm pasid (off := 0x8) (by decide) _ (by simpa using notPerch),
      admWrite, admConfig_of_off _ (by simpa using enable) (by simpa using on),
      regWrite_adm pasid (off := 0xC) (by decide) _ (by simpa using notPerch), admWrite, admConfig_of_off _ (by simpa using enable) (by simpa using on)]
    simp [extractLsb'_low_append]
  · refine exec_registerWrite_of_ignored v up fun _ w => ?_
    exact regWrite_adm_of_on pasid w (by simpa using notPerch) (by simpa using on) o ho
  · rw [exec_registerWrite_of_word _ v up (by decide), regWrite_of_place (p := .gctl 0x210)]
    · simp [regPlaceWrite, gctlWrite]
    · rw [regPlace_hPf pasid _ (by simpa using notPerch)]
      simp [pfPlace]
  · refine exec_registerWrite_of_ignored v up fun _ w => ?_
    by_cases perch : s.start.stage = 0xF#4
    · exact regWrite_of_none (regPlace_hPf_of_perch pasid off (by simpa using perch)) w
    · rw [regWrite_of_place (p := .gctl off)]
      · simp [regPlaceWrite, gctlWrite]
      · rw [regPlace_hPf pasid _ (by simpa using perch)]
        simp [pfPlace, gctl]
  · refine exec_registerWrite_of_ignored v up fun _ w => regWrite_of_none ?_ w
    by_cases perch : s.start.stage = 0xF#4
    · exact regPlace_hPf_of_perch pasid off (by simpa using perch)
    · rw [regPlace_hPf pasid _ (by simpa using perch)]
      simp [pfPlace, Nat.not_lt.2 lo, show ¬ off < 0x100000 by omega, hi]
  · refine exec_registerWrite_of_ignored v up fun _ w => ?_
    by_cases perch : s.start.stage = 0xF#4
    · exact regWrite_of_none (regPlace_hPf_of_perch pasid off (by simpa using perch)) w
    · have place : regPlace (heardAccess s (.hPf pasid) off) (.hPf pasid) true off =
          if off < 0x500000 then some (.trc (off - 0x400000)) else none := by
        rw [regPlace_hPf pasid _ (by simpa using perch)]
        simp [pfPlace, show ¬ off < 0x100000 by omega, show ¬ off < 0x200000 by omega, show ¬ off < 0x300000 by omega, Nat.not_lt.2 lo,
          show ¬ 0xF00000 ≤ off by omega]
      by_cases trc : off < 0x500000
      · rw [regWrite_of_place (place.trans (if_pos trc))]
        rfl
      · exact regWrite_of_none (place.trans (if_neg trc)) w
  · exact exec_registerWrite_of_ignored v up fun _ w => regWrite_of_none (regPlace_hPf_of_perch pasid off (by simpa using perch)) w
  · rw [exec_registerWrite_of_word _ v up (by omega), regWrite_of_place (p := .page i off)]
    · rfl
    · rw [regPlace_hPf pasid _ (by simpa using notPerch)]
      rw [pfPlace.eq_def, if_neg (by omega), if_neg (by omega), if_neg (by omega), if_neg (by omega), if_neg (by omega), if_neg (by simp; omega),
        if_pos (by simp; omega)]
      simp [hp, pageBy, hi]
  · rw [exec_registerWrite_of_word _ v up aligned, regWrite_of_place (p := .page i off)]
    · rfl
    · simp [regPlace, show s.start.stage ≠ 0xF#4 from notPerch, pageBy, hi, Nat.not_le.2 small]
  · by_cases owned : x.apage = port + 1
    · rw [exec_registerWrite_of_word _ v up aligned, regWrite_of_place (p := .page i off), if_pos owned]
      · rfl
      · simp [regPlace, show s.start.stage ≠ 0xF#4 from notPerch, hx, awake, owned, Nat.not_le.2 small]
    · rw [exec_registerWrite_of_word _ v up aligned, regWrite_of_none, if_neg owned]
      simp [regPlace, show s.start.stage ≠ 0xF#4 from notPerch, hx, owned]
  · rw [exec_registerWrite_of_word _ v up (by omega), heardAccess_smbus, regWrite_of_place (p := .secure k off)]
    · rfl
    · have window : ¬ (0x200000 + 0x10000 * k + off < 0x200000) ∧ 0x200000 + 0x10000 * k + off < 0x300000 := by omega
      have place : (0x200000 + 0x10000 * k + off - 0x200000) / 0x10000 = k ∧ (0x200000 + 0x10000 * k + off) % 0x10000 = off := by omega
      rw [regPlace, if_neg (by simp [show s.start.stage ≠ 0xF#4 from notPerch]; omega), pfPlace, if_neg (by omega), if_neg window.1,
        if_pos window.2, if_pos rfl, place.1, place.2]
  · simp [mmioRead, regRead, regPlace, perchReads, pfPlace, placeRead, gctlRead, readTimeLo, half, halves_append]

end Sys2Proof.Proofs
end

section
/-!
Admin commands that can start, and what their bodies decide; creating instances and their quotas (O15).
-/

namespace Sys2Proof.Machine

/-! ### Admin commands that can start -/

section
variable {i : Instr} {s t : State} {slot op : Nat} {c : AdminCmd} {f : AdminCmd → State → State}

/-- A command that can start and whose body refuses it completes refused. -/
theorem body_refused {status : BitVec 8} {reason : Nat} (hs : CanStart s slot op c) (h : exec i s = .next (startAdmin s slot op f))
    (e : f c s = refuse t slot status reason) (k : AdmSame s t) : Completes i s slot c.entry status reason t :=
  completes_refused hs (by rw [h, startAdmin_of_canStart hs, e]) k

theorem body_plain (hs : CanStart s slot op c) (h : exec i s = .next (startAdmin s slot op f)) (e : f c s = complete t slot)
    (k : AdmSame s t) : Completes i s slot c.entry stOk rsNone t :=
  completes_plain hs (by rw [h, startAdmin_of_canStart hs, e]) k

theorem body_with {g : Entry → Entry} (hs : CanStart s slot op c) (h : exec i s = .next (startAdmin s slot op f))
    (e : f c s = completeWith t slot g) (k : AdmSame s t) : Completes i s slot (g c.entry) stOk rsNone t :=
  completes_with hs (by rw [h, startAdmin_of_canStart hs, e]) k

/-- A command whose meaning ends with `completeWith` on a state that is `t` but for reports. -/
theorem body_with_reports {u : State} {g : Entry → Entry} (hs : CanStart s slot op c) (h : exec i s = .next (startAdmin s slot op f))
    (e : f c s = completeWith u slot g) (hr : OnlyReports t u) (k : AdmSame s t) : Completes i s slot (g c.entry) stOk rsNone t := by
  have hc : admCmd u slot = some c := by rw [hr.admCmd_eq, k.admCmd_eq, admCmd_of_mayStart hs.1]
  exact completes_of (by rw [h, startAdmin_of_canStart hs, e, completeWith_eq hc]) hr k.base k.epoch

theorem body_plain_reports {u : State} (hs : CanStart s slot op c) (h : exec i s = .next (startAdmin s slot op f))
    (e : f c s = complete u slot) (hr : OnlyReports t u) (k : AdmSame s t) : Completes i s slot c.entry stOk rsNone t :=
  body_with_reports (g := id) hs h e hr k

end

theorem postInst_onlyReports (s : State) (i state cause noRecord : Nat) : OnlyReports s (postInst s i state cause noRecord) :=
  post_onlyReports ..

theorem settle_of_none {s : State} {slot : Nat} {r : Option (BitVec 8 × Nat)} {f : State → State} (h : r = none) :
    settle s slot r f = f s := by rw [h]; rfl

theorem settle_of_some {s : State} {slot : Nat} {r : Option (BitVec 8 × Nat)} {x : BitVec 8 × Nat} {f : State → State} (h : r = some x) :
    settle s slot r f = refuse s slot x.1 x.2 := by rw [h]; rfl

@[simp] theorem settle_some (s : State) (slot : Nat) (r : BitVec 8 × Nat) (f : State → State) :
    settle s slot (some r) f = refuse s slot r.1 r.2 := rfl

@[simp] theorem settle_none (s : State) (slot : Nat) (f : State → State) : settle s slot none f = f s := rfl

@[simp] theorem firstRefusal_nil : firstRefusal [] = none := rfl

@[simp] theorem firstRefusal_cons (b : Bool) (r : BitVec 8 × Nat) (l : List (Bool × BitVec 8 × Nat)) :
    firstRefusal ((b, r) :: l) = if b then some r else firstRefusal l := rfl

end Sys2Proof.Machine

namespace Sys2Proof.Proofs

open Sys2Proof.Machine

/-- Settles O15: each clause is one branch of the body of its command. -/
theorem instanceCreation : Obligations.InstanceCreation := by
  unfold Obligations.InstanceCreation
  refine ⟨fun slot vec s c hs => ⟨fun bound ring read => ⟨rfl, rfl, ?_⟩, fun r bound => ?_, fun r bound ring => ?_, fun bound ring slice => ?_⟩,
    fun s i e => ⟨fun y hy => ?_, fun none slice vf => ?_, fun none ap out => ?_, fun r hr none slice ap fn pasid => ?_⟩,
    fun slot vec s c hs => ⟨fun r gone => ?_, fun there => ⟨fun query => ?_, fun set beyond => ?_, fun set fits => ⟨fun keep => ?_, fun reload b => ?_, fun reload => ?_⟩⟩⟩⟩
  · refine body_with_reports (g := apageResult _ (cmdInst c)) hs rfl ?_ (postInst_onlyReports _ (cmdInst c) 1 0 0) ?_
    · exact settle_of_none (by simpa [bound, ring, ← Option.isSome_iff_ne_none] using read)
    · exact enableRing_admSame _ _ _ (.keep (.refl s) ..)
  · exact body_refused hs rfl (settle_of_some (by simp [bound])) (.refl s)
  · exact body_refused hs rfl (settle_of_some (by simp [bound, ring])) (.refl s)
  · exact body_refused hs rfl (settle_of_some (x := (stAborted, rsHostRead)) (by simp [bound, ring, slice])) (.refl s)
  · cases h : y.state <;> simp [bindRefusal, hy, h]
  · simp [bindRefusal, none, slice, vf]
  · simp [bindRefusal, none, ap, out]
  · have taken : s.insts.any (fun r => !r.2.fn && r.2.pasid == fld e 12 19 0) = true :=
      List.any_eq_true.2 ⟨r, hr, by simp [fn, pasid]⟩
    simp only [bindRefusal, none, slice, ap, if_true, taken]
    rfl
  · exact body_refused hs rfl (settle_of_some gone) (.refl s)
  · exact body_with hs rfl ((settle_of_none there).trans (if_pos query)) (.refl s)
  · refine body_refused hs rfl (t := s) ((settle_of_none there).trans ?_) (.refl s)
    simp [set, beyond]
  · refine body_plain hs rfl ((settle_of_none there).trans ?_) (modInst_admSame _ _ _ (.refl s))
    simp only [set, keep, Nat.not_lt.2 fits]
    simp
  · refine body_plain hs rfl ((settle_of_none there).trans ?_) (reloadVecs_admSame _ _ _ (modInst_admSame _ _ _ (.refl s)))
    simp only [set, reload, Nat.not_lt.2 fits]
    simp
  · refine body_refused hs rfl (t := s) ((settle_of_none there).trans ?_) (.refl s)
    simp only [set, reload, Nat.not_lt.2 fits]
    simp

end Sys2Proof.Proofs
end

section
/-!
Resetting, destroying, freezing and thawing instances (O16, O17).
-/

namespace Sys2Proof.Machine

/-! ### The refusals of an instance that is absent or RESETTING -/

section
variable {s : State} {i : Nat} {x : Inst}

theorem instRefusal_of_absent (h : tget s.insts i = none) : instRefusal s i = some (stAborted, rsNoObject) := by simp [instRefusal, h]

theorem instRefusal_of_resetting (h : tget s.insts i = some x) (r : x.state = .resetting) :
    instRefusal s i = some (stAborted, rsBadState) := by simp [instRefusal, h, r]

theorem instRefusal_of_not_resetting (h : tget s.insts i = some x) (r : x.state ≠ .resetting) : instRefusal s i = none := by
  simp [instRefusal, h, r]

/-- No reset of an absent instance is under way for a command. -/
theorem not_resetFor_of_absent (h : tget s.insts i = none) (slot : Nat) :
    ¬((tget s.insts i).any fun x => x.why.any fun w => w.slot == some slot) = true := by simp [h]

theorem not_resetFor_of_other (h : tget s.insts i = some x) {slot : Nat} (o : ∀ w, x.why = some w → w.slot ≠ some slot) :
    ¬((tget s.insts i).any fun x => x.why.any fun w => w.slot == some slot) = true := by
  rw [h]
  simp only [Option.any_some]
  cases hw : x.why with
  | none => simp
  | some w => simpa using o w hw

end

/-- A reset or a destroy whose instance is under no reset of its own is refused as the instance is. -/
theorem instanceReset_refused {s : State} {slot : Nat} {c : AdminCmd} {r : BitVec 8 × Nat} (hs : CanStart s slot 0x0102 c)
    (own : ¬((tget s.insts (cmdInst c)).any fun x => x.why.any fun w => w.slot == some slot) = true)
    (h : instRefusal s (cmdInst c) = some r) : Completes (.instanceReset slot) s slot c.entry r.1 r.2 s :=
  body_refused hs rfl ((if_neg own).trans (settle_of_some h)) (.refl s)

theorem instanceDestroy_refused {s : State} {slot : Nat} {c : AdminCmd} {r : BitVec 8 × Nat} (hs : CanStart s slot 0x0103 c)
    (own : ¬((tget s.insts (cmdInst c)).any fun x => x.why.any fun w => w.slot == some slot) = true)
    (h : instRefusal s (cmdInst c) = some r) : Completes (.instanceDestroy slot) s slot c.entry r.1 r.2 s :=
  body_refused hs rfl ((if_neg own).trans (settle_of_some (by simp [h]))) (.refl s)

/-- The meaning of an admin command that can start is its body. -/
theorem exec_of_canStart {i : Instr} {s : State} {slot op : Nat} {c : AdminCmd} {f : AdminCmd → State → State} {t : State}
    (hs : CanStart s slot op c) (h : exec i s = .next (startAdmin s slot op f)) (e : f c s = t) : exec i s = .next t := by
  rw [h, startAdmin_of_canStart hs, e]

/-! ### A thaw that ends a handshake of its own slot -/

/-- An INSTANCE_THAW in slot 0 of the frozen instance 0, one of whose queue pairs still names slot 0 as that of its QP_MODIFY, and whose
SQ has a hand-back that could not be written. -/
def thawOverHandshake : State :=
  let e : Entry := BitVec.ofNat 512 0x0107
  let ring : Ring := { Ring.create 0 4 0 0 with state := .enabled, deadBy := some (0, stAborted) }
  let qp : Qp := { Qp.create 0 ring (Ring.create 0 4 0 0) 0 with state := .init, handshake := some { slot := 0, retryAt := 0, giveUp := 0 } }
  let inst : Inst := { bindInst State.reset e (Ring.create 0 4 0 0) [] .frozen with mute := true }
  { State.reset with
    power := { Power.reset with phase := .up, railsUp := true, hLinkUp := true }
    start := { Start.reset with stage := 1, fwRunning := true }
    adm := { Adm.reset with cmds := [{ slot := 0, entry := e, phase := .queued, since := 0 }] }
    insts := [(0, inst)], qps := [(0, qp)] }

/-- What the thaw writes of its entry is not OK. -/
theorem thawOverHandshake_refused : ∃ u, exec (.instanceThaw 0) thawOverHandshake = .next u ∧
    ¬ EntryWritten thawOverHandshake u 0 (BitVec.ofNat 512 0x0107) stOk rsNone := by
  refine ⟨_, rfl, ?_⟩
  unfold EntryWritten
  decide +kernel

end Sys2Proof.Machine

namespace Sys2Proof.Proofs

open Sys2Proof.Machine

/-- Settles O16: the start of a reset and of a destroy, the end of their drain, and the end of a destroy, branch by branch. -/
theorem instanceResets : Obligations.InstanceResets := by
  unfold Obligations.InstanceResets
  refine ⟨fun slot s c => ⟨fun x hs hx up new => ?_, fun x hs hx up new => ?_, fun gone => ⟨fun hs => ?_, fun hs => ?_⟩,
      fun x hx down other => ⟨fun hs => ?_, fun hs => ?_⟩⟩,
    fun inst s x w hx hw down => ⟨fun fw drained kept again => ⟨fun none => ?_, fun k some => ?_⟩, fun fw drained kept destroy => ?_,
      fun early => ?_, fun removed clean => ?_, fun z hz mine => ?_⟩⟩
  · have own := not_resetFor_of_other (slot := slot) hx (by simp [new])
    exact exec_of_canStart hs rfl ((if_neg own).trans (settle_of_none (instRefusal_of_not_resetting hx up)))
  · have own := not_resetFor_of_other (slot := slot) hx (by simp [new])
    have live := instRefusal_of_not_resetting hx up
    refine ⟨fun stay => ?_, fun fwd frozen => ⟨fun bad => ?_, fun good full => ?_, fun good room => ?_⟩, fun fwd active => ?_⟩
    · refine exec_of_canStart hs rfl ((if_neg own).trans ((settle_of_none ?_).trans ?_))
      · simp [live, stay]
      · simp [stay]
    · refine body_refused hs rfl ((if_neg own).trans (settle_of_some (x := (stAborted, 0x1008)) ?_)) (.refl s)
      simp [live, fwd, instFrozen, hx, frozen, bad]
    · refine body_refused hs rfl ((if_neg own).trans (settle_of_some (x := (stAborted, 0x1009)) ?_)) (.refl s)
      simp [live, fwd, instFrozen, hx, frozen, good, full]
    · refine exec_of_canStart hs rfl ((if_neg own).trans ((settle_of_none ?_).trans ?_))
      · simp [live, fwd, instFrozen, hx, frozen, good, Nat.not_le.2 room]
      · simp [fwd]
    · refine body_refused hs rfl ((if_neg own).trans (settle_of_some (x := (stAborted, rsBadState)) ?_)) (.refl s)
      simp [live, fwd, instFrozen, hx, active]
  · exact instanceReset_refused (r := (stAborted, rsNoObject)) hs (not_resetFor_of_absent gone slot) (instRefusal_of_absent gone)
  · exact instanceDestroy_refused (r := (stAborted, rsNoObject)) hs (not_resetFor_of_absent gone slot) (instRefusal_of_absent gone)
  · exact instanceReset_refused (r := (stAborted, rsBadState)) hs (not_resetFor_of_other hx other) (instRefusal_of_resetting hx down)
  · exact instanceDestroy_refused (r := (stAborted, rsBadState)) hs (not_resetFor_of_other hx other) (instRefusal_of_resetting hx down)
  · simp [exec, execInstanceResetDone, hx, hw, fw, down, drained, kept, again, none]
  · simp [exec, execInstanceResetDone, hx, hw, fw, down, drained, kept, again, some]
  · simp [exec, execInstanceResetDone, hx, hw, fw, down, drained, kept, destroy]
  · obtain stopped | waits | done := early
    · simp [exec, execInstanceResetDone, hx, hw, stopped]
    · simp [exec, execInstanceResetDone, hx, hw, waits]
    · simp [exec, execInstanceResetDone, hx, hw, done]
  · have none_left : (s.pool.zeroing.any fun z => z.inst == inst) = false := by simpa using clean
    cases slot : w.slot <;> simp [finishDestroy, hx, hw, removed, none_left, slot]
  · have left : (s.pool.zeroing.any fun z => z.inst == inst) = true := List.any_eq_true.2 ⟨z, hz, by simp [mine]⟩
    simp [finishDestroy, hx, hw, left]

/-- Refutes O17: the statement holds for every state, and in one where a queue pair's handshake names the slot of the thaw itself the
thaw's own hand-backs put that queue pair into ERROR, which ends the handshake and so refuses the command in its slot (0x01 ABORTED), before
the thaw would complete it with OK. -/
theorem not_freezeAndThaw : ¬ Obligations.FreezeAndThaw := by
  unfold Obligations.FreezeAndThaw
  intro h
  have start : CanStart thawOverHandshake 0 0x0107 { slot := 0, entry := BitVec.ofNat 512 0x0107, phase := .queued, since := 0 } := by
    unfold CanStart
    decide +kernel
  obtain ⟨u, hu, -, written⟩ := (h.1 0 thawOverHandshake _).2.2 start (by decide +kernel) (by decide +kernel)
  obtain ⟨v, hv, lost⟩ := thawOverHandshake_refused
  rw [hv] at hu
  cases hu
  exact lost written

end Sys2Proof.Proofs
end

section
/-!
Saving and restoring an instance, and the migration key (O18).
-/

namespace Sys2Proof.Machine

/-! ### Placing what an image carries leaves the admin ring -/

section
variable {a0 : State} {i : Nat} {o : Option State}

theorem placeRegion_admSame (h : ∀ t ∈ o, AdmSame a0 t) (r : MigRegion) : ∀ t ∈ placeRegion i o r, AdmSame a0 t := by
  intro u hu
  simp only [placeRegion, Option.mem_def, Option.bind_eq_some_iff, Option.map_eq_some_iff] at hu
  obtain ⟨t, ht, base, -, rfl⟩ := hu
  exact .keep (h t ht) ..

theorem placeMirror_admSame (h : ∀ t ∈ o, AdmSame a0 t) (b : MigBody) : ∀ t ∈ placeMirror i b o, AdmSame a0 t := by
  intro u hu
  simp only [placeMirror, Option.mem_def, Option.bind_eq_some_iff] at hu
  obtain ⟨t, ht, hu⟩ := hu
  split at hu
  · exact Option.some_inj.1 hu ▸ h t ht
  · obtain ⟨base, -, rfl⟩ := Option.map_eq_some_iff.1 hu
    exact .keep (takeFresh_admSame _ (takeFresh_admSame _ (h t ht))) ..

theorem placeCtx_admSame (h : ∀ t ∈ o, AdmSame a0 t) (r : Nat × Ctx) : ∀ t ∈ placeCtx i o r, AdmSame a0 t := by
  intro u hu
  simp only [placeCtx, Option.mem_def, Option.bind_eq_some_iff, Option.map_eq_some_iff] at hu
  obtain ⟨t, ht, base, -, rfl⟩ := hu
  exact .keep (takeFresh_admSame _ (takeFresh_admSame _ (h t ht))) ..

end

/-- Regions, mirror and contexts placed one after the other. -/
theorem placed_admSame {s t u : State} {i : Nat} {b : MigBody} (h : AdmSame s t)
    (hu : b.ctxs.foldl (placeCtx i) (placeMirror i b (b.regions.foldl (placeRegion i) (some t))) = some u) : AdmSame s u := by
  have regions : ∀ v ∈ b.regions.foldl (placeRegion i) (some t), AdmSame s v :=
    List.foldlRecOn (motive := fun o => ∀ v ∈ o, AdmSame s v) _ _ (by simpa using h) fun _ k r _ => placeRegion_admSame k r
  exact List.foldlRecOn (motive := fun o => ∀ v ∈ o, AdmSame s v) _ _ (placeMirror_admSame regions b)
    (fun _ k r _ => placeCtx_admSame k r) u hu

/-- A command whose body completes it with results of its own and a refusal. -/
theorem body_entry {i : Instr} {s t : State} {slot op : Nat} {c : AdminCmd} {f : AdminCmd → State → State} {res : Entry} {status : BitVec 8}
    {reason : Nat} (hs : CanStart s slot op c) (h : exec i s = .next (startAdmin s slot op f))
    (e : f c s = completeEntry t slot res status reason) (k : AdmSame s t) : Completes i s slot res status reason t :=
  completes_of (exec_of_canStart hs h e) (.refl _) k.base k.epoch

end Sys2Proof.Machine

namespace Sys2Proof.Proofs

open Sys2Proof.Machine

/-- Settles O18: the checks of each command in their order, then what it does. -/
theorem migration : Obligations.Migration := by
  unfold Obligations.Migration
  refine ⟨fun slot s c hs => ⟨fun b load => ?_, fun load => ?_, fun b clear key => ?_, fun b clear none => ?_⟩,
    fun slot ok s c hs => ⟨fun r bad => ?_, fun frozen none => ?_, fun x key id frozen hx hk => ⟨fun small => ?_, fun fits dry => ?_, fun fits seeded => ⟨?_, ?_⟩⟩⟩,
    fun slot vec s c hs => ⟨fun buf r bad => ?_, fun buf bound none => ?_, fun key id bound hk => ⟨?_, fun m => ⟨fun slice => ?_, fun table => ?_⟩⟩⟩⟩
  · refine body_plain hs rfl (if_neg (by simp [load])) (purgeKeyMem_admSame _ _ _ (modCipher_admSame _ _ (.refl s)))
  · refine body_refused hs rfl (if_neg (by simp [load])) (.refl s)
  · refine body_plain hs rfl ((if_pos clear).trans (if_neg ?_)) (modCipher_admSame _ _ (.refl s))
    simpa [Option.isSome_iff_ne_none] using key
  · refine body_refused hs rfl ((if_pos clear).trans (if_pos ?_)) (.refl s)
    simp [none]
  · refine body_refused hs rfl (t := s) ?_ (.refl s)
    simp [bad]
  · refine body_refused hs rfl (t := s) ?_ (.refl s)
    simp [frozen, none]
  · refine body_entry hs rfl ?_ (.refl s)
    simp [frozen, hx, hk, small]
  · refine body_refused hs rfl (t := s) ?_ (.refl s)
    simp [frozen, hx, hk, Nat.not_lt.2 fits, dry]
  · refine body_refused hs rfl (t := s) ?_ (.refl s)
    simp [frozen, hx, hk, Nat.not_lt.2 fits, seeded]
  · refine body_with hs rfl (g := fun e => putFld e 32 63 0 (imageBytes (bodySaved s (cmdInst c) x))) ?_
      (emit_admSame _ _ (modCipher_admSame _ _ (takeFresh_admSame _ (drawRandom_admSame _ (.refl s)))))
    simp [frozen, hx, hk, Nat.not_lt.2 fits, seeded, imageOf]
  · refine body_refused hs rfl (t := s) ?_ (.refl s)
    simp [bad]
  · refine body_refused hs rfl (t := s) ?_ (.refl s)
    simp [bound, none]
  · refine body_refused hs rfl (t := s) ?_ (.refl s)
    simp [bound, hk]
  · refine body_refused hs rfl (t := s) ?_ (.refl s)
    simp [bound, hk, slice]
  · have read : ¬ (bit c.entry 8 0 && vec.isNone) = true := by
      simpa [← Option.isSome_iff_ne_none] using table
    refine ⟨fun bad => ?_, fun good taken => ?_, fun r good free bad => ?_, fun good free fits full => ?_, fun t2 good free fits room => ⟨rfl, rfl, ?_⟩⟩
    · refine body_refused hs rfl (t := s) ?_ (.refl s)
      simp only [bound, hk, read, bad]
      rfl
    · refine body_refused hs rfl (t := s) ?_ (.refl s)
      simp only [bound, hk, read, good, taken]
      rfl
    · refine body_refused hs rfl (t := s) ?_ (.refl s)
      simp only [bound, hk, read, good, free, bad]
      rfl
    · refine body_refused hs rfl (t := s) ?_ (.refl s)
      simp only [bound, hk, read, good, free, fits, settle_none, Bool.not_true, Bool.false_eq_true, if_false]
      split
      · rfl
      · next _ h => cases h.symm.trans full
    · refine body_with_reports hs rfl (g := apageResult _ (cmdInst c)) ?_ (postInst_onlyReports _ (cmdInst c) 2 0 0)
        (.foldl (buildRest_admSame _ _ _ _ (placed_admSame (.keep (.refl s) ..) room)) _ _ fun u r k => jumpEvents_admSame _ _ k)
      simp only [bound, hk, read, good, free, fits, settle_none, Bool.not_true, Bool.false_eq_true, if_false]
      split
      · next h => cases h.symm.trans room
      · next t3 h =>
        cases h.symm.trans room
        rfl

end Sys2Proof.Proofs
end

section
/-!
Function-level resets (O19).
-/

namespace Sys2Proof.Machine

section
variable {s : State} {vf : Nat}

theorem exec_pfFlr_of_live (up : live s = true) : exec .pfFlr s = .next (pfFlr (heardTlp s)) := by simp [exec, execPfFlr, up]

/-- A VF_FLR that names a virtual function there is. -/
theorem exec_vfFlr_of_there (up : live s = true) (on : s.vfEnable = true) (lo : 1 ≤ vf) (hi : vf ≤ s.numVfs) :
    exec (.vfFlr vf) s = .next (vfFlr (heardTlp s) vf) := by simp [exec, execVfFlr, up, on, lo, hi]

theorem exec_vfFlr_of_not_there (h : live s = false ∨ s.vfEnable = false ∨ vf = 0 ∨ s.numVfs < vf) :
    exec (.vfFlr vf) s = .next (heardTlp s) := by
  obtain down | off | zero | beyond := h
  · simp [exec, execVfFlr, down]
  · simp [exec, execVfFlr, off]
  · simp [exec, execVfFlr, zero]
  · simp [exec, execVfFlr, Nat.not_le.2 beyond]

end

end Sys2Proof.Machine

namespace Sys2Proof.Proofs

open Sys2Proof.Machine

/-- Settles O19: a reset unfolds to the fold over the instances it names, which is empty, of one, or of all of them. -/
theorem functionResets : Obligations.FunctionResets := by
  unfold Obligations.FunctionResets
  refine ⟨fun s up => ⟨⟨?_, ?_⟩, fun no_inst no_fwd no_roost => ⟨pfFlr (heardTlp s), ?_, ?_⟩, fun vf on lo hi => ⟨fun none => ?_, fun i x hx hit => ⟨fun act => ?_, fun down => ?_⟩⟩,
      fun on => ?_, fun vf out => exec_vfFlr_of_not_there (.inr out), fun off => ?_⟩,
    fun s i cause keep x hx => ⟨fun act => ?_, fun w down hw free => ?_⟩, fun s down => ⟨?_, ?_, fun vf => exec_vfFlr_of_not_there (.inl down)⟩⟩
  · have clk : (heardTlp s).clocks = s.clocks := by simp
    rw [← clk]
    exact exec_pfFlr_of_live up
  · simp [forgetSlots, admFlr]
  · exact exec_pfFlr_of_live up
  · simp [pfFlr, forgetSlots, admFlr, mbxPfReset, modCipher, no_inst, no_fwd, Adm.reset]
  · rw [exec_vfFlr_of_there up on lo hi]
    have hits : s.insts.filter (fun r => r.2.fn && r.2.vf == vf) = [] := List.filter_eq_nil_iff.2 fun r hr => by
      obtain pf | other := none r hr
      · simp [pf]
      · simp [other]
    simp [vfFlr, hits]
  · rw [exec_vfFlr_of_there up on lo hi]
    simp only [vfFlr, heardTlp_fields, hit]
    cases h : x.state
    · simp [instState, hx, h, beq_eq_decide]
    · simp [instState, hx, h, beq_eq_decide]
    · exact absurd h act
  · rw [exec_vfFlr_of_there up on lo hi]
    simp only [vfFlr, heardTlp_fields, hit]
    simp [instState, hx, down, beq_eq_decide]
  · simp [exec, execVfEnableClear, up, on, vfEnableClear]
  · simp [exec, execVfEnableClear, off]
  · cases h : x.state <;> simp_all [destroyMuted, instState]
  · simp [destroyMuted, instState, hx, down, redirectReset, hw, free]
  · simp [exec, execPfFlr, down]
  · simp [exec, execVfEnableClear, down]

end Sys2Proof.Proofs
end

section
/-!
Device commands (O20).
-/

namespace Sys2Proof.Machine

theorem emit_flashErase (s : State) (alt : Bool) : emit s (.flashErase alt) = { s with out := s.out ++ [.flashErase alt] } :=
  emit_of_not_tlp rfl rfl

theorem emit_flashProgram (s : State) (alt : Bool) (b : Bytes) :
    emit s (.flashProgram alt b) = { s with out := s.out ++ [.flashProgram alt b] } := emit_of_not_tlp rfl rfl

theorem writeResult_keeps (s : State) (dst : Target) (addr : Nat) (bs : Bytes) :
    (writeResult s dst addr bs).counters = s.counters ∧ (writeResult s dst addr bs).pm = s.pm :=
  List.foldlRecOn (motive := fun t : State => t.counters = s.counters ∧ t.pm = s.pm) _ _ ⟨rfl, rfl⟩ fun t k x _ => by simpa using k

/-! ### A command in execution that ends outside its body -/

section
variable {i : Instr} {s t u : State} {slot : Nat} {c : AdminCmd} (hc : admCmd s slot = some c)
include hc

theorem ends_with {g : Entry → Entry} (h : exec i s = .next (completeWith u slot g)) (hr : OnlyReports t u) (k : AdmSame s t) :
    Completes i s slot (g c.entry) stOk rsNone t :=
  completes_of (by rw [h, completeWith_eq (c := c) (by rw [hr.admCmd_eq, k.admCmd_eq, hc])]) hr k.base k.epoch

theorem ends_plain (h : exec i s = .next (complete u slot)) (hr : OnlyReports t u) (k : AdmSame s t) :
    Completes i s slot c.entry stOk rsNone t :=
  ends_with (g := id) hc h hr k

theorem ends_refused {status : BitVec 8} {reason : Nat} (h : exec i s = .next (refuse u slot status reason)) (hr : OnlyReports t u)
    (k : AdmSame s t) : Completes i s slot c.entry status reason t :=
  completes_of (by rw [h, refuse_eq (c := c) (by rw [hr.admCmd_eq, k.admCmd_eq, hc])]) hr k.base k.epoch

end

/-- The end of a flash job of an admin command. -/
theorem exec_flashWriteDone_of_slot {s : State} {slot : Nat} {alt : Bool} {bytes : Bytes} (ok : Bool)
    (job : s.start.flash = some { slot := some slot, alt := alt, bytes := bytes }) (fw : firmware s = true) :
    exec (.flashWriteDone ok) s = .next (if ok then complete { s with start := { s.start with flash := none } } slot
      else refuse { s with start := { s.start with flash := none } } slot stAborted rsNone) := by
  simp [exec, execFlashWriteDone, job, fw]

end Sys2Proof.Machine

namespace Sys2Proof.Proofs

open Sys2Proof.Machine

/-- Settles O20: each command's checks in their order, then what it does. -/
theorem deviceCommands : Obligations.DeviceCommands := by
  unfold Obligations.DeviceCommands
  refine ⟨fun slot s c => ⟨fun hs => body_plain hs rfl rfl (.refl s), fun hs => ⟨fun legal => ⟨?_, ?_⟩, fun r ok bad => ?_⟩,
      fun hs => ⟨fun busy b sigOk => ?_, fun free sigOk => ?_, fun b sigOk free good => ?_, fun b sigOk free bad => ?_⟩,
      fun alt bytes job fw hc => ⟨?_, ?_⟩, fun alt bytes ok job fw => ?_, fun none ok => ?_⟩,
    fun slot s c => ⟨fun hs => ⟨fun x rest out => ?_, fun none => ?_, ?_⟩,
      fun hs => ⟨fun start => ⟨fun ok on => ?_, fun ok off none => ?_, fun p ok off there => ?_⟩, fun stop ring ok => ?_, fun op none ok => ?_,
        fun p read ring => ⟨?_, ?_⟩, fun query ok => ?_⟩⟩⟩
  · refine body_with hs rfl (g := fun e => putFld (putFld e 24 15 0 _) 32 63 0 _) ?_
      (.ite (.keep (writeResult_admSame _ _ _ _ (.refl s)) ..) (writeResult_admSame _ _ _ _ (.refl s)))
    simp only [countersRead, legal, refDone, refWrite, writeResult_keeps, firstRefusal_cons, firstRefusal_nil]
    rfl
  · refine body_refused hs rfl (t := s) ?_ (.refl s)
    simp [countersRead, legal, refRefuse]
  · refine body_refused hs rfl (t := s) ?_ (.refl s)
    simp [countersRead, bad, refRefuse]
  · exact exec_of_canStart hs rfl (if_pos busy)
  · exact body_refused hs rfl (if_neg (by simp [free])) (.refl s)
  · refine exec_of_canStart hs rfl ((if_neg (by simp [free])).trans ?_)
    simp [good, emit_flashErase, emit_flashProgram]
  · refine body_refused hs rfl ((if_neg (by simp [free])).trans ?_) (.refl s)
    simp [bad]
  · exact ends_plain hc (exec_flashWriteDone_of_slot true job fw) (.refl _) (.keep (.refl s) ..)
  · exact ends_refused hc (exec_flashWriteDone_of_slot false job fw) (.refl _) (.keep (.refl s) ..)
  · simp [exec, execFlashWriteDone, job, fw]
  · simp [exec, execFlashWriteDone, none]
  · refine body_with hs rfl (g := fun e => putFld (putFld (putFld e 24 31 0 _) 28 7 0 _) 32 31 0 _) ?_
      (writeResult_admSame _ _ _ _ (.keep (.refl s) ..))
    simp [owlLogRead, out, refDone, refWrite, takeFresh]
  · refine body_with hs rfl (g := fun e => putFld (putFld (putFld e 24 31 0 _) 28 7 0 _) 32 31 0 _) ?_ (.keep (.refl s) ..)
    simp [owlLogRead, none, refDone, takeFresh]
  · refine body_refused hs rfl (t := s) ?_ (.refl s)
    simp [owlLogRead, refRefuse]
  · refine body_refused hs rfl (t := s) ?_ (.refl s)
    simp [start, on]
  · refine body_refused hs rfl (t := s) ?_ (.refl s)
    simp only [start]
    exact settle_of_some (x := (stAborted, 0x0C01)) (by simp only [firstRefusal_cons, none, Option.isNone_none]; rw [off]; rfl)
  · refine body_plain hs rfl ?_ (.keep (.refl s) ..)
    simp only [start]
    refine (settle_of_none ?_).trans ?_
    · simp only [firstRefusal_cons, there, Option.isNone_some]
      rw [off]
      rfl
    · simp only [there]
      rfl
  · obtain ⟨p, hp⟩ := Option.isSome_iff_exists.1 ring
    refine body_plain hs rfl ?_ (.keep (.refl s) ..)
    simp [stop, hp]
  · refine body_refused hs rfl (t := s) ?_ (.refl s)
    obtain stop | read := op
    · simp [stop, none]
    · simp [read, none]
  · refine body_with hs rfl (g := fun e => putFld e 28 31 0 _) ?_ (.keep (.ite (.refl s) (writeResult_admSame _ _ _ _ (.keep (.refl s) ..))) ..)
    simp only [read, ring]
    rfl
  · refine body_refused hs rfl (t := s) ?_ (.refl s)
    simp [read, ring]
  · refine body_with hs rfl (g := fun e => putFld e 28 31 0 _) ?_ (.refl s)
    simp [query]

end Sys2Proof.Proofs
end

section
/-!
Logical ports (O21).
-/

namespace Sys2Proof.Machine

/-! ### The states of a port (R182 to R184) -/

section
variable {s : State} {n : Nat}

theorem portResults_movePort (s : State) (n m : Nat) (st : PortState) :
    portResults (movePort s n st) m =
      portResults (modPort s n fun p => { p with state := st, upSince := if st == .up then s.time.dev else p.upSince }) m := by
  funext e
  simp only [portResults, portOf, movePort, post_ports]

theorem movePort_onlyReports (s : State) (n : Nat) (st : PortState) :
    OnlyReports (modPort s n fun p => { p with state := st, upSince := if st == .up then s.time.dev else p.upSince }) (movePort s n st) :=
  post_onlyReports ..

theorem holdPort_of_on (h : (portOf s n).state = .up ∨ (portOf s n).state = .training) : holdPort s n =
    movePort { s with pins := { s.pins with nTxEnable := s.pins.nTxEnable &&& ~~~BitVec.ofNat 8 (2 ^ n) } } n .held := by
  obtain h | h := h
  · simp only [holdPort, h]
    rfl
  · simp only [holdPort, h]
    rfl

theorem unholdPort_of_held (h : (portOf s n).state = .held) (free : (portOf s n).owlDown = false) : unholdPort s n =
    movePort { s with pins := { s.pins with nTxEnable := s.pins.nTxEnable ||| BitVec.ofNat 8 (2 ^ n) } } n .training := by
  simp only [unholdPort, h, free]
  rfl

end

end Sys2Proof.Machine

namespace Sys2Proof.Proofs

open Sys2Proof.Machine

/-- Settles O21: each clause is one branch of the command or of the timer, the event of a change aside. -/
theorem ports : Obligations.Ports := by
  unfold Obligations.Ports
  refine ⟨fun slot s c hs => ⟨fun off => ?_, fun on a => ?_, fun on a => ?_, fun held a => ?_, fun held free a => ?_, fun on free a => ?_, fun on down a => ?_, fun on a => ?_⟩,
    fun port s up => ⟨fun locked faulted corr uncorr => ⟨fun on => ?_, fun off => ?_⟩, fun since train lock fault held => ⟨fun clk late => ?_, fun early => ?_⟩,
      fun on lost => ?_, fun since on lock fault held => ⟨fun late => ?_, fun early => ?_⟩, fun on lock fault => ⟨?_, ?_⟩⟩⟩
  · refine body_refused hs rfl (settle_of_some (x := (stAborted, rsUnitOut)) ?_) (.refl s)
    simp [off]
  · refine body_with hs rfl (g := portResults _ _) ((settle_of_none ?_).trans ?_) (.refl s)
    · simp [on, a]
    · simp [a]
  · refine body_with_reports hs rfl (g := portResults _ _) ((settle_of_none ?_).trans ?_) (movePort_onlyReports { s with pins := _ } (fld c.entry 8 2 0) .held) (.keep (.refl s) ..)
    · obtain on | on := on <;> simp [on, a]
    · simp only [a, holdPort_of_on on, portResults_movePort]
      rfl
  · refine body_with hs rfl (g := portResults _ _) ((settle_of_none ?_).trans ?_) (.refl s)
    · simp [held, a]
    · simp [a, holdPort, held]
  · refine body_with_reports hs rfl (g := portResults _ _) ((settle_of_none ?_).trans ?_) (movePort_onlyReports { s with pins := _ } (fld c.entry 8 2 0) .training) (.keep (.refl s) ..)
    · simp [held, free]
    · simp only [a, unholdPort_of_held held free, portResults_movePort]
      rfl
  · refine body_with hs rfl (g := portResults _ _) ((settle_of_none ?_).trans ?_) (.refl s)
    · obtain on | on := on <;> simp [on, free]
    · obtain on | on := on <;> simp [a, unholdPort, on]
  · refine body_refused hs rfl (settle_of_some (x := (stAborted, rsBadState)) ?_) (.refl s)
    simp [on, down, a]
  · refine body_with hs rfl (g := portResults _ _) ((settle_of_none ?_).trans ?_) (modPort_admSame _ _ _ (.refl s))
    · simp [on, a]
    · simp [a]
  · simp [exec, execAlignmentLockChange, up, on]
  · simp [exec, execAlignmentLockChange, off]
  · simp [exec, execPortLockHeld, up, train, lock, fault, held, ethClock, clk, heldFor, late]
    rfl
  · obtain clk | early := early
    · simp [-BitVec.getLsbD_eq_getElem, exec, execPortLockHeld, ethClock, clk]
    · simp [exec, execPortLockHeld, held, heldFor, early]
  · simp [exec, execPortFaultHeld, up, on, lost]
    rfl
  · simp [exec, execPortFaultHeld, up, on, lock, fault, held, heldFor, late]
    rfl
  · simp [exec, execPortFaultHeld, up, on, lock, fault, held, heldFor, early]
  · simp [exec, execPortFaultHeld, on, lock, fault]
  · simp [exec, execPortLockHeld, on]

end Sys2Proof.Proofs
end

section
/-!
Priority flow control, and answers to ARP and Neighbor Discovery (O22).
-/

namespace Sys2Proof.Machine

/-! ### What is heard on a port counts as traffic alone -/

section
variable {s : State} {port : Nat} {bytes : Bytes} {k : Nat}

theorem heardOn_eq : ∃ t, heardOn s port bytes k = { s with traffic := t } := by
  unfold heardOn
  split
  · exact ⟨_, rfl⟩
  · exact ⟨s.traffic, rfl⟩

@[simp] theorem serving_heardOn : serving (heardOn s port bytes k) = serving s := by
  obtain ⟨t, h⟩ := heardOn_eq (s := s) (port := port) (bytes := bytes) (k := k)
  rw [h]
  rfl

@[simp] theorem portUp_heardOn (n : Nat) : portUp (heardOn s port bytes k) n = portUp s n := by
  obtain ⟨t, h⟩ := heardOn_eq (s := s) (port := port) (bytes := bytes) (k := k)
  rw [h]
  rfl

@[simp] theorem img_heardOn : img (heardOn s port bytes k) = s.start.image := by
  obtain ⟨t, h⟩ := heardOn_eq (s := s) (port := port) (bytes := bytes) (k := k)
  rw [h]
  rfl

@[simp] theorem portFrame_heardOn (i : Image) (n : Nat) (dst : Bytes) (type : Nat) (body : Bytes) :
    portFrame (heardOn s port bytes k) i n dst type body = portFrame s i n dst type body := by
  obtain ⟨t, h⟩ := heardOn_eq (s := s) (port := port) (bytes := bytes) (k := k)
  rw [h]
  rfl

end

/-! ### A class of a port -/

theorem classOf_modClass {s : State} {n c : Nat} (hn : n < s.ports.length) (hc : c < (portOf s n).classes.length)
    (f : PortClass → PortClass) : classOf (modClass s n c f) n c = f (classOf s n c) := by
  have hp : s.ports[n]? = some s.ports[n] := List.getElem?_eq_getElem hn
  rw [portOf_eq hp] at hc
  simp only [classOf, modClass, portOf_eq hp, portOf_eq (modPort_port hp _), List.getD_eq_getElem?_getD, getElem?_lmod_same]
  simp [hc]

end Sys2Proof.Machine

namespace Sys2Proof.Proofs

open Sys2Proof.Machine

/-- Settles O22: a frame heard changes the traffic count alone, and what the frame says is one branch of its handler. -/
theorem portFrames : Obligations.PortFrames := by
  unfold Obligations.PortFrames
  refine ⟨fun port tc bytes s => ⟨fun sv up mac => ⟨fun pfc => ?_, fun pfc => ?_, ?_⟩, fun off ok => ?_, fun till run pz => ⟨fun late => ⟨?_, ?_⟩, fun early => ⟨?_, fun fresh long => ?_⟩⟩,
     fun run xoff xon => ⟨fun late => ?_, fun early => ?_⟩, fun q hq free hp hl hcl ht => ⟨?_, ?_, ?_⟩⟩,
     fun port bytes s i hi => ⟨fun sv up v4 arp fixed mine => ?_, fun off => ?_, fun off => ?_, fun other => ?_, fun sv up v6 nb hop len sum mine => ?_⟩⟩
  · simp [exec, execPfcFrameReceived, sv, up, mac, macControl, pfc]
  · simp [exec, execPfcFrameReceived, sv, up, mac, macControl, pfc]
  · simp [exec, execPfcFrameReceived, sv, up, mac, macControl]
  · obtain off | off := off
    · simp [exec, execPfcFrameReceived, off]
    · simp [exec, execPfcFrameReceived, off]
  · simp [exec, execPauseExpire, run, pz, paused, Nat.not_lt.2 late]
  · simp [exec, execPauseStuckTimer, pz, paused, Nat.not_lt.2 late]
  · simp [exec, execPauseExpire, pz, paused, early]
  · simp [exec, execPauseStuckTimer, run, pz, paused, early, fresh, long]
  · simp [exec, execPfcRepeatTimer, run, xoff, xon, late]
  · simp [exec, execPfcRepeatTimer, early]
  · simp only [pauseClass]
    rw [classOf_modClass (by simpa [hl] using hp) (hcl ▸ ht)]
    simp [hq]
  · simp only [pauseClass]
    rw [classOf_modClass (by simpa [hl] using hp) (hcl ▸ ht)]
    simp
  · simp [pauseClass, counter, count, modClass, tget_tput]
  · simp [exec, execArpRequest, hi, sv, up, v4, arp, fixed, mine]
    rfl
  · obtain other | v6 | down := off
    · simp [exec, execArpRequest, hi, other]
    · simp [exec, execArpRequest, hi, v6]
    · simp [exec, execArpRequest, hi, down]
  · obtain v4 | down := off
    · simp [exec, execNeighborSolicitation, hi, v4]
    · simp [exec, execNeighborSolicitation, hi, down]
  · simp [exec, execNeighborSolicitation, hi, other]
  · simp only [exec, execNeighborSolicitation, img_heardOn, hi]
    rw [if_pos]
    · rw [portFrame_heardOn]
      rfl
    · simpa [sv, up, v6, nb, hop, len, mine] using sum

end Sys2Proof.Proofs
end

section
/-!
Completion queues, queue pairs and the connection handshake (O23, O24, O25).
-/

namespace Sys2Proof.Machine

/-- A command is in the ring's list under its slot. -/
theorem slot_of_canStart {s : State} {slot op : Nat} {c : AdminCmd} (hs : CanStart s slot op c) : c.slot = slot := by
  have h := List.find?_some (admCmd_of_mayStart hs.1)
  simpa using h

/-- A request that the queue pair waits for passes the guard on its state. -/
theorem onConnReq_guard {q : Qp} {p : Word} (ours : q.state = .init ∨ (q.state = .ready ∧ q.peerPsn = some p)) :
    ¬(¬q.state = .init ∧ ¬q.state = .ready ∨ q.state = .ready ∧ ¬q.peerPsn = some p) := by
  obtain init | ⟨rdy, psn⟩ := ours
  · simp [init]
  · simp [rdy, psn]

end Sys2Proof.Machine

namespace Sys2Proof.Proofs

open Sys2Proof.Machine

/-- Settles O23: the refusals of each command in their order, then what it does. -/
theorem cqCommands : Obligations.CqCommands := by
  unfold Obligations.CqCommands
  refine fun slot s c => ⟨fun hs => ⟨fun there free fits new ring => ?_, fun r bad => ?_, fun there full => ?_, fun there free big => ?_, fun x there free fits old => ?_,
      fun r there free fits new ring => ?_⟩,
    fun hs => ⟨fun there => ?_, fun r bad => ?_⟩, fun hs => ⟨fun q there hq => ⟨fun free empty => ?_, fun busy => ?_⟩, fun r bad => ?_⟩⟩
  · refine body_plain hs rfl (settle_of_none ?_) (.keep (.refl s) ..)
    simp [there, free, Nat.not_le.2 fits, new, ring]
  · refine body_refused hs rfl (settle_of_some ?_) (.refl s)
    simp [bad]
  · refine body_refused hs rfl (settle_of_some (x := (stQuota, rsNone)) ?_) (.refl s)
    simp [there, full]
  · refine body_refused hs rfl (settle_of_some (x := (stAborted, rsUnitOut)) ?_) (.refl s)
    simp [there, free, big]
  · refine body_refused hs rfl (settle_of_some (x := (stAborted, rsExists)) ?_) (.refl s)
    simp [there, free, Nat.not_le.2 fits, old]
  · refine body_refused hs rfl (settle_of_some ?_) (.refl s)
    simp [there, free, Nat.not_le.2 fits, new, ring]
  · exact body_plain hs rfl (settle_of_none there) (modCq_admSame _ _ _ (.refl s))
  · exact body_refused hs rfl (settle_of_some bad) (.refl s)
  · refine body_plain hs rfl (settle_of_none ?_) (.keep (.refl s) ..)
    simp [there, free, hq, empty]
  · refine body_refused hs rfl (settle_of_some (x := (stAborted, rsBadState)) ?_) (.refl s)
    obtain bound | held := busy
    · simp [there, bound]
    · simp [there, hq, held]
  · refine body_refused hs rfl (settle_of_some ?_) (.refl s)
    simp [bad]

/-- Settles O24: a command waits for the earlier ones on its queue pair; then its refusals in their order, then what it does. -/
theorem qpCommands : Obligations.QpCommands := by
  unfold Obligations.QpCommands
  refine ⟨fun slot s c => ⟨fun wait => ⟨fun hs => ?_, fun hs => ?_, fun hs => ?_, fun hs => ?_⟩, fun front => ⟨fun hs => ⟨fun r bad => ?_, fun ok seed => ?_, fun ok dry => ⟨fun failed => ?_, fun hope => ?_⟩⟩,
      fun hs => ⟨fun r bad => ?_, fun q ok hq => ?_⟩, fun hs => ⟨fun q ok hq => ⟨fun still sq rq => ⟨?_, ?_⟩, fun still owed => ?_, fun act => ?_⟩, fun r bad => ?_⟩⟩⟩,
    fun slot s c hs front => ⟨fun r bad => ?_, fun q ok hq => ⟨fun tgt st => ⟨fun bound => ?_, fun bound plane => ?_, fun bound plane => ⟨fun first => ?_, fun again seed => ?_⟩⟩,
      fun tgt st => ?_, fun tgt st => ?_, fun tgt st => ?_, fun tgt st => ?_, fun bad st => ?_⟩⟩⟩
  · exact exec_of_canStart hs rfl (if_pos wait)
  · exact exec_of_canStart hs rfl (if_pos wait)
  · exact exec_of_canStart hs rfl (if_pos wait)
  · refine exec_of_canStart hs rfl (if_pos ?_)
    simp [wait]
  · refine body_refused hs rfl ((if_neg (by simp [front])).trans ?_) (.refl s)
    simp [qpCreate, bad, slot_of_canStart hs]
  · refine body_with hs rfl (g := fun e => putFld e 48 31 0 _) ((if_neg (by simp [front])).trans ?_) (.keep (drawRandom_admSame _ (.refl s)) ..)
    simp [qpCreate, ok, seed, slot_of_canStart hs]
    rfl
  · refine body_refused hs rfl ((if_neg (by simp [front])).trans ?_) (.refl s)
    simp [qpCreate, ok, dry, slot_of_canStart hs, awaitSeed, failed]
  · refine exec_of_canStart hs rfl ((if_neg (by simp [front])).trans ?_)
    simp [qpCreate, ok, dry, slot_of_canStart hs, awaitSeed, hope]
  · exact body_refused hs rfl ((if_neg (by simp [front])).trans (settle_of_some bad)) (.refl s)
  · refine body_with hs rfl ((if_neg (by simp [front])).trans ((settle_of_none ok).trans ?_)) (.refl s)
    simp [hq]
  · refine body_plain hs rfl ((if_neg ?_).trans (settle_of_none ?_)) (dropQp_admSame _ _ (.refl s))
    · simp [front, hq, sq, rq]
    · obtain st | st := still
      · simp [ok, hq, st]
      · simp [ok, hq, st]
  · exact tget_tdel _ _
  · refine exec_of_canStart hs rfl (if_pos ?_)
    obtain st | st := still
    · simpa [hq, ok, st, qpActive] using .inr owed
    · simpa [hq, ok, st, qpActive] using .inr owed
  · refine body_refused hs rfl ((if_neg ?_).trans (settle_of_some (x := (stAborted, rsBadState)) ?_)) (.refl s)
    · obtain st | st | st := act
      · simp [front, hq, qpActive, st]
      · simp [front, hq, qpActive, st]
      · simp [front, hq, qpActive, st]
    · obtain st | st | st := act
      · simp [ok, hq, st]
      · simp [ok, hq, st]
      · simp [ok, hq, st]
  · refine body_refused hs rfl ((if_neg ?_).trans (settle_of_some ?_)) (.refl s)
    · simp [front, bad]
    · simp [bad]
  · refine body_refused hs rfl ((if_neg (by simp [front])).trans ?_) (.refl s)
    simp [qpModify, bad, slot_of_canStart hs]
  · refine body_refused hs rfl ((if_neg (by simp [front])).trans ?_) (.refl s)
    simp [qpModify, ok, hq, tgt, st, slot_of_canStart hs, qpInit, bound]
  · refine body_refused hs rfl ((if_neg (by simp [front])).trans ?_) (.refl s)
    cases hi : s.start.image with
    | none => simp [qpModify, ok, hq, tgt, st, slot_of_canStart hs, qpInit, bound, img, hi]
    | some i =>
      rw [hi] at plane
      simp [-BitVec.getLsbD_eq_getElem, qpModify, ok, hq, tgt, st, slot_of_canStart hs, qpInit, bound, img, hi, plane]
  · refine body_plain hs rfl ((if_neg (by simp [front])).trans ?_) (enableRing_admSame _ _ _ (modQp_admSame _ _ _ (moveQp_admSame _ _ _ (.refl s))))
    cases hi : s.start.image with
    | none => simp [hi] at plane
    | some i =>
      rw [hi] at plane
      simp [-BitVec.getLsbD_eq_getElem, qpModify, ok, hq, tgt, st, slot_of_canStart hs, qpInit, bound, img, hi, plane, first]
  · refine body_plain hs rfl ((if_neg (by simp [front])).trans ?_)
      (enableRing_admSame _ _ _ (modQp_admSame _ _ _ (moveQp_admSame _ _ _ (drawRandom_admSame _ (.refl s)))))
    cases hi : s.start.image with
    | none => simp [hi] at plane
    | some i =>
      rw [hi] at plane
      simp [-BitVec.getLsbD_eq_getElem, qpModify, ok, hq, tgt, st, slot_of_canStart hs, qpInit, bound, img, hi, plane, again, seed]
  · refine exec_of_canStart hs rfl ((if_neg (by simp [front])).trans ?_)
    simp [qpModify, ok, hq, tgt, st, slot_of_canStart hs]
  · refine body_plain hs rfl ((if_neg (by simp [front])).trans ?_) (qpReady_admSame _ _ (.refl s))
    simp [qpModify, ok, hq, tgt, st, slot_of_canStart hs]
  · refine body_plain hs rfl ((if_neg (by simp [front])).trans ?_) (moveQp_admSame _ _ _ (.refl s))
    simp [qpModify, ok, hq, tgt, st, slot_of_canStart hs]
  · refine body_plain hs rfl ((if_neg (by simp [front])).trans ?_) (qpReset_admSame _ _ _ (.refl s))
    obtain st | st | st | st := st
    · simp [qpModify, ok, hq, tgt, st, slot_of_canStart hs]
    · simp [qpModify, ok, hq, tgt, st, slot_of_canStart hs]
    · simp [qpModify, ok, hq, tgt, st, slot_of_canStart hs]
    · simp [qpModify, ok, hq, tgt, st, slot_of_canStart hs]
  · refine body_refused hs rfl ((if_neg (by simp [front])).trans ?_) (.refl s)
    simp only [qpModify, ok, hq, slot_of_canStart hs]
    obtain ⟨tgt, st⟩ | ⟨tgt, st⟩ | ⟨tgt, st, st'⟩ | ⟨tgt, st⟩ | big := bad
    · simp only [tgt, st]
    · cases h : q.state <;> simp_all
    · cases h : q.state <;> simp_all
    · cases h : q.state <;> simp_all
    · obtain ⟨k, hk⟩ := Nat.exists_eq_add_of_le' big
      simp only [hk]

/-- Settles O25: the timers on both sides of their moments, and each body by the guard of its handler. -/
theorem connectionHandshake : Obligations.ConnectionHandshake := by
  unfold Obligations.ConnectionHandshake
  refine ⟨fun qpn s q h c hq hh => ⟨fun on init due more => ?_, fun off => ?_, fun fw late hc => ?_, fun off => ?_⟩,
    fun s t d qpn b rx on => ⟨fun q hq => ⟨fun body => ⟨fun src ours peer agree => ?_, fun r src ours peer differ => ?_, fun off => ?_⟩,
        fun body => ⟨fun waits peer agree => ?_, fun r waits peer differ => ?_, fun off => ?_⟩,
        fun body => ⟨fun waits peer => ?_, fun off => ?_⟩⟩, fun gone => ⟨fun body => ?_, fun body => ?_, fun body => ?_⟩⟩,
    fun s off => ⟨?_, ?_, ?_⟩, fun s q b => ⟨fun h => ?_, fun h k => ?_, fun h k l => ?_⟩⟩
  · simp [exec, execHandshakeRetry, hq, hh, on, init, due, more]
  · obtain early | late | off := off
    · simp [exec, execHandshakeRetry, hq, hh, early]
    · simp [exec, execHandshakeRetry, hq, hh, Nat.not_lt.2 late]
    · simp [exec, execHandshakeRetry, hq, hh, off]
  · refine ends_refused hc ?_ (.refl _) (modQp_admSame _ _ _ (.refl s))
    simp [exec, execHandshakeTimeout, hq, hh, fw, running_of_firmware fw, late, endHandshake, show stRetryExceeded ≠ stOk by decide]
  · obtain early | off := off
    · simp [exec, execHandshakeTimeout, hq, hh, early]
    · simp [exec, execHandshakeTimeout, hq, hh, off]
  · simp [exec, execConnectReq, rx, body, on, onConnReq, hq, src, peer, agree]
    exact fun other => absurd other (onConnReq_guard ours)
  · simp [exec, execConnectReq, rx, body, on, onConnReq, hq, src, peer, differ]
    exact fun other => absurd other (onConnReq_guard ours)
  · simp [exec, execConnectReq, rx, body, on, onConnReq, hq]
    obtain src | strange | peer := off
    · simp [src]
    · intro _ h1 _ h2
      exact absurd (by by_cases i : q.state = .init <;> simp_all) strange
    · simp [peer]
  · simp [exec, execConnectAccept, rx, body, on, onConnAccept, hq, Option.isSome_iff_ne_none.1 waits, peer, agree]
  · simp [exec, execConnectAccept, rx, body, on, onConnAccept, hq, Option.isSome_iff_ne_none.1 waits, peer, differ]
  · obtain idle | other := off
    · simp [exec, execConnectAccept, rx, body, on, onConnAccept, hq, idle]
    · simp [exec, execConnectAccept, rx, body, on, onConnAccept, hq, other]
  · simp [exec, execConnectRefuse, rx, body, on, onConnRefuse, hq, Option.isSome_iff_ne_none.1 waits, peer]
  · obtain idle | other := off
    · simp [exec, execConnectRefuse, rx, body, on, onConnRefuse, hq, idle]
    · simp [exec, execConnectRefuse, rx, body, on, onConnRefuse, hq, other]
  · simp [exec, execConnectReq, rx, body, on, onConnReq, gone]
  · simp [exec, execConnectAccept, rx, body, on, onConnAccept, gone]
  · simp [exec, execConnectRefuse, rx, body, on, onConnRefuse, gone]
  · obtain none | off := off
    · simp [exec, execConnectReq, none]
    · simp [exec, execConnectReq, off]
      repeat' split
      all_goals rfl
  · obtain none | off := off
    · simp [exec, execConnectAccept, none]
    · simp [exec, execConnectAccept, off]
      repeat' split
      all_goals rfl
  · obtain none | off := off
    · simp [exec, execConnectRefuse, none]
    · simp [exec, execConnectRefuse, off]
      repeat' split
      all_goals rfl
  · simp [recordReason, h]
  · simp [recordReason, h, show ownFeatures.extractLsb' 0 16 = 0x000F#16 from rfl, show ¬b.features.extractLsb' 0 16 = 0x000F#16 from k]
  · simp [recordReason, h, show ownFeatures.extractLsb' 0 16 = 0x000F#16 from rfl, k, l]

end Sys2Proof.Proofs
end

section
/-!
The commands on an instance's page mirror (O26).
-/

namespace Sys2Proof.Machine

/-! ### Rows of a table -/

section
variable {α : Type} {t : Tab α} {k : Nat} {v : α} {r : Nat × α}

theorem eq_or_mem_of_mem_tput (h : r ∈ tput t k v) : r = (k, v) ∨ r ∈ t := by
  induction t with
  | nil => simpa [tput] using h
  | cons x t ih =>
    obtain ⟨n, w⟩ := x
    simp only [tput] at h
    split at h
    · simpa using h
    · split at h
      · obtain h | h := List.mem_cons.1 h
        · exact .inl h
        · exact .inr (.tail _ h)
      · obtain h | h := List.mem_cons.1 h
        · exact .inr (h ▸ .head _)
        · exact (ih h).imp_right (.tail _)

theorem mem_tput_of_ne (h : r ∈ t) (ne : r.1 ≠ k) : r ∈ tput t k v := by
  induction t with
  | nil => cases h
  | cons x t ih =>
    obtain ⟨n, w⟩ := x
    simp only [tput]
    split
    · exact .tail _ h
    · split
      · next hn =>
        obtain h | h := List.mem_cons.1 h
        · exact absurd (h ▸ hn) ne
        · exact .tail _ h
      · obtain h | h := List.mem_cons.1 h
        · exact h ▸ .head _
        · exact .tail _ (ih h)

theorem tget_eq_none (h : ∀ r ∈ t, r.1 ≠ k) : tget t k = none := by
  induction t with
  | nil => rfl
  | cons x t ih =>
    obtain ⟨n, w⟩ := x
    simpa [tget, h (n, w) (.head _)] using ih fun r hr => h r (.tail _ hr)

end

/-! ### Translations that a removal takes -/

theorem pteSize_pos (p : BitVec 128) : 0 < pteSize p := Nat.two_pow_pos _

/-- Dropping the ATS results of a list of pages leaves all but them and what waits keep of them. -/
theorem foldl_dropAts_eq (i : Nat) (gone : Tab (BitVec 128)) (s : State) :
    let t := gone.foldl (fun t r => dropAts t i r.1 (pteSize r.2)) s
    t = { s with ats := t.ats, waits := t.waits } ∧
    ∀ e, e ∈ t.ats ↔ e ∈ s.ats ∧ (e.inst = i → (gone.any fun r => overlaps e.va e.size r.1 (pteSize r.2)) = false) := by
  induction gone generalizing s with
  | nil => simp
  | cons r gone ih =>
    obtain ⟨same, ats⟩ := ih (dropAts s i r.1 (pteSize r.2))
    refine ⟨same.trans rfl, fun e => (ats e).trans ?_⟩
    simp only [dropAts, List.mem_filter, List.any_cons, Bool.or_eq_false_iff]
    by_cases own : e.inst = i
    · simp [own, and_assoc]
    · simp [own]

/-- What a removal leaves: the rest of the state, the mirror's and the caches' other translations. -/
theorem removeRange_spec {s : State} {i : Nat} {m : Mirror} (hm : tget s.mirrors i = some m) (va size : Nat) :
    let gone := overlapping m va size
    let hit (a n : Nat) : Bool := gone.any fun r => overlaps a n r.1 (pteSize r.2)
    let t := (removeRange s i va size).1
    t = { s with mirrors := t.mirrors, tcache := t.tcache, ats := t.ats, waits := t.waits } ∧
    (∃ m', tget t.mirrors i = some m' ∧ m'.entries = m.entries.filter fun r => !overlaps r.1 (pteSize r.2) va size) ∧
    t.tcache = (s.tcache.filter fun e => !(e.inst == i && hit e.va e.size)) ∧
    (∀ e, e ∈ t.ats ↔ e ∈ s.ats ∧ (e.inst = i → hit e.va e.size = false)) := by
  simp only [removeRange, hm]
  obtain ⟨same, ats⟩ := foldl_dropAts_eq i (overlapping m va size) { s with
    mirrors := tput s.mirrors i { m with
      entries := m.entries.filter fun r => !overlaps r.1 (pteSize r.2) va size
      dirty := m.dirty.filter fun b => !(overlapping m va size).any fun r => r.1 == b }
    tcache := s.tcache.filter fun e => !(e.inst == i && (overlapping m va size).any fun r => overlaps e.va e.size r.1 (pteSize r.2))
    waits := s.waits.map fun w =>
      if w.inst == i && w.missed.isEmpty && (overlapping m va size).any fun r => overlaps w.va w.len r.1 (pteSize r.2) then { w with walked := false } else w }
  refine ⟨?_, ⟨{ m with
      entries := m.entries.filter fun r => !overlaps r.1 (pteSize r.2) va size
      dirty := m.dirty.filter fun b => !(overlapping m va size).any fun r => r.1 == b }, ?_, rfl⟩, ?_, ats⟩
  · rw [same]
  · rw [same]
    exact tget_tput ..
  · rw [same]

theorem removeRange_count {s : State} {i : Nat} {m : Mirror} (hm : tget s.mirrors i = some m) (va size : Nat) :
    (removeRange s i va size).2.count = (overlapping m va size).length := by simp only [removeRange, hm]

/-! ### The start of a drain -/

theorem cmdOpcode_of_canStart {s : State} {slot op : Nat} {c : AdminCmd} (hs : CanStart s slot op c) : cmdOpcode c = op := by
  by_contra other
  have none := mayStart_of_opcode_ne (admCmd_of_mayStart hs.1) other
  cases none.symm.trans hs.1

theorem drainResult_of_invalidate {c : AdminCmd} (h : cmdOpcode c = 0x0302) (removed : Nat) :
    drainResult removed c.entry = putFld c.entry 32 31 0 removed := by
  have opcode : fld c.entry 0 15 0 = 0x0302 := h
  simp [drainResult, opcode]

/-- One flushing read for each port. -/
theorem length_issueFlushes (s : State) (ports : List Nat) (inst : Nat) (why : FlushFor) :
    (issueFlushes s ports inst why).1.length = ports.dedup.length := by
  suffices ∀ (l : List Nat) (a : List Nat × State),
      (l.foldl (fun a p => let r := issueFlush a.2 p inst why; (a.1 ++ [r.1], r.2)) a).1.length = a.1.length + l.length by
    simpa [issueFlushes] using this ports.dedup ([], s)
  intro l
  induction l with
  | nil => simp
  | cons p l ih => intro a; simp [ih]; omega

theorem beginDrain_of_idle (s : State) (slot removed inst : Nat) (fin : State → State) :
    beginDrain s slot removed [] [] inst fin = fin s := rfl

theorem beginDrain_of_busy {s : State} {reads ports : List Nat} (h : reads ≠ [] ∨ ports ≠ []) (slot removed inst : Nat) (fin : State → State) :
    beginDrain s slot removed reads ports inst fin =
      keepRunning { (issueFlushes s ports inst .invalidate).2 with
        drains := (issueFlushes s ports inst .invalidate).2.drains
          ++ [{ slot := some slot, tag := 0, removed := removed, reads := reads, flushes := (issueFlushes s ports inst .invalidate).1 }] } slot := by
  have busy : ¬(reads.isEmpty && (issueFlushes s ports inst .invalidate).1.isEmpty) = true := by
    intro idle
    obtain ⟨no_reads, no_flushes⟩ := Bool.and_eq_true_iff.1 idle
    have none := length_issueFlushes s ports inst .invalidate
    rw [List.isEmpty_iff.1 no_flushes] at none
    obtain reading | writing := h
    · exact reading (List.isEmpty_iff.1 no_reads)
    · exact writing (by simpa using (List.dedup_eq_nil _).1 (List.length_eq_zero_iff.1 none.symm))
  exact if_neg busy

/-! ### PT_MIRROR_SET with SET -/

theorem settle_const (s : State) (slot : Nat) (r : Option (BitVec 8 × Nat)) (f : State → State) :
    settle s slot r f = settle s slot r fun _ => f s := by cases r <;> rfl

/-- The mirror's place still serves for `n` entries. -/
def mirrorStays (s : State) (i n : Nat) (m : Mirror) : Bool :=
  decide (n ≤ m.maxEntries)
    || freeAt { s with mirrors := tdel s.mirrors i } m.base (32 * n) && decide (m.base + 32 * n ≤ reserveBase s)

theorem mirrorStays_iff {s : State} {i n : Nat} {m : Mirror} : mirrorStays s i n m = true ↔
    n ≤ m.maxEntries ∨ (freeAt { s with mirrors := tdel s.mirrors i } m.base (32 * n) = true ∧ m.base + 32 * n ≤ reserveBase s) := by
  simp [mirrorStays]

theorem mirrorStays_eq_false {s : State} {i n : Nat} {m : Mirror}
    (h : ¬(n ≤ m.maxEntries ∨ (freeAt { s with mirrors := tdel s.mirrors i } m.base (32 * n) = true ∧ m.base + 32 * n ≤ reserveBase s))) :
    mirrorStays s i n m = false := Bool.eq_false_iff.2 fun stays => h (mirrorStays_iff.1 stays)

/-- Where a mirror of `n` entries goes. -/
def mirrorPlace (s : State) (i n : Nat) : Option Nat :=
  match tget s.mirrors i with
  | some m => if mirrorStays s i n m then some m.base else anyPlace { s with mirrors := tdel s.mirrors i } (32 * n)
  | none => anyPlace { s with mirrors := tdel s.mirrors i } (32 * n)

/-- The mirror that a SET leaves. -/
def mirrorSet (old : Option Mirror) (n ms base : Nat) : Mirror :=
  { maxEntries := n, timeoutMs := ms, base := base, entries := old.elim [] (·.entries), dirty := old.elim [] (·.dirty) }

theorem mirrorPlace_of_stays {s : State} {i n : Nat} {m : Mirror} (hm : tget s.mirrors i = some m) (h : mirrorStays s i n m = true) :
    mirrorPlace s i n = some m.base := by simp [mirrorPlace, hm, h]

theorem mirrorPlace_of_moves {s : State} {i n : Nat} (h : ∀ m, tget s.mirrors i = some m → mirrorStays s i n m = false) :
    mirrorPlace s i n = anyPlace { s with mirrors := tdel s.mirrors i } (32 * n) := by
  cases hm : tget s.mirrors i with
  | none => simp [mirrorPlace, hm]
  | some m => simp [mirrorPlace, hm, h m hm]

/-- A SET: its refusals, then the mirror at its place. -/
theorem exec_ptMirrorSet_of_set {s : State} {slot : Nat} {c : AdminCmd} (hs : CanStart s slot 0x0300 c)
    (there : instRefusal s (cmdInst c) = none) (set : bit c.entry 8 0 = false) :
    let i := cmdInst c
    let n := fld c.entry 12 24 0
    exec (.ptMirrorSet slot) s = .next (settle s slot (firstRefusal [
        (decide ((quotaOf s i).poolBytes < poolUse s i - (tget s.mirrors i).elim 0 mirrorBytes + 32 * n), stQuota, rsNone),
        (decide (n < (tget s.mirrors i).elim 0 (·.entries.length)), stAborted, rsBadState), ((mirrorPlace s i n).isNone, stAborted, 0x0C01)])
      fun _ => completeWith { s with
          fresh := s.fresh + 2, mirrors := tput s.mirrors i (mirrorSet (tget s.mirrors i) n (fld c.entry 16 15 0) ((mirrorPlace s i n).getD 0)) } slot
        fun e => putFld (putFld e 24 31 0 ((tget s.mirrors i).elim 0 (·.entries.length))) 28 31 0 (reqsPending s i)) := by
  refine exec_of_canStart hs rfl ?_
  simp only [there, set, Bool.false_eq_true, if_false]
  cases hm : tget s.mirrors (cmdInst c) with
  | none =>
    rw [mirrorPlace_of_moves (by simp [hm])]
    refine (settle_const ..).trans ?_
    simp [tget_tput, mirrorSet, takeFresh, reqsPending]
  | some m =>
    refine (settle_const ..).trans ?_
    cases h : mirrorStays s (cmdInst c) (fld c.entry 12 24 0) m with
    | false =>
      rw [mirrorPlace_of_moves (fun x hx => by cases hm.symm.trans hx; exact h)]
      unfold mirrorStays at h
      simp only [h, tget_tput, mirrorSet, takeFresh, reqsPending]
      rfl
    | true =>
      rw [mirrorPlace_of_stays hm h]
      unfold mirrorStays at h
      simp only [h, tget_tput, mirrorSet, takeFresh, reqsPending]
      rfl

/-! ### One record of a PT_UPDATE -/

/-- A record's page is the only one of what it overlaps that the mirror holds afterwards. -/
theorem applyRecord_entries {s : State} {i : Nat} {m : Mirror} (hm : tget s.mirrors i = some m) (g : Removed) (r : BitVec 256) :
    let kept := m.entries.filter fun x => !overlaps x.1 (pteSize x.2) (recordRange r).1 (recordRange r).2
    ∃ m', tget (applyRecord i (s, g) r).1.mirrors i = some m' ∧
      m'.entries = if pteValid (r.extractLsb' 64 128) then tput kept (recordRange r).1 (r.extractLsb' 64 128) else kept := by
  obtain ⟨-, ⟨m', hm', entries⟩, -⟩ := removeRange_spec hm (recordRange r).1 (recordRange r).2
  cases valid : pteValid (r.extractLsb' 64 128) with
  | true => exact ⟨{ m' with entries := tput m'.entries (recordRange r).1 (r.extractLsb' 64 128) },
      by simp only [applyRecord, valid, if_true, tget_tmod, hm', Option.map_some], by rw [entries]; rfl⟩
  | false => exact ⟨m', by simp only [applyRecord, valid]; exact hm', entries⟩

/-- A record's page has bytes. -/
theorem recordRange_pos (r : BitVec 256) : 0 < (recordRange r).2 := by
  unfold recordRange
  dsimp only
  split
  · exact pteSize_pos _
  · decide

theorem overlaps_self {a n m : Nat} (hn : 0 < n) (hm : 0 < m) : overlaps a n a m = true := by
  simp [overlaps, hn, hm]

end Sys2Proof.Machine

namespace Sys2Proof.Proofs

open Sys2Proof.Machine

/-- Settles O26: the refusals of each command in their order, then what it does; a record and a removal by what they leave in the tables. -/
theorem mirrorCommands : Obligations.MirrorCommands := by
  unfold Obligations.MirrorCommands
  refine ⟨fun slot s c hs => ⟨fun r bad => ?_, fun there query => ⟨fun none => ?_, fun some => ?_⟩, fun there set => ⟨fun beyond => ?_, fun fits less => ?_, fun fits more moves full => ?_, fun b fits more place => ?_⟩⟩,
    fun slot buf s c hs => ⟨exec_of_canStart hs rfl rfl, fun r bad => ?_, fun there none => ?_, fun m there hm => ⟨fun none => ?_, fun b some => ⟨fun bad => ?_, fun r legal bad => ?_, fun legal good full => ?_, fun legal good room => ?_⟩⟩⟩,
    fun s i g m r hm => ?_,
    fun slot s c hs => ⟨fun wait => exec_of_canStart hs rfl (if_pos wait), fun front => ⟨fun r bad => ?_, fun there none => ?_, fun m there hm => ⟨fun idle still => ?_, fun busy => ?_⟩⟩⟩,
    fun s i va size m hm => removeRange_spec hm va size⟩
  · refine body_refused hs rfl (t := s) ?_ (.refl s)
    simp [bad]
  · refine body_refused hs rfl (t := s) ?_ (.refl s)
    simp [there, query, none]
  · obtain ⟨m, hm⟩ := Option.ne_none_iff_exists'.1 some
    refine body_with hs rfl (g := fun e => putFld (putFld e 24 31 0 _) 28 31 0 _) ?_ (.refl s)
    simp [there, query, hm]
  · refine completes_refused hs ((exec_ptMirrorSet_of_set hs there set).trans (congrArg _ (settle_of_some (x := (stQuota, rsNone)) ?_))) (.refl s)
    exact if_pos (decide_eq_true beyond)
  · refine completes_refused hs ((exec_ptMirrorSet_of_set hs there set).trans (congrArg _ (settle_of_some (x := (stAborted, rsBadState)) ?_))) (.refl s)
    exact (if_neg (by simpa using fits)).trans (if_pos (decide_eq_true less))
  · refine completes_refused hs ((exec_ptMirrorSet_of_set hs there set).trans (congrArg _ (settle_of_some (x := (stAborted, 0x0C01)) ?_))) (.refl s)
    have none := (mirrorPlace_of_moves fun m hm => mirrorStays_eq_false (moves m hm)).trans full
    exact (if_neg (by simpa using fits)).trans ((if_neg (by simpa using more)).trans (if_pos (by rw [none]; rfl)))
  · have at_b : mirrorPlace s (cmdInst c) (fld c.entry 12 24 0) = Option.some b := by
      obtain ⟨m, hm, stays, rfl⟩ | ⟨moves, free⟩ := place
      · exact mirrorPlace_of_stays hm (mirrorStays_iff.2 stays)
      · exact (mirrorPlace_of_moves fun m hm => mirrorStays_eq_false (moves m hm)).trans free
    refine completes_with hs (f := fun e => putFld (putFld e 24 31 0 _) 28 31 0 _)
      ((exec_ptMirrorSet_of_set hs there set).trans (congrArg _ ((settle_of_none ?_).trans ?_))) (.keep (.refl s) ..)
    · exact (if_neg (by simpa using fits)).trans ((if_neg (by simpa using more)).trans (if_neg (by simp [at_b])))
    · simp only [at_b]
      rfl
  · simp [ptUpdate, bad, slot_of_canStart hs]
  · simp [ptUpdate, there, none, slot_of_canStart hs]
  · simp [ptUpdate, there, hm, none, slot_of_canStart hs]
  · simp [ptUpdate, there, hm, some, bad, slot_of_canStart hs]
  · simp only [ptUpdate, there, hm, some, legal, bad, slot_of_canStart hs]
    rfl
  · simp only [ptUpdate, there, hm, some, legal, good, full, slot_of_canStart hs]
    rfl
  · simp only [ptUpdate, there, hm, some, legal, good, Nat.not_lt.2 room, slot_of_canStart hs]
    rfl
  · obtain ⟨m', hm', entries⟩ := applyRecord_entries hm g r
    refine ⟨m', hm', fun valid => ?_, fun valid => ?_, fun x hx meets ne => ?_, fun x hx apart => ?_⟩
    · rw [entries, if_pos valid]
      exact tget_tput ..
    · rw [entries, if_neg (by simp [valid])]
      refine tget_eq_none fun x hx same => ?_
      have apart := (List.mem_filter.1 hx).2
      rw [same, overlaps_self (pteSize_pos _) (recordRange_pos _)] at apart
      exact absurd apart (by decide)
    · have gone : x ∉ m.entries.filter fun x => !overlaps x.1 (pteSize x.2) (recordRange r).1 (recordRange r).2 :=
        fun h => absurd (List.mem_filter.1 h).2 (by simp [meets])
      rw [entries]
      split
      · exact fun h => (eq_or_mem_of_mem_tput h).elim (fun own => ne (congrArg Prod.fst own)) gone
      · exact gone
    · have kept : x ∈ m.entries.filter fun x => !overlaps x.1 (pteSize x.2) (recordRange r).1 (recordRange r).2 :=
        List.mem_filter.2 ⟨hx, by simp [apart]⟩
      rw [entries]
      split
      · refine mem_tput_of_ne kept fun same => ?_
        rw [same, overlaps_self (pteSize_pos _) (recordRange_pos _)] at apart
        exact absurd apart (by decide)
      · exact kept
  · exact body_refused hs rfl ((if_neg (by simp [front])).trans (settle_of_some (by simp [bad]))) (.refl s)
  · exact body_refused hs rfl ((if_neg (by simp [front])).trans (settle_of_some (x := (stAborted, rsNoObject)) (by simp [there, none]))) (.refl s)
  · rw [← drainResult_of_invalidate (cmdOpcode_of_canStart hs)]
    refine body_with (g := drainResult _) hs rfl ((if_neg (by simp [front])).trans ((settle_of_none (by simp [there, hm])).trans ?_))
      (removeRange_admSame _ _ _ _ (.refl s))
    dsimp only
    rw [idle, still, removeRange_count hm]
    rfl
  · refine exec_of_canStart hs rfl ((if_neg (by simp [front])).trans ((settle_of_none (by simp [there, hm])).trans ?_))
    dsimp only
    rw [beginDrain_of_busy (busy.imp_left (mt (List.dedup_eq_nil _).1)), removeRange_count hm]

end Sys2Proof.Proofs
end

section
/-!
Address translation: page requests, walks, ATS and the waits of accesses (O27).
-/

namespace Sys2Proof.Machine

/-! ### What the pages of an access find -/

theorem atsPages_map_ok (ps : List Piece) : atsPages (ps.map .ok) = [] := by simp [atsPages]

theorem missPages_map_ok (ps : List Piece) : missPages (ps.map .ok) = [] := by simp [missPages]

theorem filterMap_pieceOf_map_ok (ps : List Piece) : (ps.map PageFind.ok).filterMap pieceOf = ps := by
  induction ps with
  | nil => rfl
  | cons p ps ih => simpa [pieceOf] using ih

theorem mem_missPages {fs : List PageFind} {p : Nat} : p ∈ missPages fs ↔ .absent p ∈ fs := by
  simp only [missPages, List.mem_filterMap]
  constructor
  · rintro ⟨f, hf, h⟩
    cases f <;> simp_all
  · exact fun h => ⟨_, h, rfl⟩

section
variable {s : State} {w : Waiting} {finds : List PageFind}
  (hf : (spansOf s w.inst w.va w.len).map (spanFind s w.got w.inst w.need) = finds)
include hf

theorem tryAccess_of_none (none : finds = []) (len : w.len ≠ 0) : tryAccess s w = (s, .notMapped) := by
  simp [tryAccess, hf, none, len]

theorem tryAccess_of_denied (denied : .denied ∈ finds) : tryAccess s w = (s, .permission) := by
  have some : finds ≠ [] := List.ne_nil_of_mem denied
  simp [tryAccess, hf, denied, some]

theorem tryAccess_of_ok {ps : List Piece} (ok : finds = ps.map .ok) (some : ps ≠ [] ∨ w.len = 0) : tryAccess s w = (s, .done ps) := by
  have here : ¬(finds.isEmpty && w.len != 0) = true := by
    obtain some | zero := some
    · simp [ok, some]
    · simp [zero]
  have free : ¬finds.contains .denied = true := by simp [ok]
  simp only [tryAccess, hf, if_neg here, if_neg free]
  simp only [ok, atsPages_map_ok, missPages_map_ok, filterMap_pieceOf_map_ok]

theorem tryAccess_of_absent {page : Nat} (free : .denied ∉ finds) (known : atsPages finds = []) (absent : .absent page ∈ finds) :
    tryAccess s w = missAccess s w (missPages finds) := by
  have some : finds ≠ [] := List.ne_nil_of_mem absent
  have misses := List.ne_nil_of_mem (mem_missPages.2 absent)
  simp only [tryAccess, hf, known]
  simp [free, some]

end

/-! ### Accesses that miss, and those that end -/

section
variable {s : State} {w : Waiting} {pages : List Nat}

theorem missAccess_of_ended (h : pages.any w.again.contains = true ∨ (fnOf s (instFn s w.inst)).stopped = true) :
    missAccess s w pages = (s, .notMapped) := if_pos (by simpa using h)

theorem missAccess_of_open (h : pages.any w.again.contains = false ∧ (fnOf s (instFn s w.inst)).stopped = false) :
    missAccess s w pages =
      (addWait (pages.foldl (raiseReq w.inst w.need w.fresh) s) { w with walked := true, missed := pages }, .waits) :=
  if_neg (by rw [h.1, h.2]; decide)

theorem dropWait_fn (s : State) (id i : Nat) : fnOf (dropWait s id) (instFn (dropWait s id) i) = fnOf s (instFn s i) := rfl

/-- An ATS answer that is no page is a miss of the page asked for. -/
theorem atsDone_of_other {id p : Nat} {ps : List Nat} {res : AtsResult}
    (hw : s.waits.find? (fun w => w.id == id && w.walked && w.missed.isEmpty) = some w)
    (need : atsPages ((spansOf s w.inst w.va w.len).map (spanFind s w.got w.inst w.need)) = p :: ps)
    (other : ∀ bus log2 rd wr, res ≠ .page bus log2 rd wr) : atsDone s id res =
      ((missAccess (dropWait s id) w [p]).1, match (missAccess (dropWait s id) w [p]).2 with | .waits => [] | x => [(w, x)]) := by
  have same : w.id = id := by
    have h := List.find?_some hw
    simp only [Bool.and_eq_true, beq_iff_eq] at h
    exact h.1.1
  cases res with
  | page bus log2 rd wr => exact absurd rfl (other bus log2 rd wr)
  | _ => simp only [atsDone, hw, need, same] <;> rfl

theorem endAll_fns (s : State) (ws : List Waiting) (x : Xlat) : (endAll s ws x).1.fns = s.fns :=
  List.foldlRecOn (motive := fun t : State => t.fns = s.fns) _ _ rfl fun _ k _ _ => k

theorem tget_map_values {α β : Type} (t : Tab α) (k : Nat) (f : α → β) : tget (t.map fun r => (r.1, f r.2)) k = (tget t k).map f := by
  induction t with
  | nil => rfl
  | cons r t ih =>
    obtain ⟨n, v⟩ := r
    by_cases h : n = k
    · simp [tget, h]
    · simpa [tget, h] using ih

/-- A report may set pending bits of a function's vectors, and nothing else of a function. -/
theorem post_stopped (s : State) (code : BitVec 16) (data : BitVec 96) (n : Nat) :
    (tget (post s code data).fns n).map (·.stopped) = (tget s.fns n).map (·.stopped) :=
  (post_onlyReports s code data).eq_of (fun t => (tget t.fns n).map (·.stopped)) fun u => by
    refine (congrArg _ (tget_map_values u.fns n fun v => { v with msix := { v.msix with pending := [] } })).trans ?_
    cases tget u.fns n <;> rfl

end

/-! ### An ATS Invalidate Request -/

/-- The only drain has ended: the request is answered. -/
theorem endDrains_of_ended {s : State} (tag : Nat) (idle : s.drains = []) :
    endDrains { s with drains := s.drains ++ [{ slot := none, tag := tag, removed := 0, reads := [], flushes := [] }] } =
      emit s (.atsInvalidated tag) := by
  have same : { s with drains := [] } = s := by rw [← idle]
  rw [idle]
  conv_rhs => rw [← same]
  rfl

/-- The only drain still waits. -/
theorem endDrains_of_waiting {s : State} {d : Drain} (idle : s.drains = []) (busy : d.reads ≠ [] ∨ d.flushes ≠ []) :
    endDrains { s with drains := s.drains ++ [d] } = { s with drains := [d] } := by
  have waits : (d.reads.isEmpty && d.flushes.isEmpty && (d.slot.isNone || !s.ctlReset)) = false := by
    obtain busy | busy := busy
    · simp [busy]
    · simp [busy]
  simp only [endDrains, idle, List.nil_append, List.filter_cons, waits]
  rfl

/-- A live device drops the results in the range, and begins the drain of what is in flight. -/
theorem exec_atsInvalidate_of_live {s : State} (up : live s = true) (fn : Nat) (pasid : Option Nat) (va size tag : Nat) :
    let is_ := instOfFn s fn pasid
    let keep (e : AtsEntry) : Bool := !(is_.contains e.inst && overlaps e.va e.size va size)
    let u : State := { heardTlp s with ats := s.ats.filter keep, waits := s.waits.map fun w => { w with got := w.got.filter keep } }
    let reads := (s.reads.filter fun r => is_.contains r.inst && r.pieces.any fun p => p.translated && overlaps p.va p.len va size).map (·.id)
    let flushing := (s.flushes.filter fun f => f.port == 0 && is_.contains f.inst && f.why == .invalidate).map (·.id)
    let wrote := s.mirrors.any fun r => is_.contains r.1 && r.2.entries.any fun e =>
      pteTarget e.2 == 0 && r.2.dirty.contains e.1 && overlaps e.1 (pteSize e.2) va size
    let f := issueFlushes u (if wrote then [0] else []) 0 .invalidate
    exec (.atsInvalidate fn pasid va size tag) s = .next (endDrains { f.2 with
      drains := f.2.drains ++ [{ slot := none, tag := tag, removed := 0, reads := reads, flushes := f.1 ++ flushing }] }) := by
  rw [heardTlp_eq]
  refine (if_neg ?_).trans ?_
  · simp [up]
  · rw [heardTlp_eq]
    rfl

end Sys2Proof.Machine

namespace Sys2Proof.Proofs

open Sys2Proof.Machine

/-- Settles O27: each response, walk and answer by what it finds of the accesses that wait. -/
theorem translation : Obligations.Translation := by
  unfold Obligations.Translation
  refine ⟨fun fn s => ⟨fun r hr => ⟨fun may => ?_, fun may => ?_⟩, fun none => ?_⟩,
    fun fn index code m s => ⟨fun up rst => ?_, fun up run => ?_, fun down => ?_⟩,
    fun fn index s => ⟨fun r hr => ⟨fun fresh => ⟨?_, ?_, fun w hw => ?_, fun f hf => ?_⟩, fun settled => ?_⟩, fun code none => ?_⟩,
    fun s id m res => ⟨fun up => ⟨?_, ?_⟩, fun down => ⟨?_, ?_⟩⟩,
    fun s id => ⟨fun w hw => ?_, fun none => ?_, fun w p ps hw need => ⟨fun bus log2 rd wr => ?_, fun res other => ⟨fun stop => ?_, fun go act => ?_⟩⟩, fun res none => ?_⟩,
    fun s w => ⟨fun none len => tryAccess_of_none rfl none len, fun denied => tryAccess_of_denied rfl denied, fun ps ok some => tryAccess_of_ok rfl ok some,
      fun page free known absent => ⟨fun again => ?_, fun fresh go => ?_⟩⟩,
    fun s got inst need x b p hx => ⟨fun denied => ?_, fun ok port => ?_, fun ok host off => ?_⟩,
    fun s inst page => ⟨fun r run hr => ⟨fun due late => ?_, fun early => ?_⟩, fun run none => ?_, fun halt => ?_⟩,
    fun fn pasid va size tag s => ⟨fun up none reads flushing wrote => ?_, fun up none busy wrote => ?_, fun up none wrote => ?_, fun down => ?_⟩⟩
  · obtain ⟨sv, awake, pri, act, room⟩ := may
    simp only [exec, execPageRequestIssue, hr]
    rw [if_pos (by simp [sv, awake, pri, act]; omega)]
    rfl
  · simp only [exec, execPageRequestIssue, hr]
    refine if_neg fun go => may ?_
    simpa [and_assoc] using go
  · simp [exec, execPageRequestIssue, none]
  · simp [exec, execPrgResponse, up, rst]
  · simp [exec, execPrgResponse, up, run]
  · simp [exec, execPrgResponse, down]
  · simp [prgResponse, hr, fresh]
  · simp [prgResponse, hr, fresh]
  · simp only [prgResponse, hr]
    refine List.mem_map.2 ⟨w, List.mem_dedup.2 (List.mem_append_left _ ?_), rfl⟩
    simpa [fresh] using hw
  · simp only [prgResponse, hr, fresh, endAll_fns]
    refine Option.map_eq_some_iff.1 ((post_stopped _ _ _ fn).trans ?_)
    simp [modFn, tget_tmod, markMissed, hf]
  · simp [prgResponse, hr, settled]
  · simp [prgResponse, none]
  · simp [exec, execMirrorWalkDone, up]
  · simp [exec, execAtsCompletion, up]
  · simp [exec, execMirrorWalkDone, down]
  · simp [exec, execAtsCompletion, down]
  · simp [walkDone, hw]
  · simp [walkDone, none]
  · refine ⟨_, if s.ats.length < 131072 then s.ats else s.ats.drop 1, rfl, ?_, fun room => if_pos room, ?_⟩
    · split
      · exact List.suffix_rfl
      · exact List.drop_suffix 1 s.ats
    · simp only [atsDone, hw, need]
  · rw [atsDone_of_other hw need other, missAccess_of_ended (by simpa [dropWait_fn] using stop)]
  · rw [atsDone_of_other hw need other, missAccess_of_open (by simpa [dropWait_fn] using ⟨go, act⟩)]
    rfl
  · simp only [atsDone, none]
  · rw [tryAccess_of_absent rfl free known absent]
    exact missAccess_of_ended (.inl (List.any_eq_true.2 ⟨page, mem_missPages.2 absent, by simpa using again⟩))
  · rw [tryAccess_of_absent rfl free known absent, missAccess_of_open]
    refine ⟨List.any_eq_false.2 fun x hx => ?_, go⟩
    simpa using fresh x (mem_missPages.1 hx)
  · simp [spanFind, hx, denied]
  · simp only [spanFind, hx, ok, Bool.not_true, Bool.false_eq_true, if_false]
    split
    · next h => exact absurd h port
    · next h => rw [h]
    · rfl
  · simp [spanFind, hx, ok, host, off]
  · simp only [exec, execPageTimeoutExpire, run, if_true, pageTimeout, hr]
    rw [if_neg ?_]
    · rfl
    · rw [ite_mul] at late
      obtain due | due := due
      · simpa [due] using late
      · simpa [due] using late
  · simp only [exec, execPageTimeoutExpire, run, if_true, pageTimeout, hr]
    rw [if_pos ?_]
    simpa using early
  · simp [exec, execPageTimeoutExpire, run, pageTimeout, none]
  · simp [exec, execPageTimeoutExpire, halt]
  · have idle : (heardTlp s).drains = [] := by simp [none]
    rw [exec_atsInvalidate_of_live up, wrote, reads, flushing]
    exact congrArg _ (endDrains_of_ended (s := { heardTlp s with ats := _, waits := _ }) tag idle)
  · have idle : (heardTlp s).drains = [] := by simp [none]
    rw [exec_atsInvalidate_of_live up, wrote]
    refine congrArg _ (endDrains_of_waiting (s := { heardTlp s with ats := _, waits := _ }) idle busy)
  · rw [exec_atsInvalidate_of_live up, wrote]
    refine congrArg _ (endDrains_of_waiting ?_ (.inr (List.cons_ne_nil _ _)))
    simp [issueFlushes, issueFlush, takeFresh, none]
  · simp [exec, execAtsInvalidate, down]

end Sys2Proof.Proofs
end

section
/-!
What rings, reports and queue pairs do leaves the cipher as it was: key slots, associations, the generator.
-/

namespace Sys2Proof.Machine

variable {s : State}

theorem OnlyReports.cipher_eq {t : State} (h : OnlyReports s t) : t.cipher = s.cipher := h.eq_of (·.cipher) fun _ => rfl

/-! ### Reports and interrupts -/

@[simp] theorem writeOwned_cipher (dst : Target) (addr : Nat) (bs : Bytes) : (writeOwned s dst addr bs).cipher = s.cipher := by
  simp [writeOwned]

@[simp] theorem msixRaise_cipher (fn v : Nat) : (msixRaise s fn v).cipher = s.cipher := (msixRaise_onlyReports s fn v).cipher_eq

@[simp] theorem trace_cipher (cls : Option Nat) (type source : Nat) (data : BitVec 96) : (trace s cls type source data).cipher = s.cipher :=
  (trace_onlyReports s cls type source data).cipher_eq

@[simp] theorem completeEntry_cipher (slot : Nat) (res : Entry) (status : BitVec 8) (reason : Nat) :
    (completeEntry s slot res status reason).cipher = s.cipher := by
  refine (completeEntry_onlyReports s slot res status reason).cipher_eq.trans ?_
  unfold admDone admSettle admFetch
  dsimp only
  repeat' split
  all_goals simp

@[simp] theorem raiseVector_cipher (inst v : Nat) : (raiseVector s inst v).cipher = s.cipher := by
  unfold raiseVector
  dsimp only
  repeat' split
  all_goals simp

@[simp] theorem raiseSignal_cipher (inst : Nat) : (raiseSignal s inst).cipher = s.cipher := by
  unfold raiseSignal
  dsimp only
  repeat' split
  all_goals simp

@[simp] theorem issueFlush_cipher (port inst : Nat) (why : FlushFor) : (issueFlush s port inst why).2.cipher = s.cipher := by
  simp [issueFlush, takeFresh]

@[simp] theorem issueFlushes_cipher (ports : List Nat) (inst : Nat) (why : FlushFor) : (issueFlushes s ports inst why).2.cipher = s.cipher :=
  List.foldlRecOn (motive := fun a : List Nat × State => a.2.cipher = s.cipher) _ _ rfl fun _ k _ _ => (issueFlush_cipher ..).trans k

/-! ### Completion queues -/

@[simp] theorem cqMessage_cipher (n : Nat) (c : Cq) : (cqMessage s n c).cipher = s.cipher := by
  unfold cqMessage
  split <;> simp

@[simp] theorem cqInterrupt_cipher (n : Nat) : (cqInterrupt s n).cipher = s.cipher := by
  unfold cqInterrupt
  dsimp only
  repeat' split
  all_goals simp

@[simp] theorem cqFail_cipher (n : Nat) : (cqFail s n).cipher = s.cipher := by
  unfold cqFail
  dsimp only
  repeat' split
  all_goals simp

@[simp] theorem writeReport_cipher (n : Nat) (r : Report) : (writeReport s n r).cipher = s.cipher := by
  unfold writeReport
  dsimp only
  repeat' split
  all_goals simp

@[simp] theorem queueReport_cipher (n : Nat) (r : Report) : (queueReport s n r).cipher = s.cipher := by
  unfold queueReport
  repeat' split
  all_goals simp

/-! ### Rings -/

@[simp] theorem endMessage_cipher (inst : Nat) : (endMessage s inst).cipher = s.cipher := by simp [endMessage]

@[simp] theorem endWork_cipher (qpn slot : Nat) : (endWork s qpn slot).cipher = s.cipher := by
  unfold endWork
  repeat' split
  all_goals simp

@[simp] theorem handBack_cipher (k : RingKind) (id : Nat) (t : Taken) (o : Outcome) : (handBack s k id t o).cipher = s.cipher := by
  unfold handBack
  split
  · rfl
  · simp [apply_ite State.cipher]

@[simp] theorem drainRing_cipher (n : Nat) (k : RingKind) (id : Nat) : (drainRing n s k id).cipher = s.cipher := by
  induction n generalizing s with
  | zero => rfl
  | succ n ih =>
    unfold drainRing
    repeat' split
    all_goals simp [ih]

@[simp] theorem drain_cipher (k : RingKind) (id : Nat) : (drain s k id).cipher = s.cipher := by
  unfold drain
  split <;> simp

@[simp] theorem endSlot_cipher (k : RingKind) (id slot : Nat) (o : Outcome) : (endSlot s k id slot o).cipher = s.cipher := by
  have gate : (gateEntry s k id slot).2.cipher = s.cipher := by
    unfold gateEntry
    split <;> simp
  unfold endSlot decideSlot
  dsimp only
  repeat' split
  all_goals simp [gate]

@[simp] theorem disableRing_cipher (k : RingKind) (id : Nat) (status : BitVec 8) : (disableRing s k id status).cipher = s.cipher := by
  have slots (f : Taken → Outcome) (l : List Taken) : (l.foldl (fun t x => endSlot t k id x.slot (f x)) s).cipher = s.cipher :=
    List.foldlRecOn (motive := fun t : State => t.cipher = s.cipher) _ _ rfl fun _ h _ _ => (endSlot_cipher ..).trans h
  unfold disableRing
  dsimp only
  repeat' split
  all_goals simp [slots]

/-! ### Queue pairs -/

@[simp] theorem uncharge_cipher (coord charge : Nat) : (uncharge s coord charge).cipher = s.cipher := by
  unfold uncharge
  split <;> simp

@[simp] theorem modPath_cipher (coord p : Nat) (f : Path → Path) : (modPath s coord p f).cipher = s.cipher := by
  unfold modPath
  split <;> simp

@[simp] theorem forgetPkt_cipher (coord : Nat) (t : TxPkt) : (forgetPkt coord s t).cipher = s.cipher := by
  unfold forgetPkt
  dsimp only
  split <;> simp

@[simp] theorem rxRelease_cipher (port c len : Nat) : (rxRelease s port c len).cipher = s.cipher := by
  unfold rxRelease pauseRule sendPause sendCtlFrame
  dsimp only
  repeat' split
  all_goals simp

@[simp] theorem dropTx_cipher (qpn : Nat) : (dropTx s qpn).cipher = s.cipher := by
  unfold dropTx
  split
  · rfl
  · exact List.foldlRecOn (motive := fun t : State => t.cipher = s.cipher) _ _ rfl fun _ k _ _ => (forgetPkt_cipher ..).trans k

@[simp] theorem dropHeld_cipher (qpn : Nat) : (dropHeld s qpn).cipher = s.cipher := by
  unfold dropHeld
  split
  · rfl
  · exact List.foldlRecOn (motive := fun t : State => t.cipher = s.cipher) _ _ rfl fun _ k _ _ => (rxRelease_cipher ..).trans k

@[simp] theorem stopQp_cipher (qpn : Nat) : (stopQp s qpn).cipher = s.cipher := by
  unfold stopQp
  split
  · rfl
  · exact List.foldlRecOn (motive := fun t : State => t.cipher = s.cipher) _ _ (by simp) fun _ k _ _ => (endWork_cipher ..).trans k

@[simp] theorem moveQp_cipher (n : Nat) (st : QpState) : (moveQp s n st).cipher = s.cipher := by
  unfold moveQp tpeQpLost
  dsimp only
  repeat' split
  all_goals simp

@[simp] theorem endHandshake_cipher (qpn : Nat) (status : BitVec 8) (reason : Nat) : (endHandshake s qpn status reason).cipher = s.cipher := by
  unfold endHandshake complete completeWith refuse
  dsimp only
  repeat' split
  all_goals simp

@[simp] theorem qpError_cipher (qpn : Nat) (status : BitVec 8) (index : Nat) : (qpError s qpn status index).cipher = s.cipher := by
  unfold qpError
  dsimp only
  repeat' split
  all_goals simp

@[simp] theorem strikeQp_cipher (qpn index : Nat) : (strikeQp s qpn index).cipher = s.cipher := by
  unfold strikeQp
  dsimp only
  repeat' split
  all_goals simp

end Sys2Proof.Machine
end

section
/-!
Pool memory: regions, zeroing, faults; the end of forwarding (O28).
-/

namespace Sys2Proof.Machine

theorem firstRefusal_hit {b : Bool} {r : BitVec 8 × Nat} {l : List (Bool × BitVec 8 × Nat)} (h : b = true) :
    firstRefusal ((b, r) :: l) = some r := by rw [firstRefusal_cons, if_pos h]

theorem firstRefusal_skip {b : Bool} {r : BitVec 8 × Nat} {l : List (Bool × BitVec 8 × Nat)} (h : b = false) :
    firstRefusal ((b, r) :: l) = firstRefusal l := by rw [firstRefusal_cons, if_neg (Bool.eq_false_iff.1 h)]

/-! ### The lowest free place (R280) -/

theorem le_alignUp (a : Nat) {unit : Nat} (h : 0 < unit) : a ≤ alignUp a unit := by
  have d := Nat.div_add_mod (a + unit - 1) unit
  have m := Nat.mod_lt (a + unit - 1) h
  rw [Nat.mul_comm] at d
  unfold alignUp
  omega

theorem alignUp_mod (a unit : Nat) : alignUp a unit % unit = 0 := Nat.mul_mod_left _ _

theorem alignUp_le {a b unit : Nat} (h : 0 < unit) (aligned : b % unit = 0) (le : a ≤ b) : alignUp a unit ≤ b := by
  obtain ⟨k, rfl⟩ := Nat.dvd_of_mod_eq_zero aligned
  unfold alignUp
  rw [Nat.mul_comm unit k]
  refine Nat.mul_le_mul_right _ ?_
  rw [Nat.mul_comm] at le
  exact Nat.lt_succ_iff.1 ((Nat.div_lt_iff_lt_mul h).2 (by rw [Nat.succ_mul]; omega))

/-- The last end of an allocation at or below `b`, or `lo`. -/
def lastEnd (l : List (Nat × Nat)) (lo b : Nat) : Nat := ((l.filter fun x => decide (x.1 + x.2 ≤ b)).map fun x => x.1 + x.2).foldr max lo

theorem le_lastEnd (l : List (Nat × Nat)) (lo b : Nat) : lo ≤ lastEnd l lo b := by
  unfold lastEnd
  induction (l.filter fun x => decide (x.1 + x.2 ≤ b)).map fun x => x.1 + x.2 with
  | nil => exact Nat.le_refl _
  | cons e es ih => exact ih.trans (Nat.le_max_right ..)

theorem end_le_lastEnd {l : List (Nat × Nat)} {x : Nat × Nat} {b : Nat} (lo : Nat) (hx : x ∈ l) (h : x.1 + x.2 ≤ b) :
    x.1 + x.2 ≤ lastEnd l lo b := by
  have mem : x.1 + x.2 ∈ (l.filter fun x => decide (x.1 + x.2 ≤ b)).map fun x => x.1 + x.2 :=
    List.mem_map_of_mem (List.mem_filter.2 ⟨hx, decide_eq_true h⟩)
  unfold lastEnd
  revert mem
  generalize x.1 + x.2 = e
  induction (l.filter fun x => decide (x.1 + x.2 ≤ b)).map fun x => x.1 + x.2 with
  | nil => exact fun h => absurd h List.not_mem_nil
  | cons d ds ih =>
    intro h
    obtain rfl | h := List.mem_cons.1 h
    · exact Nat.le_max_left ..
    · exact (ih h).trans (Nat.le_max_right ..)

/-- The last end is at or below `b`, and is `lo` or an end. -/
theorem lastEnd_cases (l : List (Nat × Nat)) {lo b : Nat} (h : lo ≤ b) :
    lastEnd l lo b ≤ b ∧ (lastEnd l lo b = lo ∨ ∃ x ∈ l, lastEnd l lo b = max lo (x.1 + x.2)) := by
  unfold lastEnd
  induction l with
  | nil => exact ⟨h, .inl rfl⟩
  | cons x xs ih =>
    obtain ⟨le, at_⟩ := ih
    have grown {e : Nat} : (∃ y ∈ xs, e = max lo (y.1 + y.2)) → ∃ y ∈ x :: xs, e = max lo (y.1 + y.2) :=
      fun ⟨y, hy, he⟩ => ⟨y, List.mem_cons_of_mem x hy, he⟩
    by_cases hx : x.1 + x.2 ≤ b
    · simp only [List.filter_cons, hx, decide_true, if_true, List.map_cons, List.foldr_cons]
      refine ⟨max_le hx le, ?_⟩
      obtain ge | lt := le_total (x.1 + x.2) (((xs.filter fun x => decide (x.1 + x.2 ≤ b)).map fun x => x.1 + x.2).foldr max lo)
      · rw [max_eq_right ge]
        exact at_.imp_right grown
      · have lo_le : lo ≤ x.1 + x.2 := (le_lastEnd xs lo b).trans lt
        exact .inr ⟨x, List.mem_cons_self, by rw [max_eq_left lt, max_eq_right lo_le]⟩
    · rw [List.filter_cons_of_neg (by simpa using hx)]
      exact ⟨le, at_.imp_right grown⟩

theorem overlaps_eq_false {a n b m : Nat} : overlaps a n b m = false ↔ b + m ≤ a ∨ a + n ≤ b := by
  simp only [overlaps, Bool.and_eq_false_iff, decide_eq_false_iff_not, Nat.not_lt]

theorem freeAt_iff {s : State} {a n : Nat} : freeAt s a n = true ↔ ∀ x ∈ allocs s, overlaps a n x.1 x.2 = false := by
  simp [freeAt]

/-- The candidates of `lowestFree` are aligned and not below `lo`. -/
theorem lowestFree_candidate {s : State} {unit lo a : Nat} (pos : 0 < unit)
    (h : a ∈ alignUp lo unit :: (allocs s).map fun x => alignUp (max lo (x.1 + x.2)) unit) : a % unit = 0 ∧ lo ≤ a := by
  obtain rfl | h := List.mem_cons.1 h
  · exact ⟨alignUp_mod .., le_alignUp _ pos⟩
  · obtain ⟨x, -, rfl⟩ := List.mem_map.1 h
    exact ⟨alignUp_mod .., (Nat.le_max_left ..).trans (le_alignUp _ pos)⟩

/-- Where `b` is free and aligned, so is the last end at or below it, rounded up: what ends by `b` ends by there, the rest is beyond. -/
theorem freeAt_alignUp_lastEnd {s : State} {size unit lo b : Nat} (pos : 0 < unit) (aligned : b % unit = 0) (le : lo ≤ b)
    (free : freeAt s b size = true) :
    alignUp (lastEnd (allocs s) lo b) unit ≤ b ∧ freeAt s (alignUp (lastEnd (allocs s) lo b) unit) size = true := by
  have below := alignUp_le pos aligned (lastEnd_cases (allocs s) le).1
  refine ⟨below, freeAt_iff.2 fun x hx => overlaps_eq_false.2 ?_⟩
  obtain before | beyond := overlaps_eq_false.1 (freeAt_iff.1 free x hx)
  · exact .inl ((end_le_lastEnd lo hx before).trans (le_alignUp _ pos))
  · exact .inr ((Nat.add_le_add_right below size).trans beyond)

theorem lowestFree_spec {s : State} {size unit lo hi base : Nat} (pos : 0 < unit) (h : lowestFree s size unit lo hi = some base) :
    base % unit = 0 ∧ lo ≤ base ∧ base + size ≤ hi ∧ (∀ x ∈ allocs s, overlaps base size x.1 x.2 = false) ∧
      ∀ b, b % unit = 0 → lo ≤ b → b + size ≤ hi → freeAt s b size = true → base ≤ b := by
  obtain ⟨mem, least⟩ := List.min?_eq_some_iff.1 h
  obtain ⟨cand, ok⟩ := List.mem_filter.1 mem
  obtain ⟨fits, free⟩ := Bool.and_eq_true_iff.1 ok
  obtain ⟨aligned, ge⟩ := lowestFree_candidate pos cand
  refine ⟨aligned, ge, of_decide_eq_true fits, freeAt_iff.1 free, fun b hb hlo hhi hfree => ?_⟩
  obtain ⟨below, free'⟩ := freeAt_alignUp_lastEnd pos hb hlo hfree
  refine (least _ (List.mem_filter.2 ⟨?_, ?_⟩)).trans below
  · obtain e | ⟨x, hx, e⟩ := (lastEnd_cases (allocs s) hlo).2
    · rw [e]
      exact List.mem_cons_self
    · rw [e]
      exact List.mem_cons_of_mem _ (List.mem_map_of_mem (f := fun x => alignUp (max lo (x.1 + x.2)) unit) hx)
  · rw [free', Bool.and_true]
    exact decide_eq_true ((Nat.add_le_add_right below size).trans hhi)

/-! ### Zeroing -/

theorem finishDestroy_of_stays {s : State} {i : Nat} (h : ∀ x, tget s.insts i = some x → x.why = none) : finishDestroy s i = s := by
  unfold finishDestroy
  cases hi : tget s.insts i with
  | none => rfl
  | some x => simp [h x hi]

@[simp] theorem completeWith_insts (s : State) (slot : Nat) (g : Entry → Entry) : (completeWith s slot g).insts = s.insts := by
  unfold completeWith
  split
  · refine ((completeEntry_onlyReports ..).eq_of State.insts fun _ => rfl).trans ?_
    unfold admDone admSettle admFetch
    dsimp only
    split
    · rfl
    · split
      · exact (emit_onlyReports _ _).eq_of State.insts fun _ => rfl
      · rfl
  · rfl

theorem finishDestroy_completeWith {s : State} {i slot : Nat} {g : Entry → Entry} (h : ∀ x, tget s.insts i = some x → x.why = none) :
    finishDestroy (completeWith s slot g) i = completeWith s slot g :=
  finishDestroy_of_stays fun x hx => h x (by rwa [completeWith_insts] at hx)

/-! ### Corrected errors -/

/-- The corrected errors of the last hour, with one more of `stack`. -/
def recentCorrected (s : State) (stack : Nat) : List (Nat × Nat) :=
  (s.pool.corrected.filter fun c => decide (s.now < c.2 + 3600000000000)) ++ [(stack, s.now)]

/-- POOL_CORRECTED_RATE is due: more than 1,000 in the last hour, and none reported in it. -/
def CorrectedTooMany (s : State) (stack : Nat) : Prop :=
  1000 < ((recentCorrected s stack).filter fun c => c.1 == stack).length ∧ ∀ a, tget s.pool.rateAt stack = some a → a + 3600000000000 ≤ s.now

/-- The state in which one more corrected error of `stack` is counted. -/
def correctedCounted (s : State) (stack : Nat) : State :=
  count { s with pool := { s.pool with corrected := recentCorrected s stack } } 3 stack 0 1

theorem corrected_onlyReports {s : State} {stack : Nat} (h : CorrectedTooMany s stack) :
    OnlyReports { correctedCounted s stack with pool := { (correctedCounted s stack).pool with rateAt := tput s.pool.rateAt stack s.now } }
      (corrected s stack) := by
  have reported : corrected s stack = post
      { correctedCounted s stack with pool := { (correctedCounted s stack).pool with rateAt := tput s.pool.rateAt stack s.now } } 0x0062
      (evData [(16, 1, stack), (20, 4, ((recentCorrected s stack).filter fun c => c.1 == stack).length)]) := by
    obtain ⟨many, loud⟩ := h
    unfold corrected
    cases hr : tget s.pool.rateAt stack with
    | none => exact if_pos (Bool.and_eq_true_iff.2 ⟨decide_eq_true many, rfl⟩)
    | some a => exact if_pos (Bool.and_eq_true_iff.2 ⟨decide_eq_true many, by simpa using loud a hr⟩)
  rw [reported]
  exact post_onlyReports ..

theorem corrected_of_quiet {s : State} {stack : Nat} (h : ¬CorrectedTooMany s stack) : corrected s stack = correctedCounted s stack := by
  unfold corrected
  cases hr : tget s.pool.rateAt stack with
  | none => exact if_neg fun both => h ⟨of_decide_eq_true (Bool.and_eq_true_iff.1 both).1, by simp [hr]⟩
  | some a =>
    refine if_neg fun both => h ?_
    obtain ⟨many, loud⟩ := Bool.and_eq_true_iff.1 both
    exact ⟨of_decide_eq_true many, by simpa [hr] using loud⟩

/-! ### The end of an association struck -/

theorem dead_strike_sa {s : State} {n : Nat} {a : Sa} (h : tget s.cipher.sas n = some a) :
    ∃ b, tget (strike s (.sa n)).cipher.sas n = some b ∧ b.dead = true := by
  refine ⟨{ a with dead := true }, ?_, rfl⟩
  have same : (strike s (.sa n)).cipher = (modSa (takeFresh s).2 n fun a => { a with dead := true }).cipher :=
    List.foldlRecOn (motive := fun t : State => t.cipher = (modSa (takeFresh s).2 n fun a => { a with dead := true }).cipher)
      _ _ rfl fun t k _ _ => (strikeQp_cipher ..).trans k
  rw [same]
  exact (tget_tmod s.cipher.sas n fun a => { a with dead := true }).trans (by rw [h]; rfl)

end Sys2Proof.Machine

namespace Sys2Proof.Proofs
open Sys2Proof.Machine

/-- Settles O28: the lowest place by its candidates, the refusals in their order, and each fault by its cases. -/
theorem poolMemory : Obligations.PoolMemory := by
  unfold Obligations.PoolMemory
  refine ⟨fun slot s c hs => ?_, fun slot s c hs => ⟨fun r bad => ?_, fun there none => ?_, fun g there hg => ⟨fun apart => ?_, fun m hm inside => ?_⟩⟩,
    fun base s => ⟨fun z hz fw => ⟨fun none => ?_, fun n c hn hc stays => ?_, fun a ge lt => ?_, fun a out => ?_, fun b ge le h => ?_,
      fun l ge le h => ?_⟩, fun h => ?_⟩,
    fun line stack fault holds s => ⟨fun at_ run scrubbed roost => ⟨fun works => ⟨fun low => ?_, fun high => ?_, ?_, fun known => ?_, fun new => ?_⟩,
      fun out => ⟨fun h => ?_, fun high new => ?_⟩⟩, fun h => ?_⟩,
    fun stack s => ⟨fun h => ?_, fun h => ?_⟩, fun s n => ⟨fun q hq act => ?_, rfl, rfl, rfl, tget_tdel .., fun a ha => dead_strike_sa ha⟩,
    fun stack s => ⟨fun h => ?_, fun h => ?_⟩, fun port kind s => ⟨?_, ?_, ?_, ?_, ?_⟩, fun inst s => ⟨fun f hf run => ?_, fun h => ?_⟩⟩
  · dsimp only
    have pos : 0 < (if bit c.entry 9 0 then 2 ^ 30 else 2 ^ 21) := by split <;> decide
    refine ⟨fun r bad => ?_, fun there beyond => ?_, fun there fits taken => ?_, fun there fits free out => ?_, fun there fits free works full => ?_,
      fun base there fits free works hb => ⟨fun many => ?_, fun room => ?_, lowestFree_spec pos hb⟩⟩
    · exact body_refused hs rfl (settle_of_some (by simp [bad])) (.refl s)
    · exact body_refused hs rfl (settle_of_some (x := (stQuota, rsNone)) (by simp [there, beyond])) (.refl s)
    all_goals have within := decide_eq_false fits
    · refine body_refused hs rfl (settle_of_some (x := (stAborted, rsExists)) ?_) (.refl s)
      simp only [there]
      exact (firstRefusal_skip within).trans (firstRefusal_hit (by simpa using taken))
    all_goals have fresh : ((regionOf s (cmdInst c) (fld c.entry 8 5 0)).isSome ||
        s.pool.zeroing.any fun z => z.inst == cmdInst c && z.num == some (fld c.entry 8 5 0)) = false := by simpa using free
    · refine body_refused hs rfl (settle_of_some (x := (stAborted, rsUnitOut)) ?_) (.refl s)
      simp only [there]
      exact (firstRefusal_skip within).trans ((firstRefusal_skip fresh).trans (firstRefusal_hit (by simpa using out)))
    all_goals have ok : (fld c.entry 10 3 0 != 15 && !s.start.stackOk.getLsbD (fld c.entry 10 3 0)) = false :=
        Bool.eq_false_iff.2 fun h => works (by simpa [-BitVec.getLsbD_eq_getElem] using h)
    · refine body_refused hs rfl (settle_of_some (x := (stAborted, 0x0C01)) ?_) (.refl s)
      simp only [there, full]
      exact (firstRefusal_skip within).trans ((firstRefusal_skip fresh).trans ((firstRefusal_skip ok).trans (firstRefusal_hit rfl)))
    · refine body_refused hs rfl (settle_of_some (x := (stAborted, 0x0C03)) ?_) (.refl s)
      simp only [there, hb]
      exact (firstRefusal_skip within).trans ((firstRefusal_skip fresh).trans ((firstRefusal_skip ok).trans
        ((firstRefusal_skip rfl).trans (firstRefusal_hit (decide_eq_true many)))))
    · refine body_with hs rfl (g := fun e => regionResults _ base e) ((settle_of_none ?_).trans ?_) (.keep (.refl s) ..)
      · simp only [there, hb]
        exact (firstRefusal_skip within).trans ((firstRefusal_skip fresh).trans ((firstRefusal_skip ok).trans
          ((firstRefusal_skip rfl).trans (firstRefusal_skip (decide_eq_false (Nat.not_le.2 room))))))
      · simp only [hb]
        rfl
  · refine body_refused hs rfl (t := s) ?_ (.refl s)
    simp [bad]
  · refine body_refused hs rfl (t := s) ?_ (.refl s)
    simp [there, none]
  · refine exec_of_canStart hs rfl ?_
    simp only [there, hg]
    refine if_neg ?_
    cases hm : tget s.mirrors (cmdInst c) with
    | none => exact Bool.false_ne_true
    | some m => exact Bool.eq_false_iff.1 (apart m hm)
  · refine body_refused hs rfl (t := s) ?_ (.refl s)
    simp [there, hg, hm, inside]
  · simp [exec, execPoolZeroingDone, hz, fw, none]
  · refine ends_with (g := regionResults _ z.base) hc ?_ (.refl _) (poolZero_admSame _ _ _ (.keep (.refl s) ..))
    simp only [exec, execPoolZeroingDone, hz, fw, hn, Bool.not_true, Bool.false_eq_true, if_false]
    exact congrArg Host.Outcome.next (finishDestroy_completeWith stays)
  · exact memByte_memZero_of_inside _ _ _ _ ge lt
  · exact memByte_memZero_of_outside _ _ _ _ out
  · exact absurd (List.mem_filter.1 h).2 (by simp [overlaps]; omega)
  · exact absurd (List.mem_filter.1 h).2 (by simp [overlaps]; omega)
  · obtain h | h := h <;> simp [exec, execPoolZeroingDone, h]
    split <;> rfl
  · simp [exec, execPatrolScrub, at_, run, scrubbed, roost, works, Nat.not_le.2 low, -BitVec.getLsbD_eq_getElem]
  · simp [exec, execPatrolScrub, at_, run, scrubbed, roost, works, high, -BitVec.getLsbD_eq_getElem]
  · simp [exec, execPatrolScrub, at_, run, scrubbed, roost, works, -BitVec.getLsbD_eq_getElem]
  · simp only [exec, execPatrolScrub, at_, run, scrubbed, roost, works, uncorrectable, known]
    rfl
  · refine ⟨lineLost s line stack, post_onlyReports .., fun low => ?_, fun high => ?_⟩
    · simp only [exec, execPatrolScrub, at_, run, scrubbed, roost, works, uncorrectable, new, Nat.not_le.2 low]
      rfl
    · simp only [exec, execPatrolScrub, at_, run, scrubbed, roost, works, uncorrectable, new, high]
      rfl
  · simp only [exec, execPatrolScrub, at_, run, scrubbed, roost, out]
    obtain low | known := h
    · simp [outOfStack, Nat.not_le.2 low]
    · simp only [known]
      rfl
  · simp only [exec, execPatrolScrub, at_, run, scrubbed, roost, out, outOfStack, high, new]
    rfl
  · simp only [exec, execPatrolScrub]
    cases at_ : stackOf s (64 * line) with
    | none => rfl
    | some stack => exact if_pos (by simpa [at_, or_assoc] using h)
  · exact corrected_onlyReports h
  · exact corrected_of_quiet h
  · have working : q.state = .init ∨ q.state = .ready ∨ q.state = .draining := by simpa [qpActive, or_assoc] using act
    obtain h | h | h := working <;> simp [strike, strikeQp, hq, h]
  · obtain ⟨run, rd, lt, ok, works⟩ := h
    refine ⟨_, ?_, post_onlyReports _ 0x0061 (evData [(16, 1, stack)])⟩
    simp only [exec, execPoolStackFault]
    exact if_neg (by simp [run, rd, Nat.not_le.2 lt, ok, works, -BitVec.getLsbD_eq_getElem])
  · simp only [exec, execPoolStackFault]
    refine if_pos ?_
    by_contra not
    exact h (by simpa [and_assoc, -BitVec.getLsbD_eq_getElem] using not)
  · rintro on rfl
    simp [exec, execAerErrorReported, on]
  · intro on bad
    cases kind <;> simp_all [exec, execAerErrorReported]
  · rintro on ge le rfl
    simp [exec, execAerErrorReported, on, le, Nat.ne_of_gt ge]
  · intro on ge le bad
    cases kind <;> simp_all [exec, execAerErrorReported, Nat.ne_of_gt ge]
  · intro h
    simp only [exec, execAerErrorReported]
    refine congrArg _ (if_neg fun both => ?_)
    obtain ⟨on, le⟩ := Bool.and_eq_true_iff.1 both
    exact h.elim (fun off => absurd on (Bool.eq_false_iff.1 off)) (Nat.not_lt.2 (of_decide_eq_true le))
  · simp only [exec, execForwardExpire, hf, run]
    rfl
  · simp only [exec, execForwardExpire]
    cases hf : s.forwards.find? fun f => f.inst == inst && decide (f.limit ≤ s.now) with
    | none => rfl
    | some f => exact congrArg _ (if_neg (Bool.eq_false_iff.1 (h.resolve_right (by simp [hf]))))

end Sys2Proof.Proofs
end

section
/-!
TPE contexts and kettles (O29).
-/

namespace Sys2Proof.Machine

theorem epochAtCtx_of_reduce {s : State} {ctx epoch : Nat} {x : Ctx} {r : TpeRun} (hx : tget s.ctxs ctx = some x) (rd : x.state = .ready)
    (hr : reduceOf x = some r) : epochAtCtx epoch s ctx = finishStep s ctx x { r with fail := some (stKettleEpoch, 0) } := by
  simp [epochAtCtx, hx, rd, hr]

/-- The context with no staged bytes of another epoch. -/
def atEpoch (epoch : Nat) (x : Ctx) : Ctx :=
  { x with inbox :=
      (x.inbox.map fun m => { m with parts := m.parts.filter fun p => p.2.2 == epoch }).filter fun m => !m.parts.isEmpty || m.stop != some m.got }

theorem epochAtCtx_inbox {s : State} {ctx epoch : Nat} {x : Ctx} (hx : tget s.ctxs ctx = some x) (idle : x.state ≠ .ready ∨ reduceOf x = none) :
    ∃ y, tget (epochAtCtx epoch s ctx).ctxs ctx = some y ∧ (∀ k ∈ y.inbox, ∀ p ∈ k.parts, p.2.2 = epoch) ∧
      ∀ k ∈ x.inbox, (∀ p ∈ k.parts, p.2.2 = epoch) → k.parts ≠ [] → k ∈ y.inbox := by
  have none : (if x.state == .ready then reduceOf x else none) = Option.none := by
    obtain h | h := idle
    · exact if_neg (by simpa using h)
    · rw [h, ite_self]
  refine ⟨atEpoch epoch x, ?_, ?_, ?_⟩
  · simp only [epochAtCtx, hx, none]
    exact (tget_tmod ..).trans (congrArg (Option.map (atEpoch epoch)) hx)
  · intro k hk p hp
    obtain ⟨m, -, rfl⟩ := List.mem_map.1 (List.mem_filter.1 hk).1
    exact eq_of_beq (List.mem_filter.1 hp).2
  · intro k hk same some
    have all : k.parts.filter (fun p => p.2.2 == epoch) = k.parts := List.filter_eq_self.2 fun p hp => beq_iff_eq.2 (same p hp)
    refine List.mem_filter.2 ⟨List.mem_map.2 ⟨k, hk, by rw [all]⟩, ?_⟩
    simp [some]

theorem kettleKnown_iff {s : State} {i : Nat} {ket : Option Nat} :
    (ket.any fun k => !(tget s.kettles k).any fun x => x.inst == i) = false ↔
      ∀ k, ket = some k → ∃ x, tget s.kettles k = some x ∧ x.inst = i := by
  cases ket with
  | none => simp
  | some k => cases h : tget s.kettles k <;> simp [h]

end Sys2Proof.Machine

namespace Sys2Proof.Proofs
open Sys2Proof.Machine

/-- Settles O29: the refusals of each command in their order, then what it does. -/
theorem tpeObjects : Obligations.TpeObjects := by
  unfold Obligations.TpeObjects
  refine ⟨fun slot s c hs => ?_, fun slot s c hs => ⟨fun r bad => ?_, fun there none => ?_, fun x there hx own => ⟨fun frozen => ?_, fun works idle => ?_,
      fun y works hy busy => ?_⟩⟩,
    fun slot s c hs => ⟨fun r table bad => ?_, fun table there full => ?_, fun table x there free hx => ?_, fun there free new => ?_,
      fun b there free new => ⟨fun bad => ?_, fun r formed bad => ?_, fun formed ok => ?_⟩⟩,
    fun slot s c => ⟨fun hs => ⟨fun r bad => ?_, fun ok => ?_⟩, fun hs => ⟨fun r bad => ?_, fun ok => ⟨fun bound => ?_, fun free => ?_⟩⟩⟩,
    fun s ctx epoch x hx => ⟨fun r rd hr => epochAtCtx_of_reduce hx rd hr, fun idle => epochAtCtx_inbox hx idle⟩⟩
  · dsimp only
    refine ⟨fun r bad => ?_, fun there full => ?_, fun x there fits hx => ?_, fun there fits new unknown => ?_, fun there fits new known out => ?_,
      fun there fits new known room none => ?_, fun p there fits new known room hp => ⟨fun r bad => ?_, fun ok => ?_⟩⟩
    · exact body_refused hs rfl (settle_of_some (by simp [bad])) (.refl s)
    · refine body_refused hs rfl (settle_of_some (x := (stQuota, rsNone)) ?_) (.refl s)
      simp only [there]
      rw [firstRefusal_hit]
      by_contra not
      exact full (by simpa [and_assoc] using not)
    all_goals
      have within : (decide ((quotaOf s (cmdInst c)).ctxs ≤ ctxSum s (cmdInst c) fun _ => 1)
        || decide ((quotaOf s (cmdInst c)).wUnits < ctxSum s (cmdInst c) (·.wUnits) + fld c.entry 12 8 0)
        || decide ((quotaOf s (cmdInst c)).aUnits < ctxSum s (cmdInst c) (·.aUnits) + fld c.entry 14 8 0)
        || decide ((quotaOf s (cmdInst c)).poolBytes < poolUse s (cmdInst c) + fld c.entry 32 36 0)) = false := by
        simpa [and_assoc] using fits
    · refine body_refused hs rfl (settle_of_some (x := (stAborted, rsExists)) ?_) (.refl s)
      simp only [there]
      rw [firstRefusal_skip within, firstRefusal_hit (by rw [hx]; rfl)]
    all_goals
      have fresh : (tget s.ctxs (fld c.entry 8 7 0)).isSome = false := by rw [new]; rfl
    · refine body_refused hs rfl (settle_of_some (x := (stAborted, rsNoObject)) ?_) (.refl s)
      simp only [there]
      rw [firstRefusal_skip within, firstRefusal_skip fresh, firstRefusal_hit]
      by_contra not
      exact unknown (kettleKnown_iff.1 (Bool.eq_false_iff.2 not))
    all_goals have found := kettleKnown_iff.2 known
    · refine body_refused hs rfl (settle_of_some (x := (stAborted, 0x0E01)) ?_) (.refl s)
      simp only [there]
      rw [firstRefusal_skip within, firstRefusal_skip fresh, firstRefusal_skip found, firstRefusal_hit]
      by_contra not
      exact out (by simpa using not)
    all_goals
      have space : (decide (256 < wUnitsUsed s + fld c.entry 12 8 0) || decide (256 < aUnitsUsed s + fld c.entry 14 8 0)) = false := by
        simpa using room
    · refine body_refused hs rfl (settle_of_some (x := (stAborted, 0x0C01)) ?_) (.refl s)
      simp only [there]
      rw [firstRefusal_skip within, firstRefusal_skip fresh, firstRefusal_skip found, firstRefusal_skip space, firstRefusal_hit (by rw [none]; rfl)]
    · refine body_refused hs rfl (settle_of_some ?_) (.refl s)
      simp only [there]
      rw [firstRefusal_skip within, firstRefusal_skip fresh, firstRefusal_skip found, firstRefusal_skip space, firstRefusal_skip (by rw [hp]; rfl)]
      exact bad
    · refine body_plain hs rfl ((settle_of_none ?_).trans ?_) (enableRing_admSame _ _ _ (.keep (.refl s) ..))
      · simp only [there]
        rw [firstRefusal_skip within, firstRefusal_skip fresh, firstRefusal_skip found, firstRefusal_skip space, firstRefusal_skip (by rw [hp]; rfl)]
        exact ok
      · simp only [hp]
        rfl
  · exact body_refused hs rfl (settle_of_some (by simp [bad])) (.refl s)
  · refine body_refused hs rfl (settle_of_some (x := (stAborted, rsNoObject)) ?_) (.refl s)
    cases hx : tget s.ctxs (fld c.entry 8 7 0) with
    | none => simp [there]
    | some x => simp [there, none x hx]
  · exact body_refused hs rfl (settle_of_some (x := (stFrozen, rsNone)) (by simp [there, hx, own, frozen])) (.refl s)
  · refine body_plain hs rfl ((settle_of_none (by simp [there, hx, own, works])).trans ?_)
      (dropCtx_admSame _ _ (.ite (ctxError_admSame _ _ _ _ (.refl s)) (.refl s)))
    simp only [hx, beq_iff_eq]
    refine if_neg fun busy => ?_
    obtain ⟨y, hy, held⟩ := (Option.any_eq_true _ _).1 busy
    simp [idle y hy] at held
  · refine exec_of_canStart hs rfl ((settle_of_none (by simp [there, hx, own, works])).trans ?_)
    simp only [hx, beq_iff_eq]
    exact if_pos (by rw [hy]; simpa using busy)
  · exact body_refused hs rfl (settle_of_some (by simp [bad])) (.refl s)
  · exact body_refused hs rfl (settle_of_some (x := (stQuota, rsNone)) (by simp [there, Nat.not_lt.1 full])) (.refl s)
  · exact body_refused hs rfl (settle_of_some (x := (stAborted, rsExists)) (by simp [there, Nat.not_le.2 free, hx])) (.refl s)
  · exact body_refused hs rfl (settle_of_none (by simp [there, Nat.not_le.2 free, new])) (.refl s)
  · refine body_refused hs rfl ((settle_of_none (by simp [there, Nat.not_le.2 free, new])).trans (if_pos ?_)) (.refl s)
    exact congrArg not bad
  · refine body_refused hs rfl ((settle_of_none (by simp [there, Nat.not_le.2 free, new])).trans ((if_neg ?_).trans (settle_of_some bad))) (.refl s)
    exact Bool.eq_false_iff.1 (congrArg not formed)
  · refine body_plain hs rfl ((settle_of_none (by simp [there, Nat.not_le.2 free, new])).trans ((if_neg ?_).trans (settle_of_none ok)))
      (.foldl (.keep (.refl s) ..) _ _ fun u q k => modQp_admSame _ _ _ k)
    exact Bool.eq_false_iff.1 (congrArg not formed)
  · exact body_refused hs rfl (settle_of_some bad) (.refl s)
  · exact body_plain hs rfl (settle_of_none ok) (tpeSettle_admSame _ (.foldl (.keep (.refl s) ..) _ _ fun u n k => epochAtCtx_admSame _ _ _ k))
  · exact body_refused hs rfl (settle_of_some (by simp [bad])) (.refl s)
  · exact body_refused hs rfl (settle_of_some (x := (stAborted, rsBadState)) (by simp [ok, bound])) (.refl s)
  · exact body_plain hs rfl (settle_of_none (by simp [ok, free])) (dropKettle_admSame _ _ (.refl s))

end Sys2Proof.Proofs
end

section
/-!
The course of a TPE list step (O30).
-/

namespace Sys2Proof.Machine

section
variable {s : State} {ctx : Nat} {words : List StoreWord} {m : Meets} {c : Ctx} {t : Taken}

/-! ### How a step starts -/

theorem startFailure_of_beyond {e : Entry} (h : (stepSpans e (kettleOf s c)).any (beyondSpace c) = true) :
    startFailure s c e = some (stAborted, subSpaceRange) := if_pos h

theorem startFailure_of_no_kettle {e : Entry} (within : (stepSpans e (kettleOf s c)).any (beyondSpace c) = false) (needs : needsKettle e = true)
    (none : kettleOf s c = none) : startFailure s c e = some (stAborted, subBadMap) :=
  (if_neg (Bool.eq_false_iff.1 within)).trans (if_pos (by simp [needs, none]))

/-- A STREAM from virtual addresses to virtual addresses reaches neither space and no rank. -/
theorem startFailure_of_stream {e : Entry} (op : opOf e = 0x03) (far : isAlt e = false)
    (down : ∀ q, tget s.qps (fld e 4 19 0) = some q → q.inst = c.inst → q.state ≠ .ready) :
    startFailure s c e = some (stAborted, subQpError) := by
  have within : (stepSpans e (kettleOf s c)).any (beyondSpace c) = false := by simp [stepSpans, op, far, beyondSpace]
  have notReady : (!(tget s.qps (fld e 4 19 0)).any fun q => q.inst == c.inst && q.state == .ready) = true := by
    cases hq : tget s.qps (fld e 4 19 0) with
    | none => rfl
    | some q => simpa [imp_iff_not_or] using down q hq
  refine (if_neg (Bool.eq_false_iff.1 within)).trans ((if_neg ?_).trans (if_pos ?_))
  · simp [needsKettle, op]
  · simpa [stepQpns, op] using notReady

/-- A step as its start leaves it: marked started, among the runs, and a REDUCE counted. -/
def stepBegun (s : State) (ctx : Nat) (c : Ctx) (t : Taken) (u : State) : State :=
  modCtx (markStarted u .tpe ctx t.slot) ctx fun x =>
    { x with runs := x.runs ++ [newRun s c t], reduces := if opOf t.entry = 0x05 then x.reduces + 1 else x.reduces }

variable (hc : tget s.ctxs ctx = some c) (ht : nextStart c.ring = some t)
include hc ht

theorem exec_tpeStepStart_of_malformed (may : tpeMayStart s c t = true) (bad : stepLegal s.a1 t.entry = false) :
    exec (.tpeStepStart ctx words m) s =
      .next (ctxError (endSlot s .tpe ctx t.slot { status := stMalformed, sub := 0, bytes := 0, notify := 0 }) ctx none stAborted) := by
  simp [exec, execTpeStepStart, hc, ht, may, bad]

theorem exec_tpeStepStart_of_legal (may : tpeMayStart s c t = true) (legal : stepLegal s.a1 t.entry = true) :
    exec (.tpeStepStart ctx words m) s = .next (tpeSettle (underMeets m s fun u =>
      if (startFailure s c t.entry).isSome then stepBegun s ctx c t u
      else tpeAdvance (stepBegin (words.foldl foundWord (modCtx (stepBegun s ctx c t u) ctx (startZero t.entry))) ctx (newRun s c t))
        ctx t.slot)) := by
  simp only [exec, execTpeStepStart, hc, ht, may, legal]
  rfl

end

/-! ### The array -/

section
variable {s : State} {ctx : Nat}

theorem stepArray_of_work {c : Ctx} {r : TpeRun} (h : arrayWork s ctx = some (c, r)) :
    stepArray s ctx =
      let a := arrayStep c r
      let v := modCtx (takeTile s ctx r.slot) ctx fun _ => putRun a.1 a.2
      if a.2.row = 0 || a.2.fail.isSome then { v with array := { v.array with current := none } } else v := by
  simp [stepArray, h]

theorem arrayTurn_of_within {slot : Nat} {r : TpeRun} (hc : s.array.current = some (ctx, slot)) (hr : runOf s ctx slot = some r)
    (within : atBoundary r = false) : arrayTurn s = some ctx := by
  simp [arrayTurn, hc, hr, within]

theorem arrayTurn_of_boundary {slot other : Nat} {x : Nat × Nat} {r : TpeRun} (hc : s.array.current = some (ctx, slot))
    (hr : runOf s ctx slot = some r) (here : atBoundary r = true) (hx : s.array.shadow = some (other, x)) (ne : other ≠ ctx) :
    arrayTurn s = some other := by
  simp [arrayTurn, hc, hr, here, hx, ne]

end

theorem arrayStep_of_failed {c : Ctx} {r : TpeRun}
    (h : wtRead c (fld r.entry 12 31 0 + r.tile * tileBytes (fmtB r.entry)) (tileBytes (fmtB r.entry)) = none) :
    arrayStep c r = (c, r.failWith stAborted subStoreEcc) := by
  simp [arrayStep, h]

/-- The rows of one step leave the run's tile to the step. -/
theorem arrayStep_of_loaded {c : Ctx} {r : TpeRun} {t : Bytes}
    (h : wtRead c (fld r.entry 12 31 0 + r.tile * tileBytes (fmtB r.entry)) (tileBytes (fmtB r.entry)) = some t) :
    let rows := fld r.entry 16 15 0
    let n := min (rowsPerStep r.entry) (rows - r.row)
    (arrayStep c r).2.row = (if rows ≤ r.row + n then 0 else r.row + n) ∧
      (arrayStep c r).2.tile = if rows ≤ r.row + n then r.tile + 1 else r.tile := by
  simp [arrayStep, h]

end Sys2Proof.Machine

namespace Sys2Proof.Proofs
open Sys2Proof.Machine

/-- Settles O30: a step's start by what it may not, its form and its failure; the array by its turn; the end by the run's failure and flags. -/
theorem tpeSteps : Obligations.TpeSteps := by
  unfold Obligations.TpeSteps
  refine ⟨fun ctx words m s => ⟨fun c t hc ht => ⟨fun waits => ?_, exec_tpeStepStart_of_malformed hc ht, fun may legal fails => ?_,
        fun may legal fine => ?_, fun x hx space out => ?_, fun x hx space out => ?_, startFailure_of_no_kettle, startFailure_of_stream⟩, fun none => ?_⟩,
    fun ctx s => ⟨fun slot tile hn on free turn => ?_, fun h => ?_, fun m on turn => ?_, fun m h => ?_, fun c r hw => ⟨fun ends => ?_, fun more fine => ?_⟩,
      fun slot r => arrayTurn_of_within, fun slot r other x => arrayTurn_of_boundary⟩,
    fun c r => ⟨arrayStep_of_failed, fun t ht => ⟨fun more => ?_, fun last => ?_⟩⟩,
    fun ctx slot m s c hc => ⟨fun on rd => ⟨fun x r hx hr => ⟨fun fails => ?_, fun fine more => ?_, fun fine done => ?_⟩, fun none => ?_⟩, fun h => ?_⟩,
    fun ctx slot m s none => ?_, fun ctx s c r => ⟨fun fine quiet => ?_, fun fine trap => ?_, fun st sub fails op => ?_⟩,
    fun ctx s => ⟨fun c r hc hr => ⟨fun due => ?_, fun not => ?_⟩, fun none => ?_⟩⟩
  · simp [exec, execTpeStepStart, hc, ht, waits]
  · rw [exec_tpeStepStart_of_legal hc ht may legal]
    simp only [if_pos (Option.isSome_iff_ne_none.2 fails)]
    rfl
  · rw [exec_tpeStepStart_of_legal hc ht may legal, fine]
    rfl
  · exact startFailure_of_beyond (List.any_eq_true.2 ⟨x, hx, by simp [beyondSpace, space, out]⟩)
  · exact startFailure_of_beyond (List.any_eq_true.2 ⟨x, hx, by simp [beyondSpace, space, out]⟩)
  · simp only [exec, execTpeStepStart]
    cases hc : tget s.ctxs ctx with
    | none => rfl
    | some c => simp [none c hc]
  · simp [exec, execTileLoadDone, hn, on, free, turn]
  · simp only [exec, execTileLoadDone]
    cases hn : nextTile s ctx with
    | none => rfl
    | some x =>
      refine congrArg _ (if_neg fun all => ?_)
      obtain ⟨⟨on, free⟩, turn⟩ : (serving s = true ∧ s.array.shadow = Option.none) ∧ loadTurn s = some ctx := by simpa using all
      obtain h | h | h | h := h
      · exact absurd (hn.symm.trans h) (Option.some_ne_none x)
      · exact absurd on (Bool.eq_false_iff.1 h)
      · exact h free
      · exact h turn
  · simp [exec, execArrayStep, on, turn]
  · obtain h | h := h <;> simp [exec, execArrayStep, h]
  · rw [stepArray_of_work hw]
    exact if_pos (by simpa [Option.isSome_iff_ne_none] using ends)
  · rw [stepArray_of_work hw]
    exact if_neg (by simp [more, fine])
  · obtain ⟨row, tile⟩ := arrayStep_of_loaded ht
    exact ⟨row.trans (if_neg (Nat.not_le.2 more)), tile.trans (if_neg (Nat.not_le.2 more))⟩
  · obtain ⟨row, tile⟩ := arrayStep_of_loaded ht
    exact ⟨row.trans (if_pos last), tile.trans (if_pos last)⟩
  · simp only [exec, execTpeStepComplete, hc, on, rd, hx, hr, Option.isSome_iff_ne_none.2 fails]
    rfl
  · simp only [exec, execTpeStepComplete, hc, on, rd, hx, hr, fine, more]
    rfl
  · simp only [exec, execTpeStepComplete, hc, on, rd, hx, hr, fine, done]
    rfl
  · simp only [exec, execTpeStepComplete, hc, on, rd, none]
    cases tget (underMeets m s fun u => pumpCtx (tpeAdvance (pumpCtx u ctx) ctx slot) ctx).ctxs ctx <;> rfl
  · simp only [exec, execTpeStepComplete, hc]
    exact if_pos (by simpa using h)
  · simp only [exec, execTpeStepComplete, none]
  · simp only [finishStep, fine, if_pos quiet]
    rfl
  · simp only [finishStep, fine, if_neg trap]
    rfl
  · simp [finishStep, fails, op]
  · obtain ⟨on, rd, time, more⟩ := due
    simp [exec, execReduceWaitExpire, hc, hr, on, rd, time, more]
  · simp only [exec, execReduceWaitExpire, hc, Option.bind_some, hr, Option.map_some]
    exact congrArg _ (if_neg fun due => not (by simpa [and_assoc] using due))
  · simp only [exec, execReduceWaitExpire]
    cases hc : tget s.ctxs ctx with
    | none => rfl
    | some c => simp [none c hc]

end Sys2Proof.Proofs
end

section
/-!
The cipher engine: key slots (O31), associations (O32), seeding and the lookaside queue (O33).
-/

namespace Sys2Proof.Machine

/-! ### The refusals of a key's loading -/

section
variable {s : State} {i : Nat} {e : Entry} (there : instRefusalFrozen s i = none)
include there

theorem keyLoadRefusal_of_there : keyLoadRefusal s i e = firstRefusal [
    (decide (slotQuota s i (fld e 10 1 0) ≤ slotUse s i (fld e 10 1 0)), stQuota, rsNone),
    ((tget s.cipher.keys (fld e 8 13 0)).isSome, stAborted, rsExists),
    (fld e 10 1 0 == 1 && s.cipher.keys.any (fun k => k.2.type == 1 && k.2.inst == i && k.2.ksel == fld e 12 11 0), stAborted, 0x0F01)] := by
  simp only [keyLoadRefusal, there]

theorem saRefusal_of_own {id : Nat} {a : Sa} (ha : saOf s id = some a) (own : a.inst = i) : saRefusal s i id = none := by
  simp [saRefusal, there, ha, own]

theorem saRefusal_of_foreign {id : Nat} (foreign : ∀ a, saOf s id = some a → a.inst ≠ i) : saRefusal s i id = some (stAborted, rsNoObject) := by
  cases ha : saOf s id with
  | none => simp [saRefusal, there, ha]
  | some a => simp [saRefusal, there, ha, foreign a ha]

end

/-- A run of the start-up tests counts: the seed is awaited, or the tests run again. -/
def TestsRun (s : State) : Prop := running s = true ∧ s.start.entropyFailed = false ∧ (s.start.seeded = false ∨ s.cipher.testing = true)

theorem testsRun_iff {s : State} : TestsRun s ↔ (running s && !s.start.entropyFailed && (!s.start.seeded || s.cipher.testing)) = true := by
  simp [TestsRun, and_assoc]

theorem exec_entropyTestRun_of_due {s : State} {pass : Bool} (h : TestsRun s) : exec (.entropyTestRun pass) s =
    if pass then
      let s1 := { seedDrbg s with start := { s.start with seeded := true, entropyRuns := 0 } }
      .next (seedCome (if s1.cipher.ctxKey.isSome then s1
        else purgeKeyMem (modCipher (drawRandom s1).2 fun c => { c with ctxKey := some ((drawRandom s1).1.extractLsb' 0 256) }) 0x100000 32))
    else if s.start.entropyRuns < 2 then .next { s with start := { s.start with entropyRuns := s.start.entropyRuns + 1 } }
    else .next (seedCome (post { s with cipher := { s.cipher with testing := false }
                                        start := { s.start with entropyFailed := true, entropyRuns := s.start.entropyRuns + 1 } } 0x0003 0)) := by
  simp only [exec, execEntropyTestRun, testsRun_iff.1 h]
  rfl

theorem exec_entropyTestRun_of_not_due {s : State} {pass : Bool} (h : ¬TestsRun s) : exec (.entropyTestRun pass) s = .next s := by
  simp only [exec, execEntropyTestRun, Bool.eq_false_iff.2 (mt testsRun_iff.2 h)]
  rfl

end Sys2Proof.Machine

namespace Sys2Proof.Proofs
open Sys2Proof.Machine

/-- Settles O31: the refusals in their order; loading and clearing by the slot's state and the seed. -/
theorem keySlots : Obligations.KeySlots := by
  unfold Obligations.KeySlots
  refine fun slot s c => ⟨fun there => ⟨fun full => ?_, fun free k hk => ?_, fun free new used => ?_, fun free new unused => ?_⟩, fun r bad => ?_,
    fun hs => ⟨fun r buf bad => ?_, fun ok => ?_, fun b ok => ⟨fun good => ?_, fun xts equal => ?_⟩⟩,
    fun hs => ⟨fun r bad => ?_, fun ok seeded => ?_, fun ok unseeded => ⟨fun failed => ?_, fun waits => ?_⟩⟩,
    fun hs => ⟨fun r bad => ?_, fun there foreign => ?_, fun k there hk own => ⟨fun used => ?_, fun serves mapped busy => ?_, fun serves mapped idle => ?_⟩⟩⟩
  · rw [keyLoadRefusal_of_there there, firstRefusal_hit (decide_eq_true full)]
  · rw [keyLoadRefusal_of_there there, firstRefusal_skip (decide_eq_false (Nat.not_le.2 free)), firstRefusal_hit (by rw [hk]; rfl)]
  · rw [keyLoadRefusal_of_there there, firstRefusal_skip (decide_eq_false (Nat.not_le.2 free)), firstRefusal_skip (by rw [new]; rfl),
      firstRefusal_hit (by simpa [and_assoc] using used)]
  · rw [keyLoadRefusal_of_there there, firstRefusal_skip (decide_eq_false (Nat.not_le.2 free)), firstRefusal_skip (by rw [new]; rfl),
      firstRefusal_skip (Bool.eq_false_iff.2 fun h => unused (by simpa [and_assoc] using h)), firstRefusal_nil]
  · simp only [keyLoadRefusal, bad]
  · exact body_refused hs rfl (settle_of_some bad) (.refl s)
  · exact body_refused hs rfl (settle_of_none ok) (.refl s)
  · refine body_plain hs rfl ((settle_of_none ok).trans (if_neg ?_)) (loadKey_admSame _ _ _ _ (.refl s))
    simpa [imp_iff_not_or] using good
  · refine body_refused hs rfl ((settle_of_none ok).trans (if_pos ?_)) (.refl s)
    exact Bool.and_eq_true_iff.2 ⟨decide_eq_true xts, beq_iff_eq.2 equal⟩
  · refine body_refused hs rfl (t := s) ?_ (.refl s)
    simp [keySlotGenerate, bad, slot_of_canStart hs]
  · refine body_plain hs rfl (t := loadKey (drawRandom s).2 (cmdInst c) c.entry _) ?_ (loadKey_admSame _ _ _ _ (drawRandom_admSame s (.refl s)))
    simp only [keySlotGenerate, ok, settle_none, slot_of_canStart hs, seeded]
    rfl
  · refine body_refused hs rfl (t := s) ?_ (.refl s)
    simp [keySlotGenerate, ok, unseeded, awaitSeed, failed, slot_of_canStart hs]
  · refine exec_of_canStart hs rfl ?_
    simp [keySlotGenerate, ok, unseeded, awaitSeed, waits, slot_of_canStart hs]
  · refine body_refused hs rfl (t := s) ?_ (.refl s)
    simp [bad]
  · refine body_refused hs rfl (t := s) (status := stAborted) (reason := rsNoObject) ?_ (.refl s)
    have none_own : (tget s.cipher.keys (fld c.entry 8 13 0)).any (·.inst == cmdInst c) = false := by
      cases hk : tget s.cipher.keys (fld c.entry 8 13 0) with
      | none => rfl
      | some k => simpa using foreign k hk
    simp [there, none_own]
  · refine body_refused hs rfl (t := s) (status := stAborted) (reason := 0x0F02) ?_ (.refl s)
    simp [there, hk, own, used]
  · refine exec_of_canStart hs rfl ?_
    simp [there, hk, own, serves, mapped, busy]
  · refine body_plain hs rfl ((if_neg (by simp [idle])).trans (settle_of_none (by simp [there, hk, own, serves, mapped]))) (.keep (.refl s) ..)

/-- Settles O32: the refusals in their order; a rekey by its direction; the retirement by its time. -/
theorem associations : Obligations.Associations := by
  unfold Obligations.Associations
  refine ⟨fun slot s c => ⟨fun hs => ?_, fun hs => ⟨fun r bad => ?_, fun a ok ha => ⟨fun tx => ⟨fun taken => ?_, fun free => ?_⟩,
        fun rx => ⟨fun taken => ?_, fun free busy => ?_, fun free still settled => ?_⟩⟩⟩,
      fun hs => ⟨fun r bad => ?_, fun ok => ⟨fun bound => ?_, fun free => ?_⟩⟩, fun r bad => by simp [saRefusal, bad],
      fun a there ha own => saRefusal_of_own there ha own, fun there foreign => saRefusal_of_foreign there foreign⟩,
    fun n s => ⟨fun a t ha hr => ⟨fun run due => ?_, fun h => ?_⟩, fun none => ?_⟩⟩
  · have held_iff : ((saOf s (fld c.entry 8 13 0)).isSome || s.forwards.any (·.sas.contains (fld c.entry 8 13 0))) = true ↔
        (∃ a, saOf s (fld c.entry 8 13 0) = some a) ∨ ∃ f ∈ s.forwards, fld c.entry 8 13 0 ∈ f.sas := by simp [Option.isSome_iff_exists]
    refine ⟨fun r bad => ?_, fun there held => ?_, fun there new bad => ?_, fun there new txFree rxFree ne => ?_⟩
    · exact body_refused hs rfl (settle_of_some (by simp [bad])) (.refl s)
    · refine body_refused hs rfl (settle_of_some (x := (stAborted, rsExists)) ?_) (.refl s)
      simp only [there]
      exact firstRefusal_hit (held_iff.2 held)
    all_goals have fresh := Bool.eq_false_iff.2 (mt held_iff.1 new)
    · refine body_refused hs rfl (settle_of_some (x := (stAborted, 0x0F03)) ?_) (.refl s)
      simp only [there]
      exact (firstRefusal_skip fresh).trans (firstRefusal_hit (by simpa [or_assoc] using bad))
    · refine body_plain hs rfl ((settle_of_none ?_).trans ?_) (.keep (.refl s) ..)
      · simp only [there]
        exact (firstRefusal_skip fresh).trans (firstRefusal_skip (by simp [txFree, rxFree, ne]))
      · rfl
  · exact body_refused hs rfl (settle_of_some (by simp [bad])) (.refl s)
  · exact body_refused hs rfl (settle_of_some (x := (stAborted, 0x0F03)) (by simp [ok, tx, taken])) (.refl s)
  · refine body_with hs rfl ((settle_of_none (by simp [ok, tx, free])).trans ?_) (modSa_admSame _ _ _ (.refl s))
    simp only [ha, tx]
    rfl
  · exact body_refused hs rfl (settle_of_some (x := (stAborted, 0x0F03)) (by simp [ok, rx, taken])) (.refl s)
  · refine body_refused hs rfl (settle_of_some (x := (stAborted, 0x0F05)) ?_) (.refl s)
    obtain h | h := busy <;> simp [ok, rx, free, ha, h]
  · refine body_with hs rfl (g := rekeyResults _) ((settle_of_none (by simp [ok, rx, free, ha, still, settled])).trans ?_) (modSa_admSame _ _ _ (.refl s))
    simp only [ha, rx]
    cases phase : a.rxPhase <;> simp only [rekeyed, phase] <;> rfl
  · exact body_refused hs rfl (settle_of_some (by simp [bad])) (.refl s)
  · exact body_refused hs rfl (settle_of_some (x := (stAborted, 0x0F04)) (by simp [ok, bound])) (.refl s)
  · exact body_plain hs rfl (settle_of_none (by simp [ok, free])) (dropSa_admSame _ _ (.refl s))
  · refine ⟨_, ?_, post_onlyReports _ 0x0074 (evData [(16, 2, n), (18, 1, (!a.rxPhase).toNat)])⟩
    simp only [exec, execRxPhaseRetire, ha, hr, run, due]
    cases phase : a.rxPhase <;> rfl
  · simp only [exec, execRxPhaseRetire, ha, hr]
    exact congrArg _ (if_neg (by obtain h | h := h <;> simp [h]))
  · simp only [exec, execRxPhaseRetire]
    cases ha : saOf s n with
    | none => rfl
    | some a => simp [none a ha]

/-- Settles O33: the seed by what is due, the waits by their time, and a request by its form, its length, its key and the seed. -/
theorem seedingAndLookaside : Obligations.SeedingAndLookaside := by
  unfold Obligations.SeedingAndLookaside
  refine ⟨fun s => ⟨fun due none => ?_, fun due some => ?_, fun due more => ?_, fun due last => ?_, fun not pass => ?_, fun run rd => ?_, fun h => ?_,
      ⟨fun old => ?_, fun not => ?_⟩, fun slot c hc => ⟨fun late => ?_, fun not => ?_⟩, fun slot none => ?_, fun inst r hr => ⟨fun late => ?_, fun not => ?_⟩,
      fun inst none => ?_⟩,
    fun inst s => ⟨fun on isOpen => ?_, fun h => ?_⟩,
    fun inst s disagree m => ⟨fun none => ?_, fun t ht => ⟨fun bad => ?_, fun legal => ?_⟩⟩,
    fun u inst slot e disagree => ⟨fun beyond => ?_, fun within random => ⟨fun rd => ?_, fun late failed => ?_, fun late waits => ?_⟩,
      fun within op => ⟨fun bad => ?_, fun ok wraps none => ?_, fun ok good => ?_⟩⟩,
    fun u inst r => ⟨fun bad => ?_, fun good none => ?_, fun good some => ?_⟩⟩
  · refine (exec_entropyTestRun_of_due due).trans ((if_pos rfl).trans ?_)
    dsimp only
    rw [if_neg (by simp [seedDrbg, modCipher, none])]
    simp only [seedDrbg, modCipher, personalization]
    cases hi : img s <;> rfl
  · refine (exec_entropyTestRun_of_due due).trans ((if_pos rfl).trans ?_)
    dsimp only
    rw [if_pos (by simpa [seedDrbg, modCipher, Option.isSome_iff_ne_none] using some)]
    simp only [seedDrbg, modCipher, personalization]
    cases hi : img s <;> rfl
  · exact (exec_entropyTestRun_of_due due).trans ((if_neg Bool.false_ne_true).trans (if_pos more))
  · exact ⟨_, post_onlyReports .., (exec_entropyTestRun_of_due due).trans ((if_neg Bool.false_ne_true).trans (if_neg (Nat.not_lt.2 last)))⟩
  · exact exec_entropyTestRun_of_not_due not
  · simp only [exec, execEntropyHealthFail, run, rd]
    rfl
  · obtain h | h := h <;> simp [exec, execEntropyHealthFail, h]
  · obtain ⟨run, rd, old⟩ := old
    refine congrArg _ (if_pos ?_)
    simpa [run, rd] using old
  · exact congrArg _ (if_neg fun old => not (by simpa [and_assoc] using old))
  · obtain ⟨unseeded, fw, waits, time⟩ := late
    refine ends_refused hc ?_ (.refl s) (.refl s)
    have waiting : (c.phase == .running && (cmdOpcode c == 0x0200 || (cmdOpcode c == 0x0201 && fld c.entry 12 2 0 == 1)
        || cmdOpcode c == 0x0501)) = true := by simpa [or_assoc] using waits
    simp [exec, execSeedWaitTimeout, running_of_firmware fw, unseeded, hc, waiting, fw, time]
  · simp only [exec, execSeedWaitTimeout, hc]
    by_cases early : (!running s || seedReady s) = true
    · exact if_pos early
    · refine (if_neg early).trans (congrArg _ (if_neg fun late => not ?_))
      obtain ⟨-, unseeded⟩ : running s = true ∧ seedReady s = false := by simpa using early
      obtain ⟨⟨waits, fw⟩, time⟩ : (_ ∧ firmware s = true) ∧ _ := by simpa using late
      exact ⟨unseeded, fw, by simpa [or_assoc] using waits, time⟩
  · simp [exec, execSeedWaitTimeout, none]
  · obtain ⟨run, unseeded, seed, time⟩ := late
    simp [exec, execSeedWaitTimeout, hr, run, unseeded, seed, time]
  · simp only [exec, execSeedWaitTimeout, hr]
    by_cases early : (!running s || seedReady s) = true
    · exact if_pos early
    · exact (if_neg early).trans (congrArg _ (if_neg fun late => not (by simp_all)))
  · simp [exec, execSeedWaitTimeout, none]
  · simp [exec, execLookasideDoorbell, on, laDoorbell, isOpen]
  · obtain h | h := h <;> simp [exec, execLookasideDoorbell, laDoorbell, h]
  · simp [exec, execLookasideStart, none]
  · simp [exec, execLookasideStart, ht, bad]
  · simp [exec, execLookasideStart, ht, legal]
  · exact if_pos beyond
  · exact (if_neg (Bool.eq_false_iff.1 within)).trans ((if_pos random).trans (if_pos rd))
  · exact (if_neg (Bool.eq_false_iff.1 within)).trans ((if_pos random).trans ((if_neg (Bool.eq_false_iff.1 late)).trans (if_pos failed)))
  · exact (if_neg (Bool.eq_false_iff.1 within)).trans ((if_pos random).trans ((if_neg (Bool.eq_false_iff.1 late)).trans
      (if_neg (Bool.eq_false_iff.1 waits))))
  · exact (if_neg (Bool.eq_false_iff.1 within)).trans ((if_neg op).trans (if_pos (by simp [bad])))
  · exact (if_neg (Bool.eq_false_iff.1 within)).trans ((if_neg op).trans ((if_neg (by simp [ok])).trans (if_pos (by simp [wraps, none]))))
  · exact (if_neg (Bool.eq_false_iff.1 within)).trans ((if_neg op).trans ((if_neg (by simp [ok])).trans (if_neg (by obtain h | h := good <;> simp [h]))))
  · exact if_pos bad
  · exact (if_neg (Bool.eq_false_iff.1 good)).trans (if_pos (by simp [none]))
  · exact (if_neg (Bool.eq_false_iff.1 good)).trans (if_neg (by simp [some]))

end Sys2Proof.Proofs
end

section
/-!
Paths, congestion parameters, limiters and classes (O34); gate lists (O35).
-/

namespace Sys2Proof.Machine

/-! ### What the pauses of a class leave alone -/

/-- `t` is `s` but for the ports and the counters. -/
def OnlyPorts (s t : State) : Prop := t = { s with ports := t.ports, counters := t.counters }

theorem OnlyPorts.refl (s : State) : OnlyPorts s s := rfl

section
variable {s t : State} (h : OnlyPorts s t)
include h

theorem OnlyPorts.eq_of {α : Type} (f : State → α) (hf : ∀ ports counters, f { s with ports := ports, counters := counters } = f s) : f t = f s :=
  (congrArg f (show t = { s with ports := t.ports, counters := t.counters } from h)).trans (hf ..)

theorem OnlyPorts.classes_eq : t.classes = s.classes := h.eq_of State.classes fun _ _ => rfl
theorem OnlyPorts.adm_eq : t.adm = s.adm := h.eq_of State.adm fun _ _ => rfl
theorem OnlyPorts.qps_eq : t.qps = s.qps := h.eq_of State.qps fun _ _ => rfl
theorem OnlyPorts.limiters_eq : t.limiters = s.limiters := h.eq_of State.limiters fun _ _ => rfl
theorem OnlyPorts.insts_eq : t.insts = s.insts := h.eq_of State.insts fun _ _ => rfl
theorem OnlyPorts.pool_eq : t.pool = s.pool := h.eq_of State.pool fun _ _ => rfl

theorem OnlyPorts.admSame : AdmSame s t := ⟨congrArg Adm.cmds h.adm_eq, congrArg Adm.ringBase h.adm_eq, h.eq_of State.epoch fun _ _ => rfl⟩

end

theorem OnlyPorts.trans {s t u : State} (h : OnlyPorts s t) (k : OnlyPorts t u) : OnlyPorts s u := by
  unfold OnlyPorts at *
  rw [k, h]

theorem OnlyPorts.foldl {α : Type} {s t : State} (h : OnlyPorts s t) (f : State → α → State) (l : List α) (hf : ∀ u a, OnlyPorts u (f u a)) :
    OnlyPorts s (l.foldl f t) :=
  List.foldlRecOn (motive := OnlyPorts s) l f h fun u k a _ => k.trans (hf u a)

theorem OnlyPorts.ite {s t u : State} {c : Prop} [Decidable c] (h : OnlyPorts s t) (k : OnlyPorts s u) : OnlyPorts s (if c then t else u) := by
  split
  · exact h
  · exact k

theorem modClass_onlyPorts (s : State) (port c : Nat) (f : PortClass → PortClass) : OnlyPorts s (modClass s port c f) := rfl

theorem sendPause_onlyPorts (s : State) (port c q : Nat) : OnlyPorts s (sendPause s port c q) := rfl

theorem pauseRule_onlyPorts (s : State) (port c : Nat) : OnlyPorts s (pauseRule s port c) := by
  have sends : ∀ q (f : PortClass → PortClass), OnlyPorts s (modClass (sendPause s port c q) port c f) :=
    fun q f => (sendPause_onlyPorts s port c q).trans (modClass_onlyPorts _ port c f)
  have first (a b : Prop) [Decidable a] [Decidable b] (q q' : Nat) (f f' : PortClass → PortClass) : OnlyPorts s
      (if a then modClass (sendPause s port c q) port c f else if b then modClass (sendPause s port c q') port c f' else s) :=
    .ite (sends q f) (.ite (sends q' f') (.refl s))
  unfold pauseRule
  exact .ite ((first ..).trans (modClass_onlyPorts ..)) (first ..)

theorem endPauses_onlyPorts (s : State) (c : Nat) : OnlyPorts s (endPauses s c) := by
  refine (OnlyPorts.refl s).foldl _ _ fun u n => ?_
  dsimp only
  split <;> rfl

/-- The row of a TC_CONFIG_SET. -/
def classConf (e : Entry) : ClassConf :=
  { dscp := fld e 9 5 0, strict := bit e 10 0, pfc := bit e 10 1, weight := fld e 11 7 0, reserve := fld e 12 15 0
    xoff := fld e 14 15 0, xon := fld e 16 15 0, quanta := fld e 18 15 0 }

/-- Class `c` has the row `conf`, its pauses follow. -/
def tcApplied (s : State) (c : Nat) (conf : ClassConf) : State :=
  let u : State := { s with classes := s.classes.set c conf }
  (List.range 8).foldl (fun u n => pauseRule u n c) (if (confOf s c).pfc && !conf.pfc then endPauses u c else u)

theorem tcApplied_onlyPorts (s : State) (c : Nat) (conf : ClassConf) :
    OnlyPorts { s with classes := s.classes.set c conf } (tcApplied s c conf) :=
  OnlyPorts.foldl (.ite (endPauses_onlyPorts ..) (.refl _)) _ _ fun u n => pauseRule_onlyPorts u n c

/-! ### The health of a destination's paths -/

section
variable {s : State} {coord : Nat} {d : Dest} (hd : tget s.dests coord = some d)

/-- The paths that the configuration of `coord` names. -/
def configuredPaths (s : State) (coord : Nat) : List Nat := (List.range 256).filter (configured (pathConfOf s coord))

/-- The DOWN paths of `d` on ports that are UP begin to probe. -/
def probed (s : State) (coord : Nat) (d : Dest) : State :=
  (configuredPaths s coord).foldl (fun t p =>
    if (pathOf s d p).health == .down && onUpPort s p then modPath t coord p fun x => { x with health := .probing, probe := none } else t) s

include hd

theorem exhaustCheck_of_healthy (h : ∃ p ∈ configuredPaths s coord, (pathOf s d p).health = .healthy) :
    exhaustCheck s coord = if d.exhausted then modDest s coord fun x => { x with exhausted := false } else s := by
  unfold exhaustCheck
  simp only [hd]
  exact if_pos (by simpa [configuredPaths, and_assoc] using h)

theorem exhaustCheck_of_unhealthy (h : ∀ p ∈ configuredPaths s coord, (pathOf s d p).health ≠ .healthy) :
    exhaustCheck s coord = if d.exhausted then probed s coord d
      else post (modDest (probed s coord d) coord fun x => { x with exhausted := true }) 0x0032 (evData [(16, 3, coord)]) := by
  unfold exhaustCheck
  simp only [hd]
  exact if_neg (by simpa [configuredPaths] using h)

end

theorem gateEntriesLegal_iff {es : List (Nat × BitVec 8 × Nat)} :
    (es.all fun x => decide (8 ≤ x.1) && decide (x.1 ≤ 1000000000) && x.2.2 == 0) = true ↔ ∀ x ∈ es, 8 ≤ x.1 ∧ x.1 ≤ 1000000000 ∧ x.2.2 = 0 := by
  simp [and_assoc]

end Sys2Proof.Machine

namespace Sys2Proof.Proofs
open Sys2Proof.Machine

/-- Settles O34: the refusals in their order, then what each command sets; a destination by the health of its paths. -/
theorem pathsAndRates : Obligations.PathsAndRates := by
  unfold Obligations.PathsAndRates
  refine ⟨fun slot s c hs => ?_, fun s => rfl,
    fun s coord d hd => ⟨fun some quiet => ?_, fun some was => ?_, fun none was => ?_, fun none quiet => ?_⟩,
    fun slot s c => ⟨fun hs => ?_, fun hs => ⟨fun r bad => ?_, fun there query => ?_, fun there set => ?_⟩⟩,
    fun slot s cmd hs => ⟨fun beyond => ?_, fun fits => ?_⟩⟩
  · have planes : ∀ n, (match img s with | some i => i.planes | none => 0).getLsbD n = ((img s).elim 0 (·.planes)).getLsbD n := by
      intro n
      cases img s <;> rfl
    have known : ∀ {n}, ((img s).elim 0 (·.planes)).getLsbD n = true →
        (!bit c.entry 12 2 && !(match img s with | some i => i.planes | none => 0).getLsbD n) = false := fun {n} h => by
      rw [planes, h, Bool.not_true, Bool.and_false]
    refine ⟨fun own lacks => ?_, fun own has self => ?_, fun own has ne full => ?_, fun ok => ?_⟩
    · refine body_refused hs rfl (settle_of_some (x := (stAborted, 0x0901)) (firstRefusal_hit ?_)) (.refl s)
      exact Bool.and_eq_true_iff.2 ⟨congrArg not own, congrArg not ((planes _).trans lacks)⟩
    · refine body_refused hs rfl (settle_of_some (x := (stAborted, 0x0902)) ((firstRefusal_skip (known has)).trans (firstRefusal_hit ?_))) (.refl s)
      simp [own, self]
    · refine body_refused hs rfl (settle_of_some (x := (stAborted, 0x0903))
        ((firstRefusal_skip (known has)).trans ((firstRefusal_skip ?_).trans (firstRefusal_hit ?_)))) (.refl s)
      · simp [ne]
      · simp [own, full]
    · have fine : firstRefusal [
          (!bit c.entry 12 2 && !(match img s with | some i => i.planes | none => 0).getLsbD (planeOf (fld c.entry 8 23 0)), stAborted, 0x0901),
          (!bit c.entry 12 2 && fld c.entry 8 23 0 == ownCoord s, stAborted, 0x0902),
          (fld c.entry 12 1 0 == 0 && !bit c.entry 12 2 && (tget s.pathConf (fld c.entry 8 23 0)).isNone && decide (65536 ≤ s.pathConf.length),
            stAborted, 0x0903)] = none := by
        obtain dflt | ⟨has, ne, room⟩ := ok
        · simp [dflt]
        · refine (firstRefusal_skip (known has)).trans ((firstRefusal_skip (by simp [ne])).trans (firstRefusal_skip ?_))
          exact Bool.eq_false_iff.2 fun h => room (by simp_all)
      refine ⟨fun set dflt => ?_, fun set own => ?_, fun drop => ?_, fun query => ?_⟩
      · refine body_plain hs rfl ((settle_of_none fine).trans ?_) (pathsChanged_admSame _ (.keep (.refl s) ..))
        simp only [set, dflt]
      · refine body_plain hs rfl ((settle_of_none fine).trans ?_) (pathsChanged_admSame _ (.keep (.refl s) ..))
        simp only [set, own]
      · refine body_plain hs rfl ((settle_of_none fine).trans ?_) (pathsChanged_admSame _ (.keep (.refl s) ..))
        simp only [drop]
      · refine body_with hs rfl (g := pathsQuery s _ _) ((settle_of_none fine).trans ?_) (.refl s)
        obtain ⟨n, hn⟩ := Nat.exists_eq_add_of_le' query
        simp only [hn]
  · rw [exhaustCheck_of_healthy hd some, quiet]
    rfl
  · rw [exhaustCheck_of_healthy hd some, was]
    rfl
  · rw [exhaustCheck_of_unhealthy hd none, was]
    rfl
  · rw [exhaustCheck_of_unhealthy hd none, quiet]
    exact post_onlyReports ..
  · exact body_plain hs rfl rfl (.keep (.refl s) ..)
  · exact body_refused hs rfl (settle_of_some bad) (.refl s)
  · refine body_with hs rfl (g := fun e => putFld (putFld e 12 31 0 _) 16 12 0 _) ((settle_of_none there).trans (if_pos query)) (.refl s)
  · refine body_plain hs rfl ((settle_of_none there).trans (if_neg (Bool.eq_false_iff.1 set))) (paceClass_admSame _ _ _ (.keep (.refl s) ..))
  · exact body_refused hs rfl (settle_of_some (x := (stAborted, 0x0A01)) (firstRefusal_hit (decide_eq_true beyond))) (.refl s)
  · have same := tcApplied_onlyPorts s (fld cmd.entry 8 2 0) (classConf cmd.entry)
    refine ⟨body_plain hs rfl (t := tcApplied s (fld cmd.entry 8 2 0) (classConf cmd.entry)) ?_ (.trans (.keep (.refl s) ..) same.admSame),
      same.classes_eq, congrArg Adm.cmds same.adm_eq, same.qps_eq, same.limiters_eq, same.insts_eq, same.pool_eq⟩
    exact settle_of_none (firstRefusal_skip (decide_eq_false (Nat.not_lt.2 fits)))

/-- Settles O35: the waits and the refusals in their order, then the list, after the takeovers that are due. -/
theorem gateLists : Obligations.GateLists := by
  unfold Obligations.GateLists
  refine fun slot s c => ⟨fun hs => ⟨fun b waits => ?_, fun b front off => ?_, fun b front on unset => ?_, fun front on set => ?_,
      fun b front on set => ⟨fun bad => ?_, fun legal soon => ?_, fun legal ahead => ?_⟩⟩,
    fun hs => ⟨fun off => ?_, fun on => ?_⟩,
    fun hs => ⟨fun waits => ?_, fun front run => ⟨fun none => ?_, fun some => ?_⟩, fun front pend => ⟨fun none => ?_, fun some => ?_⟩⟩⟩
  · exact exec_of_canStart hs rfl (if_pos waits)
  · exact body_refused hs rfl ((if_neg (by simp [front])).trans (settle_of_some (x := (stAborted, rsUnitOut)) (by simp [off]))) (.refl s)
  · exact body_refused hs rfl ((if_neg (by simp [front])).trans (settle_of_some (x := (stAborted, 0x0A03)) (by simp [on, unset]))) (.refl s)
  · exact body_refused hs rfl ((if_neg (by simp [front])).trans (settle_of_none (by simp [on, set]))) (.refl s)
  · refine body_refused hs rfl ((if_neg (by simp [front])).trans ((settle_of_none (by simp [on, set])).trans (if_pos ?_))) (.refl s)
    exact congrArg not (Bool.eq_false_iff.2 (mt gateEntriesLegal_iff.1 bad))
  · refine body_refused hs rfl ((if_neg (by simp [front])).trans ((settle_of_none (by simp [on, set])).trans ((if_neg ?_).trans (if_pos soon)))) (.refl s)
    simp [gateEntriesLegal_iff.2 legal]
  · refine body_with hs rfl (g := fun e => putFld e 32 63 0 _) ((if_neg (by simp [front])).trans ((settle_of_none (by simp [on, set])).trans
      ((if_neg ?_).trans (if_neg (Nat.not_lt.2 ahead))))) (modPort_admSame _ _ _ (gateTakeoversDue_admSame _ (.refl s)))
    simp [gateEntriesLegal_iff.2 legal]
  · exact body_refused hs rfl (settle_of_some (x := (stAborted, rsUnitOut)) (by simp [off])) (.refl s)
  · exact body_with hs rfl (settle_of_none (by simp [on])) (gateTakeoversDue_admSame _ (.refl s))
  · exact exec_of_canStart hs rfl (if_pos waits)
  · exact body_refused hs rfl ((if_neg (by simp [front])).trans (settle_of_some (x := (stAborted, 0x0A04)) (by simp [run, none])))
      (gateTakeoversDue_admSame _ (.refl s))
  · refine body_plain hs rfl ((if_neg (by simp [front])).trans ((settle_of_none (by simp [run, some])).trans ?_))
      (modPort_admSame _ _ _ (gateTakeoversDue_admSame _ (.refl s)))
    simp only [run]
    rfl
  · exact body_refused hs rfl ((if_neg (by simp [front])).trans (settle_of_some (x := (stAborted, 0x0A04)) (by simp [pend, none])))
      (gateTakeoversDue_admSame _ (.refl s))
  · refine body_plain hs rfl ((if_neg (by simp [front])).trans ((settle_of_none (by simp [pend, some])).trans ?_))
      (modPort_admSame _ _ _ (gateTakeoversDue_admSame _ (.refl s)))
    simp only [pend]
    rfl

end Sys2Proof.Proofs
end

section
/-!
The timers of the way out; loss and repair (O37).
-/

namespace Sys2Proof.Machine

/-! ### The packet that a queue pair has on its way -/

theorem txOf_eq {s : State} {qpn : Nat} {q : Qp} (hq : tget s.qps qpn = some q) (id : Nat) :
    txOf s qpn id = q.tx.find? fun t => t.id == id := by
  simp only [txOf, hq]

theorem tget_qps_modQp {s : State} {qpn : Nat} {q : Qp} (hq : tget s.qps qpn = some q) (f : Qp → Qp) :
    tget (modQp s qpn f).qps qpn = some (f q) :=
  (tget_tmod ..).trans (congrArg (Option.map f) hq)

/-- The first packet of an id is still the first after a change that keeps ids. -/
theorem find?_map_of_id {l : List TxPkt} {id : Nat} {t : TxPkt} {f : TxPkt → TxPkt} (h : l.find? (fun t => t.id == id) = some t)
    (keeps : (f t).id = t.id) : (l.map fun x => if x.id = id then f x else x).find? (fun t => t.id == id) = some (f t) := by
  induction l with
  | nil => exact absurd h (by simp)
  | cons x xs ih =>
    by_cases hx : x.id = id
    · obtain rfl : x = t := by simpa [hx] using h
      simp [hx, keeps]
    · rw [List.map_cons, if_neg hx, List.find?_cons_of_neg (by simpa using hx)]
      exact ih (by simpa [hx] using h)

theorem txOf_modTx {s : State} {qpn id : Nat} {t : TxPkt} {f : TxPkt → TxPkt} (ht : txOf s qpn id = some t) (keeps : (f t).id = t.id) :
    txOf (modTx s qpn id f) qpn id = some (f t) := by
  cases hq : tget s.qps qpn with
  | none => exact absurd ht (by simp [txOf, hq])
  | some q =>
    rw [txOf_eq hq] at ht
    exact (txOf_eq (tget_qps_modQp hq _) id).trans (find?_map_of_id ht keeps)

theorem txOf_congr {s t : State} (h : t.qps = s.qps) (qpn id : Nat) : txOf t qpn id = txOf s qpn id := by
  unfold txOf
  rw [h]

/-! ### Loss -/

theorem uncharge_qps (s : State) (coord charge : Nat) : (uncharge s coord charge).qps = s.qps := by
  unfold uncharge
  split <;> rfl

theorem modPath_qps (s : State) (coord p : Nat) (f : Path → Path) : (modPath s coord p f).qps = s.qps := by
  unfold modPath
  split <;> rfl

/-- A packet that is lost and may be repeated. -/
def repeated (s : State) (coord : Nat) (x : TxPkt) : TxPkt :=
  { x with
    charge := 0, stage := if x.lost then x.stage else .paced, repeats := x.repeats + 1, lost := true, again := false
    deadline := some (s.now + rtoNs s ((tget s.dests coord).getD (newDest s coord)) (x.repeats + 1))
    lossPaths := if x.lost then x.lossPaths else x.lossPaths ++ [x.path]
    probe := false, pkt := { x.pkt with retx := true, ackReq := true } }

theorem txOf_loseOne {s : State} {qpn id : Nat} {q : Qp} {t : TxPkt} (hq : tget s.qps qpn = some q) (ht : txOf s qpn id = some t)
    (more : t.repeats < s.cong.maxRepeats) : txOf (loseOne s qpn id) qpn id = some (repeated s q.remoteCoord t) := by
  unfold loseOne
  simp only [hq, ht]
  rw [if_neg (Nat.not_le.2 more)]
  refine txOf_modTx (t := t) ((txOf_congr ?_ qpn id).trans ht) rfl
  split
  · exact (modPath_qps ..).trans (uncharge_qps ..)
  · exact uncharge_qps ..

/-! ### A READ_REQ that is handed on again -/

/-- The packet that carries a READ's request now. -/
def requestOut (q : Qp) (p : Pkt) : Option TxPkt := q.tx.find? fun t => t.numbered && t.pkt.psn == p.psn

/-- The request of a READ is not yet to be repeated. -/
def readReqWaits (s : State) (q : Qp) (w : SqWork) (p : Pkt) : Bool :=
  !serving s || !qpActive q || (requestOut q p).any (fun t => t.stage != .queued && t.stage != .wire) ||
    !(match w.due with | some e => decide (e ≤ s.now) | none => false) || placedBytes w == w.length

theorem readReqWaits_eq_false {s : State} {q : Qp} {w : SqWork} {p : Pkt} : readReqWaits s q w p = false ↔
    serving s = true ∧ qpActive q = true ∧ (¬∃ t, requestOut q p = some t ∧ t.stage ≠ .queued ∧ t.stage ≠ .wire) ∧
      (∃ a, w.due = some a ∧ a ≤ s.now) ∧ placedBytes w ≠ w.length := by
  unfold readReqWaits
  cases requestOut q p <;> cases w.due <;> simp [and_assoc]

/-- The owner of a READ's request. -/
def readOwner (slot : Nat) (w : SqWork) : TxOwner := match w.tpe with | some (c, sl, m) => .tpe c sl m | none => .sq slot

theorem exec_readReqTimeout {s : State} {qpn slot : Nat} {q : Qp} {w : SqWork} {p : Pkt} (hq : tget s.qps qpn = some q)
    (hw : (q.work.find? fun w => w.slot == slot && w.op == 3 && !w.decided) = some w) (hp : w.req = some p) :
    exec (.readReqTimeout qpn slot) s =
      if readReqWaits s q w p then .next s
      else .next (if s.cong.maxRepeats ≤ ((requestOut q p).map (·.repeats)).getD w.repeats then
        ownerFails s qpn (readOwner slot w) (exhaustedStatus s q (readOwner slot w) w.failMark) 0 else repeatReq s qpn q w p) := by
  simp only [exec, execReadReqTimeout, hq, hw, Option.bind_some, hp, Option.map_some]
  rfl

theorem mem_insTx {x y : TxPkt} {l : List TxPkt} : y ∈ insTx x l ↔ y = x ∨ y ∈ l := by
  induction l with
  | nil => simp [insTx]
  | cons z zs ih =>
    unfold insTx
    split
    · simp [ih, or_left_comm]
    · simp

end Sys2Proof.Machine

namespace Sys2Proof.Proofs
open Sys2Proof.Machine

/-- Settles O37: each timer by its moment; a lost packet by its repeats; a READ_REQ where it stands or anew. -/
theorem sendingTimers : Obligations.SendingTimers := by
  unfold Obligations.SendingTimers
  refine ⟨fun coord saId tc s => ⟨fun t ht => ⟨fun on due => ?_, fun h => ?_⟩, fun none => ?_⟩,
    fun inst tc s => ⟨fun e n id hl => ⟨fun on due => ?_, fun h => ?_⟩, fun none => ?_⟩,
    fun qpn s => ⟨fun q a psn hq hr => ⟨fun on due thawed => ?_, fun h => ?_⟩, fun none => ?_⟩,
    fun coord path s => ⟨fun d hd => ⟨fun ended => ?_, fun not => ?_⟩, fun none => ?_⟩,
    fun qpn id s => ⟨fun q t a hq ht hd => ⟨fun due => ?_, fun not => ?_⟩, fun t ht none => ?_, fun none => ?_⟩,
    fun s coord d hd => ?_, fun qpn id s q t hq ht more => ⟨_, txOf_loseOne hq ht more, rfl, rfl, rfl, rfl, rfl, rfl, rfl, rfl, rfl⟩,
    fun qpn slot s => ⟨fun q w p hq hw hp => ⟨fun due more => ?_, fun due last => ?_, fun not => ?_⟩, fun none => ?_⟩,
    fun qpn s q w p => ⟨fun t ht => ?_, fun none => ?_⟩, fun qpn s q w p f hq keeps => ?_⟩
  · simp only [exec, execTrainCloseTimer, ht, on, due]
    obtain ⟨⟨hc, hs⟩, htc⟩ : (t.coord = coord ∧ t.saId = saId) ∧ t.tc = tc := by simpa using List.find?_some ht
    subst hc hs htc
    rfl
  · simp only [exec, execTrainCloseTimer, ht]
    exact congrArg _ (if_neg (by obtain h | h := h <;> simp [h]))
  · simp only [exec, execTrainCloseTimer, none]
  · simp only [exec, execWheelSlot, hl, on, due]
    rfl
  · simp only [exec, execWheelSlot, hl]
    exact if_neg (by obtain h | h := h <;> simp [h])
  · simp only [exec, execWheelSlot, none]
  · simp [exec, execResendWaitExpire, hq, hr, on, due, thawed]
  · simp only [exec, execResendWaitExpire, hq, hr]
    exact congrArg _ (if_neg (by obtain h | h | h := h <;> simp [h]))
  · simp only [exec, execResendWaitExpire]
    cases hq : tget s.qps qpn with
    | none => rfl
    | some q => simp [none q hq]
  · obtain ⟨run, down, due⟩ := ended
    simp only [exec, execPathHoldExpire, hd, run, down, due]
    rfl
  · simp only [exec, execPathHoldExpire, hd]
    exact congrArg _ (if_neg fun h => not (by simpa [and_assoc] using h))
  · simp only [exec, execPathHoldExpire, none]
  · obtain ⟨on, up, thawed, waits, due⟩ := due
    simp only [exec, execRetransmitTimeout, hq, ht, hd]
    refine congrArg _ (if_pos ?_)
    simpa [on, up, thawed, due, and_assoc] using waits
  · simp only [exec, execRetransmitTimeout, hq, ht, hd]
    refine congrArg _ (if_neg fun due => not ?_)
    obtain ⟨⟨⟨on, up⟩, due, waits⟩, thawed⟩ : ((serving s = true ∧ s.pm.state ≠ 2) ∧ a ≤ s.now ∧ _) ∧ q.state ≠ .frozen := by simpa using due
    exact ⟨on, up, thawed, by simpa [and_assoc] using waits, due⟩
  · simp only [exec, execRetransmitTimeout, ht]
    cases tget s.qps qpn with
    | none => rfl
    | some q => simp [none]
  · simp only [exec, execRetransmitTimeout, none]
    cases tget s.qps qpn <;> rfl
  · dsimp only
    simp only [expiryCut, modDest, tget_tmod, hd]
    rfl
  · rw [exec_readReqTimeout hq hw hp, if_neg (Bool.eq_false_iff.1 (readReqWaits_eq_false.2 due))]
    exact congrArg _ (if_neg (Nat.not_le.2 more))
  · rw [exec_readReqTimeout hq hw hp, if_neg (Bool.eq_false_iff.1 (readReqWaits_eq_false.2 due))]
    exact congrArg _ (if_pos last)
  · rw [exec_readReqTimeout hq hw hp]
    exact if_pos (Bool.not_eq_false _ ▸ mt readReqWaits_eq_false.1 not)
  · simp only [exec, execReadReqTimeout, none]
  · simp only [repeatReq, ht]
  · simp only [repeatReq, none]
  · refine ⟨_, f _, tget_qps_modQp hq _, mem_insTx.2 (.inl rfl), keeps _, fun y hy => mem_insTx.2 (.inr hy)⟩

end Sys2Proof.Proofs
end

section
/-!
Pacing, sending datagrams and starting frames (O38).
-/

namespace Sys2Proof.Machine

/-! ### What the deficit of a class does not change -/

theorem getD_lmod {α β : Type} (l : List α) (i j : Nat) (f : α → α) (d : α) (g : α → β) (hg : ∀ a, g (f a) = g a) :
    g ((lmod l i f).getD j d) = g (l.getD j d) := by
  rw [List.getD_eq_getElem?_getD, List.getD_eq_getElem?_getD]
  by_cases h : j = i
  · rw [h, getElem?_lmod_same]
    cases l[i]? with
    | none => rfl
    | some a => exact hg a
  · rw [getElem?_lmod_of_ne l f h]

/-- `t` is `s` but for what the deficits and the round of a port's classes hold. -/
structure SameRound (s t : State) : Prop where
  conf : ∀ c, confOf t c = confOf s c
  ready : ∀ n c, classReady t n c = classReady s n c

theorem SameRound.refl (s : State) : SameRound s s := ⟨fun _ => rfl, fun _ _ => rfl⟩

theorem SameRound.trans {s t u : State} (h : SameRound s t) (k : SameRound t u) : SameRound s u :=
  ⟨fun c => (k.conf c).trans (h.conf c), fun n c => (k.ready n c).trans (h.ready n c)⟩

theorem gateFits_congr (s : State) {p q : Port} (running : q.running = p.running) (pend : q.pendList = p.pendList)
    (disagree : q.disagree = p.disagree) (c a b : Nat) : gateFits s q c a b = gateFits s p c a b := by
  unfold gateFits gatesOpen gateApplied
  rw [running, pend, disagree]

theorem paused_congr {s t : State} {n c : Nat} (till : (classOf t n c).pausedTill = (classOf s n c).pausedTill) (now : t.now = s.now) :
    paused t n c = paused s n c := by
  unfold paused
  rw [till, now]

/-- A change of ports that keeps each class's queue and pause, and each port's lists, keeps what may start. -/
theorem sameRound_ports (s : State) (ports : List Port)
    (queue : ∀ n c, (classOf { s with ports := ports } n c).queue = (classOf s n c).queue)
    (till : ∀ n c, (classOf { s with ports := ports } n c).pausedTill = (classOf s n c).pausedTill)
    (running : ∀ n, (portOf { s with ports := ports } n).running = (portOf s n).running)
    (pend : ∀ n, (portOf { s with ports := ports } n).pendList = (portOf s n).pendList)
    (disagree : ∀ n, (portOf { s with ports := ports } n).disagree = (portOf s n).disagree) : SameRound s { s with ports := ports } := by
  refine ⟨fun _ => rfl, fun n c => ?_⟩
  unfold classReady
  rw [queue, paused_congr (till n c) rfl]
  cases (classOf s n c).queue with
  | nil => rfl
  | cons f fs =>
    have fits := gateFits_congr s (running n) (pend n) (disagree n) c s.time.dev.toNat (s.time.dev.toNat + wireNs s n (wireLen f.bytes + 8))
    exact congrArg (fun b => if !paused s n c && b then some f else none) fits

theorem modClass_sameRound (s : State) (n c : Nat) (f : PortClass → PortClass) (queue : ∀ k, (f k).queue = k.queue)
    (till : ∀ k, (f k).pausedTill = k.pausedTill) : SameRound s (modClass s n c f) := by
  have kept {β : Type} (g : PortClass → β) (hg : ∀ k, g (f k) = g k) (m d : Nat) : g (classOf (modClass s n c f) m d) = g (classOf s m d) :=
    getD_lmod s.ports n m (fun p => { p with classes := lmod p.classes c f }) Port.reset (fun p => g (p.classes.getD d PortClass.reset))
      fun p => getD_lmod p.classes c d f PortClass.reset g hg
  have port {β : Type} (g : Port → β) (hg : ∀ p : Port, g { p with classes := lmod p.classes c f } = g p) (m : Nat) :
      g (portOf (modClass s n c f) m) = g (portOf s m) := getD_lmod s.ports n m _ Port.reset g hg
  exact sameRound_ports s _ (kept (·.queue) queue) (kept (·.pausedTill) till) (port (·.running) fun _ => rfl) (port (·.pendList) fun _ => rfl)
    (port (·.disagree) fun _ => rfl)

theorem earn_sameRound (s : State) (n c : Nat) : SameRound s (drr.earn s n c) := by
  unfold drr.earn
  split
  · exact modClass_sameRound s n c _ (fun _ => rfl) fun _ => rfl
  · split
    · exact modClass_sameRound s n c _ (fun _ => rfl) fun _ => rfl
    · exact .refl s

/-- The round serves a class that is not strict and has a frame that may start. -/
theorem drr_spec {fuel : Nat} {s u : State} {n c d : Nat} (h : drr fuel s n c = some (d, u)) :
    (confOf s d).strict = false ∧ (classReady s n d).isSome = true := by
  induction fuel generalizing s c with
  | zero => exact absurd h (by simp [drr])
  | succ fuel ih =>
    have later (h : drr fuel (drr.earn s n ((c + 1) % 8)) n ((c + 1) % 8) = some (d, u)) :
        (confOf s d).strict = false ∧ (classReady s n d).isSome = true := by
      have same := earn_sameRound s n ((c + 1) % 8)
      rw [← same.conf, ← same.ready]
      exact ih h
    unfold drr at h
    dsimp only at h
    split at h
    case h_2 => exact later h
    case h_1 f hf =>
      split at h
      · obtain ⟨rfl, -⟩ : c = d ∧ _ := by simpa using h
        cases strict : (confOf s c).strict with
        | true => simp [strict] at hf
        | false => exact ⟨rfl, by simpa [strict] using congrArg Option.isSome hf⟩
      · exact later h

/-! ### Arbitration -/

/-- The first of a falling list that passes has no greater one that passes. -/
theorem find?_of_falling {l : List Nat} {p : Nat → Bool} {c d : Nat} (falling : l.Pairwise (· > ·)) (h : l.find? p = some c) (hd : d ∈ l)
    (lt : c < d) : p d = false := by
  induction l with
  | nil => exact absurd hd List.not_mem_nil
  | cons x xs ih =>
    obtain ⟨first, rest⟩ := List.pairwise_cons.1 falling
    by_cases hx : p x = true
    · obtain rfl : x = c := by simpa [hx] using h
      obtain rfl | hd := List.mem_cons.1 hd
      · exact absurd lt (Nat.lt_irrefl d)
      · exact absurd lt (Nat.lt_asymm (first d hd))
    · obtain rfl | hd := List.mem_cons.1 hd
      · simpa using hx
      · exact ih rest (by simpa [hx] using h) hd

theorem arbitrate_spec {s u : State} {port c : Nat} (h : arbitrate s port = some (c, u)) : (classReady s port c).isSome = true ∧
    ∀ d, c < d → d < 8 → (confOf s d).strict = true → (confOf s c).strict = true → classReady s port d = none := by
  unfold arbitrate at h
  split at h
  case h_1 e he =>
    obtain ⟨rfl, -⟩ : e = c ∧ _ := by simpa using h
    obtain ⟨-, ready⟩ : (confOf s e).strict = true ∧ (classReady s port e).isSome = true := by simpa using List.find?_some he
    refine ⟨ready, fun d lt lt8 strict _ => ?_⟩
    have mem : d ∈ [7, 6, 5, 4, 3, 2, 1, 0] := by
      simp only [List.mem_cons, List.not_mem_nil, or_false]
      omega
    have none := find?_of_falling (by decide) he mem lt
    simpa [strict] using none
  case h_2 =>
    split at h
    · obtain ⟨strict, ready⟩ := drr_spec h
      exact ⟨ready, fun d _ _ _ is => absurd is (Bool.eq_false_iff.1 strict)⟩
    · exact absurd h (by simp)

theorem portBarred_eq_false {s : State} {port : Nat} :
    (!serving s || (portOf s port).state != .up || decide (s.now < (portOf s port).busyTill)) = false ↔
      serving s = true ∧ (portOf s port).state = .up ∧ (portOf s port).busyTill ≤ s.now := by
  simp [and_assoc]

theorem txOf_modQp_of_tx {s : State} {qpn id : Nat} {f : Qp → Qp} (h : ∀ q, (f q).tx = q.tx) :
    txOf (modQp s qpn f) qpn id = txOf s qpn id := by
  cases hq : tget s.qps qpn with
  | none => simp [txOf, modQp, tget_tmod, hq]
  | some q => rw [txOf_eq (tget_qps_modQp hq f), txOf_eq hq, h]

/-! ### Sealing -/

theorem post_saOf (s : State) (code : BitVec 16) (data : BitVec 96) (id : Nat) : saOf (post s code data) id = saOf s id :=
  (post_onlyReports s code data).eq_of (saOf · id) fun _ => rfl

theorem saOf_modSa {s : State} {id : Nat} {a : Sa} (ha : saOf s id = some a) (f : Sa → Sa) : saOf (modSa s id f) id = some (f a) :=
  (tget_tmod s.cipher.sas id f).trans (congrArg (Option.map f) ha)

theorem saOf_drawSeal {s : State} {id : Nat} {a : Sa} (ha : saOf s id = some a) : saOf (drawSeal s id a) id =
    some { a with sealSeq := a.sealSeq + 1, exhausted := a.exhausted || a.sealSeq + 1 == a.limit } := by
  have drawn : saOf (modSa s id fun x => { x with sealSeq := a.sealSeq + 1, exhausted := a.exhausted || a.sealSeq + 1 == a.limit }) id =
      some { a with sealSeq := a.sealSeq + 1, exhausted := a.exhausted || a.sealSeq + 1 == a.limit } := saOf_modSa ha _
  unfold drawSeal
  dsimp only
  split <;> split <;> simp only [post_saOf, drawn]

/-! ### Sending data -/

theorem sendData_of_empty {s : State} {d : TxDgram} (bad : Nat) (none : dgramPkts s d.body = []) :
    sendData s d bad = { s with txq := s.txq.filter fun x => !(x.id == d.id) } := by
  simp only [sendData, none]

/-- Sends the packets `now` of a Kite datagram on path `p`. -/
def sendKite (s u : State) (d : TxDgram) (a : Sa) (bad p : Nat) (probe : Bool) (now : List (Nat × TxPkt)) : State :=
  let r := sealUnder u d.saId a 2 0 (partsOf (now.map fun c => c.2.pkt)) bad
  match r.2 with
  | .spent => r.1
  | .failed => sealFailed (keepRest r.1 d (now.map fun c => c.2.id)) now
  | .ok bs =>
    let f := takeFresh r.1
    let s2 := now.foldl (noteSent d.coord p f.1 probe) f.2
    let s3 := if probe then modPath s2 d.coord p fun x => { x with probe := (now.head?).map fun c => c.2.id }
      else modDest s2 d.coord fun x => { x with rot := p }
    keepRest (queueFrame s3 (d.src.getD (ownCoord s)) d.coord d.tc p true bs (now.map fun c => (c.1, c.2.id))) d (now.map fun c => c.2.id)

theorem sendData_of_kite {s v : State} {d : TxDgram} {a : Sa} {de : Dest} {n id bad : Nat} (body : d.body = .kite n id)
    (some : dgramPkts s d.body ≠ []) (hv : ensureDest s d.coord = .some v) (ha : saOf s d.saId = .some a)
    (hde : tget (exhaustCheck v d.coord).dests d.coord = .some de) : sendData s d bad =
      let u := exhaustCheck v d.coord
      let ok := sendable u de (dgramPkts s d.body) 0 [] []
      if ok.isEmpty || sealSpent a then u
      else match choosePath u d.coord d.tc (64 + (ok.map fun c => c.2.pkt.payload.length).sum)
          ((ok.filter (·.2.lost)).map fun c => c.2.used).flatten with
        | none => u
        | .some (p, probe) => sendKite s u d a bad p probe ((if probe then ok.take 1 else ok).map fun c =>
            (c.1, if probe then { c.2 with pkt := { c.2.pkt with ackReq := true } } else c.2)) := by
  obtain ⟨c, cs, hcs⟩ := List.exists_cons_of_ne_nil some
  rw [body] at hcs
  simp only [sendData, body, hcs, hv, ha, hde]
  rfl

theorem exec_datagramSend_of_data {id bad : Nat} {s : State} {d : TxDgram} (hd : s.txq.find? (fun d => d.id == id) = some d)
    (on : serving s = true) (up : s.pm.state ≠ 2) (there : saOf s d.saId ≠ none) (data : ∀ qpn dst b, d.body ≠ .control qpn dst b) :
    exec (.datagramSend id bad) s = .next (sendData s d bad) := by
  have some : (saOf s d.saId).isNone = false := Option.isNone_eq_false_iff.2 (Option.isSome_iff_ne_none.2 there)
  simp only [exec, execDatagramSend, hd, on, some]
  rw [if_neg (by simpa using up), if_neg Bool.false_ne_true]

end Sys2Proof.Machine

namespace Sys2Proof.Proofs
open Sys2Proof.Machine

/-- Settles O38: a paced packet by its limiter; a datagram by what it has to send and may; a port by what it has to start. -/
theorem transmission : Obligations.Transmission := by
  unfold Obligations.Transmission
  refine ⟨fun s inst tc n id fuel t rest idle hn ht hid => ⟨fun paced => ?_, fun free => ?_⟩,
    fun id bad s => ⟨fun h => ?_, fun d hd on up => ⟨fun gone => ?_, fun qpn dst b there ctl => ?_, fun there data => ⟨fun none => ?_, fun some => ?_⟩⟩⟩,
    fun s v d a de n id bad body some hv ha hde => ⟨fun waits => ?_, fun p bs x fits fresh path sealed => ?_⟩,
    fun s v d a qpn dst bad b hv ha => ⟨fun waits => ?_, fun p bs x fresh path own sealed => ?_⟩,
    fun s saId kind cells a parts ha => ⟨rfl, _, saOf_drawSeal ha, rfl, rfl, rfl, fun last => ?_⟩,
    fun port s => ⟨fun not => ?_, fun f rest may ctl => ?_, fun may ctl h => ?_, fun c t f rest may ctl up turn queue => ?_, fun c u => arbitrate_spec⟩,
    fun s qpn id q t hq ht stage => ?_⟩
  · simp only [serveLimiter, idle, hn, ht, hid, if_neg (Nat.ne_of_gt paced)]
    rfl
  · simp only [serveLimiter, idle, hn, ht, hid, if_pos free]
    rfl
  · simp only [exec, execDatagramSend]
    cases hd : s.txq.find? fun d => d.id == id with
    | none => rfl
    | some d => exact if_pos (by obtain h | h | h := h <;> simp_all)
  · simp [exec, execDatagramSend, hd, on, up, gone]
  · simp [exec, execDatagramSend, hd, on, up, ctl, Option.isNone_eq_false_iff.2 (Option.isSome_iff_ne_none.2 there)]
  · have same : d.id = id := by simpa using List.find?_some hd
    rw [exec_datagramSend_of_data hd on up there data, sendData_of_empty bad none, same]
  · exact exec_datagramSend_of_data hd on up there data
  · rw [sendData_of_kite body some hv ha hde]
    dsimp only
    split
    · rfl
    · next go =>
      obtain none | spent | path := waits
      · exact absurd (by simp [none]) go
      · exact absurd (by simp [spent]) go
      · rw [path]
  · rw [sendData_of_kite body some hv ha hde]
    dsimp only
    rw [if_neg (by simp [fits, fresh]), path]
    simp only [Bool.false_eq_true, if_false, List.map_id', Prod.mk.eta]
    simp only [sendKite, sealed]
    rfl
  · simp only [sendCtl, hv, ha]
    split
    · rfl
    · next go => rw [waits.resolve_left go]
  · simp only [sendCtl, hv, ha]
    rw [if_neg (Bool.eq_false_iff.1 fresh), path]
    simp only [own, beq_self_eq_true, if_true]
    rw [sealed]
  · simp [last]
  · simp only [exec, execFrameTransmitStart]
    exact if_pos (Bool.not_eq_false _ ▸ mt portBarred_eq_false.1 not)
  · simp only [exec, execFrameTransmitStart, portBarred_eq_false.2 may, ctl]
    rfl
  · simp only [exec, execFrameTransmitStart, portBarred_eq_false.2 may, ctl]
    rw [if_neg Bool.false_ne_true]
    split
    · rfl
    · next up => rw [h.resolve_left up]
  · simp only [exec, execFrameTransmitStart, portBarred_eq_false.2 may, ctl]
    rw [if_neg Bool.false_ne_true, if_neg up, turn]
    simp only [queue]
  · unfold startTimer
    simp only [hq, ht]
    rw [if_pos (by simpa using stage)]
    split
    · refine (txOf_modQp_of_tx ?_).trans ?_
      · exact fun _ => rfl
      · exact txOf_modTx ht rfl
    · exact txOf_modTx ht rfl

end Sys2Proof.Proofs
end

section
/-!
Rings: doorbells and slot reads (O39).
-/

namespace Sys2Proof.Machine

/-! ### A ring that is written -/

theorem tmod_tmod {α : Type} (t : Tab α) (k : Nat) (f g : α → α) : tmod (tmod t k f) k g = tmod t k fun a => g (f a) := by
  simp only [tmod, List.map_map]
  refine List.map_congr_left fun r _ => ?_
  dsimp only [Function.comp]
  split <;> simp_all

section
variable (s : State) (k : RingKind) (id : Nat) (r : Ring)

theorem getRing_setRing {s : State} {k : RingKind} {id : Nat} {r0 : Ring} (h : getRing s k id = some r0) (r : Ring) :
    getRing (setRing s k id r) k id = some r := by
  cases k <;> simp only [getRing, setRing, tget_tmod, Option.map_map] at h ⊢ <;>
    (obtain ⟨x, hx, -⟩ := Option.map_eq_some_iff.1 h; rw [hx]; rfl)

@[simp] theorem setRing_setRing (r' : Ring) : setRing (setRing s k id r) k id r' = setRing s k id r' := by
  cases k <;> simp only [setRing, tmod_tmod]

/-- A ring's instance keeps all but, for a lookaside queue, the ring itself. -/
theorem tget_insts_setRing (i : Nat) :
    tget (setRing s k id r).insts i = (tget s.insts i).map fun x => if k = .lookaside ∧ i = id then { x with la := r } else x := by
  cases k
  case lookaside =>
    by_cases h : i = id
    · simp [setRing, h, tget_tmod]
    · simp [setRing, h, tget_tmod_of_ne]
  all_goals simp [setRing]

@[simp] theorem ringInst_setRing : ringInst (setRing s k id r) k id = ringInst s k id := by
  cases k
  case sq => cases h : tget s.qps id <;> simp [ringInst, setRing, tget_tmod, h]
  case rq => cases h : tget s.qps id <;> simp [ringInst, setRing, tget_tmod, h]
  case tpe => cases h : tget s.ctxs id <;> simp [ringInst, setRing, tget_tmod, h]
  case lookaside => rfl

@[simp] theorem instFrozen_setRing (i : Nat) : instFrozen (setRing s k id r) i = instFrozen s i := by
  unfold instFrozen
  rw [tget_insts_setRing]
  cases tget s.insts i with
  | none => rfl
  | some x => by_cases h : k = .lookaside ∧ i = id <;> simp [h]

@[simp] theorem locTarget_setRing (i loc : Nat) : locTarget (setRing s k id r) i loc = locTarget s i loc := by
  unfold locTarget
  rw [tget_insts_setRing]
  cases tget s.insts i with
  | none => rfl
  | some x => by_cases h : k = .lookaside ∧ i = id <;> simp [h, instTarget]

@[simp] theorem locMuted_setRing (i loc : Nat) : locMuted (setRing s k id r) i loc = locMuted s i loc := by
  unfold locMuted
  rw [tget_insts_setRing]
  cases tget s.insts i with
  | none => rfl
  | some x => by_cases h : k = .lookaside ∧ i = id <;> simp [h]

@[simp] theorem serving_setRing : serving (setRing s k id r) = serving s := by cases k <;> rfl

@[simp] theorem locUp_setRing (loc : Nat) : locUp (setRing s k id r) loc = locUp s loc := by cases k <;> rfl

end

/-! ### Reading a ring -/

/-- The ring may read the slot at HEAD, once a run of reads is open and none is outstanding. -/
def MayRead (s : State) (inst : Nat) (r : Ring) : Prop :=
  serving s = true ∧ s.pm.state ≠ 2 ∧ (cached r).length < 16 ∧ r.taken.length < 2 ^ r.log2 ∧ r.taken.any (fun t => t.slot == r.head) = false ∧
    instFrozen s inst = false ∧ locUp s r.loc = true

section
variable {s : State} {k : RingKind} {id : Nat} {r : Ring} (hr : getRing s k id = some r)
include hr

theorem fetchRing_of_reads (enabled : r.state = .enabled) (run : r.run = true) (idle : r.reading = none) (free : MayRead s (ringInst s k id) r) :
    fetchRing s k id = emit (setRing s k id { r with reading := some r.head })
      (.slotRead (locTarget s (ringInst s k id) r.loc) (r.base.toNat + 64 * r.head)) := by
  obtain ⟨on, up, cache, room, unread, thawed, link⟩ := free
  simp only [fetchRing, hr]
  exact if_pos (by simp [on, up, enabled, run, idle, cache, Ring.size, room, unread, thawed, link])

theorem fetchRing_of_reading (reading : r.reading ≠ none) : fetchRing s k id = s := by
  simp only [fetchRing, hr]
  exact if_neg (by simp [reading])

theorem fetchRing_of_full (full : ¬MayRead s (ringInst s k id) r) : fetchRing s k id = s := by
  simp only [fetchRing, hr]
  refine if_neg fun h => full ?_
  simp only [Bool.and_eq_true, bne_iff_ne, beq_iff_eq, decide_eq_true_eq, Bool.not_eq_true'] at h
  obtain ⟨⟨⟨⟨⟨⟨⟨⟨⟨on, up⟩, -⟩, -⟩, -⟩, cache⟩, room⟩, unread⟩, thawed⟩, link⟩ := h
  exact ⟨on, up, cache, room, unread, thawed, link⟩

/-- An ENABLED ring on which a doorbell rang. -/
def rung (r : Ring) : Ring := { r with run := true, doorbell := r.reading.isSome }

theorem ringDoorbell_of_enabled (enabled : r.state = .enabled) : ringDoorbell s k id = fetchRing (setRing s k id (rung r)) k id := by
  simp only [ringDoorbell, hr, enabled, rung]

end

/-- A ring whose next write of its memory cannot be issued intact, or the ring itself. -/
def struckUnless (intact : Bool) (r : Ring) : Ring := if intact then r else { r with strike := true }

section
variable (intact : Bool) (r : Ring)

@[simp] theorem struckUnless_reading : (struckUnless intact r).reading = r.reading := by cases intact <;> rfl
@[simp] theorem struckUnless_loc : (struckUnless intact r).loc = r.loc := by cases intact <;> rfl
@[simp] theorem struckUnless_state : (struckUnless intact r).state = r.state := by cases intact <;> rfl
@[simp] theorem struckUnless_recallAt : (struckUnless intact r).recallAt = r.recallAt := by cases intact <;> rfl

end

/-- Where the read of slot `h` completes: a freeze overtook it, a Recall waits for it, or it is that of HEAD. -/
def slotRead (s u : State) (k : RingKind) (id : Nat) (v : Ring) (h : Nat) (x : SlotRead) : State :=
  if instFrozen s (ringInst s k id) then setRing u k id { v with reading := none }
  else match v.recallAt, v.state with
    | some (i, n), .recalling => tpeSettle (recallRead u k id v h i n x)
    | none, .enabled => tpeSettle (headRead u k id v h x)
    | _, _ => u

theorem exec_ringSlotRead {s : State} {k : RingKind} {id : Nat} {r : Ring} {x : SlotRead} {intact : Bool} {h : Nat}
    (hr : getRing s k id = some r) (reading : r.reading = some h) (on : live s = true) (link : locUp s r.loc = true) :
    exec (.ringSlotRead k id x intact) s =
      .next (slotRead s (setRing (heardAt s r.loc) k id (struckUnless intact r)) k id (struckUnless intact r) h x) := by
  have up : (!live s || !locUp s r.loc) = false := by simp [on, link]
  simp only [exec, execRingSlotRead, hr]
  rw [show (if intact = true then r else { r with strike := true }) = struckUnless intact r from rfl]
  simp only [struckUnless_reading, struckUnless_loc, reading, up, slotRead]
  cases instFrozen s (ringInst s k id)
  case true => rfl
  case false => cases (struckUnless intact r).recallAt <;> cases (struckUnless intact r).state <;> rfl

section
variable {s u : State} {k : RingKind} {id h : Nat} {v : Ring} {x : SlotRead} (thawed : instFrozen s (ringInst s k id) = false)
include thawed

theorem slotRead_of_recall {i n : Nat} (place : v.recallAt = some (i, n)) (state : v.state = .recalling) :
    slotRead s u k id v h x = tpeSettle (recallRead u k id v h i n x) := by
  simp only [slotRead, thawed, place, state]
  rfl

theorem slotRead_of_head (noRecall : v.recallAt = none) (state : v.state = .enabled) :
    slotRead s u k id v h x = tpeSettle (headRead u k id v h x) := by
  simp only [slotRead, thawed, noRecall, state]
  rfl

theorem slotRead_of_neither (notRecall : ¬(v.recallAt ≠ none ∧ v.state = .recalling)) (notRun : ¬(v.recallAt = none ∧ v.state = .enabled)) :
    slotRead s u k id v h x = u := by
  simp only [slotRead, thawed]
  cases place : v.recallAt <;> cases state : v.state <;> simp_all

end

/-! ### Doorbells -/

/-- The ring exists and is the instance's. -/
def Owned (s : State) (k : RingKind) (id inst : Nat) : Prop := (∃ r, getRing s k id = some r) ∧ ringInst s k id = inst

/-- The doorbell of a ring. -/
def bellOf : RingKind → Nat → Nat → Instr
  | .sq, inst, id => .sqDoorbell inst id
  | .rq, inst, id => .rqDoorbell inst id
  | .tpe, inst, id => .tpeDoorbell inst id
  | .lookaside, inst, _ => .lookasideDoorbell inst

theorem exec_bellOf_of_owned {s : State} {k : RingKind} {id inst : Nat} (on : live s = true) (isOpen : pageOpen s inst = true)
    (owned : Owned s k id inst) : exec (bellOf k inst id) s = .next (ringDoorbell (heardBell s) k id) := by
  obtain ⟨⟨r, hr⟩, own⟩ := owned
  cases k with
  | lookaside =>
    obtain rfl : id = inst := own
    simp [bellOf, exec, execLookasideDoorbell, laDoorbell, on, isOpen]
  | tpe =>
    obtain ⟨c, hc, -⟩ := Option.map_eq_some_iff.1 hr
    simp only [ringInst, hc] at own
    simp [bellOf, exec, execTpeDoorbell, tpeDoorbell, on, isOpen, hc, own]
  | sq =>
    obtain ⟨q, hq, -⟩ := Option.map_eq_some_iff.1 hr
    simp only [ringInst, hq] at own
    simp [bellOf, exec, execSqDoorbell, sqDoorbell, on, isOpen, hq, own]
  | rq =>
    obtain ⟨q, hq, -⟩ := Option.map_eq_some_iff.1 hr
    simp only [ringInst, hq] at own
    simp [bellOf, exec, execRqDoorbell, rqDoorbell, on, isOpen, hq, own]

theorem exec_bellOf_of_not {s : State} {k : RingKind} {id inst : Nat} (ne : k ≠ .lookaside)
    (h : live s = true → pageOpen s inst = true → ¬Owned s k id inst) : exec (bellOf k inst id) s = .next (heardBell s) := by
  cases k with
  | lookaside => exact absurd rfl ne
  | tpe =>
    cases hc : tget s.ctxs id with
    | none => simp [bellOf, exec, execTpeDoorbell, tpeDoorbell, hc]
    | some c =>
      simp only [Owned, getRing, ringInst, hc, Option.map_some, Option.some.injEq, exists_eq', true_and] at h
      simpa [bellOf, exec, execTpeDoorbell, tpeDoorbell, hc] using fun on isOpen own => absurd own (h on isOpen)
  | sq =>
    cases hq : tget s.qps id with
    | none => simp [bellOf, exec, execSqDoorbell, sqDoorbell, hq]
    | some q =>
      simp only [Owned, getRing, ringInst, hq, Option.map_some, Option.some.injEq, exists_eq', true_and] at h
      simpa [bellOf, exec, execSqDoorbell, sqDoorbell, hq] using fun on isOpen own => absurd own (h on isOpen)
  | rq =>
    cases hq : tget s.qps id with
    | none => simp [bellOf, exec, execRqDoorbell, rqDoorbell, hq]
    | some q =>
      simp only [Owned, getRing, ringInst, hq, Option.map_some, Option.some.injEq, exists_eq', true_and] at h
      simpa [bellOf, exec, execRqDoorbell, rqDoorbell, hq] using fun on isOpen own => absurd own (h on isOpen)

end Sys2Proof.Machine

namespace Sys2Proof.Proofs
open Sys2Proof.Machine

/-- Settles O39: a doorbell by the ring's state and what it may read; a slot read by what it finds the ring doing. -/
theorem rings : Obligations.Rings := by
  unfold Obligations.Rings
  refine ⟨fun k id inst s => ⟨fun r on isOpen hr own => ?_, fun ne h => ?_⟩,
    fun k id s r hr => ⟨fun off => ?_, fun recalling => ?_, fun enabled reading => ?_, fun enabled idle free => ?_, fun enabled idle full => ?_⟩,
    fun k id x intact s => ⟨fun none => ?_, fun r hr h => ?_, fun r h hr reading on link => ⟨fun frozen => ?_, fun i n thawed place state => ?_,
      fun thawed none state => ?_, fun thawed notRecall notRun => ?_⟩⟩,
    fun k id h i n s r e => ⟨fun own => ?_, fun soft => ?_, rfl, rfl, fun ne => ?_, fun own => ?_, fun soft => ?_⟩⟩
  · have rings := exec_bellOf_of_owned on isOpen ⟨⟨r, hr⟩, own⟩
    cases k <;> exact rings
  · have not : live s = true → pageOpen s inst = true → ¬Owned s k id inst := fun on isOpen owned => by
      obtain ⟨⟨r, hr⟩, own⟩ := owned
      obtain h | h | h | h := h
      · exact Bool.eq_false_iff.1 h on
      · exact Bool.eq_false_iff.1 h isOpen
      · exact absurd (hr.symm.trans h) (Option.some_ne_none r)
      · exact h own
    have ignored := exec_bellOf_of_not ne not
    cases k <;> exact ignored
  · simp only [ringDoorbell, hr, off]
  · simp only [ringDoorbell, hr, recalling]
  · rw [ringDoorbell_of_enabled hr enabled, fetchRing_of_reading (r := rung r) (getRing_setRing hr _) reading, rung,
      Option.isSome_iff_ne_none.2 reading]
  · rw [ringDoorbell_of_enabled hr enabled,
      fetchRing_of_reads (r := rung r) (getRing_setRing hr _) enabled rfl idle (by simpa [MayRead, cached, rung] using free)]
    simp [rung, idle]
  · rw [ringDoorbell_of_enabled hr enabled, fetchRing_of_full (r := rung r) (getRing_setRing hr _) (by simpa [MayRead, cached, rung] using full),
      rung, idle]
    rfl
  · simp only [exec, execRingSlotRead, none]
  · simp only [exec, execRingSlotRead, hr]
    rw [show (if intact = true then r else { r with strike := true }) = struckUnless intact r from rfl]
    simp only [struckUnless_reading, struckUnless_loc]
    cases reading : r.reading with
    | none => rfl
    | some n => exact if_pos (by simpa [reading] using h)
  · rw [exec_ringSlotRead hr reading on link]
    exact congrArg _ (if_pos frozen)
  · rw [exec_ringSlotRead hr reading on link]
    exact congrArg _ (slotRead_of_recall thawed ((struckUnless_recallAt intact r).trans place) ((struckUnless_state intact r).trans state))
  · rw [exec_ringSlotRead hr reading on link]
    exact congrArg _ (slotRead_of_head thawed ((struckUnless_recallAt intact r).trans none) ((struckUnless_state intact r).trans state))
  · rw [exec_ringSlotRead hr reading on link]
    exact congrArg _ (slotRead_of_neither thawed (by simpa using notRecall) (by simpa using notRun))
  · simp [headRead, own, takeEntry, Ring.size]
  · simp [headRead, soft]
  · simp [recallRead, ne]
  · simp [recallRead, own, takeEntry, Ring.size, recallOne]
  · simp [recallRead, soft]

end Sys2Proof.Proofs
end

section
/-!
The start of SQ entries (O40).
-/

namespace Sys2Proof.Machine

/-- Chunks of `n` bytes, enough of them, leave nothing out. -/
theorem flatten_chunks {n fuel : Nat} {data : Bytes} (enough : data.length ≤ n * fuel) : (chunks n fuel data).flatten = data := by
  induction fuel generalizing data with
  | zero => simp_all [chunks]
  | succ fuel ih =>
    unfold chunks
    cases data with
    | nil => rfl
    | cons x xs =>
      have rest : ((x :: xs).drop n).length ≤ n * fuel := by
        rw [Nat.mul_succ] at enough
        simp only [List.length_drop]
        omega
      simp [ih rest]

section
variable (cell : Bool) (data : Bytes) (mk : Nat → Pkt)

theorem op_of_mem_cutData {op : Nat} (isOp : ∀ i, (mk i).op = op) : ∀ p ∈ cutData cell data mk, p.op = op := by
  intro p hp
  obtain ⟨i, hi, rfl⟩ := List.mem_mapIdx.1 hp
  exact isOp _

theorem payloads_cutData : ((cutData cell data mk).map (·.payload)).flatten = data := by
  have pos : 0 < if cell then 48 else 8192 := by cases cell <;> decide
  have enough : data.length ≤ (if cell then 48 else 8192) * (data.length / (if cell then 48 else 8192) + 1) :=
    (Nat.lt_mul_div_succ _ pos).le
  refine Eq.trans (congrArg List.flatten ?_) (flatten_chunks enough)
  exact List.ext_getElem (by simp [cutData]) fun i _ _ => by simp [cutData]

end

end Sys2Proof.Machine

namespace Sys2Proof.Proofs
open Sys2Proof.Machine

/-- Settles O40: the entry's checks in order, then its work by OP; the payloads of the packets of a WRITE are the source's bytes, cut. -/
theorem sqEntryStart : Obligations.SqEntryStart := by
  unfold Obligations.SqEntryStart
  refine ⟨fun qpn m s => ⟨fun none => ?_, fun q hq none => ?_, fun q t hq next => ⟨fun mayNot => ?_, fun may bad => ?_, fun may good long => ?_,
    fun may good short => ?_⟩⟩, fun qpn u q t => ⟨fun h => ?_, fun op len => ?_, fun op len => ?_, fun op len => ?_⟩,
    fun qpn slot s => ⟨rfl, rfl, rfl, rfl⟩, fun q w data op => ?_⟩
  · simp only [exec, execSqEntryStart, none]
  · simp only [exec, execSqEntryStart, hq, none]
  · simp [exec, execSqEntryStart, hq, next, mayNot]
  · simp [exec, execSqEntryStart, hq, next, may, bad]
  · simp [exec, execSqEntryStart, hq, next, may, good, long]
  · simp [exec, execSqEntryStart, hq, next, may, good, short]
  · exact if_pos (by simpa using h)
  · simp [startEntry, op, len, startRead]
  · simp [startEntry, op, len]
  · obtain op | op := op <;> simp [startEntry, op, len] <;> rfl
  · refine ⟨_, _, if_pos op, rfl, rfl, rfl, fun x hx => ?_, ?_⟩
    · obtain ⟨p, hp, rfl⟩ := List.mem_map.1 hx
      exact ⟨op_of_mem_cutData (op := 1) _ _ _ (fun _ => rfl) p hp, rfl⟩
    · rw [List.map_map]
      exact payloads_cutData ..

end Sys2Proof.Proofs
end

section
/-!
Hand-back (O41).
-/

namespace Sys2Proof.Machine

/-- What a hand-back leaves to do once the entry has left its ring: the writes, the report or the signal. -/
def afterLeave (s v : State) (k : RingKind) (n : Nat) (r : Ring) (t : Taken) (o : Outcome) : State :=
  let inst := ringInst s k n
  let a := r.base.toNat + 64 * t.slot
  let dst := locTarget s inst r.loc
  let w := if k = .lookaside then emit v (.memWrite dst (a + 56) (leBytes 2 o.sub)) else v
  emit (emit w (.memWrite dst (a + 62) [o.status])) (.memWrite dst (a + 63) [0])

section
variable {s : State} {k : RingKind} {n : Nat} {r : Ring} (hr : getRing s k n = some r) (alive : r.memDead = false)
  (heard : locMuted s (ringInst s k n) r.loc = false) (t : Taken) (o : Outcome)
include hr alive heard

theorem handBack_of_written (whole : r.strike = false) :
    handBack s k n t o =
      let v := setRing (if k = .sq then endWork s n t.slot else s) k n { r with taken := r.taken.filter fun x => !(x.slot == t.slot) }
      let u := afterLeave s v k n r t o
      let reported := if wantsReport k t o then queueReport u r.cqn (mkReport k n t o) else u
      if k = .lookaside ∧ bit t.entry 60 0 = true then raiseSignal reported (ringInst s k n) else reported := by
  obtain ⟨⟩ := r
  subst alive whole
  simp only [handBack, hr, heard]
  cases k <;> simp [afterLeave]

theorem handBack_of_struck (strike : r.strike = true) (ring : k ≠ .lookaside) {c : Cq} (hc : tget s.cqs r.cqn = some c) (good : c.error = false) :
    handBack s k n t o =
      queueReport (setRing (if k = .sq then endWork s n t.slot else s) k n { r with
        taken := r.taken.filter fun x => !(x.slot == t.slot), memDead := true, strike := false, deadBy := some (t.slot, o.status) })
        r.cqn (mkReport k n t o) := by
  simp only [handBack, hr, heard, alive, strike, hc, good]
  simp [ring]

end

end Sys2Proof.Machine

namespace Sys2Proof.Proofs
open Sys2Proof.Machine

/-- Settles O41: a hand-back that is written and one that is struck, and who is reported. -/
theorem handBack : Obligations.HandBack := by
  unfold Obligations.HandBack
  refine ⟨fun s k n r t o hr alive heard => ⟨fun whole ring quiet => ?_, fun whole ring wants => ?_, fun whole la quiet => ?_,
    fun whole la signal => ?_, fun c strike ring hc good => handBack_of_struck hr alive heard t o strike ring hc good⟩,
    fun t o => ⟨rfl, rfl, ?_, ?_⟩⟩
  · simp [handBack_of_written hr alive heard t o whole, ring, quiet, afterLeave]
  · simp [handBack_of_written hr alive heard t o whole, ring, wants, afterLeave]
  · subst la
    simp [handBack_of_written hr alive heard t o whole, quiet, afterLeave, wantsReport]
  · subst la
    simp [handBack_of_written hr alive heard t o whole, signal, afterLeave, wantsReport]
  · simp [wantsReport]
  · simp [wantsReport]

end Sys2Proof.Proofs
end

section
/-!
Completion queues (O43).
-/

namespace Sys2Proof.Machine

theorem OnlyReports.cqs_eq {s t : State} (h : OnlyReports s t) : t.cqs = s.cqs := h.eq_of (·.cqs) fun _ => rfl

theorem OnlyReports.pages_eq {s t : State} (h : OnlyReports s t) : t.pages = s.pages := h.eq_of (·.pages) fun _ => rfl

section
variable (s : State) (inst v : Nat)

/-- A page on which the pending bit of a vector is set. -/
def pendVector (v : Nat) (p : Page) : Page := { p with vecPending := p.vecPending ||| BitVec.ofNat 64 (2 ^ v) }

/-- An interrupt of an instance sets the pending bit of its vector; the rest of it is the report, and the vector's own record. -/
theorem raiseVector_eq :
    ∃ insts, OnlyReports { modPage s inst (pendVector v) with insts } (raiseVector s inst v) := by
  unfold raiseVector
  dsimp only
  split
  · exact ⟨_, .refl _⟩
  · split
    · exact ⟨_, .refl _⟩
    · split
      · exact ⟨_, msixRaise_onlyReports ..⟩
      · split
        · exact ⟨_, .refl _⟩
        · split
          · exact ⟨_, .refl _⟩
          · exact ⟨_, emit_onlyReports ..⟩

@[simp] theorem raiseVector_cqs : (raiseVector s inst v).cqs = s.cqs := by
  obtain ⟨insts, h⟩ := raiseVector_eq s inst v
  exact h.cqs_eq

theorem pageOf_raiseVector : pageOf (raiseVector s inst v) inst = pendVector v (pageOf s inst) := by
  obtain ⟨insts, h⟩ := raiseVector_eq s inst v
  simp [pageOf, h.pages_eq, modPage, tget_tput]

theorem getLsbD_pendVector {v : Nat} (h : v < 64) (p : Page) : (pendVector v p).vecPending.getLsbD v = true := by
  have bit : (BitVec.ofNat 64 (2 ^ v)).getLsbD v = true := by
    rw [BitVec.getLsbD_ofNat, Nat.testBit_two_pow_self]
    simp [h]
  exact (BitVec.getLsbD_or ..).trans (by rw [bit, Bool.or_true])

end

/-- The oldest pending report of a CQ has waited MOD_TIME. -/
def Aged (s : State) (c : Cq) : Prop := c.modTime ≠ 0 ∧ ∃ t rest, c.pending = t :: rest ∧ t + 1000 * c.modTime ≤ s.now

/-- The message of a CQ is due (R155). -/
def Fires (s : State) (c : Cq) : Prop := c.armed = true ∧ c.intEn = true ∧ (c.modCount ≤ c.pending.length ∨ Aged s c)

section
variable {s : State} {n : Nat} {c : Cq} (hc : tget s.cqs n = some c)
include hc

theorem cqInterrupt_of_fires (fires : Fires s c) : cqInterrupt s n = cqMessage (modCq s n fun x => { x with armed := false }) n c := by
  obtain ⟨armed, intEn, full | ⟨timed, t, rest, pending, late⟩⟩ := fires
  · simp [cqInterrupt, hc, armed, intEn, full]
  · simp [cqInterrupt, hc, armed, intEn, timed, pending, late]

theorem cqInterrupt_of_not_fires (quiet : ¬Fires s c) : cqInterrupt s n = s := by
  simp only [cqInterrupt, hc]
  refine if_neg fun h => quiet ?_
  simp only [Bool.and_eq_true, Bool.or_eq_true, decide_eq_true_eq, bne_iff_ne] at h
  obtain ⟨⟨armed, intEn⟩, full | ⟨timed, late⟩⟩ := h
  · exact ⟨armed, intEn, .inl full⟩
  · cases pending : c.pending with
    | nil => simp [pending] at late
    | cons t rest => exact ⟨armed, intEn, .inr ⟨timed, t, rest, pending, by simpa [pending] using late⟩⟩

theorem cqFail_spec (good : c.error = false) : ∃ d, tget (cqFail s n).cqs n = some d ∧ d.error = true ∧ d.held = [] ∧ d.stall = false := by
  refine ⟨{ c with error := true, held := [], stall := false }, ?_, rfl, rfl, rfl⟩
  simp only [cqFail, hc, good]
  cases intEn : c.intEn <;> simp [modCq, tget_tmod, hc, intEn]

end

/-- A command from a page that may not touch the CQ does nothing. -/
theorem cqReturn_cqArm_of_foreign {s : State} {inst n : Nat} (h : ∀ c, tget s.cqs n = some c → c.inst ≠ inst ∨ pageOpen s inst = false) (k : Nat) :
    cqReturn s inst n k = s ∧ cqArm s inst n = s := by
  unfold cqReturn cqArm
  cases hc : tget s.cqs n with
  | none => exact ⟨rfl, rfl⟩
  | some c => obtain h | h := h c hc <;> simp [h]

end Sys2Proof.Machine

namespace Sys2Proof.Proofs
open Sys2Proof.Machine

/-- Settles O43: who may command a CQ, when its message is due, the oldest held report, and what a report does. -/
theorem completionQueues : Obligations.CompletionQueues := by
  unfold Obligations.CompletionQueues
  refine ⟨fun inst n k s h => ?_, fun n s c hc => ⟨fun on isOpen => ?_, fun on => ?_, fun quiet => ?_, fun fires host => ?_, fun fires port => ?_,
    fun r t rest held => ⟨fun late silent => ?_, fun late loud => ?_, fun early => ?_, fun on closed => ?_, fun on isOpen => ?_, fun on => ?_⟩,
    fun empty => ⟨?_, ?_⟩, fun r whole => ?_, fun r strike => ?_, fun good => cqFail_spec hc good, fun r bad => ?_, fun r good empty isOpen => ?_,
    fun r good h => ?_⟩,
    fun n s => ⟨fun off => ?_, fun none => ⟨?_, ?_⟩, fun off ok => ?_⟩, fun inst v s h => ?_⟩
  · obtain off | foreign := h
    · simp [exec, execCqReturn, execCqArm, off]
    · have ignored := cqReturn_cqArm_of_foreign (s := heardBell s) (inst := inst) (n := n) (by simpa using foreign) k
      simp [exec, execCqReturn, execCqArm, ignored]
  · simp [exec, execCqArm, cqArm, on, hc, isOpen]
  · simp [exec, execCqModTimer, on]
  · exact cqInterrupt_of_not_fires hc quiet
  · exact (cqInterrupt_of_fires hc fires).trans (if_pos host)
  · exact (cqInterrupt_of_fires hc fires).trans (if_neg port)
  · simp [exec, execCqStallTimer, hc, held, late, silent]
  · simp [exec, execCqStallTimer, hc, held, late, loud]
  · simp only [exec, execCqStallTimer, hc, held]
    exact if_neg (by simpa [and_assoc] using early)
  · simp [exec, execCqReportRelease, on, releaseReport, hc, held, closed]
  · simp [exec, execCqReportRelease, on, releaseReport, hc, held, isOpen]
  · simp [exec, execCqReportRelease, on]
  · simp [exec, execCqStallTimer, hc, empty]
  · simp [exec, execCqReportRelease, releaseReport, hc, empty]
  · simp [writeReport, hc, whole]
  · simp [writeReport, hc, strike]
  · simp [queueReport, hc, bad]
  · simp [queueReport, hc, good, empty, isOpen]
  · simp only [queueReport, hc, good]
    exact (if_neg Bool.false_ne_true).trans (if_neg (by obtain h | h := h <;> simp [h]))
  · simp [exec, execCqModTimer, off]
  · simp [exec, execCqModTimer, cqInterrupt, none]
  · simp [exec, execCqStallTimer, none]
  · simp [exec, execCqReportRelease, off]
  · rw [pageOf_raiseVector]
    exact getLsbD_pendVector h _

end Sys2Proof.Proofs
end

section
/-!
Recall (O44).
-/

namespace Sys2Proof.Machine

@[simp] theorem recallTarget_heardBell (s : State) (inst : Nat) : recallTarget (heardBell s) inst = recallTarget s inst := by
  exact (congrArg (recallTarget · inst) (heardBell_eq s)).trans rfl

section
variable {s : State} {k : RingKind} {id : Nat} {r : Ring} (hr : getRing s k id = some r)
include hr

theorem recallEnd_eq (first n : Nat) : recallEnd s k id first n = fetchRing (modPage (setRing s k id { r with
    state := .enabled, recallAt := none, doorbell := false, run := r.run || r.doorbell, head := if n = 0 then r.head else first })
      (ringInst s k id) fun p => { p with busy := false, recallCount := BitVec.ofNat 17 n }) k id := by
  simp [recallEnd, recallStop, hr]

variable (alive : r.memDead = false) {fuel first i n : Nat}
include alive

theorem recallLoop_of_whole (whole : 2 ^ r.log2 ≤ n) : recallLoop (fuel + 1) s k id first i n = recallEnd s k id first n := by
  simp [recallLoop, hr, alive, Ring.size, whole]

theorem recallLoop_of_cached (more : n < 2 ^ r.log2) {t : Taken} (cached : r.taken.find? (fun t => t.slot == i) = some t) :
    recallLoop (fuel + 1) s k id first i n =
      if t.started || t.outcome.isSome then recallEnd s k id first n
      else if !locUp s r.loc then setRing s k id { r with recallAt := some (i, n) }
      else recallLoop fuel (recallOne s k id t) k id first ((i + 1) % 2 ^ r.log2) (n + 1) := by
  simp [recallLoop, hr, alive, Ring.size, more, cached]

theorem recallLoop_of_uncached (more : n < 2 ^ r.log2) (uncached : r.taken.find? (fun t => t.slot == i) = none) :
    recallLoop (fuel + 1) s k id first i n =
      if r.reading.isSome || !locUp s r.loc then setRing s k id { r with recallAt := some (i, n) }
      else emit (setRing s k id { r with recallAt := some (i, n), reading := some i })
        (.slotRead (locTarget s (ringInst s k id) r.loc) (r.base.toNat + 64 * i)) := by
  simp only [recallLoop, hr, alive, Ring.size, uncached]
  exact if_neg (Nat.not_le.2 more)

end

end Sys2Proof.Machine

namespace Sys2Proof.Proofs
open Sys2Proof.Machine

/-- Settles O44: a write of RECALL_FIRST by the ring's state, and the loop by what it finds in the slot. -/
theorem recallFirst : Obligations.RecallFirst := by
  unfold Obligations.RecallFirst
  refine ⟨fun inst first s => ⟨fun off => ?_, fun on none => ?_, fun k id on ring => ?_⟩,
    fun inst first s => ⟨fun closed => ?_, fun isOpen busy => ?_, fun isOpen idle none => ?_, fun k id r isOpen idle ring hr =>
      ⟨fun off => ?_, fun enabled frozen => ?_, fun enabled thawed => ?_⟩⟩,
    fun fuel s k id first i n r hr alive => ⟨recallLoop_of_whole hr alive, fun t more cached => ⟨fun h => ?_, fun unstarted undone up => ?_,
      fun unstarted undone down => ?_⟩, fun more uncached => ⟨fun h => ?_, fun idle up => ?_⟩⟩,
    fun s k id first n r hr => recallEnd_eq hr first n⟩
  · simp [exec, execRecallFirst, off]
  · simp [exec, execRecallFirst, on, recallWrite, none]
  · simp [exec, execRecallFirst, on, recallWrite, ring]
  · simp [Machine.recallFirst, closed]
  · simp [Machine.recallFirst, isOpen, busy]
  · simp [Machine.recallFirst, isOpen, idle, none]
  · simp [Machine.recallFirst, isOpen, idle, ring, hr, off]
  · simp [Machine.recallFirst, isOpen, idle, ring, hr, enabled, frozen]
  · simp only [Machine.recallFirst, isOpen, idle, ring, hr, enabled, thawed]
    rfl
  · exact (recallLoop_of_cached hr alive more cached).trans (if_pos (by obtain h | h := h <;> simp [h, Option.isSome_iff_ne_none]))
  · simp [recallLoop_of_cached hr alive more cached, unstarted, undone, up, recallOne]
  · simp [recallLoop_of_cached hr alive more cached, unstarted, undone, down]
  · exact (recallLoop_of_uncached hr alive more uncached).trans (if_pos (by obtain h | h := h <;> simp [h, Option.isSome_iff_ne_none]))
  · simp [recallLoop_of_uncached hr alive more uncached, idle, up]

end Sys2Proof.Proofs
end

section
/-!
Data and flushing reads complete (O45).
-/

namespace Sys2Proof.Machine

/-- A piece of a data read whose A port's link is down. -/
def pieceDown (s : State) (p : Piece) : Bool := p.port != 0 && p.port != 5 && !aLinkUp s (p.port - 1)

theorem any_pieceDown_iff (s : State) (ps : List Piece) :
    ps.any (pieceDown s) = true ↔ ∃ p ∈ ps, p.port ≠ 0 ∧ p.port ≠ 5 ∧ aLinkUp s (p.port - 1) = false := by
  simp [pieceDown, and_assoc]

section
variable {s : State} {id : Nat} {m : Meets} {r : DataRead} (on : live s = true) (hr : s.reads.find? (fun r => r.id == id) = some r)
include on hr

theorem exec_dataReadComplete (b : Option Bytes) : exec (.dataReadComplete id b m) s =
    if r.pieces.any (pieceDown s) then .next (if b.isNone then waitEnded (readAgain s r) id else s)
    else .next (underMeets m { (if r.pieces.any fun p => p.port == 0 then heardTlp s else s) with reads := s.reads.filter fun x => !(x.id == id) }
      fun t => tpeSettle (waitEnded (handData t r (b.bind (gather t r.inst r.pieces))) id)) := by
  simp only [exec, execDataReadComplete, on, hr]
  rfl

end

section
variable {s : State} {id : Nat} {f : Flush} (on : live s = true) (hf : s.flushes.find? (fun f => f.id == id) = some f)
include on hf

theorem exec_flushReadComplete (late : Bool) : exec (.flushReadComplete id late) s =
    let down := f.port != 0 && !aLinkUp s (f.port - 1)
    if late && !drainsOnly f then .next (tpeSettle (waitEnded (if down then s else emit s (.flushRead f.port id)) id))
    else if down && !late then .next s
    else .next (tpeSettle (waitEnded (flushEnded { heardAt s f.port with flushes := s.flushes.filter fun x => !(x.id == id) } f) id)) := by
  simp only [exec, execFlushReadComplete, on, hf]
  rfl

end

theorem laRunOf_modLa (s : State) (i : Nat) (f : LaRun → LaRun) : laRunOf (modLa s i f) i = (laRunOf s i).map f := by
  simp only [laRunOf, modLa, modInst, tget_tmod]
  cases tget s.insts i <;> rfl

/-- Where no instance waits for the read, only the drains hear of it. -/
theorem waitEnded_of_noInst {s : State} {id : Nat} (h : ∀ r ∈ s.insts, id ∉ r.2.drains) : waitEnded s id = drainStep s id := by
  have kept : (s.insts.map fun r => (r.1, { r.2 with drains := r.2.drains.filter fun x => !(x == id) })) = s.insts := by
    refine (List.map_congr_left fun r hr => ?_).trans (List.map_id _)
    have : r.2.drains.filter (fun x => !(x == id)) = r.2.drains :=
      List.filter_eq_self.2 fun x hx => by simpa using fun e : x = id => h r hr (e ▸ hx)
    rw [this]
    rfl
  rw [waitEnded, kept]

/-- A drain that no longer waits for a read. -/
def Drain.without (d : Drain) (id : Nat) : Drain :=
  { d with reads := d.reads.filter fun x => !(x == id), flushes := d.flushes.filter fun x => !(x == id) }

/-- A drain waits for nothing more, and may end (R429). -/
def drainOver (s : State) (d : Drain) : Bool := d.reads.isEmpty && d.flushes.isEmpty && (d.slot.isNone || !s.ctlReset)

section
variable {s : State} {d : Drain} (one : s.drains = [d]) (id : Nat)
include one

theorem drainStep_of_one : drainStep s id = endDrains { s with drains := [d.without id] } := by
  rw [drainStep, one]
  rfl

/-- The end of the only drain. -/
theorem drainStep_of_over (ended : drainOver s (d.without id) = true) :
    drainStep s id = d.slot.elim (emit { s with drains := [] } (.atsInvalidated d.tag))
      fun slot => completeWith { s with drains := [] } slot (drainResult d.removed) := by
  change ((d.without id).reads.isEmpty && (d.without id).flushes.isEmpty && (d.slot.isNone || !s.ctlReset)) = true at ended
  rw [drainStep_of_one one]
  simp only [endDrains, List.filter_cons, List.filter_nil, Drain.without] at ended ⊢
  rw [ended]
  cases d.slot <;> simp

theorem drainStep_of_waiting (waits : drainOver s (d.without id) = false) : drainStep s id = { s with drains := [d.without id] } := by
  change ((d.without id).reads.isEmpty && (d.without id).flushes.isEmpty && (d.slot.isNone || !s.ctlReset)) = false at waits
  rw [drainStep_of_one one]
  simp only [endDrains, List.filter_cons, List.filter_nil, Drain.without] at waits ⊢
  rw [waits]
  rfl

end

theorem drainOver_iff (s : State) (d : Drain) :
    drainOver s d = true ↔ d.reads = [] ∧ d.flushes = [] ∧ (d.slot = none ∨ s.ctlReset = false) := by
  simp [drainOver, and_assoc]

/-- A lookaside run that waits for one flushing read less. -/
def LaRun.without (r : LaRun) (id : Nat) : LaRun := { r with flushes := r.flushes.filter fun x => !(x == id) }

/-- A flushing read of a lookaside request ends, and with it the request where nothing else is owed. -/
theorem flushEnded_of_lookaside {s : State} {f : Flush} {i : Nat} {r : LaRun} (why : f.why = .lookaside i) (hr : laRunOf s i = some r) :
    flushEnded s f = if r.made && r.outs.isEmpty && (r.without f.id).flushes.isEmpty then laEnd (modLa s i (·.without f.id)) i r.status 0
      else modLa s i (·.without f.id) := by
  have run : laRunOf (modLa s i (·.without f.id)) i = some (r.without f.id) := by simp [laRunOf_modLa, hr]
  simp only [LaRun.without] at run ⊢
  simp only [flushEnded, why, run]
  rfl

end Sys2Proof.Machine

namespace Sys2Proof.Proofs
open Sys2Proof.Machine

/-- Settles O45: the two completions by the link and what the read was for, and the drain that waits for nothing more. -/
theorem readsComplete : Obligations.ReadsComplete := by
  unfold Obligations.ReadsComplete
  refine ⟨fun s id b m => ⟨fun off => ?_, fun on none => ?_, fun r on hr => ⟨fun down some => ?_, fun down none => ?_, fun up => ?_⟩⟩,
    fun s id late => ⟨fun off => ?_, fun on none => ?_, fun f on hf => ⟨fun inTime up => ?_, fun inTime down => ?_, fun late drains => ?_,
      fun late other up => ?_, fun late other down => ?_⟩⟩,
    fun s f => ⟨fun k id slot r why hr => ?_, fun qpn why => ?_, fun n c why hc => ?_, fun ctx slot why => ?_, fun i r why hr => ⟨fun done => ?_,
      fun more => ?_⟩, fun why => ?_⟩,
    fun s id d one noInst => ⟨fun slot ended hs => ?_, fun ended none => ?_, fun waits => ?_⟩⟩
  · simp [exec, execDataReadComplete, off]
  · simp [exec, execDataReadComplete, on, none]
  · rw [exec_dataReadComplete on hr, if_pos ((any_pieceDown_iff ..).2 down)]
    simp [some]
  · rw [exec_dataReadComplete on hr, if_pos ((any_pieceDown_iff ..).2 down)]
    simp [none]
  · exact (exec_dataReadComplete on hr b).trans (if_neg fun h => up ((any_pieceDown_iff ..).1 h))
  · simp [exec, execFlushReadComplete, off]
  · simp [exec, execFlushReadComplete, on, none]
  · rw [exec_flushReadComplete on hf, inTime]
    exact (if_neg Bool.false_ne_true).trans (if_neg (by simpa using up))
  · simp [exec_flushReadComplete on hf, inTime, down]
  · simp [exec_flushReadComplete on hf, late, drains]
  · rw [exec_flushReadComplete on hf, late, other]
    exact congrArg _ (congrArg _ (congrArg (waitEnded · id) (if_neg (by simpa using up))))
  · simp [exec_flushReadComplete on hf, late, other, down]
  · simp only [flushEnded, why, hr]
  · simp only [flushEnded, why]
  · simp only [flushEnded, why, hc]
  · simp only [flushEnded, why]
  · exact (flushEnded_of_lookaside why hr).trans (if_pos (by simpa [LaRun.without, and_assoc] using done))
  · exact (flushEnded_of_lookaside why hr).trans (if_neg (by simpa [LaRun.without, and_assoc] using more))
  · obtain why | ⟨i, why⟩ := why <;> simp only [flushEnded, why]
  · rw [waitEnded_of_noInst noInst, drainStep_of_over one id ((drainOver_iff ..).2 ended), hs]
    rfl
  · rw [waitEnded_of_noInst noInst, drainStep_of_over one id ((drainOver_iff ..).2 ended), none]
    rfl
  · rw [waitEnded_of_noInst noInst, drainStep_of_waiting one id (Bool.eq_false_iff.2 fun h => waits ((drainOver_iff ..).1 h))]
    rfl

end Sys2Proof.Proofs
end

section
/-!
The receive checks of a frame (O46).
-/

namespace Sys2Proof.Machine

theorem OnlyReports.ctlReset_eq {s t : State} (h : OnlyReports s t) : t.ctlReset = s.ctlReset := h.eq_of (·.ctlReset) fun _ => rfl

section
variable (s : State)

@[simp] theorem post_ctlReset (code : BitVec 16) (data : BitVec 96) : (post s code data).ctlReset = s.ctlReset :=
  (post_onlyReports ..).ctlReset_eq

@[simp] theorem gateRefreshPort_ctlReset (n : Nat) : (gateRefreshPort s n).ctlReset = s.ctlReset := by
  unfold gateRefreshPort
  split
  · rfl
  · dsimp only
    split
    · simp
    · rfl

@[simp] theorem gateTakeover_ctlReset (n : Nat) : (gateTakeover s n).ctlReset = s.ctlReset := by
  unfold gateTakeover
  dsimp only
  repeat' split
  all_goals simp

@[simp] theorem gateTakeoversDue_ctlReset : (gateTakeoversDue s).ctlReset = s.ctlReset := by
  refine List.foldlRecOn (motive := fun t : State => t.ctlReset = s.ctlReset) _ _ rfl fun t h n _ => ?_
  repeat' split
  · exact (gateTakeover_ctlReset ..).trans h
  all_goals exact h

@[simp] theorem notePeerTime_ctlReset (port : Nat) (b : RxBody) : (notePeerTime s port b).ctlReset = s.ctlReset := by
  unfold notePeerTime checkPeerTime
  repeat' split
  all_goals simp [modPort]

@[simp] theorem switchPhase_ctlReset (id : Nat) (phase : Bool) : (switchPhase s id phase).ctlReset = s.ctlReset := by
  unfold switchPhase
  repeat' split
  all_goals rfl

end

/-! ### The checks before the datagram is opened -/

/-- The checks from a frame's outer headers on, once the Owl has counted it. -/
def checkOuter (v : State) (i : Image) (port : Nat) (bytes : Bytes) (disagree : Bool) : Outer → Result
  | .bad n => .next (count v 0 0 (n - 1) 1)
  | .urosh srcIp pcp dscp ecn sport u =>
    let s1 := count v 1 port 0 1
    if !ready v then .next s1
    else if !envelopeLegal u then .next (count s1 0 0 6 1)
    else match forwardOf s1 u with
      | some f =>
        let c := rxClass s1 pcp dscp
        .next (if rxFits s1 port c (wireLen bytes) then relay s1 f pcp dscp ecn sport u else rxDrop s1 port c)
      | none =>
        .next (openFrame s1 port ((coordOf i srcIp).getD (2 ^ 24)) (pcp.getD 8) dscp (ecn == 3) (sport % 256) (wireLen bytes) u disagree)
  | .arp | .neighbor | .ptp => .next v

/-- A frame that counts at its port goes by its outer headers. -/
theorem exec_frameReceived {s : State} {i : Image} {port : Nat} {bytes : Bytes} (hi : s.start.image = some i) (on : running s = true)
    (up : portUp s port = true) (notMac : beField bytes 12 2 15 0 ≠ 0x8808) (fcsOk disagree : Bool) :
    exec (.frameReceived port bytes fcsOk disagree) s =
      checkOuter (heardOn s port bytes (framePackets (outerOf i port fcsOk bytes))) i port bytes disagree (outerOf i port fcsOk bytes) := by
  have heard : (!(running s && portUp s port) || beField bytes 12 2 15 0 == 0x8808) = false := by simp [on, up, notMac]
  simp only [exec, execFrameReceived, img, hi, heard]
  cases outerOf i port fcsOk bytes <;> rfl

section
variable {v : State} {i : Image} {port : Nat} {bytes : Bytes} {disagree : Bool} {ip : Bytes} {pcp : Option Nat} {dscp ecn sport : Nat} {u : Bytes}

/-- Every other datagram is opened. -/
theorem checkOuter_of_opened (on : ready v = true) (legal : envelopeLegal u = true) (own : forwardOf (count v 1 port 0 1) u = none) :
    checkOuter v i port bytes disagree (.urosh ip pcp dscp ecn sport u) = .next (openFrame (count v 1 port 0 1) port
      ((coordOf i ip).getD (2 ^ 24)) (pcp.getD 8) dscp (ecn == 3) (sport % 256) (wireLen bytes) u disagree) := by
  simp [checkOuter, on, legal, own]

end

/-! ### Opening the datagram -/

/-- The key slot's opening of a datagram. -/
def opened (s : State) (u : Bytes) (r : RxPhase) : Option Parts :=
  openDatagram (slotKey s r.slot) (u.take 16)
    (splitBody (beField u 0 1 3 0) (beField u 1 1 7 0) ((u.drop 16).take (u.length - 32))) (u.drop (u.length - 16))

/-- An authentic datagram that is new, once its SEAL_SEQ is recorded. -/
def afterOpen (s s2 : State) (port src pcp dscp : Nat) (ce : Bool) (path len id : Nat) : Option RxBody → State
  | none => count s2 0 0 8 1
  | some b =>
    let c := rxClass s (if pcp = 8 then none else some pcp) dscp
    let s4 := notePeerTime (count s2 2 id 2 1) port b
    if !rxFits s4 port c len then rxDrop s4 port c
    else if s.ctlReset && isHandshake b then s4
    else { rxTake s4 port c len with rxq := (rxTake s4 port c len).rxq ++
      [{ port := port, cls := c, frameLen := len, src := src, saId := id, path := path, ce := ce, arrived := s.now, body := b }] }

section
variable {s : State} {port src pcp dscp : Nat} {ce : Bool} {path len : Nat} {u : Bytes} {disagree : Bool}

theorem openFrame_of_noSa (none : saOf s (beField u 4 4 31 0 % 2 ^ 14) = none) :
    openFrame s port src pcp dscp ce path len u disagree = count s 0 0 7 1 := by
  simp only [openFrame, none]

variable {a : Sa} (ha : saOf s (beField u 4 4 31 0 % 2 ^ 14) = some a)
include ha

theorem openFrame_of_dead (h : beField u 4 4 31 0 / 2 ^ 15 ≠ 0 ∨ a.dead = true) :
    openFrame s port src pcp dscp ce path len u disagree = count s 0 0 7 1 := by
  simp only [openFrame, ha]
  exact if_pos (by simpa using h)

variable (spi : beField u 4 4 31 0 / 2 ^ 15 = 0) (alive : a.dead = false)
include spi alive

theorem openFrame_of_noKey (none : phaseOf a (beField u 4 4 31 0 / 2 ^ 14 % 2 == 1) = none) :
    openFrame s port src pcp dscp ce path len u disagree =
      tagFails s (beField u 4 4 31 0 % 2 ^ 14) (beField u 4 4 31 0 / 2 ^ 14 % 2 == 1) := by
  simp only [openFrame, ha, spi, alive, none]
  rfl

variable {r : RxPhase} (hr : phaseOf a (beField u 4 4 31 0 / 2 ^ 14 % 2 == 1) = some r)
include hr

theorem openFrame_of_disagree (two : disagree = true) : openFrame s port src pcp dscp ce path len u disagree = cipherMismatch s 1 := by
  simp only [openFrame, ha, spi, alive, hr, two]
  rfl

variable (agree : disagree = false)
include agree

theorem openFrame_of_badTag (bad : opened s u r = none) : openFrame s port src pcp dscp ce path len u disagree =
    tagFails s (beField u 4 4 31 0 % 2 ^ 14) (beField u 4 4 31 0 / 2 ^ 14 % 2 == 1) := by
  unfold opened at bad
  simp only [openFrame, ha, spi, alive, hr, agree, bad]
  rfl

variable {ps : Parts} (good : opened s u r = some ps)
include good

theorem openFrame_of_replay (old : isReplay r (beField u 8 8 63 0) = true) : openFrame s port src pcp dscp ce path len u disagree =
    count s 2 (beField u 4 4 31 0 % 2 ^ 14) 1 1 := by
  unfold opened at good
  simp only [openFrame, ha, spi, alive, hr, agree, good, old]
  rfl

theorem openFrame_of_new (new : isReplay r (beField u 8 8 63 0) = false) :
    let id := beField u 4 4 31 0 % 2 ^ 14
    let phase := beField u 4 4 31 0 / 2 ^ 14 % 2 == 1
    openFrame s port src pcp dscp ce path len u disagree =
      afterOpen s (switchPhase (modSa s id fun x => setPhase x phase (some (noteSeq r (beField u 8 8 63 0)))) id phase)
        port src pcp dscp ce path len id (parseBody (beField u 0 1 3 0) ps) := by
  unfold opened at good
  simp only [openFrame, ha, spi, alive, hr, agree, good, new]
  cases parseBody (beField u 0 1 3 0) ps <;> rfl

end

end Sys2Proof.Machine

namespace Sys2Proof.Proofs
open Sys2Proof.Machine

/-- Settles O46: the outer checks, then the association, its phase, the tag, the SEAL_SEQ, the body and its room, one after the other. -/
theorem frameReceived : Obligations.FrameReceived := by
  unfold Obligations.FrameReceived
  refine fun port bytes fcsOk disagree s => ⟨fun h => ?_, fun i hi on up notMac => ?_⟩
  · cases hi : s.start.image with
    | none => simp only [exec, execFrameReceived, img, hi]
    | some i =>
      have ignored : (!(running s && portUp s port) || beField bytes 12 2 15 0 == 0x8808) = true := by
        obtain h | h | h | h := h <;> simp_all
      simp only [exec, execFrameReceived, img, hi]
      exact if_pos ignored
  intro o v
  have outer := exec_frameReceived hi on up notMac fcsOk disagree
  refine ⟨fun n bad => ?_, fun h => ?_, fun ip pcp dscp ecn sport u ho => ?_⟩
  · exact outer.trans (congrArg (checkOuter v i port bytes disagree) bad)
  · obtain h | h | h := h <;> exact outer.trans (congrArg (checkOuter v i port bytes disagree) h)
  rw [show exec (.frameReceived port bytes fcsOk disagree) s = checkOuter v i port bytes disagree (.urosh ip pcp dscp ecn sport u) from
    outer.trans (congrArg (checkOuter v i port bytes disagree) ho)]
  clear_value v
  intro s1 c room
  refine ⟨fun off => ?_, fun on bad => ?_, fun f on legal hf => ⟨fun fits => ?_, fun full => ?_⟩, fun on legal own => ?_⟩
  · simp only [checkOuter, off]
    rfl
  · simp only [checkOuter, on, bad]
    rfl
  · simp only [checkOuter, on, legal, show forwardOf (count v 1 port 0 1) u = some f from hf]
    exact congrArg Host.Outcome.next (if_pos fits)
  · simp only [checkOuter, on, legal, show forwardOf (count v 1 port 0 1) u = some f from hf]
    exact congrArg Host.Outcome.next (if_neg (Bool.eq_false_iff.1 full))
  rw [checkOuter_of_opened on legal own]
  intro spi id phase seq parts cls
  refine ⟨fun none => congrArg _ (openFrame_of_noSa none), fun a ha dead => congrArg _ (openFrame_of_dead ha dead),
    fun a ha short alive none => congrArg _ (openFrame_of_noKey ha short alive none), fun a r ha short alive hr =>
    ⟨fun two => congrArg _ (openFrame_of_disagree ha short alive hr two), fun agree bad => congrArg _ (openFrame_of_badTag ha short alive hr agree bad),
     fun ps agree good old => congrArg _ (openFrame_of_replay ha short alive hr agree good ?_), fun ps agree good high new => ?_⟩⟩
  · simpa [isReplay] using old
  intro highest s2
  have fresh : isReplay r seq = false := by simp [isReplay, high, new]
  rw [openFrame_of_new ha short alive hr agree good fresh]
  refine ⟨fun bad => ?_, fun b hb => ?_⟩
  · rw [bad]
    rfl
  rw [hb]
  intro s4 held
  have reset : s4.ctlReset = s1.ctlReset := by simp [s4, s2, modSa]
  refine ⟨fun full => ?_, fun fits inReset shakes => ?_, fun fits takes => ?_⟩
  · exact congrArg _ (if_pos (congrArg not full))
  · exact congrArg _ ((if_neg (Bool.eq_false_iff.1 (congrArg not fits))).trans (if_pos (by simp [← reset, inReset, shakes])))
  · exact congrArg _ ((if_neg (Bool.eq_false_iff.1 (congrArg not fits))).trans (if_neg (by rw [← reset]; obtain h | h := takes <;> simp [h])))

end Sys2Proof.Proofs
end

section
/-!
Datagrams and packets as the transport takes them (O47).
-/

namespace Sys2Proof.Machine

/-! ### Whose ACK or MOVED it is -/

section
variable {s : State} {d : RxDgram} {qpn : Nat}

theorem ctlQp_of_own {q : Qp} (hq : tget s.qps qpn = some q) (sa : q.saId = d.saId) {relayed : Bool}
    (peer : d.src = q.remoteCoord ∨ (relayed = true ∧ q.oldCoord = some d.src)) : ctlQp s d qpn relayed = some q := by
  simp only [ctlQp, hq]
  exact if_pos (by simpa [sa] using peer)

theorem ctlQp_of_foreign {relayed : Bool}
    (foreign : ∀ q, tget s.qps qpn = some q → q.saId ≠ d.saId ∨ (d.src ≠ q.remoteCoord ∧ (relayed = true → q.oldCoord ≠ some d.src))) :
    ctlQp s d qpn relayed = none := by
  unfold ctlQp
  cases hq : tget s.qps qpn with
  | none => rfl
  | some q => exact if_neg (by obtain h | h := foreign q hq <;> simp_all)

end

/-! ### A packet by its queue pair -/

section
variable {s : State} {d : RxDgram} {share : Nat} {p : Pkt} {q : Qp} (hq : tget s.qps p.dstQpn = some q)
include hq

theorem rxPacket_of_otherSa (sa : q.saId ≠ d.saId) : rxPacket s d share p = nakStranger (rxRelease s d.port d.cls share) d p 2 := by
  simp [rxPacket, hq, sa]

variable (sa : q.saId = d.saId)
include sa

theorem rxPacket_of_frozen (frozen : q.state = .frozen) {i : Inst} (hi : tget s.insts q.inst = some i) :
    rxPacket s d share p = sendAckBody (rxRelease s d.port d.cls share) p.dstQpn d.path (ackBody q (p.psn, i.frozenAt, d.path)) := by
  simp [rxPacket, hq, sa, frozen, hi]

theorem rxPacket_of_reset (reset : q.state = .reset) : rxPacket s d share p = nakStranger (rxRelease s d.port d.cls share) d p 2 := by
  simp [rxPacket, hq, sa, reset]

/-- A queue pair that moved away answers MOVED. -/
theorem rxPacket_of_moved (old : q.oldCoord = some d.src) (thawed : q.state ≠ .frozen) (bound : q.state ≠ .reset) :
    ∃ x, (rxPacket s d share p).txq = (rxRelease s d.port d.cls share).txq ++ [x] ∧ x.coord = q.remoteCoord ∧ x.path = some d.path ∧
      x.body = .control p.dstQpn q.remoteQpn (.moved { refused := p.psn, coord := ownCoord s, inst := q.inst, qpn := p.dstQpn }) := by
  refine ⟨{ id := (takeFresh (rxRelease s d.port d.cls share)).1, coord := q.remoteCoord, saId := q.saId, tc := q.tc, path := some d.path
            body := .control p.dstQpn q.remoteQpn (.moved { refused := p.psn, coord := ownCoord s, inst := q.inst, qpn := p.dstQpn })
            src := some d.src }, ?_, rfl, rfl, rfl⟩
  simp only [rxPacket, hq, sa, old]
  simp [thawed, bound]
  rfl

variable (stays : q.oldCoord ≠ some d.src)
include stays

theorem rxPacket_of_unbound (thawed : q.state ≠ .frozen) (h : q.state = .init ∨ q.remoteCoord ≠ d.src) :
    rxPacket s d share p = nakStranger (rxRelease s d.port d.cls share) d p 2 := by
  obtain h | h := h <;> simp [rxPacket, hq, sa, stays, thawed, h]

variable (peer : q.remoteCoord = d.src)
include peer

theorem rxPacket_of_error (error : q.state = .error) :
    rxPacket s d share p = sendNak (rxRelease s d.port d.cls share) p.dstQpn (p.psn, d.arrived, d.path) stFlushed 0 := by
  simp [rxPacket, hq, sa, stays, peer, error]

theorem rxPacket_of_data (up : q.state = .ready ∨ q.state = .draining) : rxPacket s d share p = onData s p.dstQpn d share p := by
  obtain up | up := up <;> simp [rxPacket, hq, sa, stays, peer, up]

end

/-! ### A data packet by its PSN -/

/-- The queue pair's count of CE marks, taken before the packet is handled. -/
def ceCounted (s : State) (n : Nat) (d : RxDgram) : State :=
  if d.ce then modQp s n fun x => { x with ceCount := x.ceCount + 1 } else s

/-- The answer to a duplicate that is no READ_REQ, by its record. -/
def answerDup (s : State) (n : Nat) (q : Qp) (d : RxDgram) (psn : Word) : Option RxMark → Nat → State
  | some (.refused st sub), _ => sendNak s n (psn, d.arrived, d.path) st sub
  | some .held, arrived => sendAck s n (psn, arrived, d.path)
  | _, _ => if (hiddenPsns q).contains psn then askAck s n (psn, d.arrived, d.path) else sendAck s n (psn, d.arrived, d.path)

section
variable {s : State} {n : Nat} {d : RxDgram} {share : Nat} {p : Pkt} {q : Qp} (hq : tget s.qps n = some q)
include hq

theorem onData_of_beyond (beyond : 65536 ≤ sdist p.psn q.cumPsn) : onData s n d share p = count (rxRelease s d.port d.cls share) 0 0 9 1 := by
  simp only [onData, hq]
  exact if_pos beyond

variable (within : sdist p.psn q.cumPsn < 65536)
include within

theorem onData_of_new (ahead : 0 ≤ sdist p.psn q.cumPsn) (new : recOf q p.psn = none) :
    onData s n d share p = settleStaging (acceptPkt (recordHeld (ceCounted s n d) n d share p) n p) := by
  simp only [onData, hq, new]
  exact (if_neg (Int.not_le.2 within)).trans (if_neg (by simpa using ahead))

variable (dup : sdist p.psn q.cumPsn < 0 ∨ (recOf q p.psn).isSome = true)
include dup

theorem onData_of_dupReq (isReq : p.op = 3) :
    onData s n d share p = readAgainReq (rxRelease (ceCounted s n d) d.port d.cls share) n q p (p.psn, d.arrived, d.path) := by
  simp only [onData, hq]
  exact (if_neg (Int.not_le.2 within)).trans ((if_pos (by simpa using dup)).trans (if_pos isReq))

theorem onData_of_dup (noReq : p.op ≠ 3) : onData s n d share p =
    answerDup (rxRelease (ceCounted s n d) d.port d.cls share) n q d p.psn ((recOf q p.psn).map (·.mark))
      ((recOf q p.psn).elim 0 (·.arrived)) := by
  simp only [onData, hq]
  refine (if_neg (Int.not_le.2 within)).trans ((if_pos (by simpa using dup)).trans ((if_neg noReq).trans ?_))
  cases recOf q p.psn with
  | none => rfl
  | some r => cases h : r.mark <;> simp [answerDup, h] <;> rfl

end

/-! ### Acceptance by the packet's kind -/

section
variable {s : State} {n : Nat} {q : Qp} {p : Pkt} (hq : tget s.qps n = some q)
include hq

theorem acceptPkt_of_late (late : (missedBefore q p.psn).1 = true) :
    acceptPkt s n p = finishRx s n p.psn (.refused stPageTimeout 2) [] true := by
  simp [acceptPkt, hq, late]

variable (inTime : (missedBefore q p.psn).1 = false)
include inTime

theorem acceptPkt_of_write (op : p.op = 1) : acceptPkt s n p =
    let r := beginAccess s q.inst (.rxPkt n p.psn) .remoteWrite p.va p.payload.length (missedBefore q p.psn).2
    placeWrite r.1 n p.psn r.2 true := by
  simp [acceptPkt, hq, inTime, op]

theorem acceptPkt_of_notify (op : p.op = 2) {r : RxRec} (hr : recOf q p.psn = some r) :
    acceptPkt s n p = scheduleAck (notifyWaits s n) n p (p.psn, r.arrived, r.path) := by
  simp [acceptPkt, hq, inTime, op, hr]

theorem acceptPkt_of_noResource (op : p.op = 3) (none : respOf q p.tag = none) (full : 128 ≤ q.resp.length) :
    acceptPkt s n p = finishRx s n p.psn (.refused stRemoteInvalid 4) [] true := by
  simp [acceptPkt, hq, inTime, op, none, full]

theorem acceptPkt_of_read (op : p.op = 3) (room : respOf q p.tag ≠ none ∨ q.resp.length < 128) :
    acceptPkt s n p = executeRead s n p true (missedBefore q p.psn).2 none := by
  have fits : ((respOf q p.tag).isNone && decide (128 ≤ q.resp.length)) = false := by
    obtain h | h := room
    · simp [h]
    · simp [Nat.not_le.2 h]
  simp [acceptPkt, hq, inTime, op, fits]

theorem acceptPkt_of_response (op : p.op = 4) : acceptPkt s n p = acceptResp s n q p := by
  simp [acceptPkt, hq, inTime, op]

end

/-! ### The commands -/

theorem exec_received_of_not_serving {s : State} (off : serving s = false) (m : Meets) :
    exec (.trainReceived m) s = .next s ∧ exec (.kiteReceived m) s = .next s ∧ exec .ackReceived s = .next s ∧ exec .movedReceived s = .next s := by
  simp only [exec, execTrainReceived, execKiteReceived, execAckReceived, execMovedReceived]
  cases takeRx s false with
  | none => exact ⟨rfl, rfl, rfl, rfl⟩
  | some x =>
    obtain ⟨d, t⟩ := x
    simp only [off]
    refine ⟨?_, ?_, ?_, ?_⟩ <;> split <;> rfl

section
variable {s t : State} {d : RxDgram} (on : serving s = true) (taken : takeRx s false = some (d, t))
include on taken

theorem exec_ackReceived {qpn : Nat} {b : AckBody} (body : d.body = .control qpn (.ack b)) :
    exec .ackReceived s = .next ((ctlQp t d qpn true).elim t fun q =>
      if q.state == .ready || q.state == .draining then tpeSettle (onAck t qpn q b) else t) := by
  simp only [exec, execAckReceived, taken, body, on]
  cases ctlQp t d qpn true <;> rfl

theorem exec_movedReceived {qpn : Nat} {b : MovedBody} (body : d.body = .control qpn (.moved b)) :
    exec .movedReceived s = .next ((ctlQp t d qpn false).elim t fun q =>
      if q.state == .ready || q.state == .draining then onMoved t qpn q b else t) := by
  simp only [exec, execMovedReceived, taken, body, on]
  cases ctlQp t d qpn false <;> rfl

end

end Sys2Proof.Machine

namespace Sys2Proof.Proofs
open Sys2Proof.Machine

/-- Settles O47: the oldest datagram by its body, a packet by its queue pair and its PSN, and its acceptance by its kind. -/
theorem datagramsReceived : Obligations.DatagramsReceived := by
  unfold Obligations.DatagramsReceived
  refine ⟨fun s m h => ?_, fun s t d m on taken => ⟨fun ps body => ?_, fun p body => ?_, fun other => ?_, fun other => ?_, fun other => ?_,
      fun other => ?_, fun qpn b body => ⟨fun q hq sa peer => ⟨fun up => ?_, fun ready draining => ?_⟩, fun foreign => ?_⟩,
      fun qpn b body => ⟨fun q hq sa peer => ⟨fun up => ?_, fun ready draining => ?_⟩, fun foreign => ?_⟩⟩,
    fun s d share p => ⟨fun none => ?_, fun q hq => ⟨rxPacket_of_otherSa hq, fun i sa frozen hi => rxPacket_of_frozen hq sa frozen hi,
      rxPacket_of_moved hq, rxPacket_of_reset hq, rxPacket_of_unbound hq, rxPacket_of_error hq, fun sa stays peer up => ?_⟩⟩,
    fun s n q p t hq => ⟨acceptPkt_of_late hq, acceptPkt_of_write hq, fun r inTime op hr => acceptPkt_of_notify hq inTime op hr,
      acceptPkt_of_noResource hq, acceptPkt_of_read hq, acceptPkt_of_response hq, fun r op hr => ⟨fun held => ?_, fun placed => ?_,
      fun st sub refused => ?_⟩, fun op new => ⟨fun late => ?_, fun inTime => ?_⟩⟩⟩
  · obtain none | off := h
    · simp [exec, execTrainReceived, execKiteReceived, execAckReceived, execMovedReceived, none]
    · exact exec_received_of_not_serving off m
  · simp [exec, execTrainReceived, taken, body, on]
  · simp [exec, execKiteReceived, taken, body, on]
  · simp only [exec, execTrainReceived, taken]
  · simp only [exec, execKiteReceived, taken]
  · simp only [exec, execAckReceived, taken]
  · simp only [exec, execMovedReceived, taken]
  · rw [exec_ackReceived on taken body, ctlQp_of_own hq sa (by simpa using peer)]
    exact congrArg _ (if_pos (by simpa using up))
  · rw [exec_ackReceived on taken body, ctlQp_of_own hq sa (by simpa using peer)]
    exact congrArg _ (if_neg (by simp [ready, draining]))
  · rw [exec_ackReceived on taken body, ctlQp_of_foreign (by simpa using foreign)]
    rfl
  · rw [exec_movedReceived on taken body, ctlQp_of_own hq sa (.inl peer)]
    exact congrArg _ (if_pos (by simpa using up))
  · rw [exec_movedReceived on taken body, ctlQp_of_own hq sa (.inl peer)]
    exact congrArg _ (if_neg (by simp [ready, draining]))
  · rw [exec_movedReceived on taken body, ctlQp_of_foreign (by simpa using foreign)]
    rfl
  · simp only [rxPacket, none]
  · rw [rxPacket_of_data hq sa stays peer up]
    refine ⟨onData_of_beyond hq, fun ahead within new => onData_of_new hq within ahead new,
      fun dup within isReq => onData_of_dupReq hq within dup isReq, fun behind noReq new => ?_, fun r within noReq hr => ?_⟩
    · rw [onData_of_dup hq (by omega) (.inl behind) noReq, new]
      rfl
    · have answer := onData_of_dup (d := d) (share := share) hq within (.inr (by rw [hr]; rfl)) noReq
      rw [hr] at answer
      refine ⟨fun held => ?_, fun placed => ?_, fun st sub refused => ?_⟩
      · rw [answer, Option.map_some, held]
        rfl
      · rw [answer, Option.map_some, placed]
        rfl
      · rw [answer, Option.map_some, refused]
        rfl
  · simp [readAgainReq, hr, held]
  · simp [readAgainReq, hr, placed]
  · simp [readAgainReq, hr, refused]
  · simp only [readAgainReq, new]
    exact if_pos late
  · simp only [readAgainReq, new]
    exact if_neg (Bool.eq_false_iff.1 inTime)

end Sys2Proof.Proofs
end

section
/-!
The receiver's timers and the delivery of notifies (O48).
-/

namespace Sys2Proof.Machine

/-! ### What the receiver's commands do for a queue pair that is there -/

/-- The held record of a PSN. -/
def heldRec (q : Qp) (psn : Word) : Option RxRec := (recOf q psn).filter fun r => r.mark == .held

theorem heldRec_of_held {q : Qp} {psn : Word} {r : RxRec} (hr : recOf q psn = some r) (held : r.mark = .held) : heldRec q psn = some r := by
  simp [heldRec, hr, held]

theorem heldRec_eq_none {q : Qp} {psn : Word} (h : ∀ r, recOf q psn = some r → r.mark ≠ .held) : heldRec q psn = none := by
  simpa [heldRec, Option.filter_eq_none_iff] using h

/-- An access that a held packet waits for. -/
def ownWait (qpn : Nat) (psn : Word) (r : RxRec) (w : Waiting) : Bool := match w.owner with
  | .rxPkt n p => n == qpn && p == psn
  | .respRead n tag => n == qpn && (r.pkt.any fun p => p.op == 3 && p.tag == tag)
  | _ => false

theorem ownWait_eq_false_iff (qpn : Nat) (psn : Word) (r : RxRec) (w : Waiting) :
    ownWait qpn psn r w = false ↔ w.owner ≠ .rxPkt qpn psn ∧
      ∀ tag, w.owner = .respRead qpn tag → ¬∃ p, r.pkt = some p ∧ p.op = 3 ∧ p.tag = tag := by
  unfold ownWait
  cases w.owner with
  | rxPkt n p => simp
  | respRead n tag => cases r.pkt <;> simp
  | _ => simp

/-- A held packet's accesses, and the resource its request took, are gone. -/
def withoutWaits (s : State) (qpn : Nat) (psn : Word) (r : RxRec) : State :=
  modQp { s with waits := s.waits.filter fun w => !ownWait qpn psn r w } qpn fun q =>
    { q with resp := q.resp.filter fun y => !((r.pkt.any fun p => p.op == 3) && y.psn == psn) }

section
variable {s : State} {qpn : Nat} {q : Qp} (hq : tget s.qps qpn = some q) (on : serving s = true)
include hq on

theorem exec_holdTimeout_of_free {psn : Word} (free : heldRec q psn = none) : exec (.holdTimeout qpn psn) s = .next (endReexecuted s qpn psn) := by
  unfold heldRec at free
  simp only [exec, execHoldTimeout, hq, on, free]
  rfl

theorem exec_holdTimeout_of_held {psn : Word} {r : RxRec} (held : heldRec q psn = some r) : exec (.holdTimeout qpn psn) s =
    if s.now < r.arrived + 1500000 then .next s
    else if r.miss then .next (finishRx (withoutWaits s qpn psn r) qpn psn (.refused stPageTimeout 2) [] false)
    else if r.staging then .next (finishRx s qpn psn (.refused stRemoteInvalid 6) [] false)
    else if lacksReceive s q r then .next (finishRx s qpn psn (.refused stRemoteInvalid 3) [] false)
    else .next s := by
  unfold heldRec at held
  simp only [exec, execHoldTimeout, hq, on, held]
  refine (if_neg Bool.false_ne_true).trans (if_congr Iff.rfl rfl (if_congr Iff.rfl ?_ rfl))
  rfl

end

/-! ### READ_REQs executed again -/

section
variable {s : State} {qpn : Nat} {q : Qp} (hq : tget s.qps qpn = some q) {psn : Word}
include hq

/-- A READ_REQ executed again ends where it has waited its time on a miss. -/
theorem endReexecuted_of_some {x : RespSlot} {a path : Nat} (hx : q.resp.find? (fun y => y.psn == psn && y.held.isSome) = some x)
    (held : x.held = some (a, path)) : endReexecuted s qpn psn =
      if (waitOf s (.respRead qpn x.tag)).any (fun w => !w.missed.isEmpty) && decide (a + 1500000 ≤ s.now) then
        sendNak (modQp (cancelResp s qpn x.tag) qpn fun z => { z with resp := z.resp.filter fun y => !(y.tag == x.tag) }) qpn (psn, a, path)
          stPageTimeout 2
      else s := by
  simp only [endReexecuted, hq, Option.bind_some, hx, held]

theorem endReexecuted_of_none (none : q.resp.find? (fun y => y.psn == psn && y.held.isSome) = none) : endReexecuted s qpn psn = s := by
  simp only [endReexecuted, hq, Option.bind_some, none]

end

theorem nextNotify_iff (q : Qp) (r : RxRec) :
    nextNotify q = some r ↔ recOf q q.cumPsn = some r ∧ r.mark = .held ∧ ∃ p, r.pkt = some p ∧ p.op = 2 := by
  unfold nextNotify
  cases h : recOf q q.cumPsn with
  | none => simp
  | some x =>
    by_cases e : x = r
    · subst e
      cases hp : x.pkt <;> simp [hp]
    · simp [e]

/-! ### NOTIFY_DELIVER -/

/-- The delivery of the notify `r` into the RQ entry `t`. -/
def deliverNotify (s : State) (qpn : Nat) (q : Qp) (r : RxRec) (p : Pkt) (t : Taken) : State :=
  let u := modQp s qpn fun x => { x with rq := { x.rq with taken := x.rq.taken.map fun y => if y.slot = t.slot then { y with started := true } else y } }
  match messageRefusal q p with
  | some x => finishRx s qpn r.psn (.refused x.1 x.2) [] false
  | none =>
    if !receiveLegal t.entry then endEntry u .rq qpn t.slot stMalformed 0 0
    else fetchRing (finishRx (drainQp (endSlot u .rq qpn t.slot (notifyOutcome p.payload)) .rq qpn) qpn r.psn .placed [] false) .rq qpn

section
variable {s : State} {qpn : Nat} {q : Qp} (hq : tget s.qps qpn = some q) (on : serving s = true)
include hq on

theorem exec_notifyDeliver {r : RxRec} {p : Pkt} {t : Taken} (hr : nextNotify q = some r) (hp : r.pkt = some p) (ht : nextReceive s q = some t)
    (up : q.state = .ready ∨ q.state = .draining) (seen : hiddenPsns q = []) :
    exec (.notifyDeliver qpn) s = .next (deliverNotify s qpn q r p t) := by
  have goes : (!serving s || !(q.state == .ready || q.state == .draining) || !(hiddenPsns q).isEmpty) = false := by
    obtain up | up := up <;> simp [on, up, seen]
  simp only [exec, execNotifyDeliver, hq, hr, ht, goes, hp, Option.bind_some, deliverNotify]
  cases messageRefusal q p with
  | some x => rfl
  | none => exact (apply_ite Host.Outcome.next ..).symm

omit on in
theorem exec_notifyDeliver_of_waiting
    (h : nextNotify q = none ∨ nextReceive s q = none ∨ (q.state ≠ .ready ∧ q.state ≠ .draining) ∨ hiddenPsns q ≠ []) :
    exec (.notifyDeliver qpn) s = .next s := by
  simp only [exec, execNotifyDeliver, hq]
  cases hr : nextNotify q with
  | none => rfl
  | some r =>
    cases ht : nextReceive s q with
    | none => rfl
    | some t =>
      refine if_pos ?_
      obtain h | h | ⟨ready, draining⟩ | h := h
      · simp [hr] at h
      · simp [ht] at h
      · simp [ready, draining]
      · simp [h]

end

/-! ### NOTIFY_WAIT_TIMEOUT and the others where nothing is there -/

/-- A notify has waited `ns` for an RQ entry. -/
def hasWaited (ns now : Nat) (r : RxRec) : Bool := r.waitAt.any fun t => decide (t + ns ≤ now)

theorem hasWaited_of_late {ns now t : Nat} {r : RxRec} (since : r.waitAt = some t) (late : t + ns ≤ now) : hasWaited ns now r = true := by
  simp [hasWaited, since, late]

theorem hasWaited_of_early {ns now t : Nat} {r : RxRec} (since : r.waitAt = some t) (early : now < t + ns) : hasWaited ns now r = false := by
  simp [hasWaited, since, Nat.not_le.2 early]

theorem hasWaited_of_none {ns now : Nat} {r : RxRec} (none : r.waitAt = none) : hasWaited ns now r = false := by
  simp [hasWaited, none]

theorem exec_notifyWaitTimeout {s : State} {qpn : Nat} {q : Qp} (hq : tget s.qps qpn = some q) (on : serving s = true) {r : RxRec}
    (hr : nextNotify q = some r) : exec (.notifyWaitTimeout qpn) s =
      .next (if hasWaited 1000000 s.now r && lacksReceive s q r then
        finishRx s qpn r.psn (.refused stRemoteInvalid 3) [] false else s) := by
  simp only [exec, execNotifyWaitTimeout, hq, hr, on]
  cases waits : r.waitAt with
  | none =>
    rw [hasWaited_of_none waits]
    rfl
  | some t =>
    rw [hasWaited, waits]
    rfl

theorem receiver_of_none {s : State} {qpn : Nat} (psn : Word) (h : tget s.qps qpn = none ∨ serving s = false) :
    exec (.ackDelayExpire qpn) s = .next s ∧ exec (.holdTimeout qpn psn) s = .next s ∧ exec (.notifyWaitTimeout qpn) s = .next s ∧
      exec (.notifyDeliver qpn) s = .next s := by
  simp only [exec, execAckDelayExpire, execHoldTimeout, execNotifyWaitTimeout, execNotifyDeliver]
  cases hq : tget s.qps qpn with
  | none => exact ⟨rfl, rfl, rfl, rfl⟩
  | some q =>
    have off : serving s = false := h.resolve_left (by simp [hq])
    simp only [off]
    refine ⟨?_, rfl, ?_, ?_⟩ <;> repeat' split
    all_goals simp_all

end Sys2Proof.Machine

namespace Sys2Proof.Proofs
open Sys2Proof.Machine

/-- Settles O48: each timer on both sides of its moment, and the delivery of the notify that is next. -/
theorem receiverTimers : Obligations.ReceiverTimers := by
  unfold Obligations.ReceiverTimers
  refine ⟨fun qpn psn s h => receiver_of_none psn h, fun qpn s q hq on => ⟨fun a t expire trig => ⟨fun thawed due => ?_, fun early => ?_⟩,
      fun none => ?_, fun psn r hr held => ?_, fun psn free => ?_, fun r hr => ?_, fun none => ?_⟩,
    fun qpn s q hq on => ⟨exec_notifyDeliver_of_waiting hq, fun r p t hr hp ht up seen => ?_⟩,
    fun s q => ⟨nextNotify_iff q, fun h => ?_, fun runs enabled => ?_⟩⟩
  · simp [exec, execAckDelayExpire, hq, expire, trig, on, thawed, due]
  · simp only [exec, execAckDelayExpire, hq, expire, trig, on]
    refine congrArg _ (if_neg ?_)
    obtain frozen | early := early
    · simp [frozen]
    · simp [Nat.not_le.2 early]
  · simp only [exec, execAckDelayExpire, hq]
    obtain h | h := none
    · simp only [h]
    · cases q.ackExpire <;> simp only [h]
  · intro ownRead
    rw [exec_holdTimeout_of_held hq on (heldRec_of_held hr held)]
    refine ⟨fun early => if_pos early, fun due miss => ⟨withoutWaits s qpn psn r, ?_, rfl, fun w => ?_, ?_, fun n ne => ?_⟩,
      fun due hit staging => ?_, fun due hit noStaging waits noEntry => ?_, fun hit noStaging h => ?_⟩
    · rw [if_neg (Nat.not_lt.2 due), if_pos miss]
    · refine List.mem_filter.trans (and_congr_right fun _ => ?_)
      rw [Bool.not_eq_true']
      exact ownWait_eq_false_iff qpn psn r w
    · simp [withoutWaits, modQp, tget_tmod, hq]
    · simp [withoutWaits, modQp, tget_tmod_of_ne _ _ _ _ ne]
    · rw [if_neg (Nat.not_lt.2 due), if_neg (Bool.eq_false_iff.1 hit), if_pos staging]
    · rw [if_neg (Nat.not_lt.2 due), if_neg (Bool.eq_false_iff.1 hit), if_neg (Bool.eq_false_iff.1 noStaging),
        if_pos (by simp [lacksReceive, waits, noEntry])]
    · have lacks : ¬lacksReceive s q r = true := by
        obtain h | h := h
        · simp [lacksReceive, h]
        · simp [lacksReceive, Option.isSome_iff_ne_none.1 h]
      rw [if_neg (Bool.eq_false_iff.1 hit), if_neg (Bool.eq_false_iff.1 noStaging), if_neg lacks, ite_self]
  · rw [exec_holdTimeout_of_free hq on (heldRec_eq_none free)]
    refine ⟨fun x a path hx held => ?_, fun none => ?_⟩
    · intro waits
      rw [endReexecuted_of_some hq hx held]
      refine ⟨fun h due => congrArg _ (if_pos ?_), fun h => congrArg _ (if_neg ?_)⟩
      · obtain ⟨w, hw, missed⟩ := h
        simp [hw, missed, due]
      · simp only [Bool.and_eq_true, Option.any_eq_true, Bool.not_eq_true', List.isEmpty_eq_false_iff, decide_eq_true_eq]
        rintro ⟨w, due⟩
        exact h.elim (· w) (Nat.not_lt.2 due)
    · rw [endReexecuted_of_none hq none]
  · rw [exec_notifyWaitTimeout hq on hr]
    refine ⟨fun t since due noEntry => ?_, fun h => ?_⟩
    · rw [hasWaited_of_late since due, lacksReceive, since, noEntry]
      rfl
    · obtain none | ⟨t, since, early⟩ | entry := h
      · rw [hasWaited_of_none none]
        rfl
      · rw [hasWaited_of_early since early]
        rfl
      · have noLack : lacksReceive s q r = false := by simp [lacksReceive, entry]
        rw [noLack, Bool.and_false]
        rfl
  · simp only [exec, execNotifyWaitTimeout, hq, none]
  · intro start u o
    rw [exec_notifyDeliver hq on hr hp ht up seen]
    refine ⟨fun st sub refused => ?_, fun whole legal => ?_, fun whole bad => ?_⟩
    · simp only [deliverNotify, refused]
    · simp only [deliverNotify, whole, legal]
      rfl
    · simp only [deliverNotify, whole, bad]
      rfl
  · exact if_pos (by obtain h | h := h <;> simp [h])
  · exact if_neg (by simp [runs, enabled])

end Sys2Proof.Proofs
end

section
/-!
Mailboxes: sending, relaying, acknowledging and masking notices (O49).
-/

namespace Sys2Proof.Machine

/-! ### Sending -/

/-- A channel whose notice `n` has been sent under the next SEQ. -/
def sentChan (s : State) (r : ChanRef) (c : Channel) (n : Nat) : State :=
  modChan s r fun x => { x with
    outN := lmod x.outN n fun m => { m with seq := c.outLast + 1 }, outDb := x.outDb ||| wordBit n, outLast := c.outLast + 1 }

/-- What becomes of a legal notice that has been sent, by the kind of its channel. -/
def queueNotice (s sent : State) (n : Nat) (w : BitVec 128) : ChanRef → State
  | .secure _ => sent
  | .inst i => { sent with relays := sent.relays ++
      [{ up := true, chan := (tget s.insts i).elim 0 (·.relayCh), inst := i, bit := n, slot := 0, begun := none }] }
  | .pf k => (tget sent.insts (noticePeer w)).elim (endNotice sent (.pf k) n 1 true) fun x =>
      if x.state == .resetting then endNotice sent (.pf k) n 0x13 true
      else { sent with relays := sent.relays ++ [{ up := false, chan := k, inst := noticePeer w, bit := n, slot := noticeBit w, begun := none }] }

section
variable {s : State} {r : ChanRef} {c : Channel} {n : Nat} (hc : chanOf s r = some c)
include hc

theorem mbxSend_of_signal {i : Nat} (inst : r = .inst i) (signal : n = 31) : mbxSend s r n = laDoorbell s i := by
  subst inst signal
  simp [mbxSend, hc]

variable (notice : isSignal r n = false)
include notice

theorem mbxSend_of_set (set : c.outDb.getLsbD n = true) : mbxSend s r n = s := by
  cases r <;> simp_all [mbxSend, isSignal, -BitVec.getLsbD_eq_getElem]

theorem mbxSend_of_new (new : c.outDb.getLsbD n = false) :
    mbxSend s r n = if !noticeLegal r (noticeAt c.outN n).words then endNotice (sentChan s r c n) r n 3 true
      else queueNotice s (sentChan s r c n) n (noticeAt c.outN n).words r := by
  cases r with
  | inst i =>
    simp only [isSignal] at notice
    simp only [mbxSend, hc, notice, new, queueNotice, sentChan]
    cases tget s.insts i <;> rfl
  | pf k =>
    simp only [mbxSend, hc, new, queueNotice, sentChan]
    cases noticeLegal (.pf k) (noticeAt c.outN n).words
    · rfl
    · rw [show (modChan s (.pf k) fun x => { x with
        outN := lmod x.outN n fun m => { m with seq := c.outLast + 1 }, outDb := x.outDb ||| wordBit n, outLast := c.outLast + 1 }).insts = s.insts
        from rfl]
      cases tget s.insts (noticePeer (noticeAt c.outN n).words) <;> rfl
  | secure k =>
    simp only [mbxSend, hc, new]
    rfl

end

theorem isSignal_eq_false {r : ChanRef} {n : Nat} (h : ∀ i, r = .inst i → n ≠ 31) : isSignal r n = false := by
  cases r with
  | inst i => simpa [isSignal] using h i rfl
  | pf | secure => rfl

/-! ### Ending -/

section
variable {s : State} {r : ChanRef} {c : Channel} {n : Nat} (hc : chanOf s r = some c) (code : BitVec 16)
include hc

/-- A channel whose OUT notice `n` has ended. -/
def endedChan (s : State) (r : ChanRef) (c : Channel) (n : Nat) (code : BitVec 16) (ack : Bool) : State :=
  modChan s r fun x => { x with
    outN := lmod x.outN n fun m => { m with ret := if ack then code else 0, epoch := s.epoch }
    outDb := c.outDb &&& ~~~wordBit n, outAcked := if ack then x.outAcked ||| wordBit n else x.outAcked
    empty := x.empty || (!ack && c.outDb &&& ~~~wordBit n == 0) }

theorem endNotice_ack : endNotice s r n code true =
    if !c.outAcked.getLsbD n && !c.outMask.getLsbD n then chanIrq (endedChan s r c n code true) r else endedChan s r c n code true := by
  simp only [endNotice, hc, endedChan, Bool.true_and, Bool.not_true, Bool.false_and, Bool.or_false]

theorem endNotice_empty : endNotice s r n code false =
    if c.outDb &&& ~~~wordBit n == 0 && !c.empty && !c.emptyMask then chanIrq (endedChan s r c n code false) r
    else endedChan s r c n code false := by
  simp only [endNotice, hc, endedChan, Bool.false_and, Bool.not_false, Bool.true_and, Bool.false_or]

end

/-! ### The relay -/

section
variable {s : State} {q : RelayTo} {x : Relay} {a c : Channel}
  (next : s.relays.find? (fun x => relayTo x == q && relayFree s x) = some x) (ha : chanOf s (relayFrom x) = some a)
  (hc : chanOf s (relayDest x) = some c)
include next ha hc

theorem exec_mbxRelayDeliver_of_full (done : Bool) (full : relaySlot x c = none) : exec (.mbxRelayDeliver q done) s = .next s := by
  simp only [exec, execMbxRelayDeliver, next, ha, hc, full]

theorem exec_mbxRelayDeliver (on : firmware s = true) (done : Bool) {n : Nat} (free : relaySlot x c = some n) :
    exec (.mbxRelayDeliver q done) s =
      let kept := x.begun == some c.inTaken
      let seq := if kept then c.inTaken else c.inTaken + 1
      let u := if kept then s else modChan s (relayDest x) fun y => { y with inTaken := seq }
      .next (if !done then { u with relays := u.relays.map fun y => if y = x then { y with begun := some seq } else y }
        else deliver { u with relays := u.relays.filter fun y => !(y == x) }
          (relayDest x) n (relayWords x (noticeAt a.outN x.bit).words) seq (some (if x.up then (x.inst, x.bit) else (x.chan, x.bit)))) := by
  simp only [exec, execMbxRelayDeliver, next, ha, hc, free, on]
  cases done <;> rfl

end

/-- Where nothing is next, or no firmware runs, nothing is relayed. -/
theorem exec_mbxRelayDeliver_of_none {s : State} {q : RelayTo} {done : Bool}
    (h : s.relays.find? (fun x => relayTo x == q && relayFree s x) = none ∨ firmware s = false) : exec (.mbxRelayDeliver q done) s = .next s := by
  simp only [exec, execMbxRelayDeliver]
  obtain h | off := h
  · simp only [h]
  · simp only [off]
    repeat' split
    all_goals simp_all

/-- How many notices of an instance wait to be relayed. -/
def queuedUp (s : State) (i : Nat) : Nat := (s.relays.filter fun y => y.up && y.inst == i).length

theorem relayFree_iff (s : State) (x : Relay) :
    relayFree s x = true ↔ instFrozen s x.inst = false ∧ (x.up = false → pageOpen s x.inst = true) := by
  simp [relayFree, or_iff_not_imp_left]

/-- A write that meets a closed window is counted and does nothing. -/
theorem exec_mbx_of_closed {s : State} {r : ChanRef} (closed : chanOpen s r = false) (w : Word) (n off : Nat) (code : BitVec 16) :
    exec (.mbxOutDoorbell r w) s = .next (heardMbx r s) ∧ exec (.mbxInDoorbellClear r w) s = .next (heardMbx r s) ∧
      exec (.mbxInAck r n code) s = .next (heardMbx r s) ∧ exec (.mbxMaskWrite r off w) s = .next (heardMbx r s) := by
  simp [exec, execMbxOutDoorbell, execMbxInDoorbellClear, execMbxInAck, execMbxMaskWrite, closed]

end Sys2Proof.Machine

namespace Sys2Proof.Proofs
open Sys2Proof.Machine

/-- Settles O49: the four writes, a notice's sending and its end, the relay's next notice, its delivery, and the channel's configuration. -/
theorem mailboxes : Obligations.Mailboxes := by
  unfold Obligations.Mailboxes
  refine ⟨fun r w n off code s => ⟨fun closed => exec_mbx_of_closed closed w n off code, fun beyond => ?_, fun c isOpen hc =>
      ⟨?_, ?_, fun hn => ?_, ?_, ?_, ?_, fun notOut notEmpty notIn => ?_⟩⟩,
    fun s r c n hc => ⟨fun i inst signal => mbxSend_of_signal hc inst signal, fun h => ?_⟩,
    fun s r c n code hc => ⟨fun none => ?_, fun p hp => ?_, fun clear => ?_, fun set signal => ?_, fun set notice => ?_,
      fun acked masked => ?_, fun h => ?_, fun last news unmasked => ?_, fun h => ?_⟩,
    fun s q done => ⟨fun h => ?_, fun x a c next ha hc on => ⟨exec_mbxRelayDeliver_of_full next ha hc done, fun n free => ?_⟩, fun x next => ?_⟩,
    fun s r c n w seq p hc => ?_,
    fun s slot c hs => ⟨fun r there => body_refused hs rfl (settle_of_some there) (.refl s), fun x none hx => ⟨fun query => ?_, fun set => ?_⟩⟩⟩
  · simp [exec, execMbxInAck, Nat.not_lt.2 beyond]
  · simp [exec, execMbxOutDoorbell, isOpen, outDoorbell, bitsOf]
  · simp [exec, execMbxInDoorbellClear, isOpen, inDoorbell, bitsOf]
  · simp [exec, execMbxInAck, isOpen, hn, inAck, hc, -BitVec.getLsbD_eq_getElem]
  · simp [exec, execMbxMaskWrite, isOpen, maskWrite, hc, unmaskIrq]
  · simp [exec, execMbxMaskWrite, isOpen, maskWrite, hc, unmaskIrq]
  · simp [exec, execMbxMaskWrite, isOpen, maskWrite, hc, unmaskIrq]
  · simp [exec, execMbxMaskWrite, isOpen, maskWrite, hc]
  · have notice := isSignal_eq_false h
    refine ⟨mbxSend_of_set hc notice, fun new bad => ?_, fun i x new legal inst hx => ?_, fun k new legal secure => ?_,
      fun k new legal pf => ⟨fun absent => ?_, fun x hx resetting => ?_, fun x hx up => ?_⟩⟩
    · rw [mbxSend_of_new hc notice new, bad]
      rfl
    · subst inst
      rw [mbxSend_of_new hc notice new, legal]
      simp only [queueNotice, hx]
      rfl
    · subst secure
      rw [mbxSend_of_new hc notice new, legal]
      rfl
    all_goals
      subst pf
      rw [mbxSend_of_new hc notice new, legal]
    · simp only [queueNotice, show (sentChan s (.pf k) c n).insts = s.insts from rfl, absent]
      rfl
    · simp only [queueNotice, show (sentChan s (.pf k) c n).insts = s.insts from rfl, hx]
      exact (if_neg Bool.false_ne_true).trans (if_pos (beq_iff_eq.2 resetting))
    · simp only [queueNotice, show (sentChan s (.pf k) c n).insts = s.insts from rfl, hx]
      exact (if_neg Bool.false_ne_true).trans (if_neg fun e => up (beq_iff_eq.1 e))
  · simp only [endIn, hc, none]
  · simp only [endIn, hc, hp]
  · simp [inClear, hc, clear, -BitVec.getLsbD_eq_getElem]
  · simp [inClear, hc, set, signal, -BitVec.getLsbD_eq_getElem]
  · simp only [inClear, hc, set, notice]
    cases noticeEmpty (noticeAt c.inN n).words <;> rfl
  · exact (endNotice_ack hc code).trans (if_pos (by simp [acked, masked, -BitVec.getLsbD_eq_getElem]))
  · exact (endNotice_ack hc code).trans (if_neg (by obtain h | h := h <;> simp [h, -BitVec.getLsbD_eq_getElem]))
  · exact (endNotice_empty hc code).trans (if_pos (by simp [show c.outDb &&& ~~~wordBit n = 0 from last, news, unmasked]))
  · refine (endNotice_empty hc code).trans (if_neg ?_)
    obtain more | h | h := h
    · rw [beq_eq_false_iff_ne.2 more]
      exact Bool.false_ne_true
    · simp [h]
    · simp [h]
  · exact exec_mbxRelayDeliver_of_none h
  · intro kept seq u
    have delivers := fun done => exec_mbxRelayDeliver next ha hc on done free
    by_cases h : x.begun = some c.inTaken <;> simp [delivers, kept, seq, u, h]
  · have isNext := List.find?_some (p := fun x => relayTo x == q && relayFree s x) next
    exact (relayFree_iff s x).1 (Bool.and_eq_true_iff.1 isNext).2
  · simp only [deliver, hc]
    exact if_congr (by simp [-BitVec.getLsbD_eq_getElem]) rfl rfl
  · refine body_with (g := fun e => putFld (putFld (putFld e 9 3 0 x.relayCh) 10 5 0 x.mbxVec) 12 15 0 (queuedUp s (cmdInst c))) hs rfl
      ((settle_of_none none).trans ((if_pos query).trans ?_)) (.refl s)
    simp only [hx]
    rfl
  · exact body_with (g := fun e => putFld e 12 15 0 (queuedUp s (cmdInst c))) hs rfl
      ((settle_of_none none).trans (if_neg (Bool.eq_false_iff.1 set))) (modInst_admSame _ _ _ (.refl s))

end Sys2Proof.Proofs
end

section
/-!
Secure service requests and the management bus (O51).
-/

namespace Sys2Proof.Machine

/-! ### Service requests -/

theorem mem_bitsOf {w : Word} {n : Nat} : n ∈ bitsOf w ↔ n < 32 ∧ w.getLsbD n = true := by
  simp [bitsOf, -BitVec.getLsbD_eq_getElem]

/-- The request that is served next stands in a channel's OUT_DOORBELL, and is not in execution. -/
theorem nextService_spec {s : State} {k b : Nat} (h : nextService s = some (k, b)) :
    ∃ c, s.secMbx[k]? = some c ∧ b < 32 ∧ c.outDb.getLsbD b = true ∧ (k, b) ∉ s.secRuns := by
  obtain ⟨i, -, hi⟩ := List.exists_of_findSome?_eq_some h
  dsimp only at hi
  cases hc : s.secMbx[(s.secLast + 1 + i) % 16]? with
  | none => simp [hc] at hi
  | some c =>
    simp only [hc, Option.map_eq_some_iff, Prod.mk.injEq] at hi
    obtain ⟨n, found, rfl, rfl⟩ := hi
    obtain ⟨small, set⟩ := mem_bitsOf.1 (List.mem_of_find?_eq_some found)
    have waits := List.find?_some found
    simp only [serviceWaits, Bool.and_eq_true, Bool.not_eq_true'] at waits
    exact ⟨c, hc, small, set, by simpa using waits.1⟩

theorem exec_secureServiceRequest {s : State} {k b : Nat} (on : firmware s = true) (next : nextService s = some (k, b)) :
    exec .secureServiceRequest s = .next
      (if serviceLegal (noticeAt ((s.secMbx[k]?.getD Channel.reset).outN) b).words (secureBody s k b) then
        service { s with secLast := k } k b (secureBody s k b)
      else endNotice { s with secLast := k } (.secure k) b 3 true) := by
  simp only [exec, execSecureServiceRequest, on, next]
  rfl

/-! ### Bytes of a message -/

theorem getD_drop_of_eq {m : Bytes} {n : Nat} {x : Byte} {xs : Bytes} (h : m.drop n = x :: xs) : m.getD n 0 = x ∧ m.drop (n + 1) = xs := by
  refine ⟨?_, by rw [← List.tail_drop, h, List.tail_cons]⟩
  have : m[n]? = some x := by rw [← List.head?_drop, h, List.head?_cons]
  simp [List.getD, this]

theorem leField_byte (m : Bytes) (n : Nat) : leField m n 1 7 0 = (m.getD n 0).toNat := by
  rw [leField, slice]
  cases h : m.drop n with
  | nil =>
    rw [List.getD_eq_default _ _ (List.drop_eq_nil_iff.1 h)]
    simp [leNat]
  | cons x xs =>
    rw [(getD_drop_of_eq h).1]
    simp [leNat, Nat.mod_eq_of_lt x.isLt]

theorem toNat_div_128_iff (b : Byte) : b.toNat / 128 = 1 ↔ b.getLsbD 7 = true := by decide +revert

theorem toNat_div_64_iff (b : Byte) : b.toNat / 64 % 2 = 0 ↔ b.getLsbD 6 = false := by decide +revert

theorem ofNat_toNat_mod_32 (b : Byte) : BitVec.ofNat 8 (b.toNat % 32) = b &&& 0x1F := by decide +revert

theorem two_le_toNat_mod_4_iff (b : Byte) : 2 ≤ b.toNat % 4 ↔ b &&& 3 = 2 ∨ b &&& 3 = 3 := by decide +revert

theorem tag_flags (tag : Byte) (small : tag.toNat < 8) : (0xC8 ||| tag) &&& 0xC8 = 0xC8 ∧ (0xC8 ||| tag) &&& 7 = tag := by
  decide +revert

/-! ### Packets of the management bus -/

/-- A packet's bytes before its packet error code. -/
def mctpHead (s : State) (src dst eid tag : Byte) (m : Bytes) : Bytes :=
  [smbusAddr s, 0x0F, BitVec.ofNat 8 (m.length + 5), src, 0x01, dst, eid, 0xC8 ||| tag] ++ m

theorem length_mctpHead (s : State) (src dst eid tag : Byte) (m : Bytes) : (mctpHead s src dst eid tag m).length = m.length + 8 := by
  simp [mctpHead]

/-- A packet that comes to this endpoint is taken where its packet error code is right. -/
theorem mctpOpen_of_packet {s : State} {src dst tag : Byte} (eid : Byte) {m : Bytes} (owner : src.getLsbD 0 = true) (own : dst = 0 ∨ dst = s.eid)
    (small : tag.toNat < 8) (full : 1 ≤ m.length) (fits : m.length ≤ 250) (x : Byte) :
    mctpOpen s (mctpHead s src dst eid tag m ++ [x]) =
      if pecOf (mctpHead s src dst eid tag m) != x then none else some { src := src, eid := eid, tag := tag, msg := m } := by
  obtain ⟨flags, low⟩ := tag_flags tag small
  have dest : (!(dst == 0 || dst == s.eid)) = false := by obtain h | h := own <;> simp [h]
  have code : (mctpHead s src dst eid tag m ++ [x]).getD (m.length + 8) 0 = x := by
    rw [← length_mctpHead s src dst eid tag m]
    simp [List.getD]
  have body : ((mctpHead s src dst eid tag m ++ [x]).drop 8).dropLast = m := by simp [mctpHead]
  have count : ((BitVec.ofNat 8 (m.length + 5)).toNat + 4 != m.length + 9) = false := by simp; omega
  have long : decide (m.length + 9 < 10) = false := by simpa using by omega
  have bytes : ∀ p, p = mctpHead s src dst eid tag m ++ [x] → p.getD 0 0 = smbusAddr s ∧ p.getD 1 0 = 0x0F ∧
      p.getD 2 0 = BitVec.ofNat 8 (m.length + 5) ∧ p.getD 3 0 = src ∧ p.getD 4 0 = 0x01 ∧ p.getD 5 0 = dst ∧ p.getD 6 0 = eid ∧
      p.getD 7 0 = 0xC8 ||| tag := by
    rintro _ rfl
    exact ⟨rfl, rfl, rfl, rfl, rfl, rfl, rfl, rfl⟩
  obtain ⟨b0, b1, b2, b3, b4, b5, b6, b7⟩ := bytes _ rfl
  simp only [mctpOpen, b0, b1, b2, b3, b4, b5, b6, b7, List.length_append, length_mctpHead, List.length_cons, List.length_nil,
    show m.length + 8 + (0 + 1) - 1 = m.length + 8 from rfl, code, body, List.dropLast_concat, owner, dest, flags, low, count, long]
  simp

/-- SET_ENDPOINT_ID by its operation and its EID. -/
theorem mctpAnswer_setEid (s : State) (op id : Byte) : mctpAnswer s 1 [op, id] =
    if (op &&& 3 = 2 ∨ op &&& 3 = 3) ∨ id = 0 ∨ id = 0xFF then ([0x02], s.eid) else ([0x00, 0x00, id, 0x00], id) := by
  have kind : leField [op, id] 0 1 1 0 = op.toNat % 4 := by simp [leField, slice, leNat]
  simp only [mctpAnswer, kind]
  exact (if_neg Bool.false_ne_true).trans (if_congr (by simp only [Bool.or_eq_true, decide_eq_true_eq, two_le_toNat_mod_4_iff, or_assoc]; rfl) rfl rfl)

theorem mctpAnswer_of_other (s : State) (d : Bytes) {c : Byte} (one : c ≠ 1) (two : c ≠ 2) (four : c ≠ 4) (five : c ≠ 5) :
    mctpAnswer s c.toNat d = ([0x05], s.eid) := by
  have ne : ∀ x : Byte, c ≠ x → c.toNat ≠ x.toNat := fun x h e => h (BitVec.eq_of_toNat_eq e)
  have n1 : c.toNat ≠ 1 := ne 1 one
  have n2 : c.toNat ≠ 2 := ne 2 two
  have n4 : c.toNat ≠ 4 := ne 4 four
  have n5 : c.toNat ≠ 5 := ne 5 five
  simp only [mctpAnswer]
  rfl

/-- A packet for another address is not taken. -/
theorem mctpOpen_of_otherAddr {s : State} {p : Bytes} (other : p.head? ≠ some (smbusAddr s)) : mctpOpen s p = none := by
  cases p with
  | nil => rfl
  | cons a p =>
    have ne : ((a :: p).getD 0 0 != smbusAddr s) = true := by simpa using other
    simp only [mctpOpen, ne, Bool.or_true, Bool.true_or]
    rfl

section
variable {s : State} {p : Bytes} {r : MctpPacket} (hr : mctpOpen s p = some r)
include hr

theorem exec_mctpVendorRequest : exec (.mctpVendorRequest p) s =
    if !live s || r.msg.take 5 != vendorHead || r.msg.length < 6 then .next s
    else .next (emit (vendorRun s r.msg).1 (.smbus (mctpReply s r (vendorRun s r.msg).2))) := by
  simp only [exec, execMctpVendorRequest, hr]

/-- A control request asks for an answer. -/
def Asks (s : State) (m : Bytes) : Prop :=
  s.power.phase = .up ∧ 3 ≤ m.length ∧ m.getD 0 0 = 0 ∧ (m.getD 1 0).getLsbD 7 = true ∧ (m.getD 1 0).getLsbD 6 = false

theorem exec_mctpControlMessage_of_asks (asks : Asks s r.msg) {a : Bytes} {id : BitVec 8}
    (answer : mctpAnswer s (r.msg.getD 2 0).toNat (r.msg.drop 3) = (a, id)) :
    exec (.mctpControlMessage p) s = .next (emit { s with eid := id, fresh := s.fresh + 1 }
      (.smbus (mctpReply s r ([0x00, r.msg.getD 1 0 &&& 0x1F, r.msg.getD 2 0] ++ a)))) := by
  obtain ⟨up, long, type, request, noDatagram⟩ := asks
  simp only [exec, execMctpControlMessage, hr, leField_byte, answer, ofNat_toNat_mod_32, (toNat_div_128_iff _).2 request,
    (toNat_div_64_iff _).2 noDatagram, up, type]
  exact if_neg (by simpa using long)

theorem exec_mctpControlMessage_of_not (quiet : ¬Asks s r.msg) : exec (.mctpControlMessage p) s = .next s := by
  simp only [exec, execMctpControlMessage, hr, leField_byte]
  refine if_pos ?_
  by_contra h
  refine quiet ?_
  simp only [Bool.or_eq_true, bne_iff_ne, decide_eq_true_eq, not_or, not_not, Nat.not_lt] at h
  obtain ⟨⟨⟨⟨up, long⟩, type⟩, request⟩, noDatagram⟩ := h
  exact ⟨up, long, type, (toNat_div_128_iff _).1 request, (toNat_div_64_iff _).1 noDatagram⟩

end

end Sys2Proof.Machine

namespace Sys2Proof.Proofs
open Sys2Proof.Machine

/-- Settles O51: the next service request by its opcode, a packet by its bytes, and the two kinds of message by what they ask. -/
theorem management : Obligations.Management := by
  unfold Obligations.Management
  refine ⟨fun s => ⟨fun h => ?_, fun k b on next => ?_, fun k b => nextService_spec⟩,
    fun s src dst eid tag m owner own small full fits => ⟨?_, fun x ne => ?_⟩, fun s p h => ?_,
    fun s p r hr => ⟨fun h => ?_, fun on vendor long => ?_, ?_⟩, fun s => ⟨fun low => ?_, fun high => ?_⟩⟩
  · obtain off | none := h
    · simp [exec, execSecureServiceRequest, off]
    · cases h : firmware s <;> simp [exec, execSecureServiceRequest, h, none]
  · intro u e w
    rw [exec_secureServiceRequest on next]
    refine ⟨fun bad => congrArg _ (if_neg (Bool.eq_false_iff.1 bad)), fun legal => ?_⟩
    rw [if_pos legal]
    refine ⟨fun op => ?_, fun op => ?_, fun op out => ?_, fun op inService => ?_, fun op => ?_, fun op => ?_⟩
    all_goals simp only [service, show fld (secureBody s k b) 0 15 0 = _ from op]
    · rfl
    · rfl
    · exact congrArg _ (if_pos (beq_iff_eq.2 out))
    · exact congrArg _ (if_neg fun e => inService (beq_iff_eq.1 e))
    · rfl
    · rfl
  · exact (mctpOpen_of_packet eid owner own small full fits _).trans (if_neg (by simp [mctpHead]))
  · exact (mctpOpen_of_packet eid owner own small full fits x).trans (if_pos (bne_iff_ne.2 fun e => ne e.symm))
  · have shut : mctpOpen s p = none := h.elim id mctpOpen_of_otherAddr
    simp [exec, execMctpVendorRequest, execMctpControlMessage, shut]
  · refine (exec_mctpVendorRequest hr).trans (if_pos ?_)
    obtain h | h | h := h <;> simp [h]
  · rw [exec_mctpVendorRequest hr, if_neg (by simp [on, vendor, Nat.not_lt.2 long])]
    refine ⟨fun bad => ?_, fun legal op => ?_, fun legal op => ?_⟩
    · simp [vendorRun, bad]
    · simp [vendorRun, legal, op]
    · simp [vendorRun, legal, op]
  · intro asks answers
    have ends : ∀ {a id}, Asks s r.msg → mctpAnswer s (r.msg.getD 2 0).toNat (r.msg.drop 3) = (a, id) → answers id a :=
      fun asks => exec_mctpControlMessage_of_asks hr asks
    refine ⟨exec_mctpControlMessage_of_not hr, fun op id asks h kind zero ones => ends asks ?_, fun op id asks h kind => ends asks ?_,
      fun asks h => ends asks ?_, fun t asks h kind => ⟨Config.unstated s.fresh, ends asks ?_⟩, fun t asks h ones zero vendor => ends asks ?_,
      fun asks h => ends asks ?_, fun asks h => ends asks ?_, fun asks one two four five => ends asks ?_⟩
    · obtain ⟨cmd, rest⟩ := getD_drop_of_eq h
      rw [cmd, rest]
      refine (mctpAnswer_setEid s op id).trans (if_neg ?_)
      rintro ((h | h) | h | h)
      · rw [h] at kind
        exact absurd kind (by decide)
      · rw [h] at kind
        exact absurd kind (by decide)
      · exact zero h
      · exact ones h
    · obtain ⟨cmd, rest⟩ := getD_drop_of_eq h
      rw [cmd, rest]
      exact (mctpAnswer_setEid s op id).trans (if_pos (by simpa only [or_assoc] using kind))
    · obtain ⟨cmd, rest⟩ := getD_drop_of_eq h
      rw [cmd, rest]
      rfl
    · obtain ⟨cmd, rest⟩ := getD_drop_of_eq h
      rw [cmd, rest]
      obtain rfl | rfl | rfl := kind <;> rfl
    · obtain ⟨cmd, rest⟩ := getD_drop_of_eq h
      rw [cmd, rest]
      refine if_neg ?_
      simp only [Bool.or_eq_true, decide_eq_true_eq, not_or]
      exact ⟨⟨ones, zero⟩, vendor⟩
    · obtain ⟨cmd, rest⟩ := getD_drop_of_eq h
      rw [cmd, rest]
      rfl
    · have count : (r.msg.drop 3).length = r.msg.length - 3 := List.length_drop
      have long : 3 ≤ r.msg.length := asks.2.1
      obtain ⟨cmd, len⟩ | ⟨cmd, len⟩ | ⟨cmd, len⟩ | ⟨cmd, len⟩ := h <;> rw [cmd] <;>
        exact if_pos (bne_iff_ne.2 (by omega))
    · exact mctpAnswer_of_other s _ (by simpa using one) (by simpa using two) (by simpa using four) (by simpa using five)
  · simp [exec, execSmbusAlertResponse, low]
  · simp [exec, execSmbusAlertResponse, high]

end Sys2Proof.Proofs
end

section
/-!
Power states: requests, Roost, Glide by load (O52).
-/

namespace Sys2Proof.Machine

/-! ### The records of a change of state are reports -/

theorem notePower_onlyReports (s : State) (old new cause : Nat) :
    OnlyReports (owlPut s 0x0013 (powerData old new cause)) (notePower s old new cause) :=
  (post_onlyReports ..).trans (trace_onlyReports ..)

/-- A state as a move to `new` leaves it, but for its records. -/
def movedTo (new : Nat) (s : State) : State :=
  { s with
    pm := { s.pm with state := new, lowSince := none, winStart := s.now, winSeen := s.traffic }
    power := { s.power with glideTarget := new == 1 } }

theorem movePower_onlyReports (s : State) (new cause : Nat) :
    OnlyReports (movedTo new (owlPut s 0x0013 (powerData s.pm.state new cause))) (movePower s new cause) := by
  have records := notePower_onlyReports s s.pm.state new cause
  exact ⟨congrArg (movedTo new) records.same, records.mem, records.written, records.failed, records.outs⟩

/-! ### The request -/

section
variable (s : State) (target cause : Nat)

/-- A request for Flight or Glide as it is recorded. -/
def recorded : State := { s with pm := { s.pm with glideReq := target == 1, loadExit := false } }

theorem askState_of_roost (roost : s.pm.state = 2) :
    askState s target cause = { recorded s target with pm := { (recorded s target).pm with wake := some (target, cause) } } := by
  simp only [askState, roost, recorded]

theorem askState_of_glide (glide : s.pm.state = 1) :
    askState s target cause = if target = 0 && !s.pm.throttled then movePower (recorded s target) 0 cause else recorded s target := by
  simp only [askState, glide, recorded]

theorem askState_of_flight (flight : s.pm.state = 0) :
    askState s target cause = if target = 1 then movePower (recorded s target) 1 cause else recorded s target := by
  simp only [askState, flight, recorded]

end

section
variable {s : State} {slot : Nat}

theorem powerRequest_of_change {t : Nat} (h : t ≤ 1) :
    powerRequest s (.admin slot) t = completeWith (askState s t 0) slot (powerResults (askState s t 0)) := by
  obtain rfl | rfl : t = 0 ∨ t = 1 := by omega
  · rfl
  · rfl

end

/-! ### The ports Roost holds -/

/-- The numbers below `k` that satisfy `p`, as the bits of a number. -/
def maskOf (p : Nat → Bool) (k : Nat) : Nat := (((List.range k).filter p).map fun i => 2 ^ i).sum

theorem maskOf_succ (p : Nat → Bool) (k : Nat) : maskOf p (k + 1) = (if p k then 2 ^ k else 0) + maskOf p k := by
  rw [maskOf, List.range_succ, List.filter_append, List.map_append, List.sum_append, maskOf, Nat.add_comm]
  cases h : p k <;> simp [h]

theorem maskOf_lt (p : Nat → Bool) (k : Nat) : maskOf p k < 2 ^ k := by
  induction k with
  | zero => exact Nat.one_pos
  | succ k ih =>
    rw [maskOf_succ, Nat.pow_succ]
    split <;> omega

theorem testBit_maskOf (p : Nat → Bool) {k n : Nat} (h : n < k) : (maskOf p k).testBit n = p n := by
  induction k with
  | zero => exact absurd h n.not_lt_zero
  | succ k ih =>
    rw [maskOf_succ]
    obtain rfl | below : n = k ∨ n < k := by omega
    · cases hp : p n with
      | true => rw [if_pos rfl, Nat.testBit_two_pow_add_eq, Nat.testBit_lt_two_pow (maskOf_lt p n)]; rfl
      | false => rw [if_neg Bool.false_ne_true, Nat.zero_add, Nat.testBit_lt_two_pow (maskOf_lt p n)]
    · cases hp : p k with
      | true => rw [if_pos rfl, Nat.testBit_two_pow_add_gt below, ih below]
      | false => rw [if_neg Bool.false_ne_true, Nat.zero_add, ih below]

/-! ### The entry into Roost -/

/-- What holding ports and reports leave as it was. -/
structure RoostKept (s t : State) : Prop where
  running : t.trace.running = s.trace.running
  ring    : t.trace.ring = s.trace.ring
  insts   : t.insts = s.insts

theorem RoostKept.trans {s t u : State} (h : RoostKept s t) (k : RoostKept t u) : RoostKept s u :=
  ⟨k.running.trans h.running, k.ring.trans h.ring, k.insts.trans h.insts⟩

theorem OnlyReports.roostKept {s t : State} (h : OnlyReports s t) : RoostKept s t :=
  ⟨h.eq_of (·.trace.running) fun _ => rfl, h.ring_eq, h.eq_of (·.insts) fun _ => rfl⟩

theorem movePort_roostKept (s : State) (n : Nat) (st : PortState) : RoostKept s (movePort s n st) := by
  obtain ⟨running, ring, insts⟩ := (movePort_onlyReports s n st).roostKept
  exact ⟨running, ring, insts⟩

theorem holdPort_roostKept (s : State) (n : Nat) : RoostKept s (holdPort s n) := by
  unfold holdPort
  dsimp only
  split
  · obtain ⟨running, ring, insts⟩ :=
      movePort_roostKept { s with pins := { s.pins with nTxEnable := s.pins.nTxEnable &&& ~~~BitVec.ofNat 8 (2 ^ n) } } n .held
    exact ⟨running, ring, insts⟩
  · exact ⟨rfl, rfl, rfl⟩

theorem foldl_holdPort_roostKept (s : State) (l : List Nat) : RoostKept s (l.foldl holdPort s) :=
  List.foldlRecOn (motive := RoostKept s) l holdPort ⟨rfl, rfl, rfl⟩ fun _ h n _ => h.trans (holdPort_roostKept _ n)

/-- The ports that Roost holds. -/
def roostPorts (s : State) : List Nat := (List.range 8).filter fun n => (portOf s n).state == .up || (portOf s n).state == .training

/-- The entry up to its records. -/
def beforeRoost (s : State) (cause : Nat) : State :=
  trace (notePower ((roostPorts s).foldl holdPort s) s.pm.state 2 cause) none 0x0001 0 (evData [(16, 1, 2)])

theorem notePower_roostKept (s : State) (old new cause : Nat) : RoostKept s (notePower s old new cause) := by
  obtain ⟨running, ring, insts⟩ := (notePower_onlyReports s old new cause).roostKept
  exact ⟨running, ring, insts⟩

theorem beforeRoost_roostKept (s : State) (cause : Nat) : RoostKept s (beforeRoost s cause) :=
  ((foldl_holdPort_roostKept s _).trans (notePower_roostKept ..)).trans (trace_onlyReports ..).roostKept

/-- A state in Roost, the time aside. -/
def inRoost (s u : State) : State :=
  { u with
    trace := { u.trace with suspended := u.trace.running, sinceSusp := 0 }
    pm := { u.pm with
      state := 2, glideReq := false, loadExit := false, lowSince := none, roost := none, wake := none
      heldPorts := BitVec.ofNat 8 ((roostPorts s).map fun n => 2 ^ n).sum, counters := u.counters }
    power := { u.power with glideTarget := false } }

theorem enterRoost_eq (s : State) (cause : Nat) : enterRoost s cause =
    let u := inRoost s (beforeRoost s cause)
    if u.time.state == .locked then toFreerun u else u := by
  simp only [enterRoost, inRoost, beforeRoost, roostPorts]
  rfl

/-! ### A change of the time state -/

/-- `t` is `s` but for the time, the ports and reports. -/
def OnlyTime (s t : State) : Prop := quiet t = { quiet s with ports := t.ports, time := t.time }

theorem OnlyReports.onlyTime {s t : State} (h : OnlyReports s t) : OnlyTime s t := by
  unfold OnlyTime
  rw [h.same, h.ports_eq, h.time_eq]
  rfl

theorem OnlyTime.trans {s t u : State} (h : OnlyTime s t) (k : OnlyTime t u) : OnlyTime s u := by
  unfold OnlyTime at *
  rw [k, h]

theorem OnlyTime.eq_of {α : Type} {s t : State} (h : OnlyTime s t) (f : State → α)
    (hf : ∀ u ports time, f { quiet u with ports := ports, time := time } = f u) : f t = f s := by
  rw [← hf t t.ports t.time, ← hf s t.ports t.time]
  exact congrArg f h

theorem gateRefreshPort_onlyTime (s : State) (n : Nat) : OnlyTime s (gateRefreshPort s n) := by
  unfold gateRefreshPort
  split
  · exact (OnlyReports.refl s).onlyTime
  · dsimp only
    split
    · exact OnlyTime.trans (t := { s with ports := lmod s.ports n fun q => { q with applied := _ } }) rfl (post_onlyReports ..).onlyTime
    · exact (OnlyReports.refl s).onlyTime

theorem gateRefresh_onlyTime (s : State) : OnlyTime s (gateRefresh s) :=
  List.foldlRecOn (motive := OnlyTime s) _ gateRefreshPort (OnlyReports.refl s).onlyTime fun _ h n _ => h.trans (gateRefreshPort_onlyTime _ n)

theorem setTime_onlyTime (s : State) (st : TimeState) (trusted : Bool) (guardEnd trustEnd : Option Nat) :
    OnlyTime s (setTime s st trusted guardEnd trustEnd) := by
  have timed (u : TimeBase) : OnlyTime s { s with time := u } := rfl
  unfold setTime
  dsimp only
  split
  · exact ((timed _).trans (post_onlyReports ..).onlyTime).trans (gateRefresh_onlyTime _)
  · exact timed _

theorem enterRoost_onlyTime (s : State) (cause : Nat) : OnlyTime (inRoost s (beforeRoost s cause)) (enterRoost s cause) := by
  rw [enterRoost_eq]
  dsimp only
  split
  · exact setTime_onlyTime ..
  · exact (OnlyReports.refl _).onlyTime

theorem enterRoost_not_locked (s : State) (cause : Nat) : (enterRoost s cause).time.state ≠ .locked := by
  rw [enterRoost_eq]
  dsimp only
  split
  · rw [toFreerun, setTime_time]
    exact TimeState.noConfusion
  · next h => exact fun e => h (beq_iff_eq.2 e)

/-- A load window that is measured, and ends. -/
theorem exec_glideLoadWindow_of_due {s : State} (on : serving s = true) (free : s.pm.throttled = false) (due : s.pm.winStart + 2000 ≤ s.now)
    (need : Nat) (pace : Int) : exec (.glideLoadWindow need pace) s =
      let l := trafficSince s.traffic s.pm.winSeen
      let ns := s.now - s.pm.winStart
      let u := nextWindow s
      if s.pm.state = 1 && loadOver l ns then
        let t := movePower { u with pm := { u.pm with loadExit := true } } 0 causeLoad
        let mv := max s.power.coreMv.toNat (min 880 (max 620 need))
        .next { t with power := { t.power with
          coreMv := BitVec.ofNat 16 mv, atCeiling := mv == 880, marginPct := BitVec.ofNat 8 (min 255 pace.toNat) } }
      else if s.pm.state = 0 && s.pm.loadExit then
        if !loadLow l ns then .next { u with pm := { u.pm with lowSince := none } }
        else if s.pm.lowSince.getD s.pm.winStart + 1000000 ≤ s.now then
          .next (movePower { u with pm := { u.pm with loadExit := false } } 1 causeLoad)
        else .next { u with pm := { u.pm with lowSince := some (s.pm.lowSince.getD s.pm.winStart) } }
      else .next u := by
  simp only [exec, execGlideLoadWindow, on, free]
  exact (if_neg Bool.false_ne_true).trans ((if_neg Bool.false_ne_true).trans (if_neg (Nat.not_lt.2 due)))

/-- The load of a window against given figures. -/
theorem loadAbove_iff (l : Traffic) (ns mbps kpps : Nat) : loadAbove l ns mbps kpps = true ↔
    mbps * ns < 8000 * l.rxBytes ∨ mbps * ns < 8000 * l.txBytes ∨ kpps * ns < 1000000 * l.rxPkts ∨ kpps * ns < 1000000 * l.txPkts := by
  simp [loadAbove, or_assoc]

end Sys2Proof.Machine

namespace Sys2Proof.Proofs
open Sys2Proof.Machine

/-- Settles O52: the request by its target, the entry and the exit of Roost, and a load window by the state it ends in. -/
theorem powerStates : Obligations.PowerStates := by
  unfold Obligations.PowerStates
  refine ⟨fun slot s c hs => ⟨fun query => ?_, fun change => ?_, fun roost busy => ?_, fun roost free there => ?_, fun roost free notThere active => ?_,
      fun roost free notThere frozen => ?_⟩,
    fun s target cause new => ⟨askState_of_roost s target cause, fun glide flight free => ?_, fun glide h => ?_, fun flight glide => ?_,
      fun flight notGlide => ?_, movePower_onlyReports s new cause, fun e => rfl⟩,
    fun s => ⟨fun h => ?_, fun r hr on fw due notThere => ⟨fun x active hx => ?_, fun active hx => ?_, fun x frozen hx => ?_, fun frozen hx => ?_⟩,
      fun slot hr => ?_, fun cause => ?_, fun h => ?_, fun target cause wake on there => ?_⟩,
    fun need pace s => ⟨fun off => ?_, fun on throttled => ?_, fun on free early => ?_, fun on free due => ⟨fun glide above => ?_, fun glide below => ?_,
      fun notGlide h => ?_, fun flight byLoad => ⟨fun high => ?_, fun low early => ?_, fun low late => ?_⟩⟩, ?_, ?_⟩⟩
  · exact body_with (g := powerResults s) hs rfl (by simp only [query]; rfl) (.refl s)
  · exact body_with (g := powerResults (askState s (fld c.entry 8 1 0) 0)) hs rfl
      ((if_neg (by simp; omega)).trans (powerRequest_of_change change)) (askState_admSame _ _ _ (.refl s))
  · exact exec_of_canStart hs rfl (if_pos (by simp [roost, busy]))
  · exact body_with (g := powerResults s) hs rfl (by simp [roost, free, powerRequest, there, refDone]) (.refl s)
  · exact body_refused hs rfl (by simp [roost, free, powerRequest, notThere, active, refRefuse]) (.refl s)
  · exact exec_of_canStart hs rfl (by simp [roost, free, powerRequest, notThere, frozen])
  · rw [askState_of_glide s target cause glide]
    exact if_pos (by simp [flight, free])
  · rw [askState_of_glide s target cause glide]
    exact if_neg (by obtain h | h := h <;> simp [h])
  · exact (askState_of_flight s target cause flight).trans (if_pos glide)
  · exact (askState_of_flight s target cause flight).trans (if_neg notGlide)
  · cases hr : s.pm.roost with
    | none => simp only [exec, execRoostEnter, hr]
    | some r =>
      simp only [exec, execRoostEnter, hr]
      refine if_pos ?_
      obtain h | h | h | h | h := h
      · simp [hr] at h
      · simp [h]
      · simp [h]
      · simp [h]
      · simp [h]
  · subst hx
    simp [exec, execRoostEnter, hr, on, fw, due, notThere, active]
  · subst hx
    simp [exec, execRoostEnter, hr, on, fw, due, notThere, active]
  · subst hx
    simp [exec, execRoostEnter, hr, on, fw, due, notThere, frozen]
  · subst hx
    simp [exec, execRoostEnter, hr, on, fw, due, notThere, frozen]
  · simp [roostDue, hr]
  · have entered := enterRoost_onlyTime s cause
    have before := beforeRoost_roostKept s cause
    refine ⟨entered.eq_of (·.pm.state) fun _ _ _ => rfl, entered.eq_of (·.pm.glideReq) fun _ _ _ => rfl, entered.eq_of (·.pm.roost) fun _ _ _ => rfl,
      entered.eq_of (·.pm.wake) fun _ _ _ => rfl, ?_, (entered.eq_of (·.trace.suspended) fun _ _ _ => rfl).trans before.running,
      (entered.eq_of (·.trace.ring) fun _ _ _ => rfl).trans before.ring, entered.eq_of (·.power.glideTarget) fun _ _ _ => rfl,
      enterRoost_not_locked s cause, (entered.eq_of (·.insts) fun _ _ _ => rfl).trans before.insts, fun n hn => ?_⟩
    · exact (entered.eq_of (·.pm.counters) fun _ _ _ => rfl).trans (entered.eq_of (·.counters) fun _ _ _ => rfl).symm
    · rw [entered.eq_of (·.pm.heldPorts) fun _ _ _ => rfl]
      exact (BitVec.getLsbD_ofNat ..).trans (by rw [decide_eq_true hn, Bool.true_and]; exact testBit_maskOf _ hn)
  · cases wake : s.pm.wake with
    | none => simp only [exec, execRoostExit, wake]
    | some x =>
      simp only [exec, execRoostExit, wake]
      refine if_pos ?_
      obtain h | h | h := h
      · simp [wake] at h
      · simp [h]
      · simp [h]
  · simp only [exec, execRoostExit, wake, on, there]
    rfl
  · simp [exec, execGlideLoadWindow, off]
  · simp [exec, execGlideLoadWindow, on, throttled, nextWindow]
  · simp [exec, execGlideLoadWindow, on, free, early]
  · exact (exec_glideLoadWindow_of_due on free due need pace).trans (if_pos (by simp [glide, above]))
  · exact (exec_glideLoadWindow_of_due on free due need pace).trans ((if_neg (by simp [below])).trans (if_neg (by simp [glide])))
  · exact (exec_glideLoadWindow_of_due on free due need pace).trans ((if_neg (by simp [notGlide])).trans
      (if_neg (by obtain h | h := h <;> simp [h])))
  · exact (exec_glideLoadWindow_of_due on free due need pace).trans ((if_neg (by simp [flight])).trans
      ((if_pos (by simp [flight, byLoad])).trans (if_pos (by simp [high]))))
  · exact (exec_glideLoadWindow_of_due on free due need pace).trans ((if_neg (by simp [flight])).trans
      ((if_pos (by simp [flight, byLoad])).trans ((if_neg (by simp [low])).trans (if_neg (Nat.not_le.2 early)))))
  · exact (exec_glideLoadWindow_of_due on free due need pace).trans ((if_neg (by simp [flight])).trans
      ((if_pos (by simp [flight, byLoad])).trans ((if_neg (by simp [low])).trans (if_pos late))))
  · exact loadAbove_iff ..
  · rw [loadLow, Bool.not_eq_true', Bool.eq_false_iff, Ne, loadAbove_iff]
    simp only [not_or, Nat.not_lt]

end Sys2Proof.Proofs
end

section
/-!
Owl's sample: filters, rules, trips (O53).
-/

namespace Sys2Proof.Machine

/-! ### Samples and filters -/

section
variable {n : Nat} (hn : n < 32)
include hn

theorem getElem?_ownSamples (s : State) (xs : List Int) : (ownSamples s xs)[n]? = some (
    let l := trafficSince s.traffic s.owl.seen
    if n = 26 then (l.tlps : Int) else if n = 27 then (l.bells : Int) else if n = 28 then ((8 * l.rxBytes / 125000 : Nat) : Int)
    else if n = 29 then ((8 * l.txBytes / 125000 : Nat) : Int) else if n = 31 then ((List.range 8).map fun k => xs.getD k 0).foldl max (xs.getD 0 0)
    else if 8 ≤ n ∧ n ≤ 13 ∧ s.start.stackOk.getLsbD (n - 8) = false then 0
    else if 18 ≤ n ∧ n ≤ 25 ∧ s.start.nportOk.getLsbD ((n - 18) / 2) = false then 0 else xs.getD n 0) := by
  simp only [ownSamples, List.getElem?_map, List.getElem?_range hn, Option.map_some, Bool.and_eq_true, decide_eq_true_eq]
  refine congrArg some ?_
  by_cases stack : 8 ≤ n ∧ n ≤ 13
  · have rest : n ≠ 26 ∧ n ≠ 27 ∧ n ≠ 28 ∧ n ≠ 29 ∧ n ≠ 31 ∧ ¬18 ≤ n := by omega
    cases h : s.start.stackOk.getLsbD (n - 8) <;> simp [stack, rest]
  · by_cases port : 18 ≤ n ∧ n ≤ 25
    · have rest : n ≠ 26 ∧ n ≠ 27 ∧ n ≠ 28 ∧ n ≠ 29 ∧ n ≠ 31 ∧ ¬n ≤ 13 := by omega
      cases h : s.start.nportOk.getLsbD ((n - 18) / 2) <;> simp [port, rest]
    · have notStack : ¬(8 ≤ n ∧ n ≤ 13 ∧ s.start.stackOk.getLsbD (n - 8) = false) := fun ⟨low, high, _⟩ => stack ⟨low, high⟩
      have notPort : ¬(18 ≤ n ∧ n ≤ 25 ∧ s.start.nportOk.getLsbD ((n - 18) / 2) = false) := fun ⟨low, high, _⟩ => port ⟨low, high⟩
      simp only [if_neg stack, if_neg port, if_neg notStack, if_neg notPort]

variable (i : Image) (hist : List (Option OwlHist)) (xs : List Int)

theorem getElem?_filterAll_of_enabled {f : OwlFilter} (hf : i.filters[n]? = some f) (on : f.enable = true) :
    (filterAll i hist xs)[n]? =
      some ((filterStep f (hist.getD n none) (xs.getD n 0)).1, some (filterStep f (hist.getD n none) (xs.getD n 0)).2) := by
  simp [filterAll, List.getElem?_range hn, hf, on]

theorem getElem?_filterAll_of_off (off : ∀ f, i.filters[n]? = some f → f.enable = false) : (filterAll i hist xs)[n]? = some (0, none) := by
  simp only [filterAll, List.getElem?_map, List.getElem?_range hn, Option.map_some]
  cases hf : i.filters[n]? with
  | none => rfl
  | some f => simp [off f hf]

end

/-! ### A rule at a sample -/

/-- The rule's condition holds, and has ended beyond the hysteresis. -/
def ruleHolds (r : OwlRule) (y : Int) : Bool := if r.below then decide (y ≤ r.threshold) else decide (r.threshold ≤ y)

@[inherit_doc ruleHolds]
def ruleEnds (r : OwlRule) (y : Int) : Bool := if r.below then decide (r.threshold + r.hyst < y) else decide (y < r.threshold - r.hyst)

theorem ruleHolds_iff (r : OwlRule) (y : Int) : ruleHolds r y = true ↔ if r.below then y ≤ r.threshold else r.threshold ≤ y := by
  unfold ruleHolds
  split <;> exact decide_eq_true_iff

theorem ruleEnds_iff (r : OwlRule) (y : Int) :
    ruleEnds r y = true ↔ if r.below then r.threshold + r.hyst < y else y < r.threshold - r.hyst := by
  unfold ruleEnds
  split <;> exact decide_eq_true_iff

section
variable {r : OwlRule} (valid : r.valid = true) (c : OwlRun) (y : Int)
include valid

theorem ruleStep_of_active (active : c.active = true) :
    ruleStep r c y = if ruleEnds r y then ({ held := 0, active := false }, some false) else (c, none) := by
  simp only [ruleStep, valid, active, ruleEnds]
  rfl

theorem ruleStep_of_inactive (inactive : c.active = false) : ruleStep r c y =
    if !ruleHolds r y then ({ c with held := 0 }, none)
    else if r.hold ≤ c.held + 1 then ({ held := 0, active := true }, some true)
    else ({ c with held := c.held + 1 }, none) := by
  simp only [ruleStep, valid, inactive, ruleHolds]
  rfl

end

/-! ### Wakes and requests for Roost -/

theorem any_action_iff (acts : List (OwlRule × Bool)) (n : Nat) :
    (acts.any fun a => a.2 && a.1.action == n) = true ↔ ∃ a ∈ acts, a.2 = true ∧ a.1.action = n := by
  simp

section
variable {s : State} {acts : List (OwlRule × Bool)}

theorem wakeRules_of_wake (wake : (acts.any fun a => a.2 && a.1.action == 1) = true) :
    wakeRules s acts = if s.pm.state = 2 then { s with pm := { s.pm with wake := some (0, causeRule) } } else s := by
  simp only [wakeRules, wake]
  rfl

theorem wakeRules_of_noWake (noWake : (acts.any fun a => a.2 && a.1.action == 1) = false) : wakeRules s acts =
    if (acts.any fun a => a.2 && a.1.action == 2) && s.pm.state != 2 && s.pm.roost.isNone && allFrozen s && serving s then
      { s with pm := { s.pm with roost := some none, roostSeq := s.adm.seqNext } }
    else s := by
  simp only [wakeRules, noWake]
  rfl

end

/-! ### The sample -/

theorem exec_owlSample {s : State} {i : Image} (hi : s.start.image = some i) (up : s.power.phase = .up) (due : sampleDue s = true) (xs : List Int) :
    exec (.owlSample xs) s =
      let f := filterAll i s.owl.hist (ownSamples s xs)
      let u := sampleTaken s (f.map (·.2))
      let r := (List.range 64).foldl (ruleAt i (f.map (·.1))) (u, [])
      if s.halted then .next u
      else if r.2.any (fun a => a.2 && a.1.action == 5) then .next (thermalTrip r.1)
      else if !live s then .next r.1
      else .next (wakeRules (throttleRules (portShutdowns r.1 i) i) r.2) := by
  simp only [exec, execOwlSample, img, hi, up, due]
  rfl

end Sys2Proof.Machine

namespace Sys2Proof.Proofs
open Sys2Proof.Machine

/-- Settles O53: the sample by what follows it, one rule's step, the rules' wakes and throttle, and what the channels sense. -/
theorem owlSample : Obligations.OwlSample := by
  unfold Obligations.OwlSample
  refine ⟨fun xs s => ⟨fun h => ?_, fun t last early => ?_, fun i hi up due => ?_⟩,
    fun i ys a n r c hr hc => ⟨fun quiet => ?_, fun on acts => ?_⟩,
    fun r c y => ⟨fun invalid => ?_, fun valid => ⟨fun inactive holds more => ?_, fun inactive holds last => ?_, fun inactive not => ?_,
      fun active ends => ?_, fun active stays => ?_⟩⟩,
    fun s acts => ⟨fun wake roost => ?_, fun wake awake => ?_, fun noWake roost isOpen => ?_, fun noWake h => ?_⟩,
    fun s i => ⟨fun on free flight => ?_, fun off throttled glide free => ?_, fun h => ?_⟩,
    fun i hist s xs n hn => ⟨getElem?_ownSamples hn s xs, fun f => getElem?_filterAll_of_enabled hn i hist xs, getElem?_filterAll_of_off hn i hist xs⟩⟩
  · cases hi : s.start.image with
    | none => simp only [exec, execOwlSample, img, hi]
    | some i =>
      have down : s.power.phase ≠ .up := h.resolve_left (by simp [hi])
      simp only [exec, execOwlSample, img, hi]
      exact if_pos (by simp [down])
  · cases hi : s.start.image with
    | none => simp only [exec, execOwlSample, img, hi]
    | some i =>
      simp only [exec, execOwlSample, img, hi]
      exact if_pos (by simp [sampleDue, last, Nat.not_le.2 early])
  · intro f u r trip
    have now : sampleDue s = true := by
      unfold sampleDue
      cases h : s.owl.sampledAt with
      | none => rfl
      | some t => exact decide_eq_true (due t h)
    have trips : (r.2.any fun a => a.2 && a.1.action == 5) = true ↔ trip := by simp [trip]
    have sample := exec_owlSample hi up now xs
    refine ⟨fun halted => sample.trans (if_pos halted), fun on h => ?_, fun on h off => ?_, fun on h live => ?_⟩
    · exact sample.trans ((if_neg (Bool.eq_false_iff.1 on)).trans (if_pos (trips.2 h)))
    · exact sample.trans ((if_neg (Bool.eq_false_iff.1 on)).trans ((if_neg (mt trips.1 h)).trans (if_pos (congrArg not off))))
    · exact sample.trans ((if_neg (Bool.eq_false_iff.1 on)).trans ((if_neg (mt trips.1 h)).trans
        (if_neg (Bool.eq_false_iff.1 (congrArg not live)))))
  · simp only [ruleAt, hr, hc, quiet]
  · simp only [ruleAt, hr, hc, acts]
  · simp [ruleStep, invalid]
  · rw [ruleStep_of_inactive valid c y inactive, (ruleHolds_iff r y).2 holds]
    exact if_neg (Nat.not_le.2 more)
  · rw [ruleStep_of_inactive valid c y inactive, (ruleHolds_iff r y).2 holds]
    exact if_pos last
  · rw [ruleStep_of_inactive valid c y inactive, Bool.eq_false_iff.2 (mt (ruleHolds_iff r y).1 not)]
    rfl
  · rw [ruleStep_of_active valid c y active, if_pos ((ruleEnds_iff r y).2 ends)]
  · rw [ruleStep_of_active valid c y active, if_neg (mt (ruleEnds_iff r y).1 stays)]
  · rw [wakeRules_of_wake ((any_action_iff acts 1).2 wake), if_pos roost]
  · rw [wakeRules_of_wake ((any_action_iff acts 1).2 wake), if_neg awake]
  · rw [wakeRules_of_noWake (Bool.eq_false_iff.2 (mt (any_action_iff acts 1).1 noWake))]
    obtain ⟨awake, free, frozen, on⟩ := isOpen
    exact if_pos (by simp [(any_action_iff acts 2).2 roost, awake, free, frozen, on])
  · rw [wakeRules_of_noWake (Bool.eq_false_iff.2 (mt (any_action_iff acts 1).1 noWake))]
    refine if_neg fun go => ?_
    simp only [Bool.and_eq_true, bne_iff_ne, Option.isNone_iff_eq_none] at go
    obtain ⟨⟨⟨⟨roost, awake⟩, free⟩, frozen⟩, on⟩ := go
    exact h.elim (fun no => no ((any_action_iff acts 2).1 roost)) fun no => no ⟨awake, free, frozen, on⟩
  · exact if_pos (by simp [show ruleActive s i 3 (fun _ => true) = true from on, free, flight])
  · have off : ruleActive s i 3 (fun _ => true) = false := off
    simp only [throttleRules, off, throttled, glide, free]
    rfl
  · unfold throttleRules
    generalize ruleActive s i 3 (fun _ => true) = on at h ⊢
    refine (if_neg ?_).trans (if_neg ?_)
    · obtain h | h | ⟨-, h⟩ | ⟨h, -⟩ | ⟨h, -⟩ := h <;> simp [h]
    · obtain h | h | ⟨h, -⟩ | ⟨-, h⟩ | ⟨-, h⟩ := h <;> simp [h]

end Sys2Proof.Proofs
end

section
/-!
The watchdog and the control reset (O54).
-/

namespace Sys2Proof.Machine

/-- The watchdog expires: it runs, its clock is good, and its period has passed since the last refresh. -/
def expires (s : State) : Bool :=
  running s && s.wdt.enabled && !s.ctlReset && wdtClkGood s && decide (s.wdt.since + s.wdt.periodMs.toNat * 1000000 ≤ s.now)

theorem exec_watchdogExpire (s : State) : exec .watchdogExpire s = .next (if expires s then controlReset s else s) := rfl

/-- A command in execution as a control reset leaves it. -/
def sweptCmd (s : State) (c : AdminCmd) : AdminCmd := if outlivesReset s c then c else { c with phase := .queued }

theorem outlivesReset_iff (s : State) (c : AdminCmd) : outlivesReset s c = true ↔
    c.phase = .running ∧ ((∃ d ∈ s.drains, d.slot = some c.slot) ∨ ∃ z ∈ s.pool.zeroing, z.slot = some c.slot) := by
  simp [outlivesReset]

end Sys2Proof.Machine

namespace Sys2Proof.Proofs
open Sys2Proof.Machine

/-- Settles O54: the write that enables the watchdog, its expiry, its clock, and the control reset's end. -/
theorem watchdogAndControlReset : Obligations.WatchdogAndControlReset := by
  unfold Obligations.WatchdogAndControlReset
  refine fun s => ⟨fun w => ⟨fun on off low high => ?_, fun h => ?_⟩, fun h => ?_, fun on enabled noReset clock late => ?_, fun i hi => ?_, fun none => ?_,
    fun on reset => ?_, fun h => ?_⟩
  · simp [exec, execWdtEnable, on, wdtWrite, off, Nat.not_lt.2 high, Nat.pos_iff_ne_zero.1 low]
  · simp only [exec, execWdtEnable, live_heardTlp]
    refine congrArg _ ?_
    obtain off | h := h
    · simp [off]
    · have ignored : wdtWrite (heardTlp s) w = heardTlp s := by
        refine if_pos ?_
        obtain h | h | h := h <;> simp [h]
      rw [ignored, ite_self]
  · rw [exec_watchdogExpire]
    refine congrArg _ (if_neg ?_)
    obtain h | h | h | h | h := h
    · simp [expires, h]
    · simp [expires, h]
    · simp [expires, Nat.not_le.2 h]
    · simp [expires, h]
    · simp [expires, h]
  · have due : expires s = true := by simp [expires, on, enabled, noReset, clock, late]
    have awake : (!live s || s.ctlReset) = false := by simp [live_of_running on, noReset]
    intro goesOn
    refine ⟨s.adm.cmds.map (sweptCmd s), ?_, by simp, fun n c hc => ?_⟩
    · rw [exec_watchdogExpire, due, controlReset, awake]
      rfl
    · rw [List.getElem?_map, hc, Option.map_some]
      exact ⟨fun goes => congrArg some (if_pos ((outlivesReset_iff s c).2 goes)),
        fun stops => congrArg some (if_neg (mt (outlivesReset_iff s c).1 stops))⟩
  · cases sel : i.wdtClkSel <;> simp [wdtClkGood, wdtInternal, img, hi, sel, -BitVec.getLsbD_eq_getElem]
  · simp [wdtClkGood, wdtInternal, img, none]
  · simp only [exec, execControlResetDone, on, reset]
    rfl
  · obtain h | h := h <;> simp [exec, execControlResetDone, h]

end Sys2Proof.Proofs
end

section
/-!
The debug access port, the key store and the die's SRAM behind it, the debug halt and boundary scan (O55).
-/

namespace Sys2Proof.Machine

/-! ### Transfers -/

theorem exec_dapTransfer {s : State} (up : s.power.phase = .up) (r : DapReq) : exec (.dapTransfer r true) s = .next (dapRun s r) := by
  simp [exec, execDapTransfer, up]

section
variable {s : State} {r : DapReq}

theorem dapRun_of_outside (h : r.addr % 4 ≠ 0 ∨ r.space = 3 ∨ (r.space = 0 ∧ 0x1000000 ≤ r.addr)) : dapRun s r = emit s (.dap 1 0) := by
  unfold dapRun
  by_cases aligned : r.addr % 4 = 0
  · refine (if_neg (by simp [aligned])).trans ?_
    obtain h | h | ⟨h, beyond⟩ := h
    · exact absurd aligned h
    · rw [h]
      rfl
    · rw [h]
      exact if_pos beyond
  · exact if_pos (by simpa using aligned)

theorem half_zeroExtend (w : Word) : half (w.zeroExtend 64) false = w := by
  apply BitVec.eq_of_toNat_eq
  have := w.isLt
  simp [half]
  omega

variable (aligned : r.addr % 4 = 0)
include aligned

theorem dapRun_of_register (space : r.space = 0) (inside : r.addr < 0x1000000) :
    dapRun s r = if r.write then emit (regWrite s .dap r.addr r.data) (.dap 1 0)
      else emit (regRead s .dap r.addr).2 (.dap 1 (regRead s .dap r.addr).1) := by
  have read : mmioRead s .dap r.addr 4 = ((regRead s .dap r.addr).1.zeroExtend 64, (regRead s .dap r.addr).2) := if_pos (by simp [aligned])
  simp only [dapRun, aligned, space, read, half_zeroExtend]
  exact (if_neg Bool.false_ne_true).trans (if_neg (Nat.not_le.2 inside))

theorem dapRun_of_pool (space : r.space = 1) : dapRun s r = dapPool s r := by
  simp only [dapRun, aligned, space]
  rfl

theorem dapRun_of_store (space : r.space = 2) :
    dapRun s r = if r.write then emit (storePoke s r.addr r.data) (.dap 1 0) else emit s (.dap 1 (storePeek s r.addr)) := by
  simp only [dapRun, aligned, space]
  rfl

end

/-! ### Pool memory behind the port -/

section
variable {s : State} {r : DapReq} {n : Nat} (trained : s.start.trained = true) (stack : stackOf s r.addr = some n)
include trained stack

theorem dapPool_of_scrub (scrub : s.start.scrubDone = false) : dapPool s r = emit s (.dap 2 0) := by
  simp [dapPool, trained, stack, poolAck, scrub, ackWait, ackOk]

variable (scrubbed : s.start.scrubDone = true)
include scrubbed

theorem dapPool_of_stopped (stopped : s.pool.stackOut.getLsbD n = true) : dapPool s r = emit s (.dap 4 0) := by
  simp [dapPool, trained, stack, poolAck, scrubbed, stopped, ackWait, ackOk, ackFault, -BitVec.getLsbD_eq_getElem]

variable (works : s.pool.stackOut.getLsbD n = false)
include works

theorem dapPool_of_asleep (asleep : ¬(s.pm.state ≠ 2 ∨ s.dbg.wakeTill.isSome = true)) :
    dapPool s r = emit { s with dbg := { s.dbg with wakeTill := some s.now } } (.dap 2 0) := by
  have down : s.pm.state = 2 ∧ s.dbg.wakeTill = none := by simpa using asleep
  simp [dapPool, trained, stack, poolAck, scrubbed, works, down, ackWait, -BitVec.getLsbD_eq_getElem]

theorem dapPool_of_awake (awake : s.pm.state ≠ 2 ∨ s.dbg.wakeTill.isSome = true) :
    let woken : State := { s with dbg := { s.dbg with wakeTill := none } }
    dapPool s r = if r.write then emit (poolPoke woken r.addr r.data) (.dap 1 0)
      else emit woken (.dap 1 (memWord s.pool.mem r.addr)) := by
  have ack : poolAck s r.addr = ackOk := by
    have up : ¬(s.pm.state = 2 ∧ s.dbg.wakeTill = none) := by
      rintro ⟨state, wake⟩
      simp [state, wake] at awake
    simp [poolAck, scrubbed, stack, works, up, -BitVec.getLsbD_eq_getElem]
  simp only [dapPool, trained, stack, ack, scrubbed]
  rfl

end

/-! ### The key store -/

theorem ofNat_leNat_leBytes (w : Word) : BitVec.ofNat 32 (leNat (leBytes 4 w.toNat)) = w := by
  have := w.isLt
  apply BitVec.eq_of_toNat_eq
  simp [leBytes, leNat]
  omega

/-- A read of SPACE 2 sees the keys, the bytes kept beside them, and the SRAM's four bytes. -/
theorem storePeek_congr {s t : State} {b : Nat} (cipher : t.cipher = s.cipher) (beside : t.dbg.keyMem = s.dbg.keyMem)
    (sram : ∀ i, i < 4 → tget t.dbg.sram (b + i) = tget s.dbg.sram (b + i)) : storePeek t b = storePeek s b := by
  have bytes : ((List.range 4).map fun i => (tget t.dbg.sram (b + i)).getD (Config.sramByte (b + i))) =
      (List.range 4).map fun i => (tget s.dbg.sram (b + i)).getD (Config.sramByte (b + i)) :=
    List.map_congr_left fun i hi => by rw [sram i (List.mem_range.1 hi)]
  simp only [storePeek, cipher, beside, bytes]

/-! ### The SRAM -/

/-- The SRAM once a word is written at `a`. -/
def sramPoke (t : Tab Byte) (a : Nat) (w : Word) : Tab Byte := (List.range 4).foldl (fun t i => tput t (a + i) ((leBytes 4 w.toNat).getD i 0)) t

theorem tget_sramPoke_of_inside (t : Tab Byte) (a : Nat) (w : Word) {i : Nat} (h : i < 4) :
    tget (sramPoke t a w) (a + i) = some ((leBytes 4 w.toNat).getD i 0) := by
  simp only [sramPoke, show List.range 4 = [0, 1, 2, 3] from rfl, List.foldl_cons, List.foldl_nil]
  obtain rfl | rfl | rfl | rfl : i = 0 ∨ i = 1 ∨ i = 2 ∨ i = 3 := by omega
  · rw [tget_tput_of_ne _ _ _ _ (by omega), tget_tput_of_ne _ _ _ _ (by omega), tget_tput_of_ne _ _ _ _ (by omega), tget_tput]
  · rw [tget_tput_of_ne _ _ _ _ (by omega), tget_tput_of_ne _ _ _ _ (by omega), tget_tput]
  · rw [tget_tput_of_ne _ _ _ _ (by omega), tget_tput]
  · rw [tget_tput]

theorem tget_sramPoke_of_outside (t : Tab Byte) (a : Nat) (w : Word) {x : Nat} (h : x < a ∨ a + 4 ≤ x) :
    tget (sramPoke t a w) x = tget t x := by
  simp only [sramPoke, show List.range 4 = [0, 1, 2, 3] from rfl, List.foldl_cons, List.foldl_nil]
  rw [tget_tput_of_ne _ _ _ _ (by omega), tget_tput_of_ne _ _ _ _ (by omega), tget_tput_of_ne _ _ _ _ (by omega),
    tget_tput_of_ne _ _ _ _ (by omega)]

section
variable {a : Nat} (low : 0x1000000 ≤ a) (high : a < 0x11000000)
include low high

theorem storePoke_of_sram (s : State) (w : Word) : storePoke s a w = { s with dbg := { s.dbg with sram := sramPoke s.dbg.sram a w } } := by
  have key : ¬a < 0x100000 := by omega
  have ctx : ¬a < 0x100020 := by omega
  have mig : ¬a < 0x100040 := by omega
  simp only [storePoke, if_neg key, if_neg ctx, if_neg mig]
  exact if_pos (by simp [low, high])

theorem storePeek_of_sram (s : State) :
    storePeek s a = BitVec.ofNat 32 (leNat ((List.range 4).map fun i => (tget s.dbg.sram (a + i)).getD (Config.sramByte (a + i)))) := by
  have key : ¬a < 0x100000 := by omega
  have ctx : ¬a < 0x100020 := by omega
  have mig : ¬a < 0x100040 := by omega
  simp only [storePeek, if_neg key, if_neg ctx, if_neg mig]
  exact if_pos (by simp [low, high])

/-- What is written is read, at its own address and at no other. -/
theorem storePeek_storePoke_of_sram (s : State) (w : Word) (aligned : a % 4 = 0) :
    storePeek (storePoke s a w) a = w ∧ ∀ b, b % 4 = 0 → b ≠ a → storePeek (storePoke s a w) b = storePeek s b := by
  rw [storePoke_of_sram low high]
  refine ⟨?_, fun b hb ne => storePeek_congr rfl rfl fun i hi => tget_sramPoke_of_outside _ _ _ (by omega)⟩
  rw [storePeek_of_sram low high]
  have bytes : ((List.range 4).map fun i => (tget (sramPoke s.dbg.sram a w) (a + i)).getD (Config.sramByte (a + i))) = leBytes 4 w.toNat :=
    (List.map_congr_left fun i hi => by rw [tget_sramPoke_of_inside _ _ _ (List.mem_range.1 hi)]; rfl).trans
      (show (List.range 4).map (fun i => (leBytes 4 w.toNat).getD i 0) = leBytes 4 w.toNat from rfl)
  rw [bytes]
  exact ofNat_leNat_leBytes w

end

/-! ### A debug write of pool memory -/

section
variable {s : State} {a : Nat} (w : Word)

theorem poolPoke_of_clear (low : a < reserveBase s) (clear : writtenFlag s (a / 4096) = false) :
    poolPoke s a w = { s with pool := { s.pool with
      mem := memWrite (memZero s.pool.mem (4096 * (a / 4096)) 4096) a (leBytes 4 w.toNat)
      written := a / 4096 :: s.pool.written, failed := s.pool.failed.filter fun l => l / 64 != a / 4096 } } := by
  have isClear : (decide (a < reserveBase s) && !writtenFlag s (a / 4096)) = true := by simp [low, clear]
  simp only [poolPoke, isClear]
  rfl

theorem poolPoke_of_set (h : reserveBase s ≤ a ∨ writtenFlag s (a / 4096) = true) :
    poolPoke s a w = { s with pool := { s.pool with
      mem := memWrite s.pool.mem a (leBytes 4 w.toNat), failed := s.pool.failed.filter fun l => l != a / 64 } } := by
  have notClear : (decide (a < reserveBase s) && !writtenFlag s (a / 4096)) = false := by
    obtain h | h := h
    · simp [Nat.not_lt.2 h]
    · simp [h]
  simp only [poolPoke, notClear]
  rfl

end

/-! ### Bytes of the key store that hold no key -/

/-- No key that the device holds lies at the address. -/
def NoKey (s : State) (a : Nat) : Prop :=
  (a < 0x100000 ∧ ∀ k, tget s.cipher.keys (a / 64) = some k → k.key.length ≤ a % 64) ∨
    (0x100000 ≤ a ∧ a < 0x100020 ∧ s.cipher.ctxKey = none) ∨ (0x100020 ≤ a ∧ a < 0x100040 ∧ s.cipher.migKey = none)

theorem storePeek_storePoke_of_noKey {s : State} {a : Nat} (h : NoKey s a) (w : Word) :
    storePeek s a = memWord s.dbg.keyMem a ∧ storePoke s a w = keyMemPoke s a w := by
  simp only [storePeek, storePoke]
  obtain ⟨key, none⟩ | ⟨low, high, none⟩ | ⟨low, high, none⟩ := h
  · simp only [if_pos key]
    cases hk : tget s.cipher.keys (a / 64) with
    | none => exact ⟨rfl, rfl⟩
    | some k => exact ⟨if_neg (Nat.not_lt.2 (none k hk)), if_neg (Nat.not_lt.2 (none k hk))⟩
  · simp only [if_neg (Nat.not_lt.2 low), if_pos high, none]
    exact ⟨trivial, trivial⟩
  · have notKey : ¬a < 0x100000 := by omega
    simp only [if_neg notKey, if_neg (Nat.not_lt.2 low), if_pos high, none]
    exact ⟨trivial, trivial⟩

end Sys2Proof.Machine

namespace Sys2Proof.Proofs
open Sys2Proof.Machine

/-- Settles O55: a transfer by its space, what a debug write leaves, the key store by its regions, the halt and the TAP. -/
theorem debugAccess : Obligations.DebugAccess := by
  unfold Obligations.DebugAccess
  refine ⟨fun r ok s down => ?_, fun r s up => ?_, fun s a w aligned => ⟨poolPoke_of_clear w, poolPoke_of_set w⟩, fun s a w => ?_,
    fun s => ⟨fun up => ⟨?_, fun h => ?_, fun halted free => ?_⟩, fun down => ⟨?_, ?_⟩, fun up => ⟨?_, fun c hc => ?_, fun c hc => ?_⟩,
      fun down c => ?_, fun halted => ?_, fun slot op halted => ?_⟩⟩
  · simp [exec, execDapTransfer, down]
  · intro answer
    have answers : ∀ {t ack w}, dapRun s r = emit t (.dap ack w) → answer t ack w := fun h => (exec_dapTransfer up r).trans (congrArg _ h)
    refine ⟨?_, fun h => answers (dapRun_of_outside h), fun aligned space inside => ⟨fun write => answers ?_, fun read => answers ?_⟩,
      fun aligned space => ?_, fun aligned space => ⟨fun write => answers ?_, fun read => answers ?_⟩⟩
    · simp [exec, execDapTransfer, up, ackFault]
    · rw [dapRun_of_register aligned space inside, if_pos write]
    · rw [dapRun_of_register aligned space inside, if_neg (Bool.eq_false_iff.1 read)]
    · intro woken awake
      have pool := dapRun_of_pool (s := s) aligned space
      refine ⟨fun h => answers (pool.trans ?_), fun n trained stack => ⟨fun scrub => answers (pool.trans (dapPool_of_scrub trained stack scrub)),
        fun scrubbed stopped => answers (pool.trans (dapPool_of_stopped trained stack scrubbed stopped)),
        fun scrubbed works asleep => answers (pool.trans (dapPool_of_asleep trained stack scrubbed works asleep)),
        fun scrubbed works up read => answers (pool.trans ?_), fun scrubbed works up write => answers (pool.trans ?_)⟩⟩
      · exact if_pos (by obtain h | h := h <;> simp [h])
      · exact (dapPool_of_awake trained stack scrubbed works up).trans (if_neg (Bool.eq_false_iff.1 read))
      · exact (dapPool_of_awake trained stack scrubbed works up).trans (if_pos write)
    · rw [dapRun_of_store aligned space, if_pos write]
    · rw [dapRun_of_store aligned space, if_neg (Bool.eq_false_iff.1 read)]
  · intro kept beside
    refine ⟨fun k key hk inside => ?_, fun k low high hk => ?_, fun k low high hk => ?_, fun h => storePeek_storePoke_of_noKey h w,
      fun low high aligned => storePeek_storePoke_of_sram low high s w aligned, fun h => ?_⟩
    · simp [storePeek, storePoke, key, hk, inside, wordIn, modCipher, kept]
    · simp [storePeek, storePoke, Nat.not_lt.2 low, high, hk, wordIn, modCipher, kept]
    · have notKey : ¬a < 0x100000 := by omega
      simp [storePeek, storePoke, notKey, Nat.not_lt.2 low, high, hk, wordIn, modCipher, kept]
    · have key : ¬a < 0x100000 := by omega
      have ctx : ¬a < 0x100020 := by omega
      have mig : ¬a < 0x100040 := by omega
      have sram : ¬(0x1000000 ≤ a ∧ a < 0x11000000) := by omega
      simp [storePeek, storePoke, key, ctx, mig, sram]
  · simp [exec, execDbgHalt, up, dbgHalt]
  · have stays : dbgResume s = s := if_pos (by obtain h | h := h <;> simp [h])
    simp [exec, execDbgResume, stays]
  · simp only [exec, execDbgResume, up, dbgResume, halted, free]
    rfl
  · simp [exec, execDbgHalt, down]
  · simp [exec, execDbgResume, down]
  · simp [exec, execTapInstruction, mainUp, up, idcode, tapCode]
  · simp only [List.mem_cons, List.not_mem_nil, or_false] at hc
    obtain rfl | rfl | rfl := hc <;> simp [exec, execTapInstruction, mainUp, up, dbgHalt]
  · simp only [List.mem_cons, List.not_mem_nil, or_false] at hc
    obtain rfl | rfl | rfl | rfl := hc <;> simp [exec, execTapInstruction, mainUp, up]
  · simp [exec, execTapInstruction, mainUp, down]
  · have off : running s = false := by simp [running, halted]
    exact ⟨by simp [serving, off], by simp [firmware, off], off⟩
  · exact mayStart_of_not_firmware slot op (by simp [firmware, running, halted])

end Sys2Proof.Proofs
end
